-- ==== Sys2Proof/Word.lean ====
section
/-! DEFINITION. Word.lean: the word types of the KT4208 and their plainest arithmetic.
Registers and nodes are 32-bit words (R3), ring entries 128-bit quads (R311). Times are natural
numbers of half-nanoseconds, the coarsest unit in which a 2.5 ns tick (5 units), a nanosecond (2 units)
and the half-nanosecond of YPL_ALIGN (1 unit) are all whole. -/
namespace Sys2Proof

/-- A 32-bit register or node word (R3, R364). -/
abbrev Word := BitVec 32

/-- A 128-bit quad: one ring entry (R311) or one Yeper frame quad (R280). -/
abbrev Quad := BitVec 128

/-- An instant or a duration, in half-nanoseconds. -/
abbrev Time := Nat

/-- One nanosecond in `Time` units. -/
abbrev ns1 : Time := 2

/-- One 2.5 ns tick of PAC_TIME in `Time` units (R19). -/
abbrev tick1 : Time := 5

/-- One microsecond in `Time` units. -/
abbrev us1 : Time := 2000

/-- One millisecond in `Time` units. -/
abbrev ms1 : Time := 2000000

/-- One second in `Time` units. -/
abbrev s1 : Time := 2000000000

/-- The 40 ns (16 ticks) by which a happening must precede the boundary at which it acts (R29). -/
abbrev lead40 : Time := 80

/-- One housekeeping round, 409,600 ticks (R19). -/
abbrev hkRound : Time := 2048000

/-- The whole tick that contains an instant. -/
def ticksOf (t : Time) : Nat := t / 5

end Sys2Proof
end

