-- ==== Sys2Proof/Syntax.lean ====
section
/-! DEFINITION. Syntax.lean: the commands of the KT4208, one constructor per row of spec/opcode_table.json, in the table's order.
A row that is a host command of Table 12.6 carries the quad the device begins (`CmdQ`, Table 12.4).
A row that is a happening carries the instant at which it falls (`t`, half-nanoseconds) where the device does not
itself fix that instant, and the physical values the outside world supplies (a converter result, a frame, a level). -/
namespace Sys2Proof

/-- A command quad as fetched from CQ`ring` (Table 12.4), without its OPC, which the constructor gives. -/
structure CmdQ where
  /-- n of the command ring CQn the command is taken from -/
  ring  : Fin 16
  /-- bit 8: the completion signals -/
  irq   : Bool
  /-- bit 9, reserved -/
  rsv9  : Bool
  /-- EXPECT_ROLE -/
  role  : BitVec 2
  /-- bits 15..12, reserved -/
  rsv12 : BitVec 4
  tag   : BitVec 16
  arg0  : BitVec 32
  arg1  : BitVec 64
  deriving DecidableEq, Repr

/-- The three access ports of R310. -/
inductive Port where
  | pcie | svc | mgt
  deriving DecidableEq, Repr

/-- A calibration factor register (R205). -/
inductive CalFactor where
  | ofs (n : Fin 44) | gain (n : Fin 44) | skew (p : Fin 16)
  deriving DecidableEq, Repr

/-- What a clock fault was found on (R434). -/
inductive ClkSrc where
  | xtal | pll0 | pll1
  deriving DecidableEq, Repr

/-- The three causes of a failed host-memory transfer, CAUSE 1 to 3 of RNG_STAT (Table 13.4). -/
inductive DmaCause where
  | dma | poisoned | timeout
  deriving DecidableEq, Repr

/-- The causes of a reset of the PCI Express function that act as FLR (R308, R441). -/
inductive FlrKind where
  | flr | hotReset | perst
  deriving DecidableEq, Repr

/-- What a window comparator's input does: from `t` on it lies at `level` (sixteenths of a DAC step) for `len`. -/
structure Excursion where
  level : Int
  len   : Nat
  t     : Nat
  deriving DecidableEq, Repr

/-- The level to which a window comparator's input has come at `t`, in sixteenths of a DAC step. -/
structure InputLevel where
  level : Int
  t     : Nat
  deriving DecidableEq, Repr

/-- The command set of the block: one constructor per row of spec/opcode_table.json. -/
inductive Instr where
  | nop (q : CmdQ)
  | badOpcode (q : CmdQ) (opc : BitVec 8)
  | fence (q : CmdQ)
  | suspend (q : CmdQ)
  | resume (q : CmdQ)
  | cancel (q : CmdQ)
  | nodeRead (q : CmdQ)
  | nodeWrite (q : CmdQ)
  | nodeBlockLoad (q : CmdQ)
  | nodeBlockStore (q : CmdQ)
  | blockChunkDone (slot : Fin 8) (data : List Word) (t : Time)
  | bankSwap (q : CmdQ)
  | bankSwapped
  | setpoint (q : CmdQ)
  | modeSelect (q : CmdQ)
  | modeSelectJudged
  | driveStart (q : CmdQ)
  | driveStartActs
  | driveStop (q : CmdQ)
  | driveStopActs
  | reverse (q : CmdQ)
  | reverseJudged
  | safeState (q : CmdQ)
  | safeApplied
  | faultClear (q : CmdQ)
  | faultCleared
  | pgDirect (q : CmdQ)
  | directEnter
  | directLeave
  | directBoundary
  | commit (t : Time)
  | adcCalibrate (q : CmdQ)
  | calPhaseEnd (vals : List (Fin 44 × Int)) (t : Time)
  | resumeLimitExpiry (slot : Fin 8) (t : Time)
  | adcUrgent (q : CmdQ)
  | traceArm (q : CmdQ)
  | traceArmed
  | traceStop (q : CmdQ)
  | stopped
  | otpProgram (q : CmdQ) (data : List Word)
  | otpBurnRound (normal margin : BitVec 39) (t : Time)
  | otpLock (q : CmdQ)
  | otpMarginScan (q : CmdQ)
  | scanRegionDone (t : Time)
  | lifecycleAdvance (q : CmdQ)
  | otpCmdRead (t : Time)
  | otpCmdMargin (t : Time)
  | otpCmdProgram (t : Time)
  | gleanerScanDue (t : Time)
  | attest (q : CmdQ) (nonce : BitVec 256)
  | attestReportDone (t : Time)
  | selfTest (q : CmdQ)
  | selfTestBlockDone (conv : List (Fin 44 × Int × Int)) (win : List (Fin 20 × Int × Int × Bool))
      (chan : List (Fin 50 × Int × Bool)) (t : Time)
  | linkTest (q : CmdQ)
  | linkTestDone (link : Fin 13) (errs : Nat) (hdrBad digestOk : Bool) (t : Time)
  | checkerLocked (link : Fin 13) (t : Time)
  | checkerLockLost (link : Fin 13) (errs : Nat) (t : Time)
  | pcieLoopbackGo (t : Time)
  | pcieLoopbackDone (errs : Nat)
  | pairHandover (q : CmdQ)
  | handoverReplyDeadline
  | handoverClaimRelease
  | handoverDone
  | pairRejoin (q : CmdQ)
  | rejoinPhaseEnd (t : Time)
  | rejoinPhaseTimeout
  | powerState (q : CmdQ)
  | powerChanged
  | powerTransitDone (t : Time)
  | deepEntry (t : Time)
  | wake (t : Time)
  | wakeTimerExpiry (t : Time)
  | cqTailDoorbell (n : Fin 16) (v : Word) (t : Time)
  | headDoorbell (i : Fin 32) (v : Word) (t : Time)
  | commandFetchFail (n : Fin 16) (cause : DmaCause) (t : Time)
  | ringEnable (i : Fin 48) (v : Word) (t : Time)
  | ringDisable (i : Fin 48) (v : Word) (t : Time)
  | ringReset (i : Fin 48) (v : Word) (t : Time)
  | eventDrain (t : Time)
  | fenceMark (n : Fin 16) (t : Time)
  | moderationTimer (i : Fin 48) (t : Time)
  | pciePowerState (d3hot : Bool) (t : Time)
  | linkSpeedChange (gen : Fin 3) (t : Time)
  | linkDown (t : Time)
  | streamSlotWrite (slot : Fin 32) (v : Word) (t : Time)
  | lowPartRead (port : Port) (off : BitVec 18) (t : Time)
  | highPartRead (port : Port) (off : BitVec 18) (t : Time)
  | registerWrite (port : Port) (off : BitVec 18) (v : BitVec 64) (wide full : Bool) (t : Time)
  | healthClear (v : Word) (t : Time)
  | calTagWrite (v : Word) (t : Time)
  | calFactorWrite (f : CalFactor) (v : Word) (t : Time)
  | windowConfigWrite (n : Fin 20) (v : Word) (t : Time)
  | glkCmdGo (g : Fin 8) (v : Word) (t : Time)
  | cmdFail (g : Fin 8)
  | bootGo (t : Time)
  | firmwareWindowWrite (off : BitVec 19) (v : Word) (t : Time)
  | qspiImageRead (first second : List (BitVec 8)) (t : Time)
  | firmwareRunning (t : Time)
  | serviceReadFrame (index : BitVec 15) (data : BitVec 16) (t : Time)
  | serviceWriteFrame (index : BitVec 15) (data : BitVec 16) (t : Time)
  | serviceFrameError (clocks : Nat) (t : Time)
  | svcSafe (v : BitVec 16) (t : Time)
  | svcWdEnable (v : BitVec 16) (t : Time)
  | svcWdKick (v : BitVec 16) (t : Time)
  | wdiEdge (t : Time)
  | serviceWatchdogExpiry (t : Time)
  | svcAttestGo (t : Time)
  | por (t : Time)
  | bor (rails : BitVec 4) (t : Time)
  | pinReset (t : Time)
  | softReset (port : Port) (key : BitVec 16) (t : Time)
  | flr (kind : FlrKind) (t : Time)
  | resetRelease (straps : BitVec 6) (t : Time)
  | otpShadowLoad (t : Time)
  | railsSettled (t : Time)
  | mgmtWatchdogExpiry (t : Time)
  | lockstepMismatch (correctable : Bool) (t : Time)
  | mgrResumed (t : Time)
  | warnSet (rail : Fin 4) (t : Time)
  | warnClear (rail : Fin 4) (t : Time)
  | supplyStop
  | stopTmaxExpiry
  | stopDone (t : Time)
  | clockFault (src : ClkSrc) (t : Time)
  | fpBoundary
  | engOverrun (w : Fin 8)
  | spBoundary
  | mcOverrun (m : Fin 2)
  | housekeepingRound (mgt ctl : BitVec 19)
  | scheduledEdge
  | pendingChangeApplied (ch : Fin 50)
  | commutation (w : Fin 8)
  | tdDecayEnd (w : Fin 8) (t : Time)
  | sampleResult (c : Fin 34) (raw : Int) (beyond2 : Bool) (track : Time)
  | floatingPhaseSample (w : Fin 8) (raw : Int) (track : Time)
  | missed (w : Fin 8) (t : Time)
  | listenConversion (w : Fin 8) (uPrev uNext v wPrev wNext : Int) (track : Time)
  | catchListenExpiry (m : Fin 2)
  | probePulseEnd (m : Fin 2) (t : Time)
  | probeSlotEnd (m : Fin 2) (t : Time)
  | startFail (m : Fin 2)
  | locked (m : Fin 2)
  | rotorLost (m : Fin 2)
  | lowRestart (m : Fin 2)
  | lostDecayDone (m : Fin 2) (t : Time)
  | ascSettleEnd (m : Fin 2)
  | ascWindowEnd (w : Fin 8)
  | reacquired (m : Fin 2)
  | hallEdge (m : Fin 2) (levels : BitVec 3) (t : Time)
  | hallFault (m : Fin 2)
  | encoderEdge (m : Fin 2) (up : Bool) (t : Time)
  | encZEdge (m : Fin 2) (t : Time)
  | encFault (m : Fin 2)
  | pspMeasurement (m : Fin 2) (period high : Nat) (t : Time)
  | setpointInput (m : Fin 2) (psp : Bool)
  | setpointMismatch (m : Fin 2)
  | hostWatchdogExpiry (m : Fin 2)
  | winnerChanged (m : Fin 2)
  | adaptWindowClose (w : Fin 8)
  | decelHoldLong (m : Fin 2)
  | dcOvAsc (m : Fin 2)
  | vdcUv (x : Fin 2)
  | chopperCheckConversion (c : Fin 2) (raw : Int) (track : Time)
  | chopperOpen (c : Fin 2)
  | chopperShort (c : Fin 2)
  | windowOut (n : Fin 20) (e : Excursion)
  | windowIn (n : Fin 20) (e : InputLevel)
  | tripEscalated (g : Fin 8)
  | chpEscalated (c : Fin 2)
  | tripRate (w : Fin 8)
  | fltNLow (g : Fin 8) (stays : Bool) (t : Time)
  | estop (stays : Bool) (t : Time)
  | yieldInRise (t : Time)
  | collisionReclaim (t : Time)
  | collisionBackoffEnd (t : Time)
  | plausibility (w : Fin 8)
  | plStarved (w : Fin 8)
  | followingError (m : Fin 2)
  | telemetryFrame (g : Fin 8) (frame : BitVec 64) (midOk : Bool) (t : Time)
  | gateMismatch (sw : Fin 48)
  | modTsd (l : Fin 24)
  | glkLost (g : Fin 8) (t : Time)
  | glkError (g : Fin 8)
  | gateLinkFrameSend (g : Fin 8) (t : Time)
  | thermalReading (counts : List Nat)
  | tw1Set (z : Fin 8)
  | tw1Clear (z : Fin 8)
  | tsd (z : Fin 8)
  | tsdAlarmRelease (z : Fin 8)
  | tsdTmaxExpiry
  | shutdownDone (t : Time)
  | exitMet
  | trackUpdate (p : Fin 16)
  | pairDivergeRun (p : Fin 16)
  | referenceCheck (p : Fin 16) (even odd : Int)
  | memberFailure (p : Fin 16) (odd stuck : Bool) (t : Time)
  | housekeepingConversion (chan : BitVec 8) (raw : Int) (track : Time)
  | traceTrigger (c : Fin 16)
  | traceWindowComplete (c : Fin 16)
  | traceQuadDelivery (q : Fin 4)
  | traceDone (c : Fin 16)
  | nodeScrub (id : BitVec 17) (uncorrectable : Bool) (t : Time)
  | heartbeatSend (t : Time)
  | syncSend (t : Time)
  | baton (frame : List Quad) (t : Time)
  | batonAdoption
  | divergence (m : Fin 2)
  | heartbeat (frame : List Quad) (t : Time)
  | sync (frame : List Quad) (t : Time)
  | pacerCorrection (t : Time)
  | alignmentAcquired
  | alignLost
  | requestJoin (frame : List Quad) (t : Time)
  | requestHandover (frame : List Quad) (t : Time)
  | requestAttestNonce (frame : List Quad) (t : Time)
  | reply (frame : List Quad) (t : Time)
  | attestFrame (frame : List Quad) (t : Time)
  | relayClaim (frame : List Quad) (t : Time)
  | relayYield (frame : List Quad) (t : Time)
  | frameDiscard (frame : List Quad) (wellFramed : Bool) (t : Time)
  | partnerLost (t : Time)
  | takeover
  | claimBlocked (t : Time)
  | laneFail (lane : Fin 2) (t : Time)
  | fitness
  | extest (t : Time)
  | idcode (t : Time)
  | samplePreload (preload : Bool) (v : BitVec 32) (t : Time)
  | highz (t : Time)
  | clamp (t : Time)
  | bypass (t : Time)
  | vendorTestInstruction (code : BitVec 8) (t : Time)
  | tapInstructionExit (t : Time)
  | yieldInFall (t : Time)
  | dmaError (n : Fin 16) (cause : DmaCause) (t : Time)
  | busMasterEnable (on : Bool) (t : Time)
  | laneBlockLock (lane : Fin 2) (t : Time)
  deriving DecidableEq, Repr

end Sys2Proof
end

