-- ==== Sys2Proof/Decode.lean ====
section
/-! DEFINITION. Decode.lean: the decoder over the rows of spec/opcode_table.json that give bits. No row of this block's table
gives any, so no word spells a command. The command quad of a ring and the MOSI word of the service port, whose bits the spec gives, are read
here too (Tables 12.4, 12.6 and 12.11). -/
namespace Sys2Proof

/-- The command that a word spells by the table's bits: none, since no row gives bits. -/
def decodeTableWord (_nbits _w : Nat) : Option Instr := none

/-- OPC and the fields of a command quad in CQn (Table 12.4). -/
def quadCmd (n : Fin 16) (q : Quad) : BitVec 8 × CmdQ :=
  (q.extractLsb' 0 8,
   { ring := n, tag := q.extractLsb' 16 16, irq := q.getLsbD 8, role := q.extractLsb' 10 2, rsv9 := q.getLsbD 9, rsv12 := q.extractLsb' 12 4,
     arg0 := q.extractLsb' 32 32, arg1 := q.extractLsb' 64 64 })

/-- The row that a quad of CQn spells (Table 12.6, R321); `data` and `nonce` are what OTP_PROGRAM and ATTEST fetch beside it. -/
def quadRow (n : Fin 16) (q : Quad) (data : List Word) (nonce : BitVec 256) : Instr :=
  let c := (quadCmd n q).2
  match (quadCmd n q).1.toNat with
  | 0x00 => .nop c
  | 0x01 => .fence c
  | 0x02 => .suspend c
  | 0x03 => .resume c
  | 0x04 => .cancel c
  | 0x08 => .nodeRead c
  | 0x09 => .nodeWrite c
  | 0x0A => .nodeBlockLoad c
  | 0x0B => .nodeBlockStore c
  | 0x0C => .bankSwap c
  | 0x10 => .setpoint c
  | 0x11 => .modeSelect c
  | 0x12 => .driveStart c
  | 0x13 => .driveStop c
  | 0x14 => .reverse c
  | 0x15 => .safeState c
  | 0x16 => .faultClear c
  | 0x18 => .pgDirect c
  | 0x20 => .adcCalibrate c
  | 0x21 => .adcUrgent c
  | 0x28 => .traceArm c
  | 0x29 => .traceStop c
  | 0x30 => .otpProgram c data
  | 0x31 => .otpLock c
  | 0x32 => .otpMarginScan c
  | 0x33 => .lifecycleAdvance c
  | 0x38 => .attest c nonce
  | 0x40 => .selfTest c
  | 0x41 => .linkTest c
  | 0x48 => .pairHandover c
  | 0x49 => .pairRejoin c
  | 0x50 => .powerState c
  | _ => .badOpcode c (quadCmd n q).1

/-- The row that a complete service frame spells by its MOSI word: READ, INDEX, DATA (Table 12.11). -/
def mosiRow (w : Word) (t : Time) : Instr :=
  let index := w.extractLsb' 16 15
  let data := w.extractLsb' 0 16
  if w.getLsbD 31 then .serviceReadFrame index data t else .serviceWriteFrame index data t

end Sys2Proof
end

