-- ==== Sys2Proof/Config.lean ====
section
/-! DEFINITION. Config.lean: the values the spec leaves open. None has a body, so no proof can see one: a statement about
a run holds for every value of them. Each names its log entry. -/
namespace Sys2Proof.Config

/-- A free value, by the index of its use (State.freeCtr): the ±1 tick of a stamp taken outside CTL (R33), and every other
value for which the spec states no result. Log 2. -/
opaque free : Nat → BitVec 32

/-- A free 384-bit value: fresh nonces of PAIR_REJOIN (R300). Log 2. -/
opaque freeWide : Nat → BitVec 384

/-- The vendor public keys held in the boot ROM (R410): x then y of key 0 to 3. The spec gives no values. Log 3. -/
opaque vendorKeyX : Fin 4 → Nat

/-- The y coordinate of a vendor public key (R410). Log 3. -/
opaque vendorKeyY : Fin 4 → Nat

/-- The columns of the SEC-DED code of an OTP word (R385), the check bits that each data bit turns, are 32 of the 57 columns of odd weight 3 or
more: which, the spec does not say. The k-th column still to be chosen is that of this number among those left. Log 27. -/
opaque eccPick : Nat → Nat

/-- The offsets at which the production-test registers lie (R501). The spec counts them by block and gives no offset. Log 144. -/
opaque testReg : Nat → Bool

end Sys2Proof.Config
end

