-- ==== Sys2Proof/Machine/RegTable.lean ====
section
/-! DEFINITION. RegTable.lean: the registers of BAR0, one description per heading of the chapters that define them (Table 21.4),
with the offset, the array, the access types (R8) and the valid ranges (R43). Stored fields only: a read-only field
has its home in the live state and is composed when the register is read. -/
namespace Sys2Proof.Machine

/-- A range rule of R43 for one field: an unsigned field, a signed field within ±n, a binary32 field within a range,
within a range of magnitude, or merely finite. -/
inductive FRule where
  | nat (hi lo mn mx : Nat)
  | int (hi lo n : Nat)
  | f32 (mn mx : Rat)
  | f32mag (mn mx : Rat)
  | f32fin
  deriving DecidableEq, Repr

/-- A register array: base offset, element count, stride, width in words, masks of RW, RWL, sticky write-one-to-clear
(ST and W1C) and WO bits, the bits of survival classes B and E among the stored ones, reset values and range rules. -/
structure RegDesc where
  base   : Nat
  count  : Nat
  stride : Nat
  words  : Nat
  rw     : Nat
  rwl    : Nat
  st     : Nat
  wo     : Nat
  sticky : Nat
  live   : Nat
  reset  : List Nat
  rules  : List FRule
  deriving DecidableEq, Repr

/-- PAC_FP_CFG (01). -/
def regPacFpCfg : RegDesc where
  base := 0x100
  count := 1
  stride := 4
  words := 1
  rw := 0x0
  rwl := 0x7FF
  st := 0x0
  wo := 0x0
  sticky := 0x0
  live := 0x0
  reset := [0xC8]
  rules := [.nat 10 0 100 1600]

/-- PAC_SP_CFG (01). -/
def regPacSpCfg : RegDesc where
  base := 0x104
  count := 1
  stride := 4
  words := 1
  rw := 0x0
  rwl := 0x7FF
  st := 0x0
  wo := 0x0
  sticky := 0x0
  live := 0x0
  reset := [0x32]
  rules := [.nat 10 0 8 1024]

/-- PAC_TIME (01). -/
def regPacTime : RegDesc where
  base := 0x108
  count := 1
  stride := 8
  words := 2
  rw := 0x0
  rwl := 0x0
  st := 0x0
  wo := 0x0
  sticky := 0x0
  live := 0x0
  reset := [0x0]
  rules := []

/-- PAC_FP_INDEX (01). -/
def regPacFpIndex : RegDesc where
  base := 0x110
  count := 1
  stride := 8
  words := 2
  rw := 0x0
  rwl := 0x0
  st := 0x0
  wo := 0x0
  sticky := 0x0
  live := 0x0
  reset := [0x0]
  rules := []

/-- PAC_STATUS (01). -/
def regPacStatus : RegDesc where
  base := 0x118
  count := 1
  stride := 4
  words := 1
  rw := 0x0
  rwl := 0x0
  st := 0x4
  wo := 0x0
  sticky := 0x4
  live := 0x0
  reset := [0x1]
  rules := []

/-- GLB_HEALTH (01). -/
def regGlbHealth : RegDesc where
  base := 0x20
  count := 1
  stride := 4
  words := 1
  rw := 0x0
  rwl := 0x0
  st := 0xFF
  wo := 0x0
  sticky := 0xFF
  live := 0x0
  reset := [0x0]
  rules := []

/-- GLB_ID (01). -/
def regGlbId : RegDesc where
  base := 0x0
  count := 1
  stride := 4
  words := 1
  rw := 0x0
  rwl := 0x0
  st := 0x0
  wo := 0x0
  sticky := 0x0
  live := 0x0
  reset := [0x1B04208]
  rules := []

/-- GLB_SERIAL (01). -/
def regGlbSerial : RegDesc where
  base := 0x8
  count := 1
  stride := 8
  words := 2
  rw := 0x0
  rwl := 0x0
  st := 0x0
  wo := 0x0
  sticky := 0x0
  live := 0x0
  reset := [0x0]
  rules := []

/-- GLB_STRAPS (01). -/
def regGlbStraps : RegDesc where
  base := 0x10
  count := 1
  stride := 4
  words := 1
  rw := 0x0
  rwl := 0x0
  st := 0x0
  wo := 0x0
  sticky := 0x0
  live := 0x0
  reset := [0x0]
  rules := []

/-- GLB_STATUS (01). -/
def regGlbStatus : RegDesc where
  base := 0x14
  count := 1
  stride := 4
  words := 1
  rw := 0x0
  rwl := 0x0
  st := 0x9
  wo := 0x0
  sticky := 0x9
  live := 0x0
  reset := [0x0]
  rules := []

/-- COM_MACH_CFG_m (02). -/
def regComMachCfg : RegDesc where
  base := 0xB000
  count := 2
  stride := 4
  words := 1
  rw := 0x0
  rwl := 0xBB1F
  st := 0x0
  wo := 0x0
  sticky := 0x0
  live := 0x0
  reset := [0x3000, 0x3800]
  rules := []

/-- COM_FE_MAX_m (02). -/
def regComFeMax : RegDesc where
  base := 0xB008
  count := 2
  stride := 4
  words := 1
  rw := 0x0
  rwl := 0xFFFFFFFF
  st := 0x0
  wo := 0x0
  sticky := 0x0
  live := 0x0
  reset := [0x0]
  rules := [.f32 (0) (2500)]

/-- COM_ZC_CFG_m (02). -/
def regComZcCfg : RegDesc where
  base := 0xB010
  count := 2
  stride := 4
  words := 1
  rw := 0xFFFFFFF
  rwl := 0x0
  st := 0x0
  wo := 0x0
  sticky := 0x0
  live := 0x0
  reset := [0x228141E]
  rules := [.nat 27 24 1 8, .nat 15 8 4 255, .nat 7 0 4 255]

/-- COM_ZC_HYST_m (02). -/
def regComZcHyst : RegDesc where
  base := 0xB018
  count := 2
  stride := 4
  words := 1
  rw := 0xFFFFFFFF
  rwl := 0x0
  st := 0x0
  wo := 0x0
  sticky := 0x0
  live := 0x0
  reset := [0x3F000000]
  rules := [.f32 (0) (100)]

/-- COM_DEMAG_CFG_m (02). -/
def regComDemagCfg : RegDesc where
  base := 0xB020
  count := 2
  stride := 4
  words := 1
  rw := 0xFFFFFF
  rwl := 0x0
  st := 0x0
  wo := 0x0
  sticky := 0x0
  live := 0x0
  reset := [0x320014]
  rules := [.nat 23 16 10 90, .nat 15 0 0 50000]

/-- COM_DEMAG_I_m (02). -/
def regComDemagI : RegDesc where
  base := 0xB028
  count := 2
  stride := 4
  words := 1
  rw := 0xFFFFFFFF
  rwl := 0x0
  st := 0x0
  wo := 0x0
  sticky := 0x0
  live := 0x0
  reset := [0x41200000]
  rules := [.f32 (1 / 10) (1000)]

/-- COM_VPH_GAIN_w (02). -/
def regComVphGain : RegDesc where
  base := 0xB040
  count := 8
  stride := 4
  words := 1
  rw := 0x0
  rwl := 0xFFFFFFFF
  st := 0x0
  wo := 0x0
  sticky := 0x0
  live := 0x0
  reset := [0x0]
  rules := [.f32fin]

/-- COM_SECTOR_w (02). -/
def regComSector : RegDesc where
  base := 0xB080
  count := 8
  stride := 4
  words := 1
  rw := 0x0
  rwl := 0x0
  st := 0x0
  wo := 0x0
  sticky := 0x0
  live := 0x0
  reset := [0x37]
  rules := []

/-- COM_COUNT_w (02). -/
def regComCount : RegDesc where
  base := 0xB0A0
  count := 8
  stride := 4
  words := 1
  rw := 0xFFFFFFFF
  rwl := 0x0
  st := 0x0
  wo := 0x0
  sticky := 0x0
  live := 0xFFFFFFFF
  reset := [0x0]
  rules := []

/-- COM_ADV_m_j (02). -/
def regComAdv : RegDesc where
  base := 0xB100
  count := 32
  stride := 4
  words := 1
  rw := 0x7FF
  rwl := 0x0
  st := 0x0
  wo := 0x0
  sticky := 0x0
  live := 0x0
  reset := [0x0]
  rules := [.nat 10 0 0 1920]

/-- ENG_DECEL_RATE_m (02). -/
def regEngDecelRate : RegDesc where
  base := 0xDC00
  count := 2
  stride := 16
  words := 1
  rw := 0xFFFFFFFF
  rwl := 0x0
  st := 0x0
  wo := 0x0
  sticky := 0x0
  live := 0x0
  reset := [0x0]
  rules := [.f32 (1 / 100) (100000)]

/-- ENG_VDC_HOLD_m (02). -/
def regEngVdcHold : RegDesc where
  base := 0xDC04
  count := 2
  stride := 16
  words := 1
  rw := 0xFFFFFFFF
  rwl := 0x0
  st := 0x0
  wo := 0x0
  sticky := 0x0
  live := 0x0
  reset := [0x0]
  rules := [.f32 (10) (10000)]

/-- ENG_DECEL_CFG_m (02). -/
def regEngDecelCfg : RegDesc where
  base := 0xDC08
  count := 2
  stride := 16
  words := 1
  rw := 0xFFFFFF
  rwl := 0x0
  st := 0x0
  wo := 0x0
  sticky := 0x0
  live := 0x0
  reset := [0x14140A]
  rules := [.nat 15 8 1 255, .nat 7 0 1 100]

/-- ENG_DIR_STAT_m (02). -/
def regEngDirStat : RegDesc where
  base := 0xDC0C
  count := 2
  stride := 16
  words := 1
  rw := 0x0
  rwl := 0x0
  st := 0x0
  wo := 0x0
  sticky := 0x0
  live := 0x0
  reset := [0x0]
  rules := []

/-- COM_TRK_CFG_m (03). -/
def regComTrkCfg : RegDesc where
  base := 0xB200
  count := 2
  stride := 128
  words := 1
  rw := 0xFFFFFFFF
  rwl := 0x0
  st := 0x0
  wo := 0x0
  sticky := 0x0
  live := 0x0
  reset := [0x46783014]
  rules := [.nat 31 28 1 15, .nat 27 24 2 15, .nat 23 16 30 255, .nat 15 8 4 120, .nat 7 0 1 255]

/-- COM_TRK_GAIN_m (03). -/
def regComTrkGain : RegDesc where
  base := 0xB204
  count := 2
  stride := 128
  words := 1
  rw := 0xFFFFFFFF
  rwl := 0x0
  st := 0x0
  wo := 0x0
  sticky := 0x0
  live := 0x0
  reset := [0x40804080]
  rules := [.nat 15 8 1 255, .nat 7 0 1 255]

/-- COM_SL_FMIN_m (03). -/
def regComSlFmin : RegDesc where
  base := 0xB208
  count := 2
  stride := 128
  words := 1
  rw := 0x0
  rwl := 0xFFFFFFFF
  st := 0x0
  wo := 0x0
  sticky := 0x0
  live := 0x0
  reset := [0x40000000]
  rules := [.f32 (1 / 10) (100)]

/-- COM_SENS_CFG_m (03). -/
def regComSensCfg : RegDesc where
  base := 0xB20C
  count := 2
  stride := 128
  words := 1
  rw := 0xFFFF
  rwl := 0xE0000000
  st := 0x0
  wo := 0x0
  sticky := 0x0
  live := 0x0
  reset := [0x8040]
  rules := []

/-- COM_SENS_OFS_m (03). -/
def regComSensOfs : RegDesc where
  base := 0xB210
  count := 2
  stride := 128
  words := 1
  rw := 0x0
  rwl := 0xFFFFFFFF
  st := 0x0
  wo := 0x0
  sticky := 0x0
  live := 0x0
  reset := [0x0]
  rules := [.nat 31 16 0 23039, .nat 15 0 0 23039]

/-- COM_ENC_LINES_m (03). -/
def regComEncLines : RegDesc where
  base := 0xB214
  count := 2
  stride := 128
  words := 1
  rw := 0x0
  rwl := 0xFFFF
  st := 0x0
  wo := 0x0
  sticky := 0x0
  live := 0x0
  reset := [0x0]
  rules := [.nat 15 0 0 16384]

/-- COM_START_CFG_m (03). -/
def regComStartCfg : RegDesc where
  base := 0xB218
  count := 2
  stride := 128
  words := 1
  rw := 0x80FFFFFF
  rwl := 0x0
  st := 0x0
  wo := 0x0
  sticky := 0x0
  live := 0x0
  reset := [0x30064]
  rules := [.nat 23 16 0 7, .nat 15 0 10 10000]

/-- COM_CATCH_VMIN_m (03). -/
def regComCatchVmin : RegDesc where
  base := 0xB21C
  count := 2
  stride := 128
  words := 1
  rw := 0xFFFFFFFF
  rwl := 0x0
  st := 0x0
  wo := 0x0
  sticky := 0x0
  live := 0x0
  reset := [0x41200000]
  rules := [.f32 (1) (1000)]

/-- COM_PROBE_CFG_m (03). -/
def regComProbeCfg : RegDesc where
  base := 0xB220
  count := 2
  stride := 128
  words := 1
  rw := 0xFF00FFFF
  rwl := 0x0
  st := 0x0
  wo := 0x0
  sticky := 0x0
  live := 0x0
  reset := [0x6001414]
  rules := [.nat 31 24 1 100, .nat 15 8 5 255, .nat 7 0 2 100]

/-- COM_PROBE_IMAX_m (03). -/
def regComProbeImax : RegDesc where
  base := 0xB224
  count := 2
  stride := 128
  words := 1
  rw := 0xFFFFFFFF
  rwl := 0x0
  st := 0x0
  wo := 0x0
  sticky := 0x0
  live := 0x0
  reset := [0x43480000]
  rules := [.f32 (1) (2000)]

/-- COM_STEP_I_m (03). -/
def regComStepI : RegDesc where
  base := 0xB228
  count := 2
  stride := 128
  words := 1
  rw := 0xFFFFFFFF
  rwl := 0x0
  st := 0x0
  wo := 0x0
  sticky := 0x0
  live := 0x0
  reset := [0x42C80000]
  rules := [.f32 (1) (2000)]

/-- COM_STEP_ACC_m (03). -/
def regComStepAcc : RegDesc where
  base := 0xB22C
  count := 2
  stride := 128
  words := 1
  rw := 0xFFFFFFFF
  rwl := 0x0
  st := 0x0
  wo := 0x0
  sticky := 0x0
  live := 0x0
  reset := [0x41200000]
  rules := [.f32 (1 / 10) (1000)]

/-- COM_STEP_CFG_m (03). -/
def regComStepCfg : RegDesc where
  base := 0xB230
  count := 2
  stride := 128
  words := 1
  rw := 0xFFFF
  rwl := 0x0
  st := 0x0
  wo := 0x0
  sticky := 0x0
  live := 0x0
  reset := [0x7D0]
  rules := [.nat 15 0 100 60000]

/-- COM_ASC_CFG_m (03). -/
def regComAscCfg : RegDesc where
  base := 0xB234
  count := 2
  stride := 128
  words := 1
  rw := 0xFFFF0000
  rwl := 0xFFFF
  st := 0x0
  wo := 0x0
  sticky := 0x0
  live := 0x0
  reset := [0x30A2328]
  rules := [.nat 31 24 0 15, .nat 23 16 1 200, .nat 7 0 1 100]

/-- COM_TRK_ANGLE_m (03). -/
def regComTrkAngle : RegDesc where
  base := 0xB240
  count := 2
  stride := 128
  words := 1
  rw := 0x0
  rwl := 0x0
  st := 0x0
  wo := 0x0
  sticky := 0x0
  live := 0x0
  reset := [0x0]
  rules := []

/-- COM_TRK_SPEED_m (03). -/
def regComTrkSpeed : RegDesc where
  base := 0xB244
  count := 2
  stride := 128
  words := 1
  rw := 0x0
  rwl := 0x0
  st := 0x0
  wo := 0x0
  sticky := 0x0
  live := 0x0
  reset := [0x0]
  rules := []

/-- COM_TRK_STAT_m (03). -/
def regComTrkStat : RegDesc where
  base := 0xB248
  count := 2
  stride := 128
  words := 1
  rw := 0x0
  rwl := 0x0
  st := 0x0
  wo := 0x0
  sticky := 0x0
  live := 0x0
  reset := [0x0]
  rules := []

/-- COM_TRK_COUNT_m (03). -/
def regComTrkCount : RegDesc where
  base := 0xB24C
  count := 2
  stride := 128
  words := 1
  rw := 0xFFFFFFFF
  rwl := 0x0
  st := 0x0
  wo := 0x0
  sticky := 0x0
  live := 0xFFFFFFFF
  reset := [0x0]
  rules := []

/-- ENG_REG_CFG (04). -/
def regEngRegCfg : RegDesc where
  base := 0xC000
  count := 1
  stride := 4
  words := 1
  rw := 0x300
  rwl := 0x3
  st := 0x0
  wo := 0x0
  sticky := 0x0
  live := 0x0
  reset := [0x301]
  rules := [.nat 1 0 0 2]

/-- ENG_SC_STAT_w (04). -/
def regEngScStat : RegDesc where
  base := 0xC010
  count := 8
  stride := 4
  words := 1
  rw := 0x0
  rwl := 0x0
  st := 0x800
  wo := 0x0
  sticky := 0x800
  live := 0x0
  reset := [0x0]
  rules := []

/-- ENG_SC_COUNT_w (04). -/
def regEngScCount : RegDesc where
  base := 0xC030
  count := 8
  stride := 4
  words := 1
  rw := 0xFFFFFFFF
  rwl := 0x0
  st := 0x0
  wo := 0x0
  sticky := 0x0
  live := 0xFFFFFFFF
  reset := [0x0]
  rules := []

/-- ENG_MC_STAT_m (05). -/
def regEngMcStat : RegDesc where
  base := 0xD000
  count := 2
  stride := 256
  words := 1
  rw := 0x0
  rwl := 0x0
  st := 0x0
  wo := 0x0
  sticky := 0x0
  live := 0x0
  reset := [0x0]
  rules := []

/-- ENG_SRC_CFG_m (05). -/
def regEngSrcCfg : RegDesc where
  base := 0xD004
  count := 2
  stride := 256
  words := 1
  rw := 0xFFF3FFFF
  rwl := 0xC0000
  st := 0x0
  wo := 0x0
  sticky := 0x0
  live := 0x0
  reset := [0x41400064]
  rules := [.nat 31 28 1 15, .nat 27 20 1 255]

/-- ENG_ASP_GAIN_m (05). -/
def regEngAspGain : RegDesc where
  base := 0xD008
  count := 2
  stride := 256
  words := 1
  rw := 0xFFFFFFFF
  rwl := 0x0
  st := 0x0
  wo := 0x0
  sticky := 0x0
  live := 0x0
  reset := [0x0]
  rules := [.f32fin]

/-- ENG_ASP_OFS_m (05). -/
def regEngAspOfs : RegDesc where
  base := 0xD00C
  count := 2
  stride := 256
  words := 1
  rw := 0xFFFFFFFF
  rwl := 0x0
  st := 0x0
  wo := 0x0
  sticky := 0x0
  live := 0x0
  reset := [0x0]
  rules := [.f32 (0) (18 / 10)]

/-- ENG_ASP_RANGE_m (05). -/
def regEngAspRange : RegDesc where
  base := 0xD010
  count := 2
  stride := 256
  words := 1
  rw := 0xFFFFFFFF
  rwl := 0x0
  st := 0x0
  wo := 0x0
  sticky := 0x0
  live := 0x0
  reset := [0x6A40064]
  rules := []

/-- ENG_PSP_GAIN_m (05). -/
def regEngPspGain : RegDesc where
  base := 0xD014
  count := 2
  stride := 256
  words := 1
  rw := 0xFFFFFFFF
  rwl := 0x0
  st := 0x0
  wo := 0x0
  sticky := 0x0
  live := 0x0
  reset := [0x0]
  rules := [.f32fin]

/-- ENG_PSP_OFS_m (05). -/
def regEngPspOfs : RegDesc where
  base := 0xD018
  count := 2
  stride := 256
  words := 1
  rw := 0xFFFFFFFF
  rwl := 0x0
  st := 0x0
  wo := 0x0
  sticky := 0x0
  live := 0x0
  reset := [0x0]
  rules := [.f32fin]

/-- ENG_XCHK_TOL_m (05). -/
def regEngXchkTol : RegDesc where
  base := 0xD01C
  count := 2
  stride := 256
  words := 1
  rw := 0xFFFFFFFF
  rwl := 0x0
  st := 0x0
  wo := 0x0
  sticky := 0x0
  live := 0x0
  reset := [0x0]
  rules := [.f32 (0) (1 * 10^6)]

/-- PGN_CTL (06). -/
def regPgnCtl : RegDesc where
  base := 0x9000
  count := 1
  stride := 4
  words := 1
  rw := 0x1
  rwl := 0x0
  st := 0x0
  wo := 0x0
  sticky := 0x0
  live := 0x0
  reset := [0x0]
  rules := []

/-- PGN_STAT (06). -/
def regPgnStat : RegDesc where
  base := 0x9004
  count := 1
  stride := 4
  words := 1
  rw := 0x0
  rwl := 0x0
  st := 0x0
  wo := 0x0
  sticky := 0x0
  live := 0x0
  reset := [0x0]
  rules := []

/-- PGN_DIR_PERIOD (06). -/
def regPgnDirPeriod : RegDesc where
  base := 0x9010
  count := 1
  stride := 4
  words := 1
  rw := 0xFFFFF
  rwl := 0x0
  st := 0x0
  wo := 0x0
  sticky := 0x0
  live := 0x0
  reset := [0x4E20]
  rules := [.nat 19 0 500 1000000]

/-- PGN_DIR_MIN (06). -/
def regPgnDirMin : RegDesc where
  base := 0x9014
  count := 1
  stride := 4
  words := 1
  rw := 0xFFFFFFFF
  rwl := 0x0
  st := 0x0
  wo := 0x0
  sticky := 0x0
  live := 0x0
  reset := [0x3E803E8]
  rules := [.nat 31 16 20 65535, .nat 15 0 20 65535]

/-- PGN_DIR_COMMIT (06). -/
def regPgnDirCommit : RegDesc where
  base := 0x9018
  count := 1
  stride := 4
  words := 1
  rw := 0x0
  rwl := 0x0
  st := 0x0
  wo := 0x1
  sticky := 0x0
  live := 0x0
  reset := [0x0]
  rules := []

/-- PGN_DIR_STAT (06). -/
def regPgnDirStat : RegDesc where
  base := 0x901C
  count := 1
  stride := 4
  words := 1
  rw := 0x0
  rwl := 0x0
  st := 0xF00
  wo := 0x0
  sticky := 0xF00
  live := 0x0
  reset := [0x0]
  rules := []

/-- PGN_SG_CFG_g (06). -/
def regPgnSgCfg : RegDesc where
  base := 0x9100
  count := 8
  stride := 4
  words := 1
  rw := 0x3FF
  rwl := 0x0
  st := 0x0
  wo := 0x0
  sticky := 0x0
  live := 0x0
  reset := [0x8]
  rules := [.nat 7 0 1 255]

/-- PGN_SG_STAT_g (06). -/
def regPgnSgStat : RegDesc where
  base := 0x9120
  count := 8
  stride := 4
  words := 1
  rw := 0x0
  rwl := 0x0
  st := 0x0
  wo := 0x0
  sticky := 0x0
  live := 0x0
  reset := [0x0]
  rules := []

/-- PGN_SG_COUNT_g (06). -/
def regPgnSgCount : RegDesc where
  base := 0x9140
  count := 8
  stride := 4
  words := 1
  rw := 0xFFFFFFFF
  rwl := 0x0
  st := 0x0
  wo := 0x0
  sticky := 0x0
  live := 0xFFFFFFFF
  reset := [0x0]
  rules := []

/-- PGN_LGUARD_l (06). -/
def regPgnLguard : RegDesc where
  base := 0x9200
  count := 24
  stride := 4
  words := 1
  rw := 0x0
  rwl := 0xFFF
  st := 0x0
  wo := 0x0
  sticky := 0x0
  live := 0x0
  reset := [0x190]
  rules := [.nat 11 0 20 4095]

/-- PGN_CH_STAT_n (06). -/
def regPgnChStat : RegDesc where
  base := 0x9400
  count := 48
  stride := 4
  words := 1
  rw := 0xFF00
  rwl := 0x0
  st := 0x0
  wo := 0x0
  sticky := 0x0
  live := 0xFF00
  reset := [0x2]
  rules := []

/-- PGN_DIR_ON_n (06). -/
def regPgnDirOn : RegDesc where
  base := 0x9600
  count := 48
  stride := 4
  words := 1
  rw := 0xFFFFF
  rwl := 0x0
  st := 0x0
  wo := 0x0
  sticky := 0x0
  live := 0x0
  reset := [0xFFFFF]
  rules := []

/-- PGN_DIR_OFF_n (06). -/
def regPgnDirOff : RegDesc where
  base := 0x9700
  count := 48
  stride := 4
  words := 1
  rw := 0xFFFFF
  rwl := 0x0
  st := 0x0
  wo := 0x0
  sticky := 0x0
  live := 0x0
  reset := [0xFFFFF]
  rules := []

/-- PGN_PGK_CFG_c (06). -/
def regPgnPgkCfg : RegDesc where
  base := 0x9800
  count := 2
  stride := 16
  words := 1
  rw := 0xFF00
  rwl := 0x1
  st := 0x0
  wo := 0x0
  sticky := 0x0
  live := 0x0
  reset := [0x800]
  rules := [.nat 15 8 1 255]

/-- PGN_PGK_MIN_c (06). -/
def regPgnPgkMin : RegDesc where
  base := 0x9804
  count := 2
  stride := 16
  words := 1
  rw := 0x0
  rwl := 0xFFFFFFFF
  st := 0x0
  wo := 0x0
  sticky := 0x0
  live := 0x0
  reset := [0x7D007D0]
  rules := [.nat 31 16 100 65535, .nat 15 0 100 65535]

/-- PGN_PGK_STAT_c (06). -/
def regPgnPgkStat : RegDesc where
  base := 0x9808
  count := 2
  stride := 16
  words := 1
  rw := 0x0
  rwl := 0x0
  st := 0x0
  wo := 0x0
  sticky := 0x0
  live := 0x0
  reset := [0x2]
  rules := []

/-- PGN_PGK_COUNT_c (06). -/
def regPgnPgkCount : RegDesc where
  base := 0x980C
  count := 2
  stride := 16
  words := 1
  rw := 0xFF00FFFF
  rwl := 0x0
  st := 0x0
  wo := 0x0
  sticky := 0x0
  live := 0xFF00FFFF
  reset := [0x0]
  rules := []

/-- ACQ_CTL (07). -/
def regAcqCtl : RegDesc where
  base := 0x4000
  count := 1
  stride := 4
  words := 1
  rw := 0xFFF01
  rwl := 0x0
  st := 0x0
  wo := 0x0
  sticky := 0x0
  live := 0x0
  reset := [0x84001]
  rules := [.nat 19 16 2 15, .nat 15 8 8 255]

/-- ACQ_STAT (07). -/
def regAcqStat : RegDesc where
  base := 0x4004
  count := 1
  stride := 4
  words := 1
  rw := 0x0
  rwl := 0x0
  st := 0x30
  wo := 0x0
  sticky := 0x30
  live := 0x0
  reset := [0x0]
  rules := []

/-- ACQ_CAL_TAG (07). -/
def regAcqCalTag : RegDesc where
  base := 0x4008
  count := 1
  stride := 4
  words := 1
  rw := 0xFFFFFFFF
  rwl := 0x0
  st := 0x0
  wo := 0x0
  sticky := 0x0
  live := 0x0
  reset := [0x0]
  rules := []

/-- ACQ_CAL_STAT (07). -/
def regAcqCalStat : RegDesc where
  base := 0x400C
  count := 1
  stride := 4
  words := 1
  rw := 0x0
  rwl := 0x0
  st := 0x0
  wo := 0x0
  sticky := 0x0
  live := 0x0
  reset := [0x0]
  rules := []

/-- ACQ_SLEEP (07). -/
def regAcqSleep : RegDesc where
  base := 0x4010
  count := 1
  stride := 8
  words := 2
  rw := 0x0
  rwl := 0xFFFFFFFFFFF
  st := 0x0
  wo := 0x0
  sticky := 0x0
  live := 0x0
  reset := [0xC0000000000]
  rules := []

/-- ACQ_BUDGET (07). -/
def regAcqBudget : RegDesc where
  base := 0x4018
  count := 1
  stride := 4
  words := 1
  rw := 0x0
  rwl := 0x0
  st := 0x0
  wo := 0x0
  sticky := 0x0
  live := 0x0
  reset := [0x0]
  rules := []

/-- ACQ_IS_MAP_n (07). -/
def regAcqIsMap : RegDesc where
  base := 0x4040
  count := 16
  stride := 4
  words := 1
  rw := 0x0
  rwl := 0xF3
  st := 0x0
  wo := 0x0
  sticky := 0x0
  live := 0x0
  reset := [0x80, 0x81, 0x90, 0x91, 0xA0, 0xA1, 0xB0, 0xB1, 0xC0, 0xC1, 0xD0, 0xD1, 0xE0, 0xE1, 0xF0, 0xF1]
  rules := [.nat 1 0 0 2]

/-- ACQ_IS_SCALE_n (07). -/
def regAcqIsScale : RegDesc where
  base := 0x4080
  count := 16
  stride := 4
  words := 1
  rw := 0x0
  rwl := 0xFFFFFFFF
  st := 0x0
  wo := 0x0
  sticky := 0x0
  live := 0x0
  reset := [0x0]
  rules := [.f32mag (1/10000) (10)]

/-- ACQ_SCALE_x (07). -/
def regAcqScale : RegDesc where
  base := 0x40C0
  count := 4
  stride := 4
  words := 1
  rw := 0x0
  rwl := 0xFFFFFFFF
  st := 0x0
  wo := 0x0
  sticky := 0x0
  live := 0x0
  reset := [0x0]
  rules := [.f32 (1/10000) (100)]

/-- ACQ_CAL_OFS_n (07). -/
def regAcqCalOfs : RegDesc where
  base := 0x4100
  count := 44
  stride := 4
  words := 1
  rw := 0x0
  rwl := 0xFFFF
  st := 0x0
  wo := 0x0
  sticky := 0x0
  live := 0x0
  reset := [0x0]
  rules := []

/-- ACQ_CAL_GAIN_n (07). -/
def regAcqCalGain : RegDesc where
  base := 0x4200
  count := 44
  stride := 4
  words := 1
  rw := 0x0
  rwl := 0xFFFF
  st := 0x0
  wo := 0x0
  sticky := 0x0
  live := 0x0
  reset := [0x8000]
  rules := [.nat 15 0 28672 36864]

/-- ACQ_CAL_SKEW_p (07). -/
def regAcqCalSkew : RegDesc where
  base := 0x4300
  count := 16
  stride := 4
  words := 1
  rw := 0x0
  rwl := 0x3FF
  st := 0x0
  wo := 0x0
  sticky := 0x0
  live := 0x0
  reset := [0x0]
  rules := [.int 9 0 400]

/-- ACQ_TRK_p (07). -/
def regAcqTrk : RegDesc where
  base := 0x4340
  count := 16
  stride := 4
  words := 1
  rw := 0x0
  rwl := 0x0
  st := 0x0
  wo := 0x0
  sticky := 0x0
  live := 0x0
  reset := [0x0]
  rules := []

/-- ACQ_PAIR_STAT_p (07). -/
def regAcqPairStat : RegDesc where
  base := 0x4380
  count := 16
  stride := 4
  words := 1
  rw := 0xFF00
  rwl := 0x0
  st := 0x0
  wo := 0x0
  sticky := 0x0
  live := 0xFF00
  reset := [0x0]
  rules := []

/-- ACQ_HK_CFG_i (07). -/
def regAcqHkCfg : RegDesc where
  base := 0x4400
  count := 22
  stride := 4
  words := 1
  rw := 0xFFFF
  rwl := 0x0
  st := 0x0
  wo := 0x0
  sticky := 0x0
  live := 0x0
  reset := [0x2, 0x5, 0x64, 0x64, 0x0, 0x0, 0x0, 0x64, 0x64, 0x0, 0x64, 0x2, 0x5, 0x64, 0x64, 0x0, 0x0, 0x0, 0x64, 0x64, 0x64, 0x64]
  rules := []

/-- ACQ_STREAM_CFG_s (07). -/
def regAcqStreamCfg : RegDesc where
  base := 0x4500
  count := 32
  stride := 4
  words := 1
  rw := 0x87FFFFFF
  rwl := 0x0
  st := 0x0
  wo := 0x0
  sticky := 0x0
  live := 0x0
  reset := [0x100]
  rules := [.nat 23 8 1 65535]

/-- ACQ_STREAM_STAT_s (07). -/
def regAcqStreamStat : RegDesc where
  base := 0x4580
  count := 32
  stride := 4
  words := 1
  rw := 0xFFFF0000
  rwl := 0x0
  st := 0x0
  wo := 0x0
  sticky := 0x0
  live := 0xFFFF0000
  reset := [0x0]
  rules := []

/-- ACQ_LATEST_c (07). -/
def regAcqLatest : RegDesc where
  base := 0x4800
  count := 50
  stride := 8
  words := 2
  rw := 0x0
  rwl := 0x0
  st := 0x0
  wo := 0x0
  sticky := 0x0
  live := 0x0
  reset := [0x0]
  rules := []

/-- ACQ_LATEST_c (07). -/
def regAcqLatestHk : RegDesc where
  base := 0x4A00
  count := 22
  stride := 8
  words := 2
  rw := 0x0
  rwl := 0x0
  st := 0x0
  wo := 0x0
  sticky := 0x0
  live := 0x0
  reset := [0x0]
  rules := []

/-- CMP_WIN_CFG_n (08). -/
def regCmpWinCfg : RegDesc where
  base := 0x8000
  count := 20
  stride := 4
  words := 1
  rw := 0x0
  rwl := 0xF3FFFFFF
  st := 0x0
  wo := 0x0
  sticky := 0x0
  live := 0x0
  reset := [0x804FFC00]
  rules := []

/-- CMP_ROUTE_n (08). -/
def regCmpRoute : RegDesc where
  base := 0x8080
  count := 20
  stride := 4
  words := 1
  rw := 0x0
  rwl := 0x3FF
  st := 0x0
  wo := 0x0
  sticky := 0x0
  live := 0x0
  reset := [0x0]
  rules := []

/-- CMP_LEVEL (08). -/
def regCmpLevel : RegDesc where
  base := 0x8100
  count := 1
  stride := 4
  words := 1
  rw := 0x0
  rwl := 0x0
  st := 0x0
  wo := 0x0
  sticky := 0x0
  live := 0x0
  reset := [0xFFFFF]
  rules := []

/-- CMP_SEEN (08). -/
def regCmpSeen : RegDesc where
  base := 0x8104
  count := 1
  stride := 4
  words := 1
  rw := 0x0
  rwl := 0x0
  st := 0xFFFFF
  wo := 0x0
  sticky := 0x0
  live := 0xFFFFF
  reset := [0x0]
  rules := []

/-- CMP_FLT (08). -/
def regCmpFlt : RegDesc where
  base := 0x8108
  count := 1
  stride := 4
  words := 1
  rw := 0x0
  rwl := 0x0
  st := 0x0
  wo := 0x0
  sticky := 0x0
  live := 0x0
  reset := [0x0]
  rules := []

/-- CMP_FLT_SEEN (08). -/
def regCmpFltSeen : RegDesc where
  base := 0x810C
  count := 1
  stride := 4
  words := 1
  rw := 0x0
  rwl := 0x0
  st := 0x3FF
  wo := 0x0
  sticky := 0x0
  live := 0x3FF
  reset := [0x0]
  rules := []

/-- CMP_COUNT_n (08). -/
def regCmpCount : RegDesc where
  base := 0x8180
  count := 20
  stride := 4
  words := 1
  rw := 0xFFFF
  rwl := 0x0
  st := 0x0
  wo := 0x0
  sticky := 0x0
  live := 0xFFFF
  reset := [0x0]
  rules := []

/-- SUP_POLICY_m (09). -/
def regSupPolicy : RegDesc where
  base := 0xE000
  count := 2
  stride := 4
  words := 1
  rw := 0x0
  rwl := 0x3
  st := 0x0
  wo := 0x0
  sticky := 0x0
  live := 0x0
  reset := [0x2]
  rules := [.nat 1 0 0 2]

/-- SUP_FAULT_STAT (09). -/
def regSupFaultStat : RegDesc where
  base := 0xE008
  count := 1
  stride := 4
  words := 1
  rw := 0x0
  rwl := 0x0
  st := 0x0
  wo := 0x0
  sticky := 0x0
  live := 0x0
  reset := [0x0]
  rules := []

/-- SUP_PL_CFG (09). -/
def regSupPlCfg : RegDesc where
  base := 0xE010
  count := 1
  stride := 4
  words := 1
  rw := 0xFFFFFFFF
  rwl := 0x0
  st := 0x0
  wo := 0x0
  sticky := 0x0
  live := 0x0
  reset := [0x20041A14]
  rules := [.nat 31 24 1 255, .nat 23 16 1 255]

/-- SUP_FE_CFG_m (09). -/
def regSupFeCfg : RegDesc where
  base := 0xE018
  count := 2
  stride := 4
  words := 1
  rw := 0xFFFFFFFF
  rwl := 0x0
  st := 0x0
  wo := 0x0
  sticky := 0x0
  live := 0x0
  reset := [0x140A0032]
  rules := [.nat 23 16 1 255]

/-- SUP_TRIP_CFG (09). -/
def regSupTripCfg : RegDesc where
  base := 0xE020
  count := 1
  stride := 4
  words := 1
  rw := 0xFF
  rwl := 0x0
  st := 0x0
  wo := 0x0
  sticky := 0x0
  live := 0x0
  reset := [0x14]
  rules := [.nat 7 0 1 255]

/-- SUP_VDC_LVL_x_k (09). -/
def regSupVdcLvl0 : RegDesc where
  base := 0xE040
  count := 5
  stride := 4
  words := 1
  rw := 0x0
  rwl := 0xFFFFFFFF
  st := 0x0
  wo := 0x0
  sticky := 0x0
  live := 0x0
  reset := [0x0]
  rules := [.f32 (10) (10000)]

/-- SUP_VDC_LVL_x_k (09). -/
def regSupVdcLvl1 : RegDesc where
  base := 0xE060
  count := 5
  stride := 4
  words := 1
  rw := 0x0
  rwl := 0xFFFFFFFF
  st := 0x0
  wo := 0x0
  sticky := 0x0
  live := 0x0
  reset := [0x0]
  rules := [.f32 (10) (10000)]

/-- SUP_VDC_CFG_x (09). -/
def regSupVdcCfg : RegDesc where
  base := 0xE054
  count := 2
  stride := 32
  words := 1
  rw := 0xFFFFFFFF
  rwl := 0x0
  st := 0x0
  wo := 0x0
  sticky := 0x0
  live := 0x0
  reset := [0x140014]
  rules := [.nat 31 16 1 10000, .nat 15 0 1 10000]

/-- SUP_CHP_CFG_c (09). -/
def regSupChpCfg : RegDesc where
  base := 0xE080
  count := 2
  stride := 16
  words := 1
  rw := 0xF00
  rwl := 0xFFFF0001
  st := 0x0
  wo := 0x0
  sticky := 0x0
  live := 0x0
  reset := [0x320300, 0x320301]
  rules := [.nat 31 16 20 1000, .nat 11 8 1 15]

/-- SUP_CHP_IMIN_c (09). -/
def regSupChpImin : RegDesc where
  base := 0xE084
  count := 2
  stride := 16
  words := 1
  rw := 0xFFFFFFFF
  rwl := 0x0
  st := 0x0
  wo := 0x0
  sticky := 0x0
  live := 0x0
  reset := [0x41A00000]
  rules := [.f32 (1 / 10) (2000)]

/-- SUP_CHP_STAT_c (09). -/
def regSupChpStat : RegDesc where
  base := 0xE088
  count := 2
  stride := 16
  words := 1
  rw := 0xFFFF0000
  rwl := 0x0
  st := 0x0
  wo := 0x0
  sticky := 0x0
  live := 0xFFFF0000
  reset := [0x0]
  rules := []

/-- SUP_HIST_n (09). -/
def regSupHist : RegDesc where
  base := 0xE100
  count := 16
  stride := 16
  words := 4
  rw := 0x0
  rwl := 0x0
  st := 0x0
  wo := 0x0
  sticky := 0x0
  live := 0x0
  reset := [0x0]
  rules := []

/-- GLK_CFG_g (09). -/
def regGlkCfg : RegDesc where
  base := 0x14000
  count := 8
  stride := 4
  words := 1
  rw := 0xFFFFFF00
  rwl := 0x1
  st := 0x0
  wo := 0x0
  sticky := 0x0
  live := 0x0
  reset := [0x649601]
  rules := [.nat 15 8 40 200]

/-- GLK_STAT_g (09). -/
def regGlkStat : RegDesc where
  base := 0x14020
  count := 8
  stride := 4
  words := 1
  rw := 0xFFFF0000
  rwl := 0x0
  st := 0x8
  wo := 0x0
  sticky := 0x8
  live := 0xFFFF0000
  reset := [0x0]
  rules := []

/-- GLK_CMD_g (09). -/
def regGlkCmd : RegDesc where
  base := 0x14040
  count := 8
  stride := 4
  words := 1
  rw := 0xFFFFFF00
  rwl := 0x0
  st := 0x0
  wo := 0x1
  sticky := 0x0
  live := 0x0
  reset := [0x0]
  rules := []

/-- GLK_TLM_g (09). -/
def regGlkTlm : RegDesc where
  base := 0x14080
  count := 8
  stride := 8
  words := 2
  rw := 0x0
  rwl := 0x0
  st := 0x0
  wo := 0x0
  sticky := 0x0
  live := 0x0
  reset := [0x0]
  rules := []

/-- THM_CFG (10). -/
def regThmCfg : RegDesc where
  base := 0x10000
  count := 1
  stride := 4
  words := 1
  rw := 0xFFFF01
  rwl := 0x0
  st := 0x0
  wo := 0x0
  sticky := 0x0
  live := 0x0
  reset := [0x3E800]
  rules := [.nat 23 8 10 6000]

/-- THM_LVL_k (10). -/
def regThmLvl : RegDesc where
  base := 0x10010
  count := 5
  stride := 4
  words := 1
  rw := 0x0
  rwl := 0xFF
  st := 0x0
  wo := 0x0
  sticky := 0x0
  live := 0x0
  reset := [0x82, 0x87, 0x91, 0x96, 0xA0]
  rules := []

/-- THM_STAT (10). -/
def regThmStat : RegDesc where
  base := 0x10030
  count := 1
  stride := 4
  words := 1
  rw := 0x0
  rwl := 0x0
  st := 0x0
  wo := 0x0
  sticky := 0x0
  live := 0x0
  reset := [0x0]
  rules := []

/-- THM_ZONE_z (10). -/
def regThmZone : RegDesc where
  base := 0x10040
  count := 8
  stride := 4
  words := 1
  rw := 0x0
  rwl := 0x0
  st := 0x0
  wo := 0x0
  sticky := 0x0
  live := 0x0
  reset := [0x0]
  rules := []

/-- THM_SENS_s (10). -/
def regThmSens : RegDesc where
  base := 0x10080
  count := 16
  stride := 4
  words := 1
  rw := 0x0
  rwl := 0x0
  st := 0x0
  wo := 0x0
  sticky := 0x0
  live := 0x0
  reset := [0x0]
  rules := []

/-- YPL_CFG (11). -/
def regYplCfg : RegDesc where
  base := 0x13000
  count := 1
  stride := 4
  words := 1
  rw := 0xFFF000F0
  rwl := 0x1F00
  st := 0x0
  wo := 0x0
  sticky := 0x0
  live := 0x0
  reset := [0x20801450]
  rules := [.nat 31 24 4 120, .nat 23 20 1 15, .nat 12 8 12 23, .nat 7 4 0 15]

/-- YPL_STAT (11). -/
def regYplStat : RegDesc where
  base := 0x13004
  count := 1
  stride := 4
  words := 1
  rw := 0x0
  rwl := 0x0
  st := 0x0
  wo := 0x0
  sticky := 0x0
  live := 0x0
  reset := [0x0]
  rules := []

/-- YPL_EPOCH (11). -/
def regYplEpoch : RegDesc where
  base := 0x13008
  count := 1
  stride := 4
  words := 1
  rw := 0x0
  rwl := 0x0
  st := 0x0
  wo := 0x0
  sticky := 0x0
  live := 0x0
  reset := [0x0]
  rules := []

/-- YPL_PARTNER (11). -/
def regYplPartner : RegDesc where
  base := 0x1300C
  count := 1
  stride := 4
  words := 1
  rw := 0x0
  rwl := 0x0
  st := 0x0
  wo := 0x0
  sticky := 0x0
  live := 0x0
  reset := [0x0]
  rules := []

/-- YPL_COUNT (11). -/
def regYplCount : RegDesc where
  base := 0x13010
  count := 1
  stride := 4
  words := 1
  rw := 0xFFFFFFFF
  rwl := 0x0
  st := 0x0
  wo := 0x0
  sticky := 0x0
  live := 0xFFFFFFFF
  reset := [0x0]
  rules := []

/-- YPL_ALIGN (11). -/
def regYplAlign : RegDesc where
  base := 0x13014
  count := 1
  stride := 4
  words := 1
  rw := 0x0
  rwl := 0x0
  st := 0x0
  wo := 0x0
  sticky := 0x0
  live := 0x0
  reset := [0x0]
  rules := []

/-- YPL_TAKEOVER_SEQ_n (11). -/
def regYplTakeoverSeq : RegDesc where
  base := 0x13040
  count := 16
  stride := 4
  words := 1
  rw := 0x0
  rwl := 0x0
  st := 0x0
  wo := 0x0
  sticky := 0x0
  live := 0x0
  reset := [0x0]
  rules := []

/-- GLB_TORN (12). -/
def regGlbTorn : RegDesc where
  base := 0x18
  count := 1
  stride := 4
  words := 1
  rw := 0x0
  rwl := 0x0
  st := 0x7
  wo := 0x0
  sticky := 0x7
  live := 0x0
  reset := [0x0]
  rules := []

/-- RNG_BASE_i (12). -/
def regRngBase : RegDesc where
  base := 0x2000
  count := 48
  stride := 32
  words := 2
  rw := 0xFFFFFFFFFFFFF000
  rwl := 0x0
  st := 0x0
  wo := 0x0
  sticky := 0x0
  live := 0x0
  reset := [0x0]
  rules := []

/-- RNG_CFG_i (12). -/
def regRngCfg : RegDesc where
  base := 0x2008
  count := 48
  stride := 32
  words := 1
  rw := 0x7FF1
  rwl := 0x0
  st := 0x0
  wo := 0x80000000
  sticky := 0x0
  live := 0x0
  reset := [0x40]
  rules := [.nat 8 4 4 16]

/-- RNG_HEAD_i (12). -/
def regRngHead : RegDesc where
  base := 0x200C
  count := 48
  stride := 32
  words := 1
  rw := 0x0
  rwl := 0x0
  st := 0x0
  wo := 0x0
  sticky := 0x0
  live := 0x0
  reset := [0x0]
  rules := []

/-- RNG_TAIL_i (12). -/
def regRngTail : RegDesc where
  base := 0x2010
  count := 48
  stride := 32
  words := 1
  rw := 0x0
  rwl := 0x0
  st := 0x0
  wo := 0x0
  sticky := 0x0
  live := 0x0
  reset := [0x0]
  rules := []

/-- RNG_STAT_i (12). -/
def regRngStat : RegDesc where
  base := 0x2014
  count := 48
  stride := 32
  words := 1
  rw := 0x0
  rwl := 0x0
  st := 0x0
  wo := 0x0
  sticky := 0x0
  live := 0x0
  reset := [0x0]
  rules := []

/-- RNG_MOD_i (12). -/
def regRngMod : RegDesc where
  base := 0x2018
  count := 48
  stride := 32
  words := 1
  rw := 0xFFFFFFFF
  rwl := 0x0
  st := 0x0
  wo := 0x0
  sticky := 0x0
  live := 0x0
  reset := [0x1]
  rules := []

/-- RNG_SEQ_i (12). -/
def regRngSeq : RegDesc where
  base := 0x201C
  count := 48
  stride := 32
  words := 1
  rw := 0xFFFFFFFF
  rwl := 0x0
  st := 0x0
  wo := 0x0
  sticky := 0x0
  live := 0x0
  reset := [0x1]
  rules := []

/-- RNG_EVT_ROUTE (12). -/
def regRngEvtRoute : RegDesc where
  base := 0x2600
  count := 1
  stride := 8
  words := 2
  rw := 0xFFFFFFFFFFF0
  rwl := 0x0
  st := 0x0
  wo := 0x0
  sticky := 0x0
  live := 0x0
  reset := [0x111111111110]
  rules := []

/-- RNG_EVT_STAT (12). -/
def regRngEvtStat : RegDesc where
  base := 0x2608
  count := 1
  stride := 4
  words := 1
  rw := 0xFFFF0000
  rwl := 0x0
  st := 0x0
  wo := 0x0
  sticky := 0x0
  live := 0xFFFF0000
  reset := [0x0]
  rules := []

/-- GLB_BOOT (12). -/
def regGlbBoot : RegDesc where
  base := 0x30
  count := 1
  stride := 4
  words := 1
  rw := 0x0
  rwl := 0x0
  st := 0x8
  wo := 0x1
  sticky := 0x8
  live := 0x0
  reset := [0x0]
  rules := []

/-- GLB_BOOT_LEN (12). -/
def regGlbBootLen : RegDesc where
  base := 0x34
  count := 1
  stride := 4
  words := 1
  rw := 0x3FFFFF
  rwl := 0x0
  st := 0x0
  wo := 0x0
  sticky := 0x0
  live := 0x0
  reset := [0x0]
  rules := [.nat 21 0 4 2097152]

/-- SVC_STAT (12). -/
def regSvcStat : RegDesc where
  base := 0x16000
  count := 1
  stride := 4
  words := 1
  rw := 0x0
  rwl := 0x0
  st := 0x3
  wo := 0x0
  sticky := 0x3
  live := 0x0
  reset := [0x0]
  rules := []

/-- SVC_IRQ (12). -/
def regSvcIrq : RegDesc where
  base := 0x16004
  count := 1
  stride := 4
  words := 1
  rw := 0x0
  rwl := 0x0
  st := 0x3F
  wo := 0x0
  sticky := 0x0
  live := 0x3F
  reset := [0x0]
  rules := []

/-- SVC_IRQ_EN (12). -/
def regSvcIrqEn : RegDesc where
  base := 0x16008
  count := 1
  stride := 4
  words := 1
  rw := 0x3F
  rwl := 0x0
  st := 0x0
  wo := 0x0
  sticky := 0x0
  live := 0x0
  reset := [0x3F]
  rules := []

/-- SVC_WD_CFG (12). -/
def regSvcWdCfg : RegDesc where
  base := 0x1600C
  count := 1
  stride := 4
  words := 1
  rw := 0xFF03
  rwl := 0x0
  st := 0x0
  wo := 0x0
  sticky := 0x0
  live := 0x0
  reset := [0x6400]
  rules := [.nat 15 8 1 255]

/-- SVC_WD_KICK (12). -/
def regSvcWdKick : RegDesc where
  base := 0x16010
  count := 1
  stride := 4
  words := 1
  rw := 0x0
  rwl := 0x0
  st := 0x0
  wo := 0xFF
  sticky := 0x0
  live := 0x0
  reset := [0x0]
  rules := []

/-- SVC_SAFE (12). -/
def regSvcSafe : RegDesc where
  base := 0x16014
  count := 1
  stride := 4
  words := 1
  rw := 0x0
  rwl := 0x0
  st := 0x0
  wo := 0xFF0F
  sticky := 0x0
  live := 0x0
  reset := [0x0]
  rules := []

/-- SVC_ATTEST (12). -/
def regSvcAttest : RegDesc where
  base := 0x16018
  count := 1
  stride := 4
  words := 1
  rw := 0x0
  rwl := 0x0
  st := 0x0
  wo := 0x1
  sticky := 0x0
  live := 0x0
  reset := [0x0]
  rules := []

/-- SVC_NONCE_j (12). -/
def regSvcNonce : RegDesc where
  base := 0x16040
  count := 8
  stride := 4
  words := 1
  rw := 0xFFFFFFFF
  rwl := 0x0
  st := 0x0
  wo := 0x0
  sticky := 0x0
  live := 0x0
  reset := [0x0]
  rules := []

/-- RNG_LOP_k (13). -/
def regRngLop : RegDesc where
  base := 0x2700
  count := 8
  stride := 8
  words := 2
  rw := 0x0
  rwl := 0x0
  st := 0x0
  wo := 0x0
  sticky := 0x0
  live := 0x0
  reset := [0x0]
  rules := []

/-- TRC_CTL (14). -/
def regTrcCtl : RegDesc where
  base := 0xF000
  count := 1
  stride := 4
  words := 1
  rw := 0x1
  rwl := 0x0
  st := 0x0
  wo := 0x0
  sticky := 0x0
  live := 0x0
  reset := [0x0]
  rules := []

/-- TRC_STAT (14). -/
def regTrcStat : RegDesc where
  base := 0xF004
  count := 1
  stride := 4
  words := 1
  rw := 0x0
  rwl := 0x0
  st := 0x0
  wo := 0x0
  sticky := 0x0
  live := 0x0
  reset := [0x0]
  rules := []

/-- TRC_TQ_STAT_q (14). -/
def regTrcTqStat : RegDesc where
  base := 0xF010
  count := 4
  stride := 4
  words := 1
  rw := 0x0
  rwl := 0x0
  st := 0x0
  wo := 0x0
  sticky := 0x0
  live := 0x0
  reset := [0x0]
  rules := []

/-- TRC_RATE (14). -/
def regTrcRate : RegDesc where
  base := 0xF020
  count := 1
  stride := 4
  words := 1
  rw := 0x0
  rwl := 0x0
  st := 0x0
  wo := 0x0
  sticky := 0x0
  live := 0x0
  reset := [0x0]
  rules := []

/-- TRC_LOST (14). -/
def regTrcLost : RegDesc where
  base := 0xF024
  count := 1
  stride := 4
  words := 1
  rw := 0xFFFFFFFF
  rwl := 0x0
  st := 0x0
  wo := 0x0
  sticky := 0x0
  live := 0xFFFFFFFF
  reset := [0x0]
  rules := []

/-- TRC_CFG_c (14). -/
def regTrcCfg : RegDesc where
  base := 0xF100
  count := 16
  stride := 64
  words := 1
  rw := 0xFF00FFFF
  rwl := 0x0
  st := 0x0
  wo := 0x0
  sticky := 0x0
  live := 0x0
  reset := [0x1]
  rules := [.nat 27 26 0 2, .nat 15 0 1 65535]

/-- TRC_SRC_c (14). -/
def regTrcSrc : RegDesc where
  base := 0xF104
  count := 16
  stride := 64
  words := 1
  rw := 0x1FFFF
  rwl := 0x0
  st := 0x0
  wo := 0x0
  sticky := 0x0
  live := 0x0
  reset := [0x0]
  rules := []

/-- TRC_TRIG_c (14). -/
def regTrcTrig : RegDesc where
  base := 0xF108
  count := 16
  stride := 64
  words := 1
  rw := 0xFFFFFCFF
  rwl := 0x0
  st := 0x0
  wo := 0x0
  sticky := 0x0
  live := 0x0
  reset := [0x0]
  rules := [.nat 31 28 0 2, .nat 27 25 0 3]

/-- TRC_TNODE_c (14). -/
def regTrcTnode : RegDesc where
  base := 0xF10C
  count := 16
  stride := 64
  words := 1
  rw := 0x1FFFF
  rwl := 0x0
  st := 0x0
  wo := 0x0
  sticky := 0x0
  live := 0x0
  reset := [0x0]
  rules := []

/-- TRC_THR_c (14). -/
def regTrcThr : RegDesc where
  base := 0xF110
  count := 16
  stride := 64
  words := 1
  rw := 0xFFFFFFFF
  rwl := 0x0
  st := 0x0
  wo := 0x0
  sticky := 0x0
  live := 0x0
  reset := [0x0]
  rules := []

/-- TRC_HYST_c (14). -/
def regTrcHyst : RegDesc where
  base := 0xF114
  count := 16
  stride := 64
  words := 1
  rw := 0xFFFFFFFF
  rwl := 0x0
  st := 0x0
  wo := 0x0
  sticky := 0x0
  live := 0x0
  reset := [0x0]
  rules := []

/-- TRC_DEPTH_c (14). -/
def regTrcDepth : RegDesc where
  base := 0xF118
  count := 16
  stride := 64
  words := 1
  rw := 0xFFFFFFFF
  rwl := 0x0
  st := 0x0
  wo := 0x0
  sticky := 0x0
  live := 0x0
  reset := [0x0]
  rules := []

/-- TRC_BUF_c (14). -/
def regTrcBuf : RegDesc where
  base := 0xF11C
  count := 16
  stride := 64
  words := 1
  rw := 0xFFFFFFFF
  rwl := 0x0
  st := 0x0
  wo := 0x0
  sticky := 0x0
  live := 0x0
  reset := [0x0]
  rules := [.nat 31 16 1 32768, .nat 15 0 0 32767]

/-- TRC_STATE_c (14). -/
def regTrcState : RegDesc where
  base := 0xF120
  count := 16
  stride := 64
  words := 1
  rw := 0x0
  rwl := 0x0
  st := 0x0
  wo := 0x0
  sticky := 0x0
  live := 0x0
  reset := [0x0]
  rules := []

/-- TRC_TTIME_c (14). -/
def regTrcTtime : RegDesc where
  base := 0xF128
  count := 16
  stride := 64
  words := 2
  rw := 0x0
  rwl := 0x0
  st := 0x0
  wo := 0x0
  sticky := 0x0
  live := 0x0
  reset := [0x0]
  rules := []

/-- TRC_COUNT_c (14). -/
def regTrcCount : RegDesc where
  base := 0xF130
  count := 16
  stride := 64
  words := 1
  rw := 0xFFFFFFFF
  rwl := 0x0
  st := 0x0
  wo := 0x0
  sticky := 0x0
  live := 0xFFFFFFFF
  reset := [0x0]
  rules := []

/-- OTP_STAT (15). -/
def regOtpStat : RegDesc where
  base := 0x11000
  count := 1
  stride := 4
  words := 1
  rw := 0x0
  rwl := 0x0
  st := 0x0
  wo := 0x0
  sticky := 0x0
  live := 0x0
  reset := [0x0]
  rules := []

/-- OTP_ADDR (15). -/
def regOtpAddr : RegDesc where
  base := 0x11004
  count := 1
  stride := 4
  words := 1
  rw := 0x3FF
  rwl := 0x0
  st := 0x0
  wo := 0x0
  sticky := 0x0
  live := 0x0
  reset := [0x0]
  rules := []

/-- OTP_DATA (15). -/
def regOtpData : RegDesc where
  base := 0x11008
  count := 1
  stride := 4
  words := 1
  rw := 0xFFFFFFFF
  rwl := 0x0
  st := 0x0
  wo := 0x0
  sticky := 0x0
  live := 0x0
  reset := [0x0]
  rules := []

/-- OTP_CHECK (15). -/
def regOtpCheck : RegDesc where
  base := 0x1100C
  count := 1
  stride := 4
  words := 1
  rw := 0x0
  rwl := 0x0
  st := 0x0
  wo := 0x0
  sticky := 0x0
  live := 0x0
  reset := [0x0]
  rules := []

/-- OTP_CMD (15). -/
def regOtpCmd : RegDesc where
  base := 0x11010
  count := 1
  stride := 4
  words := 1
  rw := 0x0
  rwl := 0x0
  st := 0x0
  wo := 0x3
  sticky := 0x0
  live := 0x0
  reset := [0x0]
  rules := []

/-- OTP_LAST (15). -/
def regOtpLast : RegDesc where
  base := 0x11014
  count := 1
  stride := 4
  words := 1
  rw := 0x0
  rwl := 0x0
  st := 0x0
  wo := 0x0
  sticky := 0x0
  live := 0x0
  reset := [0x0]
  rules := []

/-- OTP_LOCKS (15). -/
def regOtpLocks : RegDesc where
  base := 0x11018
  count := 1
  stride := 4
  words := 1
  rw := 0x0
  rwl := 0x0
  st := 0x0
  wo := 0x0
  sticky := 0x0
  live := 0x0
  reset := [0x0]
  rules := []

/-- OTP_GLEAN (15). -/
def regOtpGlean : RegDesc where
  base := 0x1101C
  count := 1
  stride := 4
  words := 1
  rw := 0x0
  rwl := 0x0
  st := 0x0
  wo := 0x0
  sticky := 0x0
  live := 0x0
  reset := [0x0]
  rules := []

/-- OTP_REGION_r (15). -/
def regOtpRegion : RegDesc where
  base := 0x11040
  count := 16
  stride := 4
  words := 1
  rw := 0x0
  rwl := 0x0
  st := 0x0
  wo := 0x0
  sticky := 0x0
  live := 0x0
  reset := [0x0]
  rules := []

/-- OTP_LOG_n (15). -/
def regOtpLog : RegDesc where
  base := 0x11080
  count := 8
  stride := 8
  words := 2
  rw := 0x0
  rwl := 0x0
  st := 0x0
  wo := 0x0
  sticky := 0x0
  live := 0x0
  reset := [0x0]
  rules := []

/-- MSR_STAT (16). -/
def regMsrStat : RegDesc where
  base := 0x12000
  count := 1
  stride := 4
  words := 1
  rw := 0x0
  rwl := 0x0
  st := 0x0
  wo := 0x0
  sticky := 0x0
  live := 0x0
  reset := [0x0]
  rules := []

/-- MSR_IMAGE (16). -/
def regMsrImage : RegDesc where
  base := 0x12004
  count := 1
  stride := 4
  words := 1
  rw := 0x0
  rwl := 0x0
  st := 0x0
  wo := 0x0
  sticky := 0x0
  live := 0x0
  reset := [0x0]
  rules := []

/-- MSR_COUNT (16). -/
def regMsrCount : RegDesc where
  base := 0x12008
  count := 1
  stride := 4
  words := 1
  rw := 0x0
  rwl := 0x0
  st := 0x0
  wo := 0x0
  sticky := 0x0
  live := 0x0
  reset := [0x0]
  rules := []

/-- MSR_ATTEST_STAT (16). -/
def regMsrAttestStat : RegDesc where
  base := 0x1200C
  count := 1
  stride := 4
  words := 1
  rw := 0x0
  rwl := 0x0
  st := 0x0
  wo := 0x0
  sticky := 0x0
  live := 0x0
  reset := [0x0]
  rules := []

/-- MSR_KEY_FP_j (16). -/
def regMsrKeyFp : RegDesc where
  base := 0x12010
  count := 4
  stride := 4
  words := 1
  rw := 0x0
  rwl := 0x0
  st := 0x0
  wo := 0x0
  sticky := 0x0
  live := 0x0
  reset := [0x0]
  rules := []

/-- MSR_FW_DIGEST_j (16). -/
def regMsrFwDigest : RegDesc where
  base := 0x12040
  count := 12
  stride := 4
  words := 1
  rw := 0x0
  rwl := 0x0
  st := 0x0
  wo := 0x0
  sticky := 0x0
  live := 0x0
  reset := [0x0]
  rules := []

/-- MSR_OTP_DIGEST_j (16). -/
def regMsrOtpDigest : RegDesc where
  base := 0x12080
  count := 12
  stride := 4
  words := 1
  rw := 0x0
  rwl := 0x0
  st := 0x0
  wo := 0x0
  sticky := 0x0
  live := 0x0
  reset := [0x0]
  rules := []

/-- MSR_LOG_INFO_n (16). -/
def regMsrLogInfo : RegDesc where
  base := 0x120C0
  count := 8
  stride := 4
  words := 1
  rw := 0x0
  rwl := 0x0
  st := 0x0
  wo := 0x0
  sticky := 0x0
  live := 0x0
  reset := [0x0]
  rules := []

/-- MSR_LOG_TIME_n (16). -/
def regMsrLogTime : RegDesc where
  base := 0x12100
  count := 8
  stride := 8
  words := 2
  rw := 0x0
  rwl := 0x0
  st := 0x0
  wo := 0x0
  sticky := 0x0
  live := 0x0
  reset := [0x0]
  rules := []

/-- GLB_RESET (17). -/
def regGlbReset : RegDesc where
  base := 0x38
  count := 1
  stride := 4
  words := 1
  rw := 0x0
  rwl := 0x0
  st := 0x0
  wo := 0xFFFF
  sticky := 0x0
  live := 0x0
  reset := [0x0]
  rules := []

/-- PCR_RAIL_STAT (17). -/
def regPcrRailStat : RegDesc where
  base := 0x1000
  count := 1
  stride := 4
  words := 1
  rw := 0x0
  rwl := 0x0
  st := 0x0
  wo := 0x0
  sticky := 0x0
  live := 0x0
  reset := [0x0]
  rules := []

/-- PCR_SUPPLY_CFG (17). -/
def regPcrSupplyCfg : RegDesc where
  base := 0x1004
  count := 1
  stride := 4
  words := 1
  rw := 0xFF01FFFF
  rwl := 0x0
  st := 0x0
  wo := 0x0
  sticky := 0x0
  live := 0x0
  reset := [0x640000C8]
  rules := [.nat 31 24 1 255, .nat 15 0 20 10000]

/-- PCR_DIP (17). -/
def regPcrDip : RegDesc where
  base := 0x1008
  count := 1
  stride := 4
  words := 1
  rw := 0x0
  rwl := 0x0
  st := 0xF
  wo := 0x0
  sticky := 0xF
  live := 0x0
  reset := [0x0]
  rules := []

/-- PCR_RESET_CAUSE (17). -/
def regPcrResetCause : RegDesc where
  base := 0x100C
  count := 1
  stride := 4
  words := 1
  rw := 0x0
  rwl := 0x0
  st := 0x3F
  wo := 0x0
  sticky := 0x3F
  live := 0x0
  reset := [0x1]
  rules := []

/-- PCR_CLK_STAT (17). -/
def regPcrClkStat : RegDesc where
  base := 0x1010
  count := 1
  stride := 4
  words := 1
  rw := 0x0
  rwl := 0x0
  st := 0x0
  wo := 0x0
  sticky := 0x0
  live := 0x0
  reset := [0x7]
  rules := []

/-- PCR_CLK_MGT (17). -/
def regPcrClkMgt : RegDesc where
  base := 0x1014
  count := 1
  stride := 4
  words := 1
  rw := 0x0
  rwl := 0x0
  st := 0x0
  wo := 0x0
  sticky := 0x0
  live := 0x0
  reset := [0x0]
  rules := []

/-- PCR_CLK_CTL (17). -/
def regPcrClkCtl : RegDesc where
  base := 0x1018
  count := 1
  stride := 4
  words := 1
  rw := 0x0
  rwl := 0x0
  st := 0x0
  wo := 0x0
  sticky := 0x0
  live := 0x0
  reset := [0x0]
  rules := []

/-- PCR_RETAIN (17). -/
def regPcrRetain : RegDesc where
  base := 0x1020
  count := 1
  stride := 4
  words := 1
  rw := 0x1
  rwl := 0x0
  st := 0x0
  wo := 0x0
  sticky := 0x0
  live := 0x0
  reset := [0x0]
  rules := []

/-- PCR_PWR_CTL (17). -/
def regPcrPwrCtl : RegDesc where
  base := 0x1024
  count := 1
  stride := 4
  words := 1
  rw := 0x4
  rwl := 0x0
  st := 0x0
  wo := 0x1
  sticky := 0x0
  live := 0x0
  reset := [0x4]
  rules := []

/-- PCR_PWR_STAT (17). -/
def regPcrPwrStat : RegDesc where
  base := 0x1028
  count := 1
  stride := 4
  words := 1
  rw := 0x0
  rwl := 0x0
  st := 0x0
  wo := 0x0
  sticky := 0x0
  live := 0x0
  reset := [0x0]
  rules := []

/-- PCR_WAKE_TIMER (17). -/
def regPcrWakeTimer : RegDesc where
  base := 0x102C
  count := 1
  stride := 4
  words := 1
  rw := 0xFFFFFFFF
  rwl := 0x0
  st := 0x0
  wo := 0x0
  sticky := 0x0
  live := 0x0
  reset := [0x0]
  rules := []

/-- SEN_PIN_CFG (19). -/
def regSenPinCfg : RegDesc where
  base := 0x17000
  count := 1
  stride := 4
  words := 1
  rw := 0x3
  rwl := 0x0
  st := 0x0
  wo := 0x0
  sticky := 0x0
  live := 0x0
  reset := [0x3]
  rules := []

/-- LTS_CFG_k (21). -/
def regLtsCfg : RegDesc where
  base := 0x15000
  count := 13
  stride := 4
  words := 1
  rw := 0x1
  rwl := 0x0
  st := 0x0
  wo := 0x0
  sticky := 0x0
  live := 0x0
  reset := [0x0]
  rules := []

/-- LTS_BITS_k (21). -/
def regLtsBits : RegDesc where
  base := 0x15040
  count := 13
  stride := 8
  words := 2
  rw := 0x0
  rwl := 0x0
  st := 0x0
  wo := 0x0
  sticky := 0x0
  live := 0x0
  reset := [0x0]
  rules := []

/-- LTS_ERRORS_k (21). -/
def regLtsErrors : RegDesc where
  base := 0x150C0
  count := 13
  stride := 4
  words := 1
  rw := 0x0
  rwl := 0x0
  st := 0x0
  wo := 0x0
  sticky := 0x0
  live := 0x0
  reset := [0x0]
  rules := []

/-- LTS_PCIE_CTL (21). -/
def regLtsPcieCtl : RegDesc where
  base := 0x15100
  count := 1
  stride := 4
  words := 1
  rw := 0xFFFF0030
  rwl := 0x0
  st := 0x0
  wo := 0x1
  sticky := 0x0
  live := 0x0
  reset := [0x3E80000]
  rules := [.nat 31 16 1 65535]

/-- LTS_STAT (21). -/
def regLtsStat : RegDesc where
  base := 0x15104
  count := 1
  stride := 4
  words := 1
  rw := 0x0
  rwl := 0x0
  st := 0x0
  wo := 0x0
  sticky := 0x0
  live := 0x0
  reset := [0x0]
  rules := []

/-- MSX_ENTRY: the MSI-X table, 32 entries of four words (R329, R501). A vector-control word is masked at reset, as the PCI Express Base Specification has it. PRESUMED, unsafe (log 12). -/
def regMsxEntry : RegDesc where
  base := 0x3000
  count := 128
  stride := 4
  words := 1
  rw := 0xFFFFFFFF
  rwl := 0
  st := 0
  wo := 0
  sticky := 0
  live := 0
  reset := [0, 0, 0, 1, 0, 0, 0, 1, 0, 0, 0, 1, 0, 0, 0, 1, 0, 0, 0, 1, 0, 0, 0, 1, 0, 0, 0, 1, 0, 0, 0, 1, 0, 0, 0, 1, 0, 0, 0, 1, 0, 0, 0, 1, 0, 0, 0, 1, 0, 0, 0, 1, 0, 0, 0, 1, 0, 0, 0, 1, 0, 0, 0, 1, 0, 0, 0, 1, 0, 0, 0, 1, 0, 0, 0, 1, 0, 0, 0, 1, 0, 0, 0, 1, 0, 0, 0, 1, 0, 0, 0, 1, 0, 0, 0, 1, 0, 0, 0, 1, 0, 0, 0, 1, 0, 0, 0, 1, 0, 0, 0, 1, 0, 0, 0, 1, 0, 0, 0, 1, 0, 0, 0, 1, 0, 0, 0, 1]
  rules := []

/-- MSX_PBA: the pending-bit array (R329). -/
def regMsxPba : RegDesc where
  base := 0x3800
  count := 1
  stride := 8
  words := 2
  rw := 0
  rwl := 0
  st := 0
  wo := 0
  sticky := 0
  live := 0
  reset := [0]
  rules := []

/-- Part 0 of the register table. -/
def regTable0 : List RegDesc :=
  [regPacFpCfg, regPacSpCfg, regPacTime, regPacFpIndex,
   regPacStatus, regGlbHealth, regGlbId, regGlbSerial,
   regGlbStraps, regGlbStatus, regComMachCfg, regComFeMax,
   regComZcCfg, regComZcHyst, regComDemagCfg, regComDemagI,
   regComVphGain, regComSector, regComCount, regComAdv,
   regEngDecelRate, regEngVdcHold, regEngDecelCfg, regEngDirStat]

/-- Part 1 of the register table. -/
def regTable1 : List RegDesc :=
  [regComTrkCfg, regComTrkGain, regComSlFmin, regComSensCfg,
   regComSensOfs, regComEncLines, regComStartCfg, regComCatchVmin,
   regComProbeCfg, regComProbeImax, regComStepI, regComStepAcc,
   regComStepCfg, regComAscCfg, regComTrkAngle, regComTrkSpeed,
   regComTrkStat, regComTrkCount, regEngRegCfg, regEngScStat,
   regEngScCount, regEngMcStat, regEngSrcCfg, regEngAspGain]

/-- Part 2 of the register table. -/
def regTable2 : List RegDesc :=
  [regEngAspOfs, regEngAspRange, regEngPspGain, regEngPspOfs,
   regEngXchkTol, regPgnCtl, regPgnStat, regPgnDirPeriod,
   regPgnDirMin, regPgnDirCommit, regPgnDirStat, regPgnSgCfg,
   regPgnSgStat, regPgnSgCount, regPgnLguard, regPgnChStat,
   regPgnDirOn, regPgnDirOff, regPgnPgkCfg, regPgnPgkMin,
   regPgnPgkStat, regPgnPgkCount, regAcqCtl, regAcqStat]

/-- Part 3 of the register table. -/
def regTable3 : List RegDesc :=
  [regAcqCalTag, regAcqCalStat, regAcqSleep, regAcqBudget,
   regAcqIsMap, regAcqIsScale, regAcqScale, regAcqCalOfs,
   regAcqCalGain, regAcqCalSkew, regAcqTrk, regAcqPairStat,
   regAcqHkCfg, regAcqStreamCfg, regAcqStreamStat, regAcqLatest,
   regAcqLatestHk, regCmpWinCfg, regCmpRoute, regCmpLevel,
   regCmpSeen, regCmpFlt, regCmpFltSeen, regCmpCount]

/-- Part 4 of the register table. -/
def regTable4 : List RegDesc :=
  [regSupPolicy, regSupFaultStat, regSupPlCfg, regSupFeCfg,
   regSupTripCfg, regSupVdcLvl0, regSupVdcLvl1, regSupVdcCfg,
   regSupChpCfg, regSupChpImin, regSupChpStat, regSupHist,
   regGlkCfg, regGlkStat, regGlkCmd, regGlkTlm,
   regThmCfg, regThmLvl, regThmStat, regThmZone,
   regThmSens, regYplCfg, regYplStat, regYplEpoch]

/-- Part 5 of the register table. -/
def regTable5 : List RegDesc :=
  [regYplPartner, regYplCount, regYplAlign, regYplTakeoverSeq,
   regGlbTorn, regRngBase, regRngCfg, regRngHead,
   regRngTail, regRngStat, regRngMod, regRngSeq,
   regRngEvtRoute, regRngEvtStat, regGlbBoot, regGlbBootLen,
   regSvcStat, regSvcIrq, regSvcIrqEn, regSvcWdCfg,
   regSvcWdKick, regSvcSafe, regSvcAttest, regSvcNonce]

/-- Part 6 of the register table. -/
def regTable6 : List RegDesc :=
  [regRngLop, regTrcCtl, regTrcStat, regTrcTqStat,
   regTrcRate, regTrcLost, regTrcCfg, regTrcSrc,
   regTrcTrig, regTrcTnode, regTrcThr, regTrcHyst,
   regTrcDepth, regTrcBuf, regTrcState, regTrcTtime,
   regTrcCount, regOtpStat, regOtpAddr, regOtpData,
   regOtpCheck, regOtpCmd, regOtpLast, regOtpLocks]

/-- Part 7 of the register table. -/
def regTable7 : List RegDesc :=
  [regOtpGlean, regOtpRegion, regOtpLog, regMsrStat,
   regMsrImage, regMsrCount, regMsrAttestStat, regMsrKeyFp,
   regMsrFwDigest, regMsrOtpDigest, regMsrLogInfo, regMsrLogTime,
   regGlbReset, regPcrRailStat, regPcrSupplyCfg, regPcrDip,
   regPcrResetCause, regPcrClkStat, regPcrClkMgt, regPcrClkCtl,
   regPcrRetain, regPcrPwrCtl, regPcrPwrStat, regPcrWakeTimer]

/-- Part 8 of the register table. -/
def regTable8 : List RegDesc :=
  [regSenPinCfg, regLtsCfg, regLtsBits, regLtsErrors,
   regLtsPcieCtl, regLtsStat, regMsxEntry, regMsxPba]

/-- Every register of Table 21.4. -/
def regTable : List RegDesc :=
  regTable0 ++ regTable1 ++ regTable2 ++ regTable3 ++ regTable4 ++ regTable5 ++ regTable6 ++ regTable7 ++ regTable8

end Sys2Proof.Machine
end

