-- ==== Sys2Proof/Machine/StateDrive.lean ====
section
/-! DEFINITION. StateDrive.lean: the live state of the drive: trackers, sets, machine cells (chapters 2 to 5 and 9),
pulse generator (chapter 6). Configuration fields are not here: they stand in the register file of State. -/
namespace Sys2Proof.Machine

/-- Regulator state of a set (Table 2.3). -/
inductive Reg where
  | off | on | freewheel | decay
  deriving DecidableEq, Repr

/-- Tracker states (Table 3.1). -/
inductive Trk where
  | idle | listen | probe | step | capture | locked | low | ascObserve | lost
  deriving DecidableEq, Repr

/-- A safe state in force (R233). -/
inductive SafeKind where
  | opened | asc
  deriving DecidableEq, Repr

/-- Source of a position event (Table 3.2). -/
inductive PosSrc where
  | crossing | hall | encoder
  deriving DecidableEq, Repr

/-- A position event reported during the present fast period (R71): instant, expected machine angle in degrees, weight. -/
structure PosEvent where
  src   : PosSrc
  set   : Nat
  t     : Time
  theta : Rat
  w     : Rat
  /-- the instant that decides in which fast period the event counts (R72) -/
  at_   : Time
  deriving DecidableEq, Repr

/-- The zero-crossing detector of a set (R59, R60). -/
structure CrossSt where
  blanking : Bool
  armed    : Bool
  seenPre  : Bool
  slopeUp  : Bool
  /-- first sample beyond zero: instant and e -/
  pos      : Option (Time × Rat)
  tPre     : Time
  ePre     : Rat
  confirm  : Nat
  wrong    : Nat
  tc       : Time
  tReady   : Time
  /-- sector time in `Time` units with f taken at tc; none at f = 0, when the limit never passes (R59) -/
  limit    : Option Rat
  deriving DecidableEq, Repr

/-- The current-vector observation of one set (R89). -/
structure ObsSt where
  running : Bool
  attempt : Nat
  start   : Time
  len     : Rat
  /-- decision samples (a, b) collected in the window, newest first -/
  pts     : List (Rat × Rat)
  tLast   : Time
  /-- estimate: machine angle in degrees, speed, instant of the window's last sample -/
  est     : Option (Rat × Rat × Time)
  /-- the last window turned 270° or more in magnitude -/
  turned  : Bool
  deriving DecidableEq, Repr

/-- The chop switch chosen for a sector to come, for TD positive and for TD negative: true the low side (R51, R115). -/
structure ChopPair where
  pos : Bool
  neg : Bool
  deriving DecidableEq, Repr

/-- The choice for the TD in force at the commutation. -/
def ChopPair.of (c : ChopPair) (td : Bool) : Bool := if td then c.neg else c.pos

/-- Live values of a set cell (Table 4.3) and what its procedure carries from period to period (R103). -/
structure CellSt where
  iDec    : Rat
  iProj   : Rat
  iRef    : Rat
  resid   : Rat
  lEst    : Rat
  rEst    : Rat
  h       : Rat
  fsw     : Rat
  ePair   : Rat
  iHat    : Rat
  /-- regime: generating (R97) -/
  gen     : Bool
  /-- STATE: the state in force at the last boundary -/
  state   : Reg
  /-- the state in force now, after the edges of the period so far -/
  cur     : Reg
  /-- applied states, newest first: instant from which each held; kept back to the last decision instant -/
  seq     : List (Time × Reg)
  /-- the quality of the last decision sample forbids qualification (SHORT, OVR, NBR, SUS) -/
  badNow  : Bool
  badPrev : Bool
  short   : Bool
  /-- recent instants of cuts, commutations and ends of blanking, newest first (R104) -/
  dist    : List Time
  /-- regulator changes computed and not yet applied, in order of instant (R103) -/
  plan    : List (Time × Reg)
  /-- the regime decided for the period after the present one is generating (R97) -/
  genNext : Bool
  qualifies : Bool
  ovrRun  : Nat
  minHold : Bool
  vlim    : Bool
  lBound  : Bool
  rBound  : Bool
  /-- a commutation that falls in the period under way or the next one (R110); true: a resync (R47) -/
  commAt  : Option (Time × Bool × Fin 6)
  /-- the chop switch chosen for that commutation (R115) -/
  commChop : ChopPair
  /-- the advance used to place it, in degrees (R54) -/
  commAdv : Rat
  /-- a resync placed for the boundary that follows a commutation still to come (R47), its chop switch, and the advance that placed it -/
  resyncAt : Option (Time × Fin 6 × ChopPair)
  resyncAdv : Rat
  /-- the regulator state whose levels are requested at the next boundary after a cut (R159, R168) -/
  boundReq : Option Reg
  /-- the set was cut in the period under way (R112) -/
  wasCut  : Bool
  /-- it was cut in the period before (R112, R168) -/
  postCut : Bool
  /-- recent spans of blanking and of TD-change DECAY, newest first; end 0: not ended (R104) -/
  masked  : List (Time × Time)
  /-- the boundary whose computation waits for samples (R102) -/
  waitAt  : Option Time
  /-- the boundary whose computation has overrun (R121) -/
  ovrAt   : Option Time
  /-- phase common to the pair in force and the preceding pair; none: the source phase (R94) -/
  common  : Option (Fin 3)
  /-- the set is to freewheel through the next period (R113) -/
  freeNext : Bool
  deriving DecidableEq, Repr

/-- What a band adaptation window has counted when it closes (R116, R117). -/
structure AdaptWin where
  raises  : Nat
  tFirst  : Time
  tLast   : Time
  spoiled : Bool
  deriving DecidableEq, Repr

/-- A band adaptation window (R116). -/
structure AdaptSt where
  open_   : Bool
  sps     : Nat
  raises  : Nat
  tFirst  : Time
  tLast   : Time
  spoiled : Bool
  gen     : Bool
  /-- raise edges, and what spoils a window, at the instant of an SP boundary not yet processed: they belong to the period that it starts
  (R20) -/
  edgeB   : Nat
  spoilB  : Bool
  /-- a window that the last SP boundary closed, and that is not yet judged -/
  closed  : Option AdaptWin
  deriving DecidableEq, Repr

/-- A winding set. -/
structure SetSt where
  /-- held sector; none: the set is not driving (COM_SECTOR reads 7) -/
  sector  : Option (Fin 6)
  rotRev  : Bool
  rotUsed : Bool
  /-- sector held before the last commutation, and the instant of that commutation -/
  prevSec : Option (Fin 6)
  lastComm : Time
  td      : Bool
  tdReq   : Bool
  tdDecay : Bool
  /-- the DECAY of a TD change has ended: the new TD applies at the next state change (R49) -/
  tdNew   : Bool
  /-- the chop switch that the new TD takes with it: true the low side -/
  tdChop  : Bool
  chopLow : Bool
  adv     : Nat
  /-- row 10 of Table 6.1 holds for the set -/
  driving : Bool
  /-- the set begins driving at the first FP boundary from this instant on (R82, R83, R158) -/
  beginAt : Option Time
  /-- the set is in the DECAY that ends its driving, until its current is below DEMAG_I -/
  ending  : Bool
  x       : CrossSt
  cell    : CellSt
  adapt   : AdaptSt
  obs     : ObsSt
  /-- last line-voltage sample beyond ±ZC_HYST for UV, VW, WU (R81) -/
  lineUV  : Option (Time × Rat)
  lineVW  : Option (Time × Rat)
  lineWU  : Option (Time × Rat)
  /-- LIMIT conditions: code and the last boundary at which each held (R123) -/
  limits  : List (Nat × Time)
  plCnt   : Nat
  plNeg   : Bool
  /-- PL_CNT reached PL_TRIP and the fault is due (R239) -/
  plDue   : Bool
  /-- instant from which 100 ms without a qualifying period count (R240) -/
  plSince : Time
  plRaised : Bool
  /-- the set is at F2, or holds another set fault (R125) -/
  fault   : Bool
  /-- safe state of the set itself -/
  safe    : Option SafeKind
  safeAuto : Bool
  rejoin  : Bool
  trips   : Nat
  /-- TRIP_RATE was raised in the window of rounds under way (R242) -/
  tripHit : Bool
  deriving DecidableEq, Repr

/-- The rotor tracker of a machine (chapter 3). -/
structure TrkSt where
  state   : Trk
  /-- angle word A (R69) -/
  angle   : Word
  /-- the instant the angle refers to: the last boundary, or the coming one that a start has set it for -/
  angAt   : Time
  /-- speed f, electrical Hz, a binary32 value -/
  f       : Rat
  good    : Nat
  bad     : Nat
  tPrev   : Time
  reports : List PosEvent
  /-- MISSED and WRONG_SLOPE reports not yet processed: the instants at which they count -/
  misses  : List Time
  /-- rotation in degrees since the last accepted event, since CAPTURE, since the last accepted crossing, since LOW -/
  rotEvent : Rat
  rotCapt  : Rat
  rotCross : Rat
  rotLow   : Rat
  lowAt    : Time
  /-- R74 holds at the last boundary -/
  lost_    : Bool
  /-- a DRIVE_STOP ends the machine: IDLE once its sets are OFF (R70) -/
  stopping : Bool
  lastStart : Nat
  recov    : List Time
  /-- COM_ZC_CFG as it stood at the last boundary: the schedule of floating-phase samples goes by it (R57) -/
  zcCfg    : Word
  deriving DecidableEq, Repr

/-- Hall and encoder inputs of a machine (R75 to R78). -/
structure SensSt where
  hall     : BitVec 3
  hallAt   : Time
  hallFail : Bool
  /-- a HALL_FAULT condition has arisen and is not yet raised -/
  hallDue  : Bool
  hallRej  : Nat
  hallRejX : Bool
  encCount : Nat
  encIdx   : Bool
  encFail  : Bool
  encDue   : Bool
  encRej   : Nat
  encRejX  : Bool
  deriving DecidableEq, Repr

/-- Starting and re-acquisition (R80 to R91). -/
structure StartSt where
  listenAt  : Time
  extended  : Bool
  vSeen     : Bool
  /-- line crossings, newest first: instant and machine angle -/
  catches   : List (Time × Rat)
  probeIdx  : Nat
  probeT    : Time
  slotAt    : Time
  /-- 0 ON, 1 DECAY, 2 all off -/
  probePh   : Nat
  responses : List Rat
  tries     : Nat
  olTheta   : Rat
  olF       : Rat
  stepAt    : Time
  /-- cause of START_FAIL that is due (1 to 3) -/
  failDue   : Option Nat
  fLoss     : Rat
  /-- the start follows a loss: the hand-over is taken from output 0 (R88) -/
  fromLost  : Bool
  /-- the boundary at which the sets of a lost machine take the active short circuit (R88) -/
  ascAt     : Option Time
  settleEnd : Option Time
  /-- completed estimate: angle in degrees, speed, its instant -/
  est       : Option (Rat × Rat × Time)
  estAt     : Time
  deriving DecidableEq, Repr

/-- Controlled deceleration and reversal (R63 to R68, R508). -/
structure DecelSt where
  active   : Bool
  /-- DECEL_CAUSE 0 to 4 -/
  cause    : Nat
  held     : Bool
  heldAt   : Time
  heldCnt  : Nat
  ref      : Rat
  /-- start, or takeover by the present cause -/
  since    : Time
  /-- starts at the next SP boundary with this cause -/
  startDue : Option Nat
  dirRev   : Bool
  revPend  : Bool
  /-- boundary at which a deferred direction change is enacted -/
  revAt    : Option Time
  zeroNext : Bool
  deriving DecidableEq, Repr

/-- Set-point sources of a machine (R126 to R132). -/
structure SrcSt where
  speed    : Bool
  src      : Nat
  fallback : Bool
  fbCause  : Nat
  fbAction : Nat
  fbTarget : Rat
  hostSp   : Word
  hostAux  : Word
  wdTime   : Time
  wdMark   : Time
  aspV     : Rat
  aspY     : Rat
  aspBad   : Nat
  aspGood  : Nat
  aspOk    : Bool
  /-- an ASP conversion under way: the instant at which it completes (Table 7.1), and its value -/
  aspNew   : Option (Time × Rat)
  /-- PSP measurements that the coming SP boundaries may average, with the instants at which they completed (R130) -/
  pspNew   : List (Time × Rat)
  /-- the value in use, and the last measurement (R130) -/
  pspX     : Rat
  pspLast  : Rat
  pspBad   : Nat
  pspGood  : Nat
  pspOk    : Bool
  pspEdge  : Time
  xchk     : Time
  /-- the SP boundary up to which the sources are updated -/
  upAt     : Time
  /-- inputs whose SETPOINT_INPUT is due -/
  aspDue   : Bool
  pspDue   : Bool
  /-- the last valid target of the source (R132) -/
  valid    : Rat
  deriving DecidableEq, Repr

/-- Machine-cell values of a slow period as a baton carries them (Table 11.5): RAMPED, LOOPS, DEMAND, MC_STAT, BLEND_SP, WD_MS and
bits [79:75] of DIRS. -/
structure McWords where
  ramped  : Word
  loops   : BitVec 128
  demand  : Word
  stat    : Word
  blendSp : Nat
  wdMs    : Nat
  dirs    : Nat
  deriving DecidableEq, Repr

/-- Loops of a machine cell (R133 to R142). -/
structure LoopSt where
  target  : Rat
  r       : Rat
  fLim    : Rat
  pTq     : Rat
  pSpd    : Rat
  pVdc    : Rat
  pThm    : Rat
  pPwr    : Rat
  d       : Rat
  ff      : Rat
  iSpd    : Rat
  iVu     : Rat
  iVl     : Rat
  /-- loop outputs after their clamps at the last SP boundary (R147) -/
  uSpd    : Rat
  uVu     : Rat
  uVl     : Rat
  sat     : BitVec 3
  /-- blend: hand-over boundary, D0, and HANDOVER_BLEND as it stood there -/
  blend   : Option (Time × Rat × Rat)
  blendOfs : Rat
  iRef    : Rat
  winner  : Nat
  winRun  : Nat
  winRep  : Option Nat
  nH      : Nat
  td      : Bool
  against : Bool
  mechOk  : Bool
  rev     : Nat
  mechAng : Rat
  bank    : Bool
  swap    : Bool
  /-- outputs on their way to the set cells: boundary, i_ref, TD -/
  out     : Option (Time × Rat × Bool)
  mcRun   : Nat
  /-- a quantity of the last run was NaN or infinite (MC_NUMERIC) -/
  bad     : Bool
  /-- what batons carry until the results of the present slow period are complete (R285) -/
  shown   : McWords
  /-- the hand-over that the next SP boundary must judge: 1 from start or re-acquisition; value of the outgoing output -/
  takeover : Option Rat
  deriving DecidableEq, Repr

/-- Supervision of one machine (R232 to R245). -/
structure MachSupSt where
  safe     : Option SafeKind
  safeAuto : Bool
  /-- an ASC of R245, which no policy replaces (R235) -/
  fixAsc : Bool
  /-- released only by a FAULT_CLEAR, then a DRIVE_START (F2 to F4) -/
  fault    : Bool
  /-- hold of R236 by SAFE_STATE, by ESTOP_N, through the service port -/
  holdCmd  : Bool
  holdEstop : Bool
  holdSvc  : Bool
  /-- safe state asked for while not the owner (R302): 0 policy, 1 OPEN, 2 ASC -/
  local_   : Option Nat
  ascNow   : Bool
  obsF     : Rat
  obsFail  : Nat
  ascRel   : Bool
  feT      : Rat
  feNeg    : Bool
  feDue    : Bool
  /-- VLIM was 1 in a fast period that has ended, in the one under way (R241) -/
  vlimSeen : Bool
  vlimNow  : Bool
  ov2Since : Option Time
  /-- DC_OV_ASC was raised in the time that `ov2Since` starts (R245) -/
  ovRaised : Bool
  deriving DecidableEq, Repr

/-- A machine. -/
structure MachSt where
  trk   : TrkSt
  sens  : SensSt
  start : StartSt
  decel : DecelSt
  src   : SrcSt
  loop  : LoopSt
  sup   : MachSupSt
  deriving DecidableEq, Repr

/-- Applied level of a channel (R154). -/
inductive Lvl where
  | low | high | rel
  deriving DecidableEq, Repr

/-- A switch channel of the pulse generator, or a chopper channel (R154, R155). -/
structure ChanSt where
  lvl   : Lvl
  /-- requested level: true HIGH -/
  req   : Bool
  reqAt : Time
  pend  : Bool
  lastOn  : Time
  lastOff : Time
  /-- the instant of the last change of the applied level, of which there are three (R154, R251) -/
  chgAt   : Time
  guardHeld : Bool
  minHeld : Bool
  /-- no on-change for the rest of the period (R168) -/
  blocked : Bool
  /-- the minimum off time is taken as met, until the next on-change (R294) -/
  freed   : Bool
  /-- time HIGH in the present period up to `mark` -/
  tHigh : Time
  mark  : Time
  deriving DecidableEq, Repr

/-- A scheduled request: instant, switch channel, level. -/
structure Edge where
  t  : Time
  ch : Nat
  on : Bool
  deriving DecidableEq, Repr

/-- A set group (R166 to R171). -/
structure GroupSt where
  hiz     : Bool
  src     : Nat
  cutRun  : Nat
  cutNow  : Bool
  /-- the period under way is a cut period (R169) -/
  cutSeen : Bool
  recovery : Bool
  direct  : Bool
  asc     : Bool
  /-- the latch was cleared: REL until the set begins driving or the group enters direct mode (R171) -/
  stay    : Bool
  /-- the instant at which the latch was set (R172) -/
  hizAt   : Time
  /-- CUT_RUN has reached TRIP_ESC at the last boundary: the group is released and latched, and TRIP_ESCALATED is owed (R169) -/
  escDue  : Bool
  deriving DecidableEq, Repr

/-- A snapshot of the staged direct set (R177). -/
structure Snap where
  period : Nat
  tonMin : Nat
  toffMin : Nat
  on     : List Nat
  off    : List Nat
  pNew   : Bool
  eNew   : Bool
  due    : Time
  deriving DecidableEq, Repr

/-- Direct mode (R173 to R180). -/
structure DirectSt where
  /-- next direct boundary; none: the timebase is stopped -/
  next    : Option Time
  cur     : Time
  period  : Nat
  tonMin  : Nat
  toffMin : Nat
  on      : List Nat
  off     : List Nat
  pending : Option Snap
  queued  : Option Snap
  pNew    : Bool
  eNew    : Bool
  deriving DecidableEq, Repr

/-- A brake chopper (R181, R182, R244). -/
structure ChopSt where
  ch      : ChanSt
  latch   : Bool
  run     : Nat
  cutNow  : Bool
  cutSeen : Bool
  /-- CHP_RUN has reached ESC at the last boundary: released and latched, CHP_ESCALATED is owed (R182) -/
  escDue  : Bool
  /-- the level that the supervision requests: true HIGH (R244) -/
  want    : Bool
  /-- the instant at which the pin last became LOW or REL (R244) -/
  lowAt   : Time
  /-- STATE 0 OK, 1 OPEN, 2 SHORT, 3 ESCALATED -/
  state   : Nat
  openCnt : Nat
  shortCnt : Nat
  deriving DecidableEq, Repr

end Sys2Proof.Machine
end

