-- ==== Sys2Proof/Machine/StateHost.lean ====
section
/-! DEFINITION. StateHost.lean: the live state of the host interface (chapters 12 and 13), the Silo (14), the fuse array (15),
measurement (16), supplies, clocks, resets and power states (17), link test, self test and TAP (18), and the pair (11). -/
namespace Sys2Proof.Machine

/-- A ring's live state (R312 to R317, R330). -/
structure RingSt where
  head    : Nat
  tail    : Nat
  phase   : Bool
  stopped : Bool
  cause   : Nat
  /-- a write of EN = 0 to a command ring has been accepted and its entries are being flushed (R356) -/
  closing : Bool
  /-- signalling entries since the last message, and the instant of the first (R330) -/
  sig     : Nat
  sigAt   : Option Time
  /-- SEQ of the last command that began, for a command ring; none before the first (R354) -/
  began   : Option Nat
  /-- the command ring has taken a command since the epoch began, and the latest commit points: instant and SEQ, newest first
  (R360) -/
  taken   : Bool
  marks   : List (Time × Nat)
  /-- posted entries of a command ring, from the head on, that may have been fetched when transfers last stopped (R357) -/
  fetched : Nat
  deriving DecidableEq, Repr

/-- A completion prepared and not yet written (R340, R352). -/
structure Cpl where
  ring   : Fin 16
  status : BitVec 8
  tag    : BitVec 16
  seq    : Nat
  irq    : Bool
  result : BitVec 48
  deriving DecidableEq, Repr

/-- A command that has begun and waits for its boundary, its result or its mark; it holds its ring (Table 13.1). -/
structure Waiting where
  ring : Fin 16
  opc  : BitVec 8
  tag  : BitVec 16
  irq  : Bool
  seq  : Nat
  arg0 : Word
  arg1 : BitVec 64
  role : BitVec 2
  /-- instant at which execution began -/
  at_  : Time
  /-- instant at which it acts -/
  due  : Time
  /-- what the opcode carries along: a mask, a handle, a channel -/
  aux  : Nat
  /-- commit point passed (R340) -/
  committed : Bool
  deriving DecidableEq, Repr

/-- A long operation's slot (R347). -/
structure Lop where
  /-- 0 free, 1 running, 2 suspended, 3 ending -/
  state  : Nat
  gen    : Nat
  opc    : BitVec 8
  ring   : Fin 16
  tag    : BitVec 16
  irq    : Bool
  seq    : Nat
  arg0   : Word
  arg1   : BitVec 64
  /-- phase, chunk, word or region under way -/
  phase  : Nat
  /-- pause points reached -/
  pauses : Nat
  /-- instant at which the phase under way began -/
  since  : Time
  suspAt : Time
  stale  : Bool
  /-- final status asked for by a happening: 0 none, else STATUS -/
  ending : Nat
  /-- results so far -/
  res    : List Nat
  /-- RESULT of a final CANCELLED or ABORTED at the present pause point -/
  quit   : Nat
  deriving DecidableEq, Repr

/-- An event quad's content (Table 12.9), without PHASE and EPOCH, which are fixed when it is written. -/
structure Evt where
  cls    : Nat
  index  : Nat
  level  : Nat
  fclass : Nat
  detail : Word
  time   : Time
  deriving DecidableEq, Repr

/-- An entry of the holding queue of R328: an event for its routed rings, a RECOVERY quad, a quad of the RECOVERY record of a command pair
(R355), or a fence mark for one ring. -/
inductive Held where
  | event (e : Evt)
  | recovery (e : Evt)
  | record (pair : Fin 16) (e : Evt)
  | mark (ring : Fin 4) (e : Evt)
  deriving DecidableEq, Repr

/-- A fence under way (R341 to R343), by its command ring. -/
structure FenceSt where
  ring  : Fin 16
  tf    : Time
  mask  : BitVec 4
  trace : Bool
  marked : Bool
  /-- trace rings whose mark is still to be written -/
  traceLeft : BitVec 4
  /-- handles of the long operations begun earlier from its ring that have not ended -/
  lops  : List Nat
  seq   : Nat
  deriving DecidableEq, Repr

/-- A FENCE that completed OK at `at_`, in the present epoch (R361). -/
structure FenceDone where
  at_  : Time
  tf   : Time
  ring : Fin 16
  seq  : Nat
  deriving DecidableEq, Repr

/-- The host interface. -/
structure HostSt where
  rings   : Vector RingSt 48
  waiting : List Waiting
  cpls    : List Cpl
  lops    : Vector Lop 8
  held    : List Held
  fences  : List FenceSt
  /-- newest first; those that a coming baton may still describe -/
  fenceOk : List FenceDone
  /-- words the device has written into host memory, by byte address, rising -/
  mem     : List (Nat × Word)
  /-- MSI-X messages sent, per vector -/
  msgs    : Vector Nat 32
  /-- pending bits of the MSI-X array -/
  pba     : BitVec 32
  /-- failures of transfers reported through advanced error reporting (R307), a bit per CAUSE of Table 13.4 (log 161) -/
  aer     : BitVec 4
  /-- MSI-X function mask (R329) -/
  msxMask : Bool
  /-- split-read latches (R310, R503), per port pcie, svc, mgt: a register's offset, and its value at the read of its lowest part -/
  latchP  : Option (Nat × Nat)
  latchS  : Option (Nat × Nat)
  latchM  : Option (Nat × Nat)
  /-- value returned by the last read of each port -/
  readP   : Word
  readS   : Word
  readM   : Word
  d3hot   : Bool
  bme     : Bool
  linkGen : Nat
  linkUp  : Bool
  /-- OP_LOST records of R350: opcode, handle, instant -/
  opLost  : List (BitVec 8 × Nat × Time)
  calLost : Bool
  rejoinLost : Bool
  reportDue : Bool
  deriving DecidableEq, Repr

/-- A Silo record (R375). -/
structure Rec where
  t : Time
  v : Word
  poison : Bool
  deriving DecidableEq, Repr

/-- A trace quad waiting to be written (Table 14.4): one or two records, oldest first. -/
structure TQuad where
  recs : List Rec
  trig : Bool
  gap  : Bool
  end_ : Bool
  short : Bool
  deriving DecidableEq, Repr

/-- A Silo channel (R374 to R383). STATE: 0 IDLE, 1 ARMED, 2 POST, 3 DUMP, 4 DONE, 5 RUN. -/
structure SiloCh where
  state : Nat
  /-- records held in the region, newest first -/
  recs  : List Rec
  trig  : Option Time
  tTime : Time
  /-- triggers found and not yet told, oldest first: instant, from FAULT_TRIG (R378) -/
  trigDue : List (Time × Bool)
  preShort : Bool
  dec   : Nat
  last  : Option Word
  /-- RISE or FALL condition armed by the preceding boundary -/
  cond  : Bool
  /-- triggers of a ring channel whose quad is still to come (R378) -/
  marking : List Time
  seq8  : Nat
  gap   : Bool
  losing : Bool
  outq  : List TQuad
  quads : Nat
  /-- re-arms at the next FP boundary -/
  rearm : Bool
  /-- a TRACE_STOP has ended the capture; IDLE once delivered -/
  stopped : Bool
  deriving DecidableEq, Repr

/-- A finding in OTP_LOG (class B). -/
structure OtpLogE where
  word : Nat
  kind : Nat
  time : Time
  deriving DecidableEq, Repr

/-- A region's judgement (R389). STATUS 0 BLANK, 1 VALID, 2 INVALID, 3 never judged. -/
structure RegionSt where
  load  : Nat
  now   : Nat
  weak  : Bool
  weakCnt : Nat
  forced : Bool
  /-- R391 holds of the region, as last judged -/
  bad : Bool
  deriving DecidableEq, Repr

/-- An OTP burn under way (R398): 1 OTP_PROGRAM, 2 register program, 3 OTP_LOCK, 5 LIFECYCLE_ADVANCE. -/
structure BurnSt where
  kind   : Nat
  /-- words still to burn, the first under way: address and target codeword (or raw bits) -/
  words  : List (Nat × BitVec 39)
  rounds : Nat
  done   : Nat
  slot   : Nat
  region : Nat
  target : Nat
  force  : Bool
  /-- the first word has passed its pre-check and its read, and needs a round -/
  started : Bool
  /-- address of the last word handled -/
  last   : Nat
  /-- the pre-check of the first word waits for its conversion of OTP_VPP; an OTP_PROGRAM whose slot is 8 is not accepted before it -/
  pre    : Bool
  /-- the pulse under way is the burn's last: 1 for a thermal shutdown, 2 for an MGR reset; 0 it is not (Table 15.5) -/
  cut    : Nat
  deriving DecidableEq, Repr

/-- The fuse array and its shadow. -/
structure OtpSt where
  /-- burned bits as a normal and as a margin read give them: address and 39 bits, rising, none zero -/
  norm   : List (Nat × BitVec 39)
  marg   : List (Nat × BitVec 39)
  loaded : Bool
  regions : Vector RegionSt 16
  wl     : BitVec 16
  rl     : BitVec 16
  lc     : Nat
  lcBad  : Bool
  /-- data words applied at the last load, rising addresses, none zero -/
  shadow : List (Nat × Word)
  burn   : Option BurnSt
  scans  : Nat
  log    : List OtpLogE
  lastRounds : Nat
  lastOutcome : Nat
  lastWeak : Bool
  check  : BitVec 7
  scanAt : Time
  scanBands : List Int
  /-- a Gleaner scan is due (R404) -/
  scanDue : Bool
  /-- WEAK words found since the load and not repaired -/
  weakSeen : List Nat
  deriving DecidableEq, Repr

/-- An entry of the measurement log (R412). -/
structure MeasE where
  digest : BitVec 384
  time   : Time
  len    : Nat
  number : Nat
  changed : Bool
  keyIdx : Nat
  sig    : Nat
  host   : Bool
  mgr    : Bool
  deriving DecidableEq, Repr

/-- A queued attestation request (R417): requester 0 host, 1 service port, 2 partner. -/
structure AttReq where
  who   : Nat
  nonce : BitVec 256
  deriving DecidableEq, Repr

/-- Boot, measurement and attestation (chapter 16, R331, R332). -/
structure MsrSt where
  running : Bool
  ready   : Bool
  /-- image memory, word index and word, rising -/
  bar4    : List (Nat × Word)
  len     : Nat
  /-- image bytes in place -/
  image   : List (BitVec 8)
  srcHost : Bool
  measured : Bool
  sig     : Nat
  bootFail : Bool
  tries   : Nat
  changed : Bool
  expect  : Nat
  digest  : BitVec 384
  otpDigest : BitVec 384
  log     : List MeasE
  count   : Nat
  /-- region 3 was VALID at the last load; the derived scalar and public point (R414) -/
  keyHave : Bool
  keyD    : Nat
  keyX    : Nat
  keyY    : Nat
  queue   : List AttReq
  reports : Nat
  /-- report window of the service port, bytes -/
  window  : List (BitVec 8)
  svcBusy : Bool
  svcReady : Bool
  mgr     : Bool
  deriving DecidableEq, Repr

/-- Supplies, clocks and power states (chapter 17). -/
structure PcrSt where
  warn    : BitVec 4
  warnAt  : Vector Time 4
  /-- first assertion of the present run of warnings -/
  runAt   : Option Time
  stopRaised : Bool
  stopping : Bool
  stopHeld : Bool
  /-- step 1 of the controlled stop waits for the boundary `stopAt` -/
  stopDue : Bool
  stopAt  : Time
  stopTmax : Bool
  settled : Bool
  dipCnt  : Nat
  clkFault : Bool
  pll0    : Bool
  pll1    : Bool
  xtal    : Bool
  mgtCyc  : Nat
  ctlCyc  : Nat
  /-- power state 0 RUN, 1 HOLD, 2 DOZE, 3 DEEP -/
  state   : Nat
  transit : Bool
  target  : Nat
  transitEnd : Time
  deepAt  : Time
  lastWake : Nat
  retained : Bool
  /-- reset asserted: its code of Table 17.5 -/
  asserted : Option Nat
  /-- rails that have been at their reset level since their warning asserted (R428) -/
  borSeen : BitVec 4
  /-- WAKE_N is asserted (R446) -/
  wakeN   : Bool
  last    : Nat
  borRail : BitVec 4
  mgrLock : Bool
  mgrCnt  : Nat
  straps  : BitVec 6
  deriving DecidableEq, Repr

/-- Node-space integrity (R372): poisoned nodes; the corrections of the last minute, newest first: instant and node. -/
structure EccSt where
  poison  : List Nat
  fixes   : List (Time × Nat)
  deriving DecidableEq, Repr

/-- A link under test (R451 to R456). -/
structure LinkSt where
  locked  : Bool
  lockAt  : Time
  everLock : Bool
  bits    : Nat
  errors  : Nat
  losses  : Nat
  deriving DecidableEq, Repr

/-- Link test, self test and TAP (chapter 18). TAP: 0 IDCODE, 1 BYPASS, 2 SAMPLE, 3 EXTEST, 4 HIGHZ, 5 CLAMP. -/
structure LtsSt where
  links   : Vector LinkSt 13
  loopEnd : Option Time
  /-- YIELD_IN has risen during the pulse-generator block of a SELF_TEST (R460) -/
  stYield : Bool
  tap     : Nat
  boundary : Word
  deriving DecidableEq, Repr

/-- Roles (Table 11.1). -/
inductive Role where
  | unjoined | standby | active | lockout | solo
  deriving DecidableEq, Repr

/-- An adopted baton, or one accepted and awaiting adoption (R285, R286). -/
structure BatonSt where
  quads : List Quad
  at_   : Time
  deriving DecidableEq, Repr

/-- The pair (chapter 11). -/
structure YplSt where
  role    : Role
  /-- role and epoch before the claim under way (R295) -/
  roleWas : Role
  epochWas : Word
  claim   : Bool
  own     : Bool
  yieldIn : Bool
  epoch   : Word
  epochOk : Bool
  /-- lanes with block lock, and lanes failed since the last training (R278) -/
  lanes   : BitVec 2
  laneBad : BitVec 2
  /-- a frame of the partner has been accepted, and what the last one showed -/
  seen    : Bool
  pRole   : BitVec 3
  pPos    : Bool
  pUnfit  : Bool
  pFseq   : BitVec 16
  pEpoch  : Word
  lastRx  : Time
  fseq    : BitVec 16
  /-- start of the last frame sent; frames started at that instant, oldest first -/
  lastTx  : Time
  sent    : List (List Quad)
  /-- REQUEST, REPLY and ATTEST frames that wait for the management cores (R302): type and payload -/
  txq     : List (Nat × List Quad)
  lastSync : Time
  /-- T_TX of the partner's last SYNC, own PAC_TIME at its receipt -/
  syncTx  : BitVec 64
  syncRx  : BitVec 64
  /-- last measured offset, half-nanoseconds -/
  offset  : Int
  good    : Nat
  bad     : Nat
  /-- the Pacer has been stepped in the present join (R23) -/
  stepped : Bool
  aligned : Bool
  /-- the link delay of the last SYNC exchange (R283), half nanoseconds -/
  delay   : Int
  /-- what is left of the offset to correct (R283), half nanoseconds -/
  left    : Int
  corrAt  : Time
  corrs   : Nat
  next    : Option BatonSt
  adopted : Option BatonSt
  /-- of the last 16 expected batons, bit set: accepted -/
  expect  : BitVec 16
  divRun  : Vector Nat 2
  divLast : Vector Int 2
  diverged : Bool
  divDue  : Vector Bool 2
  digest  : Word
  digBad  : Option Time
  fit     : Bool
  refuse  : Nat
  /-- rise and fall of CLAIM in the claim under way -/
  claimAt : Option Time
  claimFell : Option Time
  /-- boundary at which OWN rises (R293) -/
  ownAt   : Option Time
  blocked : Bool
  /-- planned hand-over: B_h; this device is the outgoing one; its request is accepted; the standby has prepared (R298) -/
  hoAt    : Option Time
  hoOut   : Bool
  hoReply : Bool
  hoPrep  : Bool
  /-- PAIR_REJOIN: its nonce and the partner's fragments, as index, count and quads -/
  nonce   : BitVec 256
  frags   : List (Nat × Nat × List Quad)
  pJoining : Bool
  shadowRun : Nat
  /-- F5_HELD and SHUT_HELD of the adopted baton -/
  devF5   : Bool
  devShut : Bool
  deriving DecidableEq, Repr

/-- The service port (R333 to R337). -/
structure SvcSt where
  /-- data the next frame returns; the preceding frame was rejected -/
  miso   : BitVec 16
  err    : Bool
  /-- MISO word returned by the last frame -/
  out    : Word
  wdOn   : Bool
  wdAt   : Time
  kicked : Bool
  wdi    : Bool
  expect : BitVec 8
  cleared : Bool
  nonce  : Vector Word 8
  /-- the watchdog has expired, and its reaction is owed -/
  due    : Bool
  /-- SAFE_STATE asked by the port or the watchdog: boundary, mask of machines, state asked -/
  safes  : List (Time × Nat × Nat)
  deriving DecidableEq, Repr

end Sys2Proof.Machine
end

