-- ==== Sys2Proof/Machine/StateIo.lean ====
section
/-! DEFINITION. StateIo.lean: the live state of Acquisition (chapter 7), Supervision's records, gate links and ledger
(chapter 9), and the thermal unit (chapter 10). -/
namespace Sys2Proof.Machine

/-- A delivered sample: instant, calibrated code, flags of Table 7.8. -/
structure Sample where
  t     : Time
  code  : Int
  flags : BitVec 5
  deriving DecidableEq, Repr

/-- ACQ_LATEST of a channel (R216). -/
structure Latest where
  s    : Sample
  seq  : Nat
  deriving DecidableEq, Repr

/-- What is kept of one member of a pair (R208): the grid instant of its last result, or from which its results are awaited; results
missing in this housekeeping round; its last code, how many times in a row, and the span of the other member's codes meanwhile. -/
structure MemberSt where
  last : Time
  miss : Nat
  code : Int
  same : Nat
  span : Option (Int × Int)
  deriving DecidableEq, Repr

/-- An interleaved pair (R200, R206 to R209). -/
structure PairSt where
  /-- the instant from which the input is enabled (R191) -/
  onAt   : Time
  /-- the members, even and odd (R208) -/
  memE   : MemberSt
  memO   : MemberSt
  ofsD   : Int
  skewD  : Int
  failE  : Bool
  failO  : Bool
  cause  : Nat
  run    : Nat
  diverging : Bool
  checkDue : Option Time
  /-- the boundary of the latest reference check (R207) -/
  checkAt : Option Time
  n      : Nat
  sr     : Rat
  srs    : Rat
  sss    : Rat
  boundO : Bool
  boundS : Bool
  /-- latest samples of the input, newest first -/
  hist   : List Sample
  deriving DecidableEq, Repr

/-- An urgent request on a housekeeping or voltage converter (R198): channel, and the waiting host command's slot. -/
structure Urgent where
  conv : Nat
  chan : Nat
  host : Bool
  at_  : Time
  /-- the earliest track instant: a converter that slept has to wake (R197) -/
  ready : Time
  deriving DecidableEq, Repr

/-- A stream slot (R211 to R215). -/
structure StreamSt where
  lanes : List Int
  t0    : Time
  flags : BitVec 5
  cnt   : Nat
  seq   : Nat
  dropping : Bool
  deriving DecidableEq, Repr

/-- Acquisition. -/
structure AcqSt where
  pairs   : Vector PairSt 16
  /-- latest samples of VDC0, VDC1, newest first -/
  link0   : List Sample
  link1   : List Sample
  latest  : List (Nat × Latest)
  calValid : Bool
  restored : Bool
  calFailPhase : Nat
  calFirst : Nat
  streams : Vector StreamSt 32
  vcRefRun : Vector Nat 8
  /-- CLAMP event stamps by channel (R210) -/
  clampAt : List (Nat × Time)
  /-- conversions still to carry REC, by converter -/
  recLeft : List (Nat × Nat)
  /-- last bank-clamp instant by input (R210) -/
  bankClamp : List (Nat × Time)
  urgents : List Urgent
  /-- the instant from which grid conversions run, and the last return of the power state to RUN (R191, R197) -/
  gridAt  : Time
  runAt   : Time
  /-- end of the last conversion of each voltage and housekeeping converter, by index n -/
  busy    : List (Nat × Time)
  /-- the schedule instant up to which each housekeeping input is served (R196) -/
  hkAt    : Vector Time 22
  /-- track instant of the last scheduled REF conversion of each voltage converter (R193, R194) -/
  refAt   : Vector Time 8
  deriving DecidableEq, Repr

/-- A fault-history entry (R256), survival class B. -/
structure HistE where
  time   : Time
  detail : Word
  repeat_ : Nat
  cls    : Nat
  level  : Nat
  index  : Nat
  deriving DecidableEq, Repr

/-- What a safe-state request applies to (R232). -/
inductive Obj where
  | set (w : Fin 8) | mach (m : Fin 2)
  deriving DecidableEq, Repr

/-- A reaction armed for the first FP boundary at least 40 ns after detection (R232).
`state`: 0 the policy, 1 OPEN, 2 ASC; `cause`: DETAIL [7:0] of the cause; `fix`: R245 step 3. -/
structure SafeReq where
  obj   : Obj
  state : Nat
  due   : Time
  cause : Nat
  dcOv  : Bool
  deriving DecidableEq, Repr

/-- A gate link (R246 to R251). -/
structure GlkSt where
  /-- no frame for 12 µs was found, and none accepted since -/
  lost    : Bool
  /-- SEQ of the last accepted frame, or of the frame that resynchronised the count -/
  lastSeq : Nat
  seqSeen : Bool
  lastAt  : Time
  /-- stamp of the last accepted frame (Table 1.6) -/
  lastSt  : Time
  tlm     : BitVec 64
  cmdBusy : Bool
  /-- the pending command is still to be sent -/
  cmdWait : Bool
  cmdSeq  : Nat
  cmdFrames : Nat
  cmdFailDue : Bool
  /-- discarded frames of the last 60 s: instants, newest first -/
  discards : List Time
  /-- count of command frames modulo 16, and the last frame sent -/
  sent     : Nat
  lastSent : BitVec 64
  /-- GATE_OK = 0 in the last frame, by switch of the set whose level was steady for 4 µs before that frame -/
  gateBad  : BitVec 6
  /-- GATE_MISMATCH due, by switch -/
  gateDue  : BitVec 6
  gateRaised : BitVec 6
  desat    : BitVec 6
  uvloP    : BitVec 6
  uvloN    : BitVec 6
  /-- consecutive readings at or above MOD_TSD, last TEMP code, and whether it was read in this round, of legs U, V, W -/
  tsdCnt   : Vector Nat 3
  tsdRaised : BitVec 3
  temp     : Vector (Option Nat) 3
  inRound  : BitVec 3
  lostRaised : Bool
  errRaised : Bool
  deriving DecidableEq, Repr

/-- Thermal-cycle counting of a leg module (R254). -/
structure CycleSt where
  turn : Option Rat
  ext  : Option Rat
  deriving DecidableEq, Repr

/-- A node write that an engine may not see yet (R27, R29): the node, the word it replaced, the instant it landed. -/
structure LateNode where
  id  : Nat
  old : Word
  at_ : Time
  deriving DecidableEq, Repr

/-- Device-level Supervision. -/
structure SupSt where
  reqs   : List SafeReq
  f5     : Bool
  f4     : Bool
  estopHeld : Bool
  mbrk   : Bool
  /-- R238: pins released in hardware until a reset -/
  yielded : Bool
  /-- R238: an F4 yield has stopped the heartbeats -/
  hbStop : Bool
  hist   : List HistE
  histLost : Nat
  kOv    : Vector Rat 2
  ov2    : Vector Bool 2
  ov2Start : Vector (Option Time) 2
  /-- the sample at the last boundary was at or above VDC_OV2 -/
  ov2Hi  : Vector Bool 2
  uvRun  : Vector Nat 2
  uvDue  : Vector Bool 2
  ov1At  : Vector (Option Time) 2
  /-- phase current of each leg's decision sample at the start of the fast period (R253) -/
  legI   : Vector Rat 24
  /-- fraction of a microcoulomb carried, by switch (R253) -/
  qFrac  : Vector Rat 48
  cycles : Vector CycleSt 24
  glk    : Vector GlkSt 8
  deriving DecidableEq, Repr

/-- A temperature sensor (R258, R259). Temperatures in 1/16 °C. -/
structure SensorSt where
  temp   : Int
  have_  : Bool
  broken : Bool
  cause  : Nat
  n0     : Int
  t0     : Int
  k      : Rat
  deriving DecidableEq, Repr

/-- A zone and its alarms (R260, R264). -/
structure ZoneSt where
  temp   : Int
  tw1    : Bool
  tsd    : Bool
  tw1Up  : Nat
  tw1Dn  : Nat
  tsdUp  : Nat
  tsdDn  : Nat
  deriving DecidableEq, Repr

/-- The thermal unit. -/
structure ThmSt where
  sens   : Vector SensorSt 16
  zones  : Vector ZoneSt 8
  /-- T_die as the machine cells use it from the first SP boundary 40 ns after (R261) -/
  tDie   : Int
  readAt : Time
  read   : Bool
  lastRound : Time
  thw    : Bool
  shutRun : Bool
  shutHeld : Bool
  yielding : Bool
  /-- step 1 of the sequence waits for the boundary `seqAt` -/
  seqDue : Bool
  seqAt  : Time
  /-- a T_die that the machine cells do not use yet: the SP boundary from which they do (R261) -/
  tNew   : Option (Time × Int)
  tmaxExp : Bool
  exitCnt : Nat
  exitMet : Bool
  exitDue : Bool
  deriving DecidableEq, Repr

end Sys2Proof.Machine
end

