-- ==== Sys2Proof/Machine/State.lean ====
section
/-! DEFINITION. State.lean: the state of the KT4208 as a block, its reset, and the reasons for which it can stop.
Everything the spec gives the device stands here: the register file (`regs`), node space (`nodes`), the live state of
every unit, host memory as the device has written it, and the queue of commands that wait. -/
namespace Sys2Proof.Machine

/-- Why the machine can stop with a fault. No command of this block ends in one: the type has a constructor so that it is
not empty, raised by nothing. Safe. -/
inductive Fault where
  /-- Raised by no command. Safe. -/
  | none_
  deriving DecidableEq, Repr

/-- Why a command can be refused by the model. -/
inductive Refusal where
  /-- A command without a meaning yet: raised by its arm of Dispatch only. Safe. -/
  | notModelled (mnemonic : String)
  /-- A vendor test or debug instruction, while debug is open: the spec gives it no effect (R462). Raised by
  VENDOR_TEST_INSTRUCTION. Safe. -/
  | vendorTest (code : BitVec 8)
  /-- A production-test register, while debug is open: for vendor production test only (R501). Raised by register
  reads and writes. Safe. -/
  | productionTest (off : Nat)
  deriving DecidableEq, Repr

/-- The state. -/
structure State where
  /-- present time, half-nanoseconds; PAC_TIME is `time / 5` -/
  time    : Time
  /-- counter of free values (the model's own field, not the spec's): the next index of `Config.free` -/
  freeCtr : Nat
  /-- waiting commands, first in, first out -/
  pending : List Sys2Proof.Instr
  /-- FP_STEPS in force, and the boundary from which the written value counts (PAC_FP_CFG) -/
  fpSteps : Nat
  fpNewAt : Option Time
  /-- instants of the latest FP, SP and housekeeping boundaries processed -/
  lastFp  : Time
  lastSp  : Time
  lastHr  : Time
  /-- GLB_STATUS.STARTED -/
  started : Bool
  /-- stored register fields that differ from their reset values: offset and word, offsets rising -/
  regs    : List (Nat × Word)
  /-- node values that differ from their initial values (R373): ID and word, IDs rising -/
  nodes   : List (Nat × Word)
  ecc     : EccSt
  /-- recent node writes, oldest first -/
  late    : List LateNode
  mach    : Vector MachSt 2
  sets    : Vector SetSt 8
  chans   : Vector ChanSt 48
  edges   : List Edge
  groups  : Vector GroupSt 8
  direct  : DirectSt
  chops   : Vector ChopSt 2
  acq     : AcqSt
  /-- windows that are OUT (CMP_LEVEL) -/
  winOut  : BitVec 20
  /-- levels of FLT_N (1: low) and of ESTOP_N (true: low) -/
  flt     : BitVec 8
  estop   : Bool
  sup     : SupSt
  thm     : ThmSt
  host    : HostSt
  silo    : Vector SiloCh 16
  otp     : OtpSt
  msr     : MsrSt
  pcr     : PcrSt
  lts     : LtsSt
  ypl     : YplSt
  svc     : SvcSt
  deriving DecidableEq, Repr

/-! ### Reset values, unit by unit -/

def CrossSt.reset : CrossSt where
  blanking := false
  armed := false
  seenPre := false
  slopeUp := false
  pos := none
  tPre := 0
  ePre := 0
  confirm := 0
  wrong := 0
  tc := 0
  tReady := 0
  limit := none

def ObsSt.reset : ObsSt where
  running := false
  attempt := 0
  start := 0
  len := 0
  pts := []
  tLast := 0
  est := none
  turned := false

def CellSt.reset : CellSt where
  iDec := 0
  iProj := 0
  iRef := 0
  resid := 0
  lEst := 0
  rEst := 0
  h := 0
  fsw := 0
  ePair := 0
  iHat := 0
  gen := false
  state := .off
  cur := .off
  seq := []
  badNow := false
  badPrev := false
  short := false
  dist := []
  plan := []
  genNext := false
  qualifies := false
  ovrRun := 0
  minHold := false
  vlim := false
  lBound := false
  rBound := false
  commAt := none
  commChop := ⟨false, false⟩
  commAdv := 0
  resyncAt := none
  resyncAdv := 0
  boundReq := none
  wasCut := false
  postCut := false
  masked := []
  waitAt := none
  ovrAt := none
  common := none
  freeNext := false

def AdaptSt.reset : AdaptSt where
  open_ := false
  sps := 0
  raises := 0
  tFirst := 0
  tLast := 0
  spoiled := false
  gen := false
  edgeB := 0
  spoilB := false
  closed := none

/-- A set that is not driving (COM_SECTOR reset 0x37, ENG_SC_STAT reset 0). -/
def SetSt.reset : SetSt where
  sector := none
  rotRev := false
  rotUsed := false
  prevSec := none
  lastComm := 0
  td := false
  tdReq := false
  tdDecay := false
  tdNew := false
  tdChop := false
  chopLow := false
  adv := 0
  driving := false
  beginAt := none
  ending := false
  x := CrossSt.reset
  cell := CellSt.reset
  adapt := AdaptSt.reset
  obs := ObsSt.reset
  lineUV := none
  lineVW := none
  lineWU := none
  limits := []
  plCnt := 0
  plNeg := false
  plDue := false
  plSince := 0
  plRaised := false
  fault := false
  safe := none
  safeAuto := false
  rejoin := false
  trips := 0
  tripHit := false

def TrkSt.reset : TrkSt where
  state := .idle
  angle := 0
  angAt := 0
  f := 0
  good := 0
  bad := 0
  tPrev := 0
  reports := []
  misses := []
  rotEvent := 0
  rotCapt := 0
  rotCross := 0
  rotLow := 0
  lowAt := 0
  lost_ := false
  stopping := false
  lastStart := 0
  recov := []
  zcCfg := 0x0228141E

/-- Position inputs at reset. The hall inputs read 0b000 until their first edge, whose instant counts as 0: DESIGN CHOICE, unsafe (logs 165,
166). -/
def SensSt.reset : SensSt where
  hall := 0
  hallAt := 0
  hallFail := false
  hallDue := false
  hallRej := 0
  hallRejX := false
  encCount := 0
  encIdx := false
  encFail := false
  encDue := false
  encRej := 0
  encRejX := false

def StartSt.reset : StartSt where
  listenAt := 0
  extended := false
  vSeen := false
  catches := []
  probeIdx := 0
  probeT := 0
  slotAt := 0
  probePh := 0
  responses := []
  tries := 0
  olTheta := 0
  olF := 0
  stepAt := 0
  failDue := none
  fLoss := 0
  fromLost := false
  ascAt := none
  settleEnd := none
  est := none
  estAt := 0

def DecelSt.reset : DecelSt where
  active := false
  cause := 0
  held := false
  heldAt := 0
  heldCnt := 0
  ref := 0
  since := 0
  startDue := none
  dirRev := false
  revPend := false
  revAt := none
  zeroNext := false

/-- Torque mode with source HOST after every reset except MGR (chapter 5, Set-point sources). An ASP or PSP input is
valid until its invalidity is found (R129, R130). DESIGN CHOICE, unsafe (log 9). -/
def SrcSt.reset : SrcSt where
  speed := false
  src := 0
  fallback := false
  fbCause := 0
  fbAction := 0
  fbTarget := 0
  hostSp := 0
  hostAux := 0
  wdTime := 0
  wdMark := 0
  aspV := 0
  aspY := 0
  aspBad := 0
  aspGood := 0
  aspOk := true
  aspNew := none
  pspNew := []
  pspX := 0
  pspLast := 0
  pspBad := 0
  pspGood := 0
  pspOk := true
  pspEdge := 0
  xchk := 0
  upAt := 0
  aspDue := false
  pspDue := false
  valid := 0

def McWords.reset : McWords where
  ramped := 0
  loops := 0
  demand := 0
  stat := 0
  blendSp := 0
  wdMs := 0
  dirs := 0

def LoopSt.reset : LoopSt where
  target := 0
  r := 0
  fLim := 0
  pTq := 0
  pSpd := 0
  pVdc := 0
  pThm := 0
  pPwr := 0
  d := 0
  ff := 0
  iSpd := 0
  iVu := 0
  iVl := 0
  uSpd := 0
  uVu := 0
  uVl := 0
  sat := 0
  blend := none
  blendOfs := 0
  iRef := 0
  winner := 0
  winRun := 0
  winRep := none
  nH := 0
  td := false
  against := false
  mechOk := false
  rev := 0
  mechAng := 0
  bank := false
  swap := false
  out := none
  mcRun := 0
  bad := false
  shown := McWords.reset
  takeover := none

def MachSupSt.reset : MachSupSt where
  safe := none
  safeAuto := false
  fixAsc := false
  fault := false
  holdCmd := false
  holdEstop := false
  holdSvc := false
  local_ := none
  ascNow := false
  obsF := 0
  obsFail := 0
  ascRel := false
  feT := 0
  feNeg := false
  feDue := false
  vlimSeen := false
  vlimNow := false
  ov2Since := none
  ovRaised := false

def MachSt.reset : MachSt where
  trk := TrkSt.reset
  sens := SensSt.reset
  start := StartSt.reset
  decel := DecelSt.reset
  src := SrcSt.reset
  loop := LoopSt.reset
  sup := MachSupSt.reset

/-- A released channel (PGN_CH_STAT reset 0x2). -/
def ChanSt.reset : ChanSt where
  lvl := .rel
  req := false
  reqAt := 0
  pend := false
  lastOn := 0
  lastOff := 0
  chgAt := 0
  guardHeld := false
  minHeld := false
  blocked := false
  freed := false
  tHigh := 0
  mark := 0

def GroupSt.reset : GroupSt where
  hiz := false
  src := 0
  cutRun := 0
  cutNow := false
  cutSeen := false
  recovery := false
  direct := false
  asc := false
  stay := false
  hizAt := 0
  escDue := false

def DirectSt.reset : DirectSt where
  next := none
  cur := 0
  period := 0
  tonMin := 0
  toffMin := 0
  on := []
  off := []
  pending := none
  queued := none
  pNew := false
  eNew := false

def ChopSt.reset : ChopSt where
  ch := ChanSt.reset
  latch := false
  run := 0
  cutNow := false
  cutSeen := false
  escDue := false
  want := false
  lowAt := 0
  state := 0
  openCnt := 0
  shortCnt := 0

def MemberSt.reset : MemberSt where
  last := 0
  miss := 0
  code := 0
  same := 0
  span := none

def PairSt.reset : PairSt where
  onAt := 0
  memE := MemberSt.reset
  memO := MemberSt.reset
  ofsD := 0
  skewD := 0
  failE := false
  failO := false
  cause := 0
  run := 0
  diverging := false
  checkDue := none
  checkAt := none
  n := 0
  sr := 0
  srs := 0
  sss := 0
  boundO := false
  boundS := false
  hist := []

def StreamSt.reset : StreamSt where
  lanes := []
  t0 := 0
  flags := 0
  cnt := 0
  seq := 0
  dropping := false

def AcqSt.reset : AcqSt where
  pairs := Vector.replicate 16 PairSt.reset
  link0 := []
  link1 := []
  latest := []
  calValid := false
  restored := false
  calFailPhase := 0
  calFirst := 0
  streams := Vector.replicate 32 StreamSt.reset
  vcRefRun := Vector.replicate 8 0
  clampAt := []
  recLeft := []
  bankClamp := []
  urgents := []
  gridAt := 0
  runAt := 0
  busy := []
  hkAt := Vector.replicate 22 0
  refAt := Vector.replicate 8 0

def GlkSt.reset : GlkSt where
  lost := false
  lastSeq := 0
  seqSeen := false
  lastAt := 0
  lastSt := 0
  tlm := 0
  cmdBusy := false
  cmdWait := false
  cmdSeq := 0
  cmdFrames := 0
  cmdFailDue := false
  discards := []
  sent := 0
  lastSent := 0
  gateBad := 0
  gateDue := 0
  gateRaised := 0
  desat := 0
  uvloP := 0
  uvloN := 0
  tsdCnt := Vector.replicate 3 0
  tsdRaised := 0
  temp := Vector.replicate 3 none
  inRound := 0
  lostRaised := false
  errRaised := false

/-- k_ov of a link without a sequence is 1 (R245). -/
def SupSt.reset : SupSt where
  reqs := []
  f5 := false
  f4 := false
  estopHeld := false
  mbrk := false
  yielded := false
  hbStop := false
  hist := []
  histLost := 0
  kOv := Vector.replicate 2 1
  ov2 := Vector.replicate 2 false
  ov2Start := Vector.replicate 2 none
  ov2Hi := Vector.replicate 2 false
  legI := Vector.replicate 24 0
  uvRun := Vector.replicate 2 0
  uvDue := Vector.replicate 2 false
  ov1At := Vector.replicate 2 none
  qFrac := Vector.replicate 48 0
  cycles := Vector.replicate 24 ⟨none, none⟩
  glk := Vector.replicate 8 GlkSt.reset

/-- Nominal trims of a BLANK region 1 (Table 15.3): N0 = 10,000, T0 = 400, K = −1.6. -/
def SensorSt.reset : SensorSt where
  temp := 0
  have_ := false
  broken := false
  cause := 0
  n0 := 10000
  t0 := 400
  k := -16 / 10

def ZoneSt.reset : ZoneSt where
  temp := 0
  tw1 := false
  tsd := false
  tw1Up := 0
  tw1Dn := 0
  tsdUp := 0
  tsdDn := 0

def ThmSt.reset : ThmSt where
  sens := Vector.replicate 16 SensorSt.reset
  zones := Vector.replicate 8 ZoneSt.reset
  tDie := 0
  readAt := 0
  read := false
  lastRound := 0
  thw := false
  shutRun := false
  shutHeld := false
  yielding := false
  seqDue := false
  seqAt := 0
  tNew := none
  tmaxExp := false
  exitCnt := 0
  exitMet := false
  exitDue := false

def RingSt.reset : RingSt where
  head := 0
  tail := 0
  phase := false
  stopped := false
  cause := 0
  closing := false
  sig := 0
  sigAt := none
  began := none
  taken := false
  marks := []
  fetched := 0

def Lop.reset : Lop where
  state := 0
  gen := 0
  opc := 0
  ring := 0
  tag := 0
  irq := false
  seq := 0
  arg0 := 0
  arg1 := 0
  phase := 0
  pauses := 0
  since := 0
  suspAt := 0
  stale := false
  ending := 0
  res := []
  quit := 0

/-- Bus Master Enable 0, the value PCI gives it (PRESUMED); the link is taken as trained at Gen3 (DESIGN CHOICE, unsafe): log 10. -/
def HostSt.reset : HostSt where
  rings := Vector.replicate 48 RingSt.reset
  waiting := []
  cpls := []
  lops := Vector.replicate 8 Lop.reset
  held := []
  fences := []
  fenceOk := []
  mem := []
  msgs := Vector.replicate 32 0
  pba := 0
  aer := 0
  msxMask := false
  latchP := none
  latchS := none
  latchM := none
  readP := 0
  readS := 0
  readM := 0
  d3hot := false
  bme := false
  linkGen := 3
  linkUp := true
  opLost := []
  calLost := false
  rejoinLost := false
  reportDue := true

def SiloCh.reset : SiloCh where
  state := 0
  recs := []
  trig := none
  tTime := 0
  trigDue := []
  preShort := false
  dec := 0
  last := none
  cond := false
  marking := []
  seq8 := 0
  gap := false
  losing := false
  outq := []
  quads := 0
  rearm := false
  stopped := false

/-- A region never judged since reset: STATUS fields read 0 until the load (OTP_REGION reset 0). -/
def RegionSt.reset : RegionSt where
  load := 0
  now := 0
  weak := false
  weakCnt := 0
  forced := false
  bad := false

/-- An array in which nothing is burned. DESIGN CHOICE, unsafe (log 11): the spec gives no device's fuse content. -/
def OtpSt.reset : OtpSt where
  norm := []
  marg := []
  loaded := false
  regions := Vector.replicate 16 RegionSt.reset
  wl := 0
  rl := 0
  lc := 0
  lcBad := false
  shadow := []
  burn := none
  scanDue := false
  scans := 0
  log := []
  lastRounds := 0
  lastOutcome := 0
  lastWeak := false
  check := 0
  scanAt := 0
  scanBands := []
  weakSeen := []

def MsrSt.reset : MsrSt where
  running := false
  ready := false
  bar4 := []
  len := 0
  image := []
  srcHost := false
  measured := false
  sig := 0
  bootFail := false
  tries := 0
  changed := false
  expect := 0
  digest := 0
  otpDigest := 0
  log := []
  count := 0
  keyHave := false
  keyD := 0
  keyX := 0
  keyY := 0
  queue := []
  reports := 0
  window := []
  svcBusy := false
  svcReady := false
  mgr := false

/-- PCR_CLK_STAT reset 0x7, power state RUN (PCR_PWR_STAT reset 0), straps all 0. The strap levels are the board's:
DESIGN CHOICE, unsafe (log 8); RESET_RELEASE latches the levels it is given. -/
def PcrSt.reset : PcrSt where
  warn := 0
  warnAt := Vector.replicate 4 0
  runAt := none
  stopRaised := false
  stopping := false
  stopHeld := false
  stopDue := false
  stopAt := 0
  stopTmax := false
  settled := false
  dipCnt := 0
  clkFault := false
  pll0 := true
  pll1 := true
  xtal := true
  mgtCyc := 0
  ctlCyc := 0
  state := 0
  transit := false
  target := 0
  transitEnd := 0
  deepAt := 0
  lastWake := 0
  retained := false
  asserted := none
  borSeen := 0
  wakeN := false
  last := 0
  borRail := 0
  mgrLock := false
  mgrCnt := 0
  straps := 0

def LinkSt.reset : LinkSt where
  locked := false
  lockAt := 0
  everLock := false
  bits := 0
  errors := 0
  losses := 0

/-- IDCODE is selected in Test-Logic-Reset (R462). -/
def LtsSt.reset : LtsSt where
  links := Vector.replicate 13 LinkSt.reset
  loopEnd := none
  stYield := false
  tap := 0
  boundary := 0

def YplSt.reset : YplSt where
  role := .unjoined
  roleWas := .unjoined
  epochWas := 0
  claim := false
  own := false
  yieldIn := false
  epoch := 0
  epochOk := false
  lanes := 0
  laneBad := 0
  seen := false
  pRole := 0
  pPos := false
  pUnfit := false
  pFseq := 0
  pEpoch := 0
  lastRx := 0
  fseq := 0
  lastTx := 0
  sent := []
  txq := []
  lastSync := 0
  syncTx := 0
  syncRx := 0
  offset := 0
  good := 0
  bad := 0
  stepped := false
  aligned := false
  delay := 0
  left := 0
  corrAt := 0
  corrs := 0
  next := none
  adopted := none
  expect := 0
  divRun := Vector.replicate 2 0
  divLast := Vector.replicate 2 0
  diverged := false
  divDue := Vector.replicate 2 false
  digest := 0
  digBad := none
  fit := false
  refuse := 0
  claimAt := none
  claimFell := none
  ownAt := none
  blocked := false
  hoAt := none
  hoOut := false
  hoReply := false
  hoPrep := false
  nonce := 0
  frags := []
  pJoining := false
  shadowRun := 0
  devF5 := false
  devShut := false

/-- The first kick expected is 0x5A (R336). -/
def SvcSt.reset : SvcSt where
  miso := 0
  err := false
  out := 0
  wdOn := false
  wdAt := 0
  kicked := false
  wdi := false
  expect := 0x5A
  cleared := false
  nonce := Vector.replicate 8 0
  due := false
  safes := []

def EccSt.reset : EccSt where
  poison := []
  fixes := []

/-- The device at the release of a power-on reset (R437, t2): PAC_TIME 0, straps latched, every window OUT, no OTP
shadow yet, node space at its initial values, no firmware. -/
def State.reset : State where
  time := 0
  freeCtr := 0
  pending := []
  fpSteps := 200
  fpNewAt := none
  lastFp := 0
  lastSp := 0
  lastHr := 0
  started := false
  regs := []
  nodes := []
  ecc := EccSt.reset
  late := []
  mach := Vector.replicate 2 MachSt.reset
  sets := Vector.replicate 8 SetSt.reset
  chans := Vector.replicate 48 ChanSt.reset
  edges := []
  groups := Vector.replicate 8 GroupSt.reset
  direct := DirectSt.reset
  chops := Vector.replicate 2 ChopSt.reset
  acq := AcqSt.reset
  winOut := 0xFFFFF
  flt := 0
  estop := false
  sup := SupSt.reset
  thm := ThmSt.reset
  host := HostSt.reset
  silo := Vector.replicate 16 SiloCh.reset
  otp := OtpSt.reset
  msr := MsrSt.reset
  pcr := PcrSt.reset
  lts := LtsSt.reset
  ypl := YplSt.reset
  svc := SvcSt.reset

end Sys2Proof.Machine
end

