-- ==== Sys2Proof/Machine/Ops.lean ====
section
/-! DEFINITION. Ops.lean: the named operations over the state: bit fields, association lists, registers, vectors, time, rings,
completions, events, and the common beginning of every host command. -/
namespace Sys2Proof.Machine

/-! ### Bits -/

/-- Bits [hi:lo] of a number. -/
def bitsN (n hi lo : Nat) : Nat := (n >>> lo) % 2 ^ (hi - lo + 1)

/-- Bits [hi:lo] of a word. -/
def bits (w : Word) (hi lo : Nat) : Nat := bitsN w.toNat hi lo

/-- A word with bits [hi:lo] replaced by the low bits of `v`. -/
def setBits (w : Word) (hi lo v : Nat) : Word :=
  let n := w.toNat
  let m := 2 ^ (hi - lo + 1)
  BitVec.ofNat 32 (n - ((n >>> lo) % m) * 2 ^ lo + (v % m) * 2 ^ lo)

/-- One or zero. -/
def b2n (b : Bool) : Nat := if b then 1 else 0

/-- Place a field value at bit `lo`. -/
def at_ (v lo : Nat) : Nat := v <<< lo

/-- A signed value of a field of `w` bits. -/
def sgn (v w : Nat) : Int := if v < 2 ^ (w - 1) then (v : Int) else (v : Int) - (2 : Int) ^ w

/-- The two's complement of `i` in `w` bits. -/
def uns (i : Int) (w : Nat) : Nat := (i % ((2 : Int) ^ w)).toNat

/-- Saturating addition. -/
def satAdd (v d mx : Nat) : Nat := min (v + d) mx

/-! ### Association lists with rising keys -/

/-- The value at a key. -/
def alGet {α : Type} : List (Nat × α) → Nat → Option α
  | [], _ => none
  | (k, v) :: l, a => if k = a then some v else if a < k then none else alGet l a

/-- Put a value at a key, keeping the keys rising. -/
def alSet {α : Type} : List (Nat × α) → Nat → α → List (Nat × α)
  | [], a, x => [(a, x)]
  | (k, v) :: l, a, x => if k = a then (a, x) :: l else if a < k then (a, x) :: (k, v) :: l else (k, v) :: alSet l a x

/-- Remove a key. -/
def alDel {α : Type} : List (Nat × α) → Nat → List (Nat × α)
  | [], _ => []
  | (k, v) :: l, a => if k = a then l else if a < k then (k, v) :: l else (k, v) :: alDel l a

/-- Put a value that an unlisted key already has by removing the entry: the canonical form. -/
def alPut {α : Type} [DecidableEq α] (dflt : α) (l : List (Nat × α)) (a : Nat) (x : α) : List (Nat × α) :=
  if x = dflt then alDel l a else alSet l a x

/-- Keys strictly rise. -/
def alRising {α : Type} : List (Nat × α) → Bool
  | [] => true
  | [_] => true
  | (a, _) :: (b, y) :: l => decide (a < b) && alRising ((b, y) :: l)

/-! ### Vectors -/

/-- Change one element. -/
def vmod {α : Type} {n : Nat} (v : Vector α n) (i : Fin n) (f : α → α) : Vector α n := v.set i (f v[i])

def State.modMach (s : State) (m : Fin 2) (f : MachSt → MachSt) : State := { s with mach := vmod s.mach m f }
def State.modSet (s : State) (w : Fin 8) (f : SetSt → SetSt) : State := { s with sets := vmod s.sets w f }
def State.modChan (s : State) (n : Fin 48) (f : ChanSt → ChanSt) : State := { s with chans := vmod s.chans n f }
def State.modGroup (s : State) (g : Fin 8) (f : GroupSt → GroupSt) : State := { s with groups := vmod s.groups g f }
def State.modChop (s : State) (c : Fin 2) (f : ChopSt → ChopSt) : State := { s with chops := vmod s.chops c f }
def State.modPair (s : State) (p : Fin 16) (f : PairSt → PairSt) : State :=
  { s with acq := { s.acq with pairs := vmod s.acq.pairs p f } }
def State.modStream (s : State) (i : Fin 32) (f : StreamSt → StreamSt) : State :=
  { s with acq := { s.acq with streams := vmod s.acq.streams i f } }
def State.modGlk (s : State) (g : Fin 8) (f : GlkSt → GlkSt) : State :=
  { s with sup := { s.sup with glk := vmod s.sup.glk g f } }
def State.modSilo (s : State) (c : Fin 16) (f : SiloCh → SiloCh) : State := { s with silo := vmod s.silo c f }
def State.modRing (s : State) (i : Fin 48) (f : RingSt → RingSt) : State :=
  { s with host := { s.host with rings := vmod s.host.rings i f } }
def State.modLop (s : State) (k : Fin 8) (f : Lop → Lop) : State :=
  { s with host := { s.host with lops := vmod s.host.lops k f } }
def State.modZone (s : State) (z : Fin 8) (f : ZoneSt → ZoneSt) : State :=
  { s with thm := { s.thm with zones := vmod s.thm.zones z f } }
def State.modLink (s : State) (k : Fin 13) (f : LinkSt → LinkSt) : State :=
  { s with lts := { s.lts with links := vmod s.lts.links k f } }
def State.modRegion (s : State) (r : Fin 16) (f : RegionSt → RegionSt) : State :=
  { s with otp := { s.otp with regions := vmod s.otp.regions r f } }

/-- Apply `f` for each index below a bound, lowest first. -/
def forFin {α : Type} (n : Nat) (s : α) (f : α → Fin n → α) : α := (List.finRange n).foldl f s

/-! ### Time -/

/-- Move to an instant; time never runs back. -/
def State.adv (s : State) (t : Time) : State := { s with time := max s.time t }

/-- PAC_TIME in ticks. -/
def State.pacTime (s : State) : Nat := ticksOf s.time

/-- A free value, and the state with the next one due. -/
def State.free (s : State) : BitVec 32 := Config.free s.freeCtr
def State.freeNext (s : State) : State := { s with freeCtr := s.freeCtr + 1 }

/-- An instant stamped outside CTL: within one tick of the true one, by a free value (R33). -/
def State.stamp (s : State) (t : Time) : Time := t / 5 * 5 + 5 * (s.free.toNat % 3) - 5

/-- Grid conversions, and the housekeeping schedule, begin anew now (R191, R196). -/
def State.gridStart (s : State) : State := { s with acq := { s.acq with gridAt := s.time, hkAt := Vector.replicate 22 s.time } }

/-- FP in force, in `Time` units. -/
def State.fp (s : State) : Time := s.fpSteps * 10

/-! ### Registers -/

/-- The reset value of word `part` of element `i`. -/
def RegDesc.resetAt (d : RegDesc) (i part : Nat) : Word :=
  match d.reset with
  | [r] => BitVec.ofNat 32 (r >>> (32 * part))
  | rs => BitVec.ofNat 32 ((rs.getD i 0) >>> (32 * part))

/-- The offset of word `part` of element `i`. -/
def RegDesc.off (d : RegDesc) (i part : Nat) : Nat := d.base + i * d.stride + 4 * part

/-- The stored fields of one word of a register. -/
def State.rgetP (s : State) (d : RegDesc) (i part : Nat) : Word :=
  (alGet s.regs (d.off i part)).getD (d.resetAt i part)

def State.rget (s : State) (d : RegDesc) (i : Nat) : Word := s.rgetP d i 0

/-- Store one word of a register, keeping the canonical form. -/
def State.rsetP (s : State) (d : RegDesc) (i part : Nat) (w : Word) : State :=
  { s with regs := alPut (d.resetAt i part) s.regs (d.off i part) w }

def State.rset (s : State) (d : RegDesc) (i : Nat) (w : Word) : State := s.rsetP d i 0 w

/-- A stored field. -/
def State.rf (s : State) (d : RegDesc) (i hi lo : Nat) : Nat := bits (s.rget d i) hi lo

/-- A stored one-bit field. -/
def State.rb (s : State) (d : RegDesc) (i k : Nat) : Bool := (s.rget d i).getLsbD k

/-- Set a stored field. -/
def State.rsetF (s : State) (d : RegDesc) (i hi lo v : Nat) : State := s.rset d i (setBits (s.rget d i) hi lo v)

/-- Count up a stored counter field, saturating. -/
def State.rcount (s : State) (d : RegDesc) (i hi lo n : Nat) : State :=
  s.rsetF d i hi lo (satAdd (s.rf d i hi lo) n (2 ^ (hi - lo + 1) - 1))

/-- Registers answer: no reset other than MGR is asserted, and the device is not in DEEP (R445). -/
def State.regsOn (s : State) : Bool := s.pcr.asserted.isNone && s.pcr.state != 3

/-- A register write at `t`: discarded while registers do not answer. -/
def State.onRegs (s : State) (t : Time) (f : State → State) : Host.Outcome State Fault Refusal :=
  let s := s.adv t
  .next (if s.regsOn then f s else s)

/-- GLB_STATUS.WRITE_REJECT becomes 1 (R9). -/
def State.writeReject (s : State) : State := s.rsetF regGlbStatus 0 0 0 1

/-! ### Ring access -/

def State.ringEn (s : State) (i : Fin 48) : Bool := s.rb regRngCfg i 0
def State.ringK (s : State) (i : Fin 48) : Nat := s.rf regRngCfg i 8 4
def State.ringSize (s : State) (i : Fin 48) : Nat := 2 ^ s.ringK i

/-- Entries between head and tail. -/
def State.ringUsed (s : State) (i : Fin 48) : Nat :=
  let n := s.ringSize i
  (s.host.rings[i].tail + n - s.host.rings[i].head % n) % n

/-- Free entries: one always stays unused (R313). -/
def State.ringFree (s : State) (i : Fin 48) : Nat := s.ringSize i - 1 - s.ringUsed i

/-- The device may issue transfers (R306, R357, R441). -/
def State.busOk (s : State) : Bool := s.host.bme && !s.host.d3hot && s.host.linkUp

/-- The ring can take a quad now. -/
def State.canPut (s : State) (i : Fin 48) : Bool :=
  s.ringEn i && !s.host.rings[i].stopped && decide (0 < s.ringFree i) && s.busOk

def cqIdx (n : Fin 16) : Fin 48 := ⟨n.val, by omega⟩
def dqIdx (n : Fin 16) : Fin 48 := ⟨16 + n.val, by omega⟩
def eqIdx (r : Fin 4) : Fin 48 := ⟨32 + r.val, by omega⟩
def sqIdx (r : Fin 8) : Fin 48 := ⟨36 + r.val, by omega⟩
def tqIdx (r : Fin 4) : Fin 48 := ⟨44 + r.val, by omega⟩

/-- RNG_BASE of a ring. -/
def State.ringBase (s : State) (i : Fin 48) : Nat :=
  (s.rgetP regRngBase i 0).toNat + (s.rgetP regRngBase i 1).toNat * 2 ^ 32

/-- Write a word of host memory. -/
def State.hostWrite (s : State) (addr : Nat) (w : Word) : State :=
  { s with host := { s.host with mem := alSet s.host.mem addr w } }

/-- Write the four words of a quad, low word first (R5, R311). -/
def State.hostWriteQuad (s : State) (addr : Nat) (q : Quad) : State :=
  (((s.hostWrite addr (q.extractLsb' 0 32)).hostWrite (addr + 4) (q.extractLsb' 32 32)).hostWrite
    (addr + 8) (q.extractLsb' 64 32)).hostWrite (addr + 12) (q.extractLsb' 96 32)

/-- Vector `v` is masked, by its own mask or by the function mask (R329). MSI-X is taken as enabled: PRESUMED, unsafe (log 162). -/
def State.msixMasked (s : State) (v : Nat) : Bool :=
  (s.rget regMsxEntry (4 * v + 3)).getLsbD 0 || s.host.msxMask

/-- Send the message of a vector, or hold it pending while the vector is masked or no transfer may issue (R306, R329, R357). -/
def State.msixSend (s : State) (v : Nat) : State :=
  if s.msixMasked v || !s.busOk then { s with host := { s.host with pba := s.host.pba ||| (1#32 <<< v) } }
  else
    let s := { s with host := { s.host with pba := s.host.pba &&& ~~~ (1#32 <<< v) } }
    let addr := (s.rget regMsxEntry (4 * v)).toNat + (s.rget regMsxEntry (4 * v + 1)).toNat * 2 ^ 32
    let s := s.hostWrite addr (s.rget regMsxEntry (4 * v + 2))
    if h : v < 32 then { s with host := { s.host with msgs := vmod s.host.msgs ⟨v, h⟩ (· + 1) } } else s

/-- Send every pending message that nothing holds back any more. -/
def State.msixPump (s : State) : State :=
  if s.busOk then forFin 32 s fun s v => if s.host.pba.getLsbD v && !s.msixMasked v then s.msixSend v else s else s

/-- A ring announces what it has written and restarts its moderation count (R330). -/
def State.ringSignal (s : State) (i : Fin 48) : State :=
  (s.modRing i fun r => { r with sig := 0, sigAt := none }).msixSend (s.rf regRngCfg i 13 9)

/-- COUNT of a ring's moderation; 0 is taken as 1 (R330). -/
def State.modCount (s : State) (i : Fin 48) : Nat := max 1 (s.rf regRngMod i 15 0)

/-- Account for one written entry: `sigs` it signals, `now` it bypasses moderation (R330). -/
def State.ringNote (s : State) (i : Fin 48) (sigs now : Bool) : State :=
  if !s.rb regRngCfg i 14 || !sigs then s
  else
    let s := s.modRing i fun r => { r with sig := r.sig + 1, sigAt := some (r.sigAt.getD s.time) }
    if now || decide (s.modCount i ≤ s.host.rings[i].sig) then s.ringSignal i else s

/-- Write a quad at the ring's tail with its PHASE bit, advance the tail and turn the phase at the wrap (R314). -/
def State.ringPut (s : State) (i : Fin 48) (q : Quad) (phaseBit : Nat) (sigs now : Bool) : State :=
  let r := s.host.rings[i]
  let q := if r.phase then q ||| (1#128 <<< phaseBit) else q
  let s := s.hostWriteQuad (s.ringBase i + 16 * r.tail) q
  let nt := (r.tail + 1) % s.ringSize i
  let s := s.modRing i fun r => { r with tail := nt, phase := if nt = 0 then !r.phase else r.phase }
  s.ringNote i sigs now

/-! ### Completions -/

/-- A completion quad without its PHASE (Table 12.5). -/
def cplQuad (epoch : Word) (c : Cpl) : Quad :=
  BitVec.ofNat 128 (c.status.toNat + at_ c.ring.val 8 + at_ c.tag.toNat 16 + at_ (c.seq % 2 ^ 32) 32 +
    at_ (epoch.toNat % 2 ^ 16) 64 + at_ c.result.toNat 80)

/-- Write a completion on DQ of its ring. -/
def State.writeCpl (s : State) (c : Cpl) : State :=
  s.ringPut (dqIdx c.ring) (cplQuad s.ypl.epoch c) 15 (c.irq || decide (0x10 ≤ c.status.toNat)) c.irq

/-- A quad of the RECOVERY record of pair `n` still waits to be written (R355). -/
def State.recordHeld (s : State) (n : Fin 16) : Bool :=
  s.host.held.any fun h => match h with | .record m _ => m == n | _ => false

/-- Write every prepared completion whose ring can take it, in order per ring; the rest stay held, those of a re-enabled ring until its
RECOVERY record is written (R352, R355, R357). -/
def State.flushCplsFrom (s : State) : List Cpl → List Cpl → State
  | [], kept => { s with host := { s.host with cpls := kept } }
  | c :: cs, kept =>
    if s.canPut (dqIdx c.ring) && !s.recordHeld c.ring && !kept.any (fun k => k.ring == c.ring) then (s.writeCpl c).flushCplsFrom cs kept
    else s.flushCplsFrom cs (kept ++ [c])

def State.flushCpls (s : State) : State := s.flushCplsFrom s.host.cpls []

/-- A command of CQn passes its commit point now (R340, R360): its SEQ is noted, with the newest note that is at least 40 ns
old. -/
def State.noteCommit (s : State) (n : Fin 16) (seq : Nat) : State :=
  s.modRing (cqIdx n) fun r =>
    if r.began != some seq || r.marks.head?.map (·.2) == some seq then r
    else
      let old := r.marks.dropWhile fun (t, _) => decide (s.time < t + lead40)
      { r with marks := (s.time, seq) :: (r.marks.takeWhile fun (t, _) => decide (s.time < t + lead40)) ++ old.take 1 }

/-- Prepare a completion and write it if its ring takes it. -/
def State.complete (s : State) (c : Cpl) : State :=
  let s := s.noteCommit c.ring c.seq
  { s with host := { s.host with cpls := s.host.cpls ++ [c] } }.flushCpls

/-! ### Status codes (Table 12.7) -/

abbrev stOk : BitVec 8 := 0x00
abbrev stAccepted : BitVec 8 := 0x01
abbrev stSuspended : BitVec 8 := 0x02
abbrev stCancelled : BitVec 8 := 0x03
abbrev stBadOpcode : BitVec 8 := 0x10
abbrev stBadOperand : BitVec 8 := 0x11
abbrev stRoleStale : BitVec 8 := 0x12
abbrev stRefusedState : BitVec 8 := 0x13
abbrev stRefusedSpeed : BitVec 8 := 0x14
abbrev stRefusedTemp : BitVec 8 := 0x15
abbrev stRefusedSupply : BitVec 8 := 0x16
abbrev stLocked : BitVec 8 := 0x17
abbrev stLifecycle : BitVec 8 := 0x18
abbrev stLockIncomplete : BitVec 8 := 0x19
abbrev stDmaError : BitVec 8 := 0x20
abbrev stTimeout : BitVec 8 := 0x21
abbrev stVerifyFail : BitVec 8 := 0x22
abbrev stAborted : BitVec 8 := 0x23
abbrev stFlushed : BitVec 8 := 0x30

/-- Complete the command of a context. -/
def State.finish (s : State) (c : Waiting) (st : BitVec 8) (result : Nat) : State :=
  s.complete ⟨c.ring, st, c.tag, c.seq, c.irq, BitVec.ofNat 48 result⟩

/-- The quad at a host address; a word that the device has not written itself is a free value (log 38). -/
def State.hostQuad (s : State) (addr : Nat) : Quad :=
  let f : Quad := (Config.freeWide s.freeCtr).setWidth 128
  let w := fun (k : Nat) => (alGet s.host.mem (addr + 4 * k)).getD (f.extractLsb' (32 * k) 32)
  w 3 ++ w 2 ++ w 1 ++ w 0

/-- One entry of CQn posted and not begun completes FLUSHED, with the TAG and the IRQ of its quad (R319, R330, R356). -/
def State.flushOne (s : State) (n : Fin 16) : State :=
  let q := s.rget regRngSeq n
  let c := (quadCmd n (s.hostQuad (s.ringBase (cqIdx n) + 16 * s.host.rings[cqIdx n].head))).2
  let s := s.freeNext.modRing (cqIdx n) fun r => { r with head := (r.head + 1) % s.ringSize (cqIdx n) }
  (s.rset regRngSeq n (q + 1)).complete ⟨n, stFlushed, c.tag, q.toNat, c.irq, 0⟩

/-- A command ring that is being disabled (R356): once no begun command holds it every posted entry completes FLUSHED; once every
completion is written EN reads 0. -/
def State.closeTry (s : State) (n : Fin 16) : State :=
  if s.host.rings[cqIdx n].closing && !s.host.waiting.any (fun k => k.ring == n) then
    let s := (List.range (s.ringUsed (cqIdx n))).foldl (fun s _ => s.flushOne n) s
    if s.host.cpls.any (fun k => k.ring == n) then s
    else (s.modRing (cqIdx n) fun r => { r with closing := false }).rsetF regRngCfg n 0 0 0
  else s

/-- Remove a waiting command and complete it. -/
def State.finishW (s : State) (c : Waiting) (st : BitVec 8) (result : Nat) : State :=
  (({ s with host := { s.host with waiting := s.host.waiting.erase c } }).finish c st result).closeTry c.ring

/-- Put a begun command among the waiting ones. -/
def State.await (s : State) (c : Waiting) : State :=
  { s with host := { s.host with waiting := s.host.waiting ++ [c] } }

/-- Begin waiting for a boundary that judges the command: it is not committed before (R340). -/
def State.awaitJudge (s : State) (c : Waiting) (due : Time) (aux : Nat) : State := s.await { c with due := due, aux := aux }

/-- The oldest waiting command of an opcode. -/
def State.oldest (s : State) (opc : BitVec 8) : Option Waiting := s.host.waiting.find? (fun c => c.opc == opc)

/-! ### Roles and power states -/

/-- Code of Table 11.1. -/
def Role.code : Role → Nat
  | .unjoined => 0
  | .standby => 1
  | .active => 2
  | .lockout => 3
  | .solo => 4

/-- ACTIVE or SOLO. -/
def State.owner (s : State) : Bool := s.ypl.role == .active || s.ypl.role == .solo

/-- The power state that commands see: DEEP during the transition window to DEEP (R445). -/
def State.pwr (s : State) : Nat := if s.pcr.transit && s.pcr.target == 3 then 3 else s.pcr.state

/-- GLB_STATUS.STARTED = 0 or the power state is HOLD. -/
def State.idleWindow (s : State) : Bool := !s.started || s.pcr.state == 1

/-- The device runs in shadow: STANDBY, or in phase 5 of PAIR_REJOIN (R287, R299). -/
def State.shadow (s : State) : Bool :=
  s.ypl.role == .standby || s.host.lops.toList.any fun l => l.state != 0 && l.opc == 0x49 && l.phase == 5

/-- PAIR_EN and PAIR_POS (GLB_STRAPS). -/
def State.pairEn (s : State) : Bool := s.pcr.straps.getLsbD 2
def State.posB (s : State) : Bool := s.pcr.straps.getLsbD 1

/-! ### Beginning a command -/

/-- Long operations from CQn still running or suspended (R315). -/
def State.lopsOf (s : State) (n : Fin 16) : Nat :=
  (s.host.lops.toList.filter fun l => l.state != 0 && l.ring == n).length

/-- A command of CQn may begin: the ring is enabled, not stopped, not empty and not held; its entry can be fetched, or may have been before
transfers stopped (R306, R357; log 159); DQn is enabled with 2 + L free entries; the firmware runs; the device is not in DEEP (R315, R332,
R339, R352, R356, R358, R445). -/
def State.canBegin (s : State) (n : Fin 16) : Bool :=
  let c := s.host.rings[cqIdx n]
  s.ringEn (cqIdx n) && !c.stopped && !c.closing && decide (0 < s.ringUsed (cqIdx n)) && (s.busOk || decide (0 < c.fetched)) &&
  s.ringEn (dqIdx n) && !s.host.rings[dqIdx n].stopped &&
  decide (2 + s.lopsOf n + (s.host.cpls.filter fun k => k.ring == n).length ≤ s.ringFree (dqIdx n)) &&
  !s.host.waiting.any (fun k => k.ring == n) && s.msr.running && !s.msr.mgr && s.pcr.state != 3 &&
  s.pcr.asserted.isNone

/-- Take the next entry of CQn: the head advances, the command gets RNG_SEQ and the count moves on (R320). -/
def State.takeCmd (s : State) (n : Fin 16) : State :=
  let q := s.rget regRngSeq n
  let s := s.modRing (cqIdx n) fun r =>
    { r with head := (r.head + 1) % s.ringSize (cqIdx n), began := some q.toNat, taken := true,
             fetched := r.fetched - 1 }
  s.rset regRngSeq n (q + 1)

/-- The context of a command as it begins. -/
def State.ctx (s : State) (q : CmdQ) (opc : BitVec 8) : Waiting where
  ring := q.ring
  opc := opc
  tag := q.tag
  irq := q.irq
  seq := (s.rget regRngSeq q.ring).toNat
  arg0 := q.arg0
  arg1 := q.arg1
  role := q.role
  at_ := s.time
  due := s.time
  aux := 0
  committed := false

/-- EXPECT_ROLE agrees with the role in force (Table 11.1, R345). -/
def State.roleMatches (s : State) (e : BitVec 2) : Bool :=
  e == 0 || (e == 1 && s.owner) || (e == 2 && s.ypl.role == .standby)

/-- The common frame of a host command (R315, R318, R321, R345): it begins if it may; the quad's checks are made in order;
then `body` runs on the state and the command's context. -/
def State.runCmd (s : State) (q : CmdQ) (opc : BitVec 8) (argsOk : Bool) (body : State → Waiting → State) :
    Host.Outcome State Fault Refusal :=
  if s.canBegin q.ring then
    let c := s.ctx q opc
    let s := s.takeCmd q.ring
    if q.role == 3 then .next (s.finish c stBadOperand 0)
    else if !s.roleMatches q.role then
      .next (s.finish c stRoleStale (s.ypl.role.code + at_ s.ypl.epoch.toNat 16))
    else if q.rsv9 || q.rsv12 != 0 || !argsOk then .next (s.finish c stBadOperand 0)
    else .next (body s c)
  else .next s

/-- A command that reads host memory as it begins waits while transfers are stopped, unless its quad is refused before (R357; log 159). -/
def State.waitsData (s : State) (q : CmdQ) (argsOk refused : Bool) : Bool :=
  !s.busOk && q.role != 3 && s.roleMatches q.role && !q.rsv9 && q.rsv12 == 0 && argsOk && !refused

/-- R302: the role is STANDBY, UNJOINED or LOCKOUT. -/
def State.notOwner (s : State) : Bool := !s.owner

/-! ### Events -/

/-- An event quad without PHASE (Table 12.9). -/
def evtQuad (epoch : Word) (e : Evt) : Quad :=
  BitVec.ofNat 128 (e.cls + at_ e.index 8 + at_ e.level 16 + at_ e.fclass 20 + at_ (epoch.toNat % 256) 24 +
    at_ e.detail.toNat 32 + at_ (ticksOf e.time % 2 ^ 64) 64)

/-- The rings of an event's class nibble in RNG_EVT_ROUTE (R328). -/
def State.routeOf (s : State) (cls : Nat) : List (Fin 4) :=
  let v := (s.rgetP regRngEvtRoute 0 0).toNat + (s.rgetP regRngEvtRoute 0 1).toNat * 2 ^ 32
  (List.finRange 4).filter fun r => (v >>> (4 * cls + r.val)) % 2 = 1

/-- Some event ring is enabled. -/
def State.anyEq (s : State) : Bool := (List.finRange 4).any fun r => s.ringEn (eqIdx r)

/-- Rings that a RECOVERY quad goes to (R353): enabled, not stopped and routed for FAULT; else the lowest enabled one. -/
def State.recoveryRings (s : State) : List (Fin 4) :=
  let live := (List.finRange 4).filter fun r => s.ringEn (eqIdx r) && !s.host.rings[eqIdx r].stopped
  let routed := live.filter fun r => (s.routeOf 1).contains r
  if routed.isEmpty then live.take 1 else routed

/-- Where a held entry must go. -/
def State.heldRings (s : State) : Held → List (Fin 4)
  | .event e => s.routeOf e.cls
  | .recovery _ => s.recoveryRings
  | .record _ _ => s.recoveryRings
  | .mark r _ => [r]

def Held.evt : Held → Evt
  | .event e => e
  | .recovery e => e
  | .record _ e => e
  | .mark _ e => e

/-- An event, or a RECOVERY quad, must wait behind a fence whose mark on one of its rings is not yet placed (R343). -/
def State.fenceBlocks (s : State) (h : Held) (rs : List (Fin 4)) : Bool :=
  match h with
  | .mark _ _ => false
  | _ => s.host.fences.any fun f => !f.marked && decide (f.tf ≤ h.evt.time) && rs.any fun r => f.mask.getLsbD r

/-- Write one entry to its rings; a fault of F2 and above signals at once (R330). -/
def State.putHeld (s : State) (h : Held) : State :=
  (s.heldRings h).foldl
    (fun s r => s.ringPut (eqIdx r) (evtQuad s.ypl.epoch h.evt) 23 true (decide (3 ≤ h.evt.fclass))) s

/-- An entry can be written now, given the rings that an earlier held entry keeps waiting. -/
def State.canHeld (s : State) (h : Held) (blocked : List (Fin 4)) : Bool :=
  let rs := s.heldRings h
  (match h with
   | .recovery _ => !rs.isEmpty
   | .record _ _ => !rs.isEmpty
   | _ => s.anyEq) &&
  rs.all (fun r => s.canPut (eqIdx r) && !blocked.contains r) && !s.fenceBlocks h rs

/-- An entry behind a kept one of its source, with an earlier or equal TIME, that shares a ring with it (promise 4 of Table 13.1). -/
def State.behind (s : State) (h : Held) (kept : List Held) : Bool :=
  let e := h.evt
  kept.any fun k => k.evt.level == e.level && k.evt.index == e.index && decide (k.evt.time ≤ e.time) &&
    (s.heldRings k).any fun r => (s.heldRings h).contains r

/-- Write held entries in the order raised, per ring (R328); one that waits for a fence's mark lets earlier-stamped ones pass, and those
of other sources (R339, R343). -/
def State.drainFrom (s : State) : List Held → List Held → List (Fin 4) → State
  | [], kept, _ => { s with host := { s.host with held := kept } }
  | h :: hs, kept, blocked =>
    if s.canHeld h blocked && !s.behind h kept then (s.putHeld h).drainFrom hs kept blocked
    else s.drainFrom hs (kept ++ [h]) (if s.fenceBlocks h (s.heldRings h) then blocked else blocked ++ s.heldRings h)

def State.drain (s : State) : State := s.drainFrom s.host.held [] []

/-- Events among the held entries (marks and RECOVERY quads keep places of their own). -/
def heldEvents (l : List Held) : Nat :=
  (l.filter fun h => match h with | .event _ => true | _ => false).length

/-- Drop the oldest held event that is not of class FAULT. -/
def dropNonFault : List Held → Option (List Held)
  | [] => none
  | .event e :: l => if e.cls = 1 then (dropNonFault l).map (Held.event e :: ·) else some l
  | h :: l => (dropNonFault l).map (h :: ·)

/-- Add an event to the holding queue of 256 places; a full queue displaces or discards (R328). -/
def State.hold (s : State) (e : Evt) : State :=
  if heldEvents s.host.held < 256 then { s with host := { s.host with held := s.host.held ++ [.event e] } }
  else
    let s' := s.rcount regRngEvtStat 0 31 16 1
    if e.cls = 1 then
      match dropNonFault s.host.held with
      | some l => { s' with host := { s'.host with held := l ++ [.event e] } }
      | none => s'
    else s'

/-- The machine of a set (R17). -/
def machOf (w : Fin 8) : Fin 2 := if w.val < 4 then 0 else 1

/-- The machine an event of levels 0 to 3 concerns. -/
def Evt.machine (e : Evt) : Option (Fin 2) :=
  match e.level with
  | 0 => some (if e.index < 24 then 0 else 1)
  | 1 => some (if e.index < 12 then 0 else 1)
  | 2 => some (if e.index < 4 then 0 else 1)
  | 3 => some (if e.index = 0 then 0 else 1)
  | _ => none

/-- The index of the oldest entry of the lowest class held (R256). -/
def histVictim (l : List HistE) : Option (Nat × HistE) :=
  let rec go : List HistE → Nat → Option (Nat × HistE) → Option (Nat × HistE)
    | [], _, b => b
    | h :: t, i, none => go t (i + 1) (some (i, h))
    | h :: t, i, some (j, b) =>
      if h.cls < b.cls || (h.cls == b.cls && h.time < b.time) then go t (i + 1) (some (i, h))
      else go t (i + 1) (some (j, b))
  go l 0 none

/-- Record a FAULT event of class F1 to F5 (R256). -/
def State.record (s : State) (e : Evt) : State :=
  let same := fun (h : HistE) => bits h.detail 7 0 == bits e.detail 7 0 && h.level == e.level && h.index == e.index
  let new : HistE := ⟨e.time, e.detail, 0, e.fclass, e.level, e.index⟩
  if s.sup.hist.any same then
    { s with sup := { s.sup with hist := s.sup.hist.map fun h => if same h then { h with repeat_ := min 255 (h.repeat_ + 1) } else h } }
  else if s.sup.hist.length < 16 then { s with sup := { s.sup with hist := s.sup.hist ++ [new] } }
  else
    match histVictim s.sup.hist with
    | some (i, v) =>
      if v.cls ≤ e.fclass then { s with sup := { s.sup with hist := s.sup.hist.set i new } }
      else { s with sup := { s.sup with histLost := min 255 (s.sup.histLost + 1) } }
    | none => s

/-- RECOVERY of the machine's groups (Table 6.2). -/
def State.markRecovery (s : State) (m : Fin 2) : State :=
  forFin 8 s fun s g => if machOf g = m then s.modGroup g fun x => { x with recovery := true } else s

/-- SVC_IRQ bits that an event sets (SVC_IRQ). -/
def Evt.svcBits (e : Evt) : Word :=
  let code := bits e.detail 7 0
  (if e.cls = 1 ∧ 3 ≤ e.fclass then 1 else 0) ||| (if e.cls = 9 then 2 else 0) |||
  (if e.cls = 0x0A ∧ code = 0x86 then 4 else 0) |||
  (if (e.cls = 3 ∧ code = 0xA0) ∨ (e.cls = 1 ∧ code = 0xA2 ∧ e.level = 8 ∧ e.index = 9) then 0x20 else 0)

/-- A further trigger counts: each one of a ring channel, the first one of a one-shot channel (R378). -/
def SiloCh.takesTrig (x : SiloCh) : Bool := x.state == 5 || (x.trigDue.isEmpty && x.trig.isNone)

/-- Silo channels that an event triggers (R377). -/
def State.siloSees (s : State) (e : Evt) : State :=
  forFin 16 s fun s c =>
    let ch := s.silo[c]
    let live := ch.state == 1 || ch.state == 5 || ch.state == 2
    let t := s.rget regTrcTrig c
    let hit := bits t 31 28 == 2 && bits t 23 16 == e.cls && (t.getLsbD 11 || bits t 15 12 == e.level) &&
      (t.getLsbD 10 || bits t 7 0 == e.index)
    let ft := s.rb regTrcCtl 0 0 && e.cls == 1 && decide (5 ≤ e.fclass) && !s.rb regTrcCfg c 30
    if live && (hit || ft) && ch.takesTrig then s.modSilo c fun x => { x with trigDue := x.trigDue ++ [(e.time, !hit)] }
    else s

/-- Raise an event: record a fault, mark recovery, tell the service port and the Silo, and place it in the holding queue, from
which it is written as soon as its rings take it (R34, R256, R328, R377). -/
def State.raiseE (s : State) (e : Evt) : State :=
  let s := if e.cls = 1 ∧ 2 ≤ e.fclass then s.record e else s
  let s := match e.machine with
    | some m => if e.cls = 1 ∨ (e.cls = 0x0A ∧ e.level = 3 ∧ bits e.detail 7 0 = 0x35) then s.markRecovery m else s
    | none => s
  let s := s.rset regSvcIrq 0 (s.rget regSvcIrq 0 ||| e.svcBits)
  (s.siloSees e).hold e |>.drain

/-- Raise an event at an instant. -/
def State.raise (s : State) (cls level index fclass : Nat) (detail : Nat) (t : Time) : State :=
  s.raiseE ⟨cls, index, level, fclass, BitVec.ofNat 32 detail, t⟩

/-- The event of a RECOVERY quad (Table 13.5). -/
def recoveryEvt (detail : Nat) (t : Time) : Evt := ⟨0x0E, 0x0D, 8, 0, BitVec.ofNat 32 detail, t⟩

/-- A RECOVERY quad: never displaced. -/
def State.recoveryQuad (s : State) (detail : Nat) (t : Time) : State :=
  { s with host := { s.host with held := s.host.held ++ [Held.recovery (recoveryEvt detail t)] } }.drain

/-- A quad of the RECOVERY record of a command pair (R355). -/
def State.recordQuad (s : State) (n : Fin 16) (detail : Nat) (t : Time) : State :=
  { s with host := { s.host with held := s.host.held ++ [Held.record n (recoveryEvt detail t)] } }.drain

/-- A degradation (R37 to R39): set the GLB_HEALTH bit, keep its cause, raise the HEALTH event. -/
def State.health (s : State) (bit block inst extra : Nat) (t : Time) : State :=
  let s := s.rset regGlbHealth 0 (s.rget regGlbHealth 0 ||| (1#32 <<< bit))
  s.raise 9 8 block 0 (bit + at_ (inst % 256) 8 + at_ extra 16) t

end Sys2Proof.Machine
end

