-- ==== Sys2Proof/Machine/Crypto.lean ====
section
/-! DEFINITION. Crypto.lean: the named functions the spec takes from published standards: CRC-32 of IEEE 802.3 (R205, R280), CRC-8 of
R246, SHA-384 of FIPS 180-4 (R409), HMAC-SHA-384 and P-384 ECDSA with RFC 6979 nonces (R410, R414). -/
namespace Sys2Proof.Machine

abbrev Byte := BitVec 8

/-! ### Bytes -/

/-- The `n` bytes of a number, lowest first (R5). -/
def leBytes (n : Nat) : Nat → List Byte
  | 0 => []
  | k + 1 => BitVec.ofNat 8 n :: leBytes (n / 256) k

/-- The `n` bytes of a number, highest first. -/
def beBytes (n k : Nat) : List Byte := (leBytes n k).reverse

/-- The number that bytes spell, highest first, and lowest first. -/
def ofBe (l : List Byte) : Nat := l.foldl (fun a b => 256 * a + b.toNat) 0
def ofLe (l : List Byte) : Nat := ofBe l.reverse

/-- Bytes of words, low byte first. -/
def wordBytes (l : List Word) : List Byte := l.flatMap fun w => leBytes w.toNat 4
def quadBytes (l : List Quad) : List Byte := l.flatMap fun q => leBytes q.toNat 16

/-- Cut a list into pieces of `n`; `fuel` bounds their number. -/
def cutList {α : Type} (n : Nat) : Nat → List α → List (List α)
  | 0, _ => []
  | _ + 1, [] => []
  | k + 1, l => l.take n :: cutList n k (l.drop n)

/-- Quads of bytes, low byte first. -/
def bytesQuads (l : List Byte) : List Quad := (cutList 16 l.length l).map fun x => BitVec.ofNat 128 (ofLe x)

/-! ### Cyclic redundancy checks -/

/-- One bit of the reflected CRC-32 of IEEE 802.3. -/
def crcBit (c : Word) : Word := if c.getLsbD 0 then (c >>> 1) ^^^ 0xEDB88320 else c >>> 1
def crcByte (c : Word) (b : Byte) : Word := (List.range 8).foldl (fun c _ => crcBit c) (c ^^^ b.setWidth 32)
def crc32 (l : List Byte) : Word := ~~~ (l.foldl crcByte 0xFFFFFFFF)

/-- The CRC-8 of R246, on bits in the order they are sent: x^8 + x^2 + x + 1, from 0, not inverted. -/
def crc8Bit (c : Byte) (b : Bool) : Byte := if c.getLsbD 7 != b then (c <<< 1) ^^^ 0x07 else c <<< 1
def crc8 (l : List Bool) : Byte := l.foldl crc8Bit 0

/-! ### SHA-384 -/

def shaK0 : List (BitVec 64) :=
  [0x428A2F98D728AE22, 0x7137449123EF65CD, 0xB5C0FBCFEC4D3B2F, 0xE9B5DBA58189DBBC,
   0x3956C25BF348B538, 0x59F111F1B605D019, 0x923F82A4AF194F9B, 0xAB1C5ED5DA6D8118,
   0xD807AA98A3030242, 0x12835B0145706FBE, 0x243185BE4EE4B28C, 0x550C7DC3D5FFB4E2,
   0x72BE5D74F27B896F, 0x80DEB1FE3B1696B1, 0x9BDC06A725C71235, 0xC19BF174CF692694]

def shaK1 : List (BitVec 64) :=
  [0xE49B69C19EF14AD2, 0xEFBE4786384F25E3, 0x0FC19DC68B8CD5B5, 0x240CA1CC77AC9C65,
   0x2DE92C6F592B0275, 0x4A7484AA6EA6E483, 0x5CB0A9DCBD41FBD4, 0x76F988DA831153B5,
   0x983E5152EE66DFAB, 0xA831C66D2DB43210, 0xB00327C898FB213F, 0xBF597FC7BEEF0EE4,
   0xC6E00BF33DA88FC2, 0xD5A79147930AA725, 0x06CA6351E003826F, 0x142929670A0E6E70]

def shaK2 : List (BitVec 64) :=
  [0x27B70A8546D22FFC, 0x2E1B21385C26C926, 0x4D2C6DFC5AC42AED, 0x53380D139D95B3DF,
   0x650A73548BAF63DE, 0x766A0ABB3C77B2A8, 0x81C2C92E47EDAEE6, 0x92722C851482353B,
   0xA2BFE8A14CF10364, 0xA81A664BBC423001, 0xC24B8B70D0F89791, 0xC76C51A30654BE30,
   0xD192E819D6EF5218, 0xD69906245565A910, 0xF40E35855771202A, 0x106AA07032BBD1B8]

def shaK3 : List (BitVec 64) :=
  [0x19A4C116B8D2D0C8, 0x1E376C085141AB53, 0x2748774CDF8EEB99, 0x34B0BCB5E19B48A8,
   0x391C0CB3C5C95A63, 0x4ED8AA4AE3418ACB, 0x5B9CCA4F7763E373, 0x682E6FF3D6B2B8A3,
   0x748F82EE5DEFB2FC, 0x78A5636F43172F60, 0x84C87814A1F0AB72, 0x8CC702081A6439EC,
   0x90BEFFFA23631E28, 0xA4506CEBDE82BDE9, 0xBEF9A3F7B2C67915, 0xC67178F2E372532B]

def shaK4 : List (BitVec 64) :=
  [0xCA273ECEEA26619C, 0xD186B8C721C0C207, 0xEADA7DD6CDE0EB1E, 0xF57D4F7FEE6ED178,
   0x06F067AA72176FBA, 0x0A637DC5A2C898A6, 0x113F9804BEF90DAE, 0x1B710B35131C471B,
   0x28DB77F523047D84, 0x32CAAB7B40C72493, 0x3C9EBE0A15C9BEBC, 0x431D67C49C100D4C,
   0x4CC5D4BECB3E42B6, 0x597F299CFC657E2A, 0x5FCB6FAB3AD6FAEC, 0x6C44198C4A475817]

/-- The round constants. -/
def shaK : List (BitVec 64) := shaK0 ++ shaK1 ++ shaK2 ++ shaK3 ++ shaK4

/-- The initial hash value of SHA-384. -/
def shaH : List (BitVec 64) :=
  [0xCBBB9D5DC1059ED8, 0x629A292A367CD507, 0x9159015A3070DD17, 0x152FECD8F70E5939,
   0x67332667FFC00B31, 0x8EB44A8768581511, 0xDB0C2E0D64F98FA7, 0x47B5481DBEFA4FA4]

def rotr (x : BitVec 64) (n : Nat) : BitVec 64 := (x >>> n) ||| (x <<< (64 - n))
def bigS0 (x : BitVec 64) : BitVec 64 := rotr x 28 ^^^ rotr x 34 ^^^ rotr x 39
def bigS1 (x : BitVec 64) : BitVec 64 := rotr x 14 ^^^ rotr x 18 ^^^ rotr x 41
def smallS0 (x : BitVec 64) : BitVec 64 := rotr x 1 ^^^ rotr x 8 ^^^ (x >>> 7)
def smallS1 (x : BitVec 64) : BitVec 64 := rotr x 19 ^^^ rotr x 61 ^^^ (x >>> 6)

/-- The message schedule: `n` further words, newest first. -/
def shaSched : Nat → List (BitVec 64) → List (BitVec 64)
  | 0, l => l
  | n + 1, l => shaSched n ((smallS1 (l.getD 1 0) + l.getD 6 0 + smallS0 (l.getD 14 0) + l.getD 15 0) :: l)

/-- One round on the eight working variables. -/
def shaRound (v : List (BitVec 64)) (kw : BitVec 64 × BitVec 64) : List (BitVec 64) :=
  match v with
  | [a, b, c, d, e, f, g, h] =>
    let t1 := h + bigS1 e + ((e &&& f) ^^^ (~~~ e &&& g)) + kw.1 + kw.2
    let t2 := bigS0 a + ((a &&& b) ^^^ (a &&& c) ^^^ (b &&& c))
    [t1 + t2, a, b, c, d + t1, e, f, g]
  | _ => v

def shaBlock (h : List (BitVec 64)) (m : List Byte) : List (BitVec 64) :=
  let w := (cutList 8 16 m).map fun x => BitVec.ofNat 64 (ofBe x)
  let v := (shaK.zip (shaSched 64 w.reverse).reverse).foldl shaRound h
  List.zipWith (· + ·) h v

/-- The padded message (FIPS 180-4, 5.1.2). -/
def shaPad (l : List Byte) : List Byte :=
  l ++ [0x80] ++ List.replicate ((239 - l.length % 128) % 128) 0 ++ beBytes (8 * l.length) 16

def sha384 (l : List Byte) : BitVec 384 :=
  let p := shaPad l
  BitVec.ofNat 384 (((cutList 128 (p.length / 128) p).foldl shaBlock shaH).take 6 |>.foldl (fun a x => a * 2 ^ 64 + x.toNat) 0)

/-- A digest as its byte string. -/
def digestBytes (d : BitVec 384) : List Byte := beBytes d.toNat 48

/-- HMAC-SHA-384 (keys up to 128 bytes are padded, longer ones hashed). -/
def hmac384 (key msg : List Byte) : List Byte :=
  let k := if 128 < key.length then digestBytes (sha384 key) else key
  let k := k ++ List.replicate (128 - k.length) 0
  digestBytes (sha384 (k.map (· ^^^ 0x5C) ++ digestBytes (sha384 (k.map (· ^^^ 0x36) ++ msg))))

/-! ### P-384 -/

def p384P : Nat := 2 ^ 384 - 2 ^ 128 - 2 ^ 96 + 2 ^ 32 - 1
def p384N : Nat := 0xFFFFFFFFFFFFFFFFFFFFFFFFFFFFFFFFFFFFFFFFFFFFFFFFC7634D81F4372DDF581A0DB248B0A77AECEC196ACCC52973
def p384Gx : Nat := 0xAA87CA22BE8B05378EB1C71EF320AD746E1D3B628BA79B9859F741E082542A385502F25DBF55296C3A545E3872760AB7
def p384Gy : Nat := 0x3617DE4A96262C6F5D9E98BF9292DC29F8F41DBD289A147CE9DA3113B5F0B8C00A60B1CE1D7E819D7A431D7C90EA0E5F

/-- x^e modulo m by the bits of e, highest first. -/
def powMod (x m : Nat) : List Bool → Nat → Nat
  | [], r => r
  | b :: l, r => powMod x m l (if b then r * r % m * x % m else r * r % m)

/-- Bits of a number below 2^384, highest first. -/
def bits384 (n : Nat) : List Bool := (List.range 384).map fun i => n.testBit (383 - i)

/-- The inverse modulo a prime. -/
def invMod (x m : Nat) : Nat := powMod (x % m) m (bits384 (m - 2)) 1

/-- A point in Jacobian coordinates; z = 0 is the point at infinity. -/
structure JPt where
  x : Nat
  y : Nat
  z : Nat
  deriving DecidableEq, Repr

def subMod (a b m : Nat) : Nat := (a + m - b % m) % m

def JPt.dbl (q : JPt) : JPt :=
  let p := p384P
  if q.z = 0 then q
  else
    let zz := q.z * q.z % p
    let m := 3 * (subMod q.x zz p * ((q.x + zz) % p)) % p
    let yy := q.y * q.y % p
    let s := 4 * (q.x * yy) % p
    let x := subMod (m * m) (2 * s) p
    ⟨x, subMod (m * subMod s x p) (8 * (yy * yy)) p, 2 * (q.y * q.z) % p⟩

def JPt.add (a b : JPt) : JPt :=
  let p := p384P
  if a.z = 0 then b
  else if b.z = 0 then a
  else
    let za := a.z * a.z % p
    let zb := b.z * b.z % p
    let u1 := a.x * zb % p
    let u2 := b.x * za % p
    let s1 := a.y * (zb * b.z % p) % p
    let s2 := b.y * (za * a.z % p) % p
    if u1 = u2 then (if s1 = s2 then a.dbl else ⟨1, 1, 0⟩)
    else
      let h := subMod u2 u1 p
      let r := subMod s2 s1 p
      let hh := h * h % p
      let hhh := h * hh % p
      let v := u1 * hh % p
      let x := subMod (r * r) (hhh + 2 * v) p
      ⟨x, subMod (r * subMod v x p) (s1 * hhh) p, h * (a.z * b.z % p) % p⟩

def JPt.mul (q : JPt) (k : Nat) : JPt :=
  (bits384 k).foldl (fun r b => if b then r.dbl.add q else r.dbl) ⟨1, 1, 0⟩

/-- Affine coordinates. -/
def JPt.affine (q : JPt) : Nat × Nat :=
  let i := invMod q.z p384P
  let i2 := i * i % p384P
  (q.x * i2 % p384P, q.y * (i2 * i % p384P) % p384P)

def baseP : JPt := ⟨p384Gx, p384Gy, 1⟩

/-- The public point of a scalar. -/
def pubOf (d : Nat) : Nat × Nat := (baseP.mul d).affine

/-- ECDSA verification of (r, s) over a digest. -/
def ecdsaVerify (qx qy r s : Nat) (h : BitVec 384) : Bool :=
  if r = 0 ∨ p384N ≤ r ∨ s = 0 ∨ p384N ≤ s then false
  else
    let w := invMod s p384N
    let pt := (baseP.mul (h.toNat * w % p384N)).add (JPt.mul ⟨qx, qy, 1⟩ (r * w % p384N))
    pt.z != 0 && pt.affine.1 % p384N == r

/-- One signature attempt with nonce k. -/
def ecdsaTry (d k : Nat) (h : BitVec 384) : Option (Nat × Nat) :=
  if k = 0 ∨ p384N ≤ k then none
  else
    let r := (baseP.mul k).affine.1 % p384N
    let s := invMod k p384N * ((h.toNat + r * d) % p384N) % p384N
    if r = 0 ∨ s = 0 then none else some (r, s)

/-- The nonce loop of RFC 6979, 3.2 h; `fuel` bounds attempts whose success is all but certain at the first. -/
def rfcLoop (d : Nat) (h : BitVec 384) : Nat → List Byte → List Byte → Nat × Nat
  | 0, _, _ => (0, 0)
  | n + 1, k, v =>
    let v := hmac384 k v
    match ecdsaTry d (ofBe v) h with
    | some x => x
    | none =>
      let k := hmac384 k (v ++ [0])
      rfcLoop d h n k (hmac384 k v)

/-- Deterministic ECDSA (RFC 6979) with SHA-384 and P-384. -/
def ecdsaSign (d : Nat) (h : BitVec 384) : Nat × Nat :=
  let x := beBytes d 48
  let z := beBytes (h.toNat % p384N) 48
  let v := List.replicate 48 (0x01 : Byte)
  let k := List.replicate 48 (0x00 : Byte)
  let k := hmac384 k (v ++ [0] ++ x ++ z)
  let v := hmac384 k v
  let k := hmac384 k (v ++ [1] ++ x ++ z)
  rfcLoop d h 64 k (hmac384 k v)

end Sys2Proof.Machine
end

