-- ==== Sys2Proof/Machine/Num.lean ====
section
/-! DEFINITION. Num.lean: numbers: binary32 words as rationals, rounding to binary32, angles and the two inverse tangents.
A binary32 result that the spec asks for is the exact result rounded to nearest, ties to even. PRESUMED, unsafe (log 13). -/
namespace Sys2Proof.Machine

/-- The value of a binary32 word; none for a NaN or an infinity. -/
def f32 (w : Word) : Option Rat :=
  let n := w.toNat
  let e := (n >>> 23) % 256
  let m : Nat := n % 2 ^ 23
  let sg : Int := if n < 2 ^ 31 then 1 else -1
  if e = 255 then none
  else if e = 0 then some (mkRat (sg * (m : Nat)) (2 ^ 149))
  else if e ≤ 150 then some (mkRat (sg * ((m + 2 ^ 23 : Nat) : Int)) (2 ^ (150 - e)))
  else some (mkRat (sg * (((m + 2 ^ 23) * 2 ^ (e - 150) : Nat) : Int)) 1)

/-- The value of a binary32 word that holds a number. -/
def f32v (w : Word) : Rat := (f32 w).getD 0

/-- Round half to even of num / den. -/
def divRne (num den : Nat) : Nat :=
  let q := num / den
  let r := num % den
  if 2 * r < den then q else if den < 2 * r then q + 1 else if q % 2 = 0 then q else q + 1

/-- floor (log2 (num / den)) for positive num and den, plus 300. -/
def expOf (num den : Nat) : Nat :=
  let e := 300 + num.log2 - den.log2
  if num * 2 ^ 300 < den * 2 ^ e then e - 1 else e

/-- Mantissa and exponent (plus 300) of the binary32 number nearest to num / den. -/
def f32Parts (num den : Nat) : Nat × Nat :=
  if num = 0 then (0, 300)
  else
    let q := max (expOf num den - 23) (300 - 149)
    (divRne (num * 2 ^ 300) (den * 2 ^ q), q)

/-- Round to binary32. An overflow keeps its value, which `overF32` reports. -/
def rnd (x : Rat) : Rat :=
  let (m, q) := f32Parts x.num.natAbs x.den
  let sg : Int := if x.num < 0 then -1 else 1
  if q < 300 then mkRat (sg * m) (2 ^ (300 - q)) else mkRat (sg * (m * 2 ^ (q - 300) : Nat)) 1

/-- A value that binary32 cannot hold: it rounds to an infinity. -/
def overF32 (x : Rat) : Bool := decide (2 ^ 128 ≤ (rnd x).num.natAbs / (rnd x).den)

/-- The binary32 word of a value: an infinity on overflow; zero is +0.0. -/
def toF32 (x : Rat) : Word :=
  let (m, q) := f32Parts x.num.natAbs x.den
  let sg := if x.num < 0 then 2 ^ 31 else 0
  if m = 0 then 0
  else if overF32 x then BitVec.ofNat 32 (sg + 0x7F800000)
  else if m < 2 ^ 23 then BitVec.ofNat 32 (sg + m)
  else if m = 2 ^ 24 then BitVec.ofNat 32 (sg + (q + 1 + 150 - 300) * 2 ^ 23)
  else BitVec.ofNat 32 (sg + (q + 150 - 300) * 2 ^ 23 + (m - 2 ^ 23))

def absR (x : Rat) : Rat := if x < 0 then -x else x
def maxR (a b : Rat) : Rat := if a < b then b else a
def minR (a b : Rat) : Rat := if b < a then b else a
def clampR (x lo hi : Rat) : Rat := if x < lo then lo else if hi < x then hi else x
def natR (n : Nat) : Rat := mkRat n 1
def intR (n : Int) : Rat := mkRat n 1
def floorR (x : Rat) : Int := x.num / (x.den : Int)
def ceilR (x : Rat) : Int := -((-x.num) / (x.den : Int))
def natOf (x : Rat) : Nat := (floorR x).toNat
def sgnR (x : Rat) : Rat := if x < 0 then -1 else if 0 < x then 1 else 0

/-- Round to the nearest integer, halves up (R200, R69). DESIGN CHOICE for the halves, unsafe (log 14). -/
def roundR (x : Rat) : Int := floorR (x + mkRat 1 2)

/-- Seconds of a `Time` interval. -/
def sec (t : Time) : Rat := mkRat t 2000000000

/-- `Time` units of seconds, rounded down to a whole nanosecond. -/
def ofSecNs (x : Rat) : Time := 2 * natOf (x * 1000000000)

def wrap360 (x : Rat) : Rat := x - 360 * intR (floorR (x / 360))
def wrap180 (x : Rat) : Rat := wrap360 (x + 180) - 180

/-- The angle of an angle word in degrees (R69), and the word nearest to an angle. -/
def angDeg (a : Word) : Rat := mkRat (a.toNat * 360) (2 ^ 32)
def angWord (x : Rat) : Word := BitVec.ofNat 32 ((roundR (x * mkRat (2 ^ 32) 360)) % 2 ^ 32).toNat

/-- pi and the square root of 3 to 18 decimals. DESIGN CHOICE, unsafe (log 15). -/
def piR : Rat := mkRat 3141592653589793238 1000000000000000000
def sqrt3R : Rat := mkRat 1732050807568877294 1000000000000000000

/-- atan(2^-i) in degrees, scaled by 2^40. -/
def cordicTab : List Int :=
  [49478023249920, 29208582661662, 15433012903280, 7834038323712, 3932221230125, 1968027526446, 984253903256, 492156985618,
   246082247574, 123041593148, 61520855245, 30760434956, 15380218395, 7690109312, 3845054670, 1922527337,
   961263669, 480631834, 240315917, 120157959, 60078979, 30039490, 15019745, 7509872,
   3754936, 1877468, 938734, 469367, 234684, 117342, 58671, 29335,
   14668, 7334, 3667, 1833, 917, 458, 229, 115]

/-- The vectoring rotation: turn (x, y) towards the x axis, adding the angle turned. -/
def cordic : List Int → Nat → Int → Int → Int → Int
  | [], _, _, _, z => z
  | a :: l, i, x, y, z =>
    if y < 0 then cordic l (i + 1) (x - y / 2 ^ i) (y + x / 2 ^ i) (z - a)
    else cordic l (i + 1) (x + y / 2 ^ i) (y - x / 2 ^ i) (z + a)

/-- atan2 (y, x) in degrees in (−180, 180], to about 2^-30 degree; 0 at the origin. DESIGN CHOICE, unsafe (log 15). -/
def atan2R (y x : Rat) : Rat :=
  if x = 0 ∧ y = 0 then 0
  else
    let k := maxR (absR x) (absR y)
    let xi := floorR (absR x / k * mkRat (2 ^ 60) 1)
    let yi := floorR (absR y / k * mkRat (2 ^ 60) 1)
    let z := mkRat (cordic cordicTab 0 xi yi 0) (2 ^ 40)
    if 0 ≤ x then (if 0 ≤ y then z else -z) else (if 0 ≤ y then 180 - z else z - 180)

/-- The rotation of (x, y) by z, each step of the table turning towards the angle left. -/
def cordicTurn : List Int → Nat → Int → Int → Int → Int × Int
  | [], _, x, y, _ => (x, y)
  | a :: l, i, x, y, z =>
    if z < 0 then cordicTurn l (i + 1) (x + y / 2 ^ i) (y - x / 2 ^ i) (z + a)
    else cordicTurn l (i + 1) (x - y / 2 ^ i) (y + x / 2 ^ i) (z - a)

/-- The direction of an angle in degrees, as a vector whose length is the same for every angle (log 15). -/
def unitVec (deg : Rat) : Int × Int :=
  let q := natOf (wrap360 (deg + 45) / 90)
  let z := floorR ((wrap360 (deg + 45) - natR (90 * q) - 45) * mkRat (2 ^ 40) 1)
  let (x, y) := cordicTurn cordicTab 0 (2 ^ 60) 0 z
  match q with
  | 0 => (x, y)
  | 1 => (-y, x)
  | 2 => (-x, -y)
  | _ => (y, -x)

/-- Circular mean of angles: the direction of the sum of their vectors; none where they cancel to 1e-9 of their number. -/
def circMean (l : List Rat) : Option Rat :=
  let (x, y) := l.foldl (fun (a, b) d => let (u, v) := unitVec d; (a + u, b + v)) ((0 : Int), (0 : Int))
  if x.natAbs + y.natAbs ≤ l.length * 2 ^ 60 / 1000000000 then none else some (wrap360 (atan2R (intR y) (intR x)))

/-- atan of a ratio in degrees. -/
def atanR (x : Rat) : Rat := atan2R x 1

/-- Mean of a list; 0 of the empty list. -/
def meanR (l : List Rat) : Rat := if l.isEmpty then 0 else l.foldl (· + ·) 0 / natR l.length

def minL (l : List Rat) : Rat := l.foldl minR (l.headD 0)
def maxL (l : List Rat) : Rat := l.foldl maxR (l.headD 0)

end Sys2Proof.Machine
end

