-- ==== Sys2Proof/Machine/Operands.lean ====
section
/-! DEFINITION. Operands.lean: where commands and engines find their values: the argument fields of host commands, the next
boundaries, the ceilings of OTP region 4, node space and its coefficient slots, and the scaled register fields. -/
namespace Sys2Proof.Machine

/-! ### Boundaries (R19) -/

/-- The first multiple of `p` at or after `t`. -/
def nextMult (p t : Time) : Time := if p = 0 then t else (t + p - 1) / p * p

/-- The first boundary of period `p` after `last`, and not before now. -/
def nextBound (p last now : Time) : Time := nextMult p (max now (last + 1))

def State.nSp (s : State) : Nat := s.rf regPacSpCfg 0 10 0

/-- The slow period in `Time` units. -/
def State.sp (s : State) : Time := s.nSp * s.fp

/-- The next FP boundary to be processed; a new FP counts from its first multiple (PAC_FP_CFG). -/
def State.nextFp (s : State) : Time :=
  let b := nextBound s.fp s.lastFp s.time
  match s.fpNewAt with
  | some a => if a ≤ b then nextMult (s.rf regPacFpCfg 0 10 0 * 10) (max a s.time) else b
  | none => b

def State.nextSp (s : State) : Time := nextBound s.sp s.lastSp s.time
def State.nextHr (s : State) : Time := nextBound hkRound s.lastHr s.time

/-- The first FP or SP boundary at least 40 ns after an instant (R29). -/
def State.fpAfter (s : State) (t : Time) : Time := nextMult s.fp (t + lead40)
def State.spAfter (s : State) (t : Time) : Time := nextMult s.sp (t + lead40)

/-- M of R28: fast periods until machine-cell outputs are taken. -/
def State.mOut (s : State) : Nat := (8000 + s.fp - 1) / s.fp

/-- PAC_STATUS.CFG_VALID (R21). -/
def State.pacValid (s : State) : Bool := decide (40000 ≤ s.sp) && decide (s.sp ≤ 2000000)

/-! ### OTP region 4 (Tables 15.1 and 15.3) -/

/-- A word of the OTP shadow. -/
def State.shadowW (s : State) (a : Nat) : Word := (alGet s.otp.shadow a).getD 0

/-- A positive finite binary32 ceiling as applied: read if VALID, absent if BLANK, scaled and bounded if INVALID (R390). -/
def State.ceilOf (s : State) (word : Nat) (frac fallback : Rat) : Option Rat :=
  let w := s.shadowW (256 + word)
  match s.otp.regions[4].load with
  | 1 => some (f32v w)
  | 2 => some (match f32 w with
    | some v => if 0 < v then minR (frac * v) fallback else fallback
    | none => fallback)
  | _ => none

/-- C of R125: the current ceiling per set, A. -/
def State.iCeil (s : State) : Rat := (s.ceilOf 0 (mkRat 2 10) 400).getD 2000
/-- Speed and ASC ceilings, mechanical rpm. -/
def State.spdCeil (s : State) : Option Rat := s.ceilOf 1 (mkRat 1 10) 600
def State.ascCeil (s : State) : Option Rat := s.ceilOf 2 (mkRat 1 10) 600

/-- Thermal ceiling k (TW1, DR_START, DR_FULL, TSD), °C. -/
def State.thmCeil (s : State) (k : Nat) : Nat :=
  match s.otp.regions[4].load with
  | 1 => bits (s.shadowW 259) (8 * k + 7) (8 * k)
  | 2 => [110, 115, 125, 130].getD k 0
  | _ => [140, 145, 150, 155].getD k 0

/-! ### Machine configuration -/

def State.machEn (s : State) (m : Fin 2) : Bool := s.rb regComMachCfg m 15
/-- n: sets of a machine (R17). -/
def State.nSets (s : State) (m : Fin 2) : Nat := s.rf regComMachCfg m 9 8 + 1
/-- P: pole pairs. -/
def State.poles (s : State) (m : Fin 2) : Nat := s.rf regComMachCfg m 4 0 + 1
def State.chopMode (s : State) (m : Fin 2) : Nat := s.rf regComMachCfg m 13 12
/-- The DC-link input of a machine. -/
def State.vdcSel (s : State) (m : Fin 2) : Fin 2 := if s.rb regComMachCfg m 11 then 1 else 0
/-- j: position of a set in its machine (R44). -/
def setPos (w : Fin 8) : Nat := w.val % 4
/-- The set belongs to a configured machine (R17, R18). -/
def State.setConf (s : State) (w : Fin 8) : Bool :=
  s.machEn (machOf w) && decide (setPos w < s.nSets (machOf w))
/-- Sets of a machine, in order. -/
def State.setsOf (s : State) (m : Fin 2) : List (Fin 8) :=
  (List.finRange 8).filter fun w => machOf w == m && s.setConf w
/-- The offset j·60°/n of a set (R44). -/
def State.setOfs (s : State) (w : Fin 8) : Rat := mkRat (60 * setPos w) (s.nSets (machOf w))

def State.feMax (s : State) (m : Fin 2) : Rat := f32v (s.rget regComFeMax m)
/-- REV_SPEED (R65). -/
def State.revSpeed (s : State) (m : Fin 2) : Rat := mkRat (s.rf regEngDecelCfg m 7 0) 1000 * s.feMax m
/-- f_ASC, the entry threshold, and the exit threshold (R88). -/
def State.fAsc (s : State) (m : Fin 2) : Rat := mkRat (s.rf regComAscCfg m 7 0) 100 * s.feMax m
def State.fAscExit (s : State) (m : Fin 2) : Rat := mkRat (s.rf regComAscCfg m 15 8) 100 * s.feMax m
def State.slFmin (s : State) (m : Fin 2) : Rat := f32v (s.rget regComSlFmin m)
def State.demagI (s : State) (m : Fin 2) : Rat := f32v (s.rget regComDemagI m)
def State.zcHyst (s : State) (m : Fin 2) : Rat := f32v (s.rget regComZcHyst m)
def State.fTrk (s : State) (m : Fin 2) : Rat := s.mach[m].trk.f

/-- Speed ceiling of OTP region 4 as electrical frequency (R55). -/
def State.feCeil (s : State) (m : Fin 2) : Option Rat := s.spdCeil.map fun r => r * natR (s.poles m) / 60

/-! ### Node space -/

/-- Default column of Table 5.3 (machine slots) and Table 4.2 (set slots). -/
def machDefaults : List Word := [0x00000000, 0x00000000, 0x47C35000, 0x41200000, 0x41200000, 0x00000000, 0x3F733333, 0x00000000,
  0x00000000, 0x3C23D70A, 0x00000000, 0x00000000, 0x00000000, 0x00000000, 0x3C23D70A, 0x00000000,
  0x00000000, 0x3F800000, 0x42FA0000, 0x430C0000, 0x00000000, 0x3D4CCCCD, 0x43480000, 0x00000000,
  0x00000000, 0x3F000000, 0x00000000, 0]
def setDefaults : List Word := [0x00000000, 0x00000000, 0x00000000, 0x40000000, 0x3F000000, 0x3FC00000, 0x3F000000, 0x40000000,
  0x3C23D70A, 0x3A03126F, 0x41A00000, 0x41A00000, 0x40000000, 0x42C80000, 0x40000000, 0x467A0000,
  0x3E800000, 0x3751B717, 0x3751B717, 0x41A00000, 0x3C23D70A, 40]

/-- The initial value of a node (R373). -/
def nodeInit (id : Nat) : Word :=
  if 0x18000 ≤ id ∧ id < 0x19000 then
    let o := id % 0x400
    if o < 0x200 then machDefaults.getD o 0
    else if o < 0x300 then setDefaults.getD (o % 0x40) 0 else 0
  else 0

/-- The word stored at a node. -/
def State.nodeW (s : State) (id : Nat) : Word := (alGet s.nodes id).getD (nodeInit id)

/-- Store a word at a node, keeping the canonical form. -/
def State.nodeSet (s : State) (id : Nat) (w : Word) : State := { s with nodes := alPut (nodeInit id) s.nodes id w }

/-- A write that lands less than 40 ns before the boundary `b`, or after it, is not seen by a computation of `b` (R27, R29): what it
sees of a word whose present value is `now`. -/
def State.seen (s : State) (b : Time) (id : Nat) (now : Word) : Word :=
  match s.late.find? fun x => x.id == id && decide (b < x.at_ + lead40) with
  | some x => x.old
  | none => now

/-- Note a write of a node that now holds `old`. -/
def State.lateNote (s : State) (id : Nat) (old : Word) : State := { s with late := s.late ++ [⟨id, old, s.time⟩] }

/-- A node as set cells see it, as machine cells see it. -/
def State.nodeF (s : State) (id : Nat) : Word := s.seen s.lastFp id (s.nodeW id)
def State.nodeS (s : State) (id : Nat) : Word := s.seen s.lastSp id (s.nodeW id)

def State.poisoned (s : State) (id : Nat) : Bool := s.ecc.poison.contains id

/-- The active bank of a machine. -/
def State.bankOf (s : State) (m : Fin 2) : Nat := b2n s.mach[m].loop.bank

/-- Node of machine slot `o` in bank `b` (R144), of set slot `o` (R98), of shape entry `n` (R96). -/
def machSlot (m : Fin 2) (b o : Nat) : Nat := 0x18000 + (2 * m.val + b) * 0x400 + o
def setSlot (w : Fin 8) (b o : Nat) : Nat := 0x18000 + (2 * (machOf w).val + b) * 0x400 + 0x200 + 0x40 * setPos w + o
def shapeNode (w : Fin 8) (b n : Nat) : Nat := 0x14000 + (2 * w.val + b) * 0x400 + n
def cogNode (m : Fin 2) (b n : Nat) : Nat := (2 * m.val + b) * 0x4000 + n
def fricNode (m : Fin 2) (b n : Nat) : Nat := 0x10000 + (2 * m.val + b) * 0x1000 + n

/-- A machine coefficient in the active bank, and a set coefficient. -/
def State.mc (s : State) (m : Fin 2) (o : Nat) : Rat := f32v (s.nodeS (machSlot m (s.bankOf m) o))
def State.sc (s : State) (w : Fin 8) (o : Nat) : Rat := f32v (s.nodeF (setSlot w (s.bankOf (machOf w)) o))

/-- The node ranges that carry bank b of machine m: start and length (R364, R368). -/
def bankRanges (m : Fin 2) (b : Nat) : List (Nat × Nat) :=
  [(cogNode m b 0, 0x4000), (fricNode m b 0, 0x1000), (machSlot m b 0, 0x400)] ++
    (List.finRange 4).map fun j => (shapeNode (Fin.ofNat 8 (4 * m.val + j.val)) b 0, 0x400)

/-- A block of `n` nodes from `a` touches the bank. -/
def touchesBank (m : Fin 2) (b a n : Nat) : Bool :=
  (bankRanges m b).any fun (c, l) => decide (a < c + l) && decide (c < a + n)

/-- Live node offsets of HOST_SP and HOST_AUX. -/
def hostSpNode (m : Fin 2) : Nat := 0x19212 + 0x40 * m.val
def hostAuxNode (m : Fin 2) : Nat := 0x19213 + 0x40 * m.val

/-- HOST_SP and HOST_AUX as the machine cells see them (R29). -/
def State.hostSpS (s : State) (m : Fin 2) : Word := s.seen s.lastSp (hostSpNode m) s.mach[m].src.hostSp
def State.hostAuxS (s : State) (m : Fin 2) : Word := s.seen s.lastSp (hostAuxNode m) s.mach[m].src.hostAux

/-- A new HOST_SP and HOST_AUX. -/
def State.setHost (s : State) (m : Fin 2) (sp aux : Word) : State :=
  let s := (s.lateNote (hostSpNode m) s.mach[m].src.hostSp).lateNote (hostAuxNode m) s.mach[m].src.hostAux
  s.modMach m fun x => { x with src := { x.src with hostSp := sp, hostAux := aux } }

abbrev mKT : Nat := 0x00
abbrev mISET : Nat := 0x01
abbrev mTQRAMP : Nat := 0x02
abbrev mSPDACC : Nat := 0x03
abbrev mSPDDEC : Nat := 0x04
abbrev mSPDLIM : Nat := 0x05
abbrev mVCEIL : Nat := 0x06
abbrev mKPS : Nat := 0x07
abbrev mKIS : Nat := 0x08
abbrev mTTS : Nat := 0x09
abbrev mVDCUP : Nat := 0x0A
abbrev mVDCLO : Nat := 0x0B
abbrev mKPV : Nat := 0x0C
abbrev mKIV : Nat := 0x0D
abbrev mTTV : Nat := 0x0E
abbrev mPMOT : Nat := 0x0F
abbrev mPGEN : Nat := 0x10
abbrev mPWRF : Nat := 0x11
abbrev mMDS : Nat := 0x12
abbrev mMDF : Nat := 0x13
abbrev mTQLIM : Nat := 0x14
abbrev mBLEND : Nat := 0x15
abbrev mMAXSTEP : Nat := 0x16
abbrev mFFCOG : Nat := 0x17
abbrev mFFFRIC : Nat := 0x18
abbrev mFRICF : Nat := 0x19
abbrev mFBVAL : Nat := 0x1A
abbrev mNOIDX : Nat := 0x1B
abbrev cLNOM : Nat := 0x00
abbrev cRNOM : Nat := 0x01
abbrev cKE : Nat := 0x02
abbrev cVFW : Nat := 0x03
abbrev cLLO : Nat := 0x04
abbrev cLHI : Nat := 0x05
abbrev cRLO : Nat := 0x06
abbrev cRHI : Nat := 0x07
abbrev cMUL : Nat := 0x08
abbrev cMUR : Nat := 0x09
abbrev cIADAPT : Nat := 0x0A
abbrev cHINIT : Nat := 0x0B
abbrev cHMIN : Nat := 0x0C
abbrev cHMAX : Nat := 0x0D
abbrev cDECAYK : Nat := 0x0E
abbrev cFSW : Nat := 0x0F
abbrev cKB : Nat := 0x10
abbrev cTON : Nat := 0x11
abbrev cTOFF : Nat := 0x12
abbrev cWKQ : Nat := 0x13
abbrev cWHYST : Nat := 0x14
abbrev cWIN : Nat := 0x15

/-- Linear interpolation in a table of `n` entries read through `rd`, at a fraction of a turn in entries (R96, R134). -/
def tableAt (n : Nat) (rd : Nat → Rat) (x : Rat) : Rat :=
  let k := natOf x % n
  let fr := x - intR (floorR x)
  let a := rd k
  let b := rd ((k + 1) % n)
  a + (b - a) * fr

/-- E_w at an angle in degrees, active bank (R96). -/
def State.shapeAt (s : State) (w : Fin 8) (deg : Rat) : Rat :=
  let b := s.bankOf (machOf w)
  tableAt 1024 (fun n => f32v (s.nodeF (shapeNode w b n))) (wrap360 deg * mkRat 1024 360)

/-- Cog and Fric at a mechanical angle, active bank (R134). -/
def State.cogAt (s : State) (m : Fin 2) (deg : Rat) : Rat :=
  tableAt 16384 (fun n => f32v (s.nodeS (cogNode m (s.bankOf m) n))) (wrap360 deg * mkRat 16384 360)
def State.fricAt (s : State) (m : Fin 2) (deg : Rat) : Rat :=
  tableAt 4096 (fun n => f32v (s.nodeS (fricNode m (s.bankOf m) n))) (wrap360 deg * mkRat 4096 360)

/-- A minimum time held as binary32 seconds: read to the nearest picosecond, and up to a whole nanosecond. DEDUCED, unsafe (log 120). -/
def minTime (x : Rat) : Time := 2 * (((roundR (x * 1000000000000)).toNat + 999) / 1000)

/-- Minimum times of a set in engine mode, `Time` units (R108). -/
def State.tOnEff (s : State) (w : Fin 8) : Time := max (minTime (s.sc w cTON)) s.fp
def State.tOffEff (s : State) (w : Fin 8) : Time := max (minTime (s.sc w cTOFF)) s.fp

/-! ### Wear ledger (Table 9.6) -/

def ledgerNode (sw k : Nat) : Nat := 0x1A000 + 4 * sw + k
def State.node64 (s : State) (id : Nat) : Nat := (s.nodeW id).toNat + (s.nodeW (id + 1)).toNat * 2 ^ 32
def State.nodeSet64 (s : State) (id n : Nat) : State :=
  (s.nodeSet id (BitVec.ofNat 32 n)).nodeSet (id + 1) (BitVec.ofNat 32 (n >>> 32))

/-- A word of the ledger changes: what it held at the latest boundary stays to be seen in the snapshot (R371, R375). -/
def State.ledgerPut (s : State) (id : Nat) (v : Word) : State := (s.lateNote id (s.nodeW id)).nodeSet id v

/-- A node in the snapshot of the latest FP boundary (R27, R371, R375): a ledger word as it stood there, any other as the engines see
it. -/
def State.nodeSnap (s : State) (id : Nat) : Word :=
  if 0x1A000 ≤ id then
    match s.late.find? fun x => x.id == id && decide (s.lastFp ≤ x.at_) with
    | some x => x.old
    | none => s.nodeW id
  else s.nodeF id

/-- A 64-bit ledger value in that snapshot. -/
def State.snap64 (s : State) (id : Nat) : Nat := (s.nodeSnap id).toNat + (s.nodeSnap (id + 1)).toNat * 2 ^ 32

/-- E of a switch counts one applied on-change (R253). -/
def State.countEdge (s : State) (sw : Nat) : State :=
  let n := (s.node64 (ledgerNode sw 0) + 1) % 2 ^ 64
  (s.ledgerPut (ledgerNode sw 0) (BitVec.ofNat 32 n)).ledgerPut (ledgerNode sw 0 + 1) (BitVec.ofNat 32 (n >>> 32))

/-- Q of a switch takes charge in microcoulombs; the fraction is carried (R253). -/
def State.countCharge (s : State) (sw : Fin 48) (uc : Rat) : State :=
  let x := s.sup.qFrac[sw] + uc
  let k := natOf x
  let s := { s with sup := { s.sup with qFrac := s.sup.qFrac.set sw (x - natR k) } }
  if k = 0 then s else s.nodeSet64 (ledgerNode sw 2) ((s.node64 (ledgerNode sw 2) + k) % 2 ^ 64)

/-! ### Waiting commands -/

/-- Begin waiting for a boundary. -/
def State.awaitAt (s : State) (c : Waiting) (due : Time) (aux : Nat) : State :=
  (s.noteCommit c.ring c.seq).await { c with due := due, aux := aux, committed := true }

/-- Machines named by a mask that are configured: 0 names every configured machine where the command says so. -/
def State.maskMach (s : State) (mask : Nat) : List (Fin 2) :=
  (List.finRange 2).filter fun m => s.machEn m && (mask == 0 || (mask >>> m.val) % 2 == 1)

/-- A mask names a machine with EN = 0. -/
def State.badMask (s : State) (mask : Nat) : Bool :=
  (List.finRange 2).any fun m => (mask >>> m.val) % 2 == 1 && !s.machEn m

def maskOf (l : List (Fin 2)) : Nat := l.foldl (fun a m => a + 2 ^ m.val) 0

end Sys2Proof.Machine
end

