-- ==== Sys2Proof/Machine/RegOps.lean ====
section
/-! DEFINITION. RegOps.lean: a write of one register word under the field types of Table 0.2 and the range rule R43. -/
namespace Sys2Proof.Machine

/-- The field of a rule. -/
def FRule.field : FRule → Nat × Nat
  | .nat hi lo _ _ => (hi, lo)
  | .int hi lo _ => (hi, lo)
  | _ => (31, 0)

/-- A value outside the stated range, a NaN or an infinity (R43). A decimal bound of a binary32 field is taken as the nearest
binary32 number (log 30). -/
def FRule.bad (r : FRule) (v : Word) : Bool :=
  match r with
  | .nat hi lo mn mx => decide (bits v hi lo < mn) || decide (mx < bits v hi lo)
  | .int hi lo n => decide ((n : Int) < (sgn (bits v hi lo) (hi - lo + 1)).natAbs)
  | .f32 mn mx => match Sys2Proof.Machine.f32 v with | some x => decide (x < rnd mn) || decide (rnd mx < x) | none => true
  | .f32mag mn mx => match Sys2Proof.Machine.f32 v with | some x => decide (absR x < rnd mn) || decide (rnd mx < absR x) | none => true
  | .f32fin => (Sys2Proof.Machine.f32 v).isNone

/-- The bits of a mask that lie in word `part`. -/
def maskPart (m part : Nat) : Word := BitVec.ofNat 32 (m >>> (32 * part))

/-- Keep the old field where a rule refuses the written one (R43). `m` holds the bits that the write reaches: a field that it does not
reach is not judged here (R8, R9; log 25). -/
def applyRules (old m : Word) : List FRule → Word → Word × Bool
  | [], v => (v, false)
  | r :: rs, v =>
    let (hi, lo) := r.field
    if r.bad v && m.getLsbD lo then
      let (v, _) := applyRules old m rs (setBits v hi lo (bits old hi lo))
      (v, true)
    else applyRules old m rs v

/-- The stored word that a write of `v` leaves, and whether some field was rejected (R8, R9, R43). -/
def RegDesc.written (d : RegDesc) (window : Bool) (part : Nat) (old v : Word) : Word × Bool :=
  let rwl := maskPart d.rwl part
  let m := maskPart d.rw part ||| (if window then rwl else 0)
  let rej := !window && ((old ^^^ v) &&& rwl) != 0
  let (x, bad) := applyRules old m d.rules ((old &&& ~~~m) ||| (v &&& m))
  (x &&& ~~~(v &&& maskPart d.st part), rej || bad)

/-- Write one word of a register. -/
def State.writeWord (s : State) (d : RegDesc) (i part : Nat) (v : Word) : State :=
  let (x, rej) := d.written s.idleWindow part (s.rgetP d i part) v
  let s := s.rsetP d i part x
  if rej then s.writeReject else s

end Sys2Proof.Machine
end

