-- ==== Sys2Proof/Machine/Flags.lean ====
section
/-! DEFINITION. Flags.lean: the quality flags of a sample (Table 7.8), its calibrated code (R185, R200), and the currents and
voltages derived from samples (R187 to R189). -/
namespace Sys2Proof.Machine

/-! ### Codes -/

/-- round((x − OFS − OFS_D)·G) with OFS and OFS_D in 1/16 LSB and G in 2^-15 (R200). -/
def calCode (x ofs ofsD : Int) (gain : Nat) : Int :=
  roundR ((intR x - mkRat (ofs + ofsD) 16) * mkRat gain 32768)

/-- Clamp to a converter's range; true when the clamp acts (R185). -/
def clampCode (x lo hi : Int) : Int × Bool := if x < lo then (lo, true) else if hi < x then (hi, true) else (x, false)

/-- OFS and GAIN of converter n in force. -/
def State.ofsOf (s : State) (n : Nat) : Int := sgn (s.rf regAcqCalOfs n 15 0) 16
def State.gainOf (s : State) (n : Nat) : Nat := s.rf regAcqCalGain n 15 0
def State.skewOf (s : State) (p : Nat) : Int := sgn (s.rf regAcqCalSkew p 9 0) 10

/-- A delivered 14-bit code of converter n: calibrated and clamped, with OVR. -/
def State.code14 (s : State) (n : Nat) (ofsD raw : Int) : Int × Bool :=
  clampCode (calCode raw (s.ofsOf n) ofsD (s.gainOf n)) (-8192) 8191

/-- A delivered housekeeping code. -/
def State.codeHk (s : State) (n : Nat) (raw : Int) : Int × Bool :=
  clampCode (calCode raw (s.ofsOf n) 0 (s.gainOf n)) (-8192) 8188

abbrev flOVR : BitVec 5 := 1
abbrev flNBR : BitVec 5 := 2
abbrev flREC : BitVec 5 := 4
abbrev flSUS : BitVec 5 := 8
abbrev flSINGLE : BitVec 5 := 16

def flagIf (b : Bool) (f : BitVec 5) : BitVec 5 := if b then f else 0

/-- OVR, NBR or SUS: the sample forbids qualification (R104). -/
def badFlags (f : BitVec 5) : Bool := f &&& 0xB != 0

/-- Reference bank of an input: 0–15 IS, 16–17 VDC (Table 7.2). -/
def bankOfInput (n : Nat) : Nat := n / 4

/-- Another input of the bank engaged its clamp within the microsecond up to `t` (NBR). -/
def State.nbrClamp (s : State) (n : Nat) (t : Time) : Bool :=
  s.acq.bankClamp.any fun (k, tc) => k != n && bankOfInput k == bankOfInput n && decide (tc ≤ t) && decide (t ≤ tc + us1)

/-- A supply warning is asserted (SUS). -/
def State.susNow (s : State) : Bool := s.pcr.warn != 0

/-! ### Inputs of a set -/

/-- Both members of the pair have failed: the input is lost (R209). -/
def State.inputLost (s : State) (n : Fin 16) : Bool := s.acq.pairs[n].failE && s.acq.pairs[n].failO
def State.pairSingle (s : State) (n : Fin 16) : Bool := s.acq.pairs[n].failE != s.acq.pairs[n].failO

/-- The enabled input mapped to phase p of set w (R187). -/
def State.inputOf (s : State) (w : Fin 8) (p : Fin 3) : Option (Fin 16) :=
  (List.finRange 16).find? fun n =>
    s.rb regAcqIsMap n 7 && s.rf regAcqIsMap n 6 4 == w.val && s.rf regAcqIsMap n 1 0 == p.val

/-- Enabled inputs of a set. -/
def State.inputsOf (s : State) (w : Fin 8) : List (Fin 16) :=
  (List.finRange 16).filter fun n => s.rb regAcqIsMap n 7 && s.rf regAcqIsMap n 6 4 == w.val

/-- A value with the flags of what it is formed from. -/
abbrev Val := Option (Rat × BitVec 5)

def Val.add : Val → Val → Val
  | some (a, f), some (b, g) => some (a + b, f ||| g)
  | _, _ => none

def Val.neg : Val → Val
  | some (a, f) => some (-a, f)
  | none => none

/-- A phase current: measured, or the negative sum of the two that are (R188). -/
def State.phaseI (s : State) (val : Fin 16 → Val) (w : Fin 8) (p : Fin 3) : Val :=
  let dir := fun q => (s.inputOf w q).bind fun n =>
    (val n).map fun (c, f) => (c * f32v (s.rget regAcqIsScale n), f)
  match s.inputOf w p with
  | some _ => dir p
  | none =>
    let q1 : Fin 3 := p + 1
    let q2 : Fin 3 := p + 2
    Val.neg (Val.add (dir q1) (dir q2))

/-- The latest sample of an input at or before `t`. -/
def State.lastSample (s : State) (t : Time) (n : Fin 16) : Val :=
  (s.acq.pairs[n].hist.find? fun x => decide (x.t ≤ t)).map fun x => (intR x.code, x.flags)

/-- N of the decision sample (ENG_REG_CFG.DEC_N). -/
def State.decN (s : State) : Nat := match s.rf regEngRegCfg 0 1 0 with | 0 => 1 | 1 => 2 | _ => 4

/-- Spacing of an input's samples, and the averaging delay of a set (R25). -/
def State.spacing (s : State) (n : Fin 16) : Time := if s.pairSingle n then 200 else 100
def State.dAvg (s : State) (w : Fin 8) : Time :=
  (s.decN - 1) * (if (s.inputsOf w).any (fun n => s.pairSingle n) then 100 else 50)

/-- The samples that form the decision sample of an input at boundary `b` (R25, R102). -/
def State.decSamples (s : State) (b : Time) (n : Fin 16) : List Sample :=
  (s.acq.pairs[n].hist.filter fun x =>
    decide (x.t ≤ b) && decide (b < x.t + s.decN * s.spacing n)).take s.decN

/-- The mean that forms the decision sample of an input. -/
def State.decVal (s : State) (b : Time) (n : Fin 16) : Val :=
  let l := s.decSamples b n
  if l.isEmpty then none
  else some (meanR (l.map fun x => intR x.code), l.foldl (fun f x => f ||| x.flags) 0)

/-- Fewer than N samples of some input of the set (SHORT), and none of some input (R121). -/
def State.decShort (s : State) (w : Fin 8) (b : Time) : Bool :=
  (s.inputsOf w).any fun n => decide ((s.decSamples b n).length < s.decN)
def State.decMissing (s : State) (w : Fin 8) (b : Time) : Bool :=
  (s.inputsOf w).any fun n => (s.decSamples b n).isEmpty

/-! ### Link voltage -/

/-- The link sample at or before `t` in volts; 0 before the first. DESIGN CHOICE, unsafe (log 16). -/
def State.vdcAt (s : State) (x : Fin 2) (t : Time) : Rat :=
  let l := if x = 0 then s.acq.link0 else s.acq.link1
  match l.find? fun y => decide (y.t ≤ t) with
  | some y => intR y.code * f32v (s.rget regAcqScale x)
  | none => 0

def State.vdcOf (s : State) (m : Fin 2) (t : Time) : Rat := s.vdcAt (s.vdcSel m) t

/-! ### Sector table (Table 2.2) -/

/-- Source and sink legs of a sector for TD positive. -/
def sectorPair (sec : Fin 6) : Fin 3 × Fin 3 :=
  match sec with
  | 0 => (0, 1)
  | 1 => (0, 2)
  | 2 => (1, 2)
  | 3 => (1, 0)
  | 4 => (2, 0)
  | 5 => (2, 1)

/-- Source and sink legs in force: TD negative uses sector s + 3 (R45). -/
def pairOf (sec : Fin 6) (td : Bool) : Fin 3 × Fin 3 := sectorPair (if td then sec + 3 else sec)

/-- Floating leg of a sector. -/
def floatLeg (sec : Fin 6) : Fin 3 :=
  match sec with
  | 0 => 2
  | 1 => 1
  | 2 => 0
  | 3 => 2
  | 4 => 1
  | 5 => 0

/-- Floating EMF rises in forward rotation in odd sectors. -/
def floatRises (sec : Fin 6) : Bool := sec.val % 2 == 1

/-- Switch index of leg l, side h (R16). -/
def swIdx (w : Fin 8) (l : Fin 3) (low : Bool) : Fin 48 := ⟨6 * w.val + 2 * l.val + (if low then 1 else 0), by
  have := w.isLt; have := l.isLt; split <;> omega⟩

/-- The sector of a set-local angle (R45). -/
def sectorAt (deg : Rat) : Fin 6 := Fin.ofNat 6 (natOf (wrap360 (deg - 30) / 60))

/-- Pair current: i of the source phase (Table 7.3). -/
def State.pairI (s : State) (val : Fin 16 → Val) (w : Fin 8) (sec : Fin 6) (td : Bool) : Val :=
  s.phaseI val w (pairOf sec td).1

/-- Regulated current (R94): the common phase, with the sign of its role in the pair. -/
def State.regI (s : State) (val : Fin 16 → Val) (w : Fin 8) (sec : Fin 6) (td : Bool) (common : Option (Fin 3)) : Val :=
  let (src, snk) := pairOf sec td
  match common with
  | none => s.phaseI val w src
  | some p => if p = snk then Val.neg (s.phaseI val w p) else s.phaseI val w src

end Sys2Proof.Machine
end

