-- ==== Sys2Proof/Machine/Pulse.lean ====
section
/-! DEFINITION. Pulse.lean: the pulse generator (chapter 6): output rows, channel changes under leg guard and minimum times,
releases, cuts, latches, and the commands SCHEDULED_EDGE and PENDING_CHANGE_APPLIED. -/
namespace Sys2Proof.Machine

/-! ### Which row of Table 6.1 holds -/

/-- The slot of an operation of an opcode that runs (or is ending). -/
def State.running (s : State) (opc : BitVec 8) : Option (Fin 8) :=
  (List.finRange 8).find? fun k =>
    (s.host.lops[k].state == 1 || s.host.lops[k].state == 3) && s.host.lops[k].opc == opc

/-- The block under way of the SELF_TEST that runs: 0 converters, 1 comparators, 2 pulse generator. -/
def State.selfBlock (s : State) : Option Nat := (s.running 0x40).map fun k => s.host.lops[k].phase

/-- YIELD_IN is high and heeded: not with PAIR_EN = 0 (R273, R275). -/
def State.yieldHigh (s : State) : Bool := s.pairEn && s.ypl.yieldIn

/-- The pulse-generator block of SELF_TEST drives the pins, over rows 2, 4, 5, 11 and 12 of Table 6.1, until YIELD_IN rises, which ends it
as failed (R157, R460). -/
def State.testDrives (s : State) : Bool :=
  s.selfBlock == some 2 && s.pcr.asserted.isNone && s.pcr.settled && s.pcr.state == 0 && !s.lts.stYield

/-- Rows 1 to 4 of Table 6.1 do not hold (PGN_STAT.OUT_EN). OWN is low while YIELD_IN is high and until the boundary of a relay
(R272, R293); it, and a release latched under R238, count with row 4. -/
def State.outEn (s : State) : Bool :=
  s.pcr.asserted.isNone && s.pcr.settled && s.started && s.pcr.state == 0 && s.owner && s.ypl.own && !s.sup.yielded

/-- The safe state in force for a set: its machine's, or its own. -/
def State.setSafe (s : State) (w : Fin 8) : Option SafeKind :=
  match s.mach[machOf w].sup.safe with
  | some k => some k
  | none => s.sets[w].safe

/-- What holds a set's pins; `test`: the pulse-generator block of SELF_TEST, which no row names. -/
inductive OutRow where
  | released | asc | direct | drive | off | test
  deriving DecidableEq, Repr

/-- The row of Table 6.1 for a set's SW pins. -/
def State.rowOf (s : State) (w : Fin 8) : OutRow :=
  if (!s.testDrives && (!s.outEn || !s.setConf w)) || s.groups[w].hiz then .released
  else
    match s.setSafe w with
    | some .opened => .released
    | some .asc => .asc
    | none =>
      let m := s.mach[machOf w]
      if m.trk.state == .ascObserve && m.start.ascAt.isNone && !m.trk.stopping then .asc
      else if s.groups[w].direct && !s.groups[w].stay then .direct
      else if s.sets[w].driving then .drive
      else if s.testDrives then .test
      else .off

/-- The set's regulator changes take place: row 10, or the virtual edges of a STANDBY device (R289). -/
def State.setRuns (s : State) (w : Fin 8) : Bool :=
  s.rowOf w == .drive || ((s.shadow || s.ypl.ownAt.isSome) && s.sets[w].driving)

/-- Rows 1 to 5 hold for a group (R224). -/
def State.tripMasked (s : State) (g : Fin 8) : Bool := !s.outEn || !s.setConf g

/-- The level of window n as CMP_LEVEL reads it: a window that is not enabled is IN (R223). -/
def State.winLevel (s : State) (n : Fin 20) : Bool := s.rb regCmpWinCfg n 31 && s.winOut.getLsbD n

/-- First OUT window routed to destination g: a set group below 8, a chopper above (R224). -/
def State.outWindow (s : State) (g : Nat) : Option (Fin 20) :=
  (List.finRange 20).find? fun n => s.winLevel n && s.rb regCmpRoute n g

/-- Trip mode HIZ (Table 6.2). -/
def State.tripHiz (s : State) (g : Fin 8) : Bool :=
  let t := s.mach[machOf g].trk.state
  t == .listen || t == .probe || t == .step || t == .capture || s.groups[g].direct ||
  s.host.lops.toList.any (fun l => (l.state == 1 || l.state == 3) && l.opc == 0x40 && l.phase != 0) ||
  s.groups[g].recovery || s.rb regPgnSgCfg g 9

/-! ### Channels -/

/-- The other switch of the leg. -/
def partner (n : Fin 48) : Fin 48 := ⟨if n.val % 2 = 0 then n.val + 1 else n.val - 1, by
  have := n.isLt; split <;> omega⟩
/-- The set of a switch, and the leg (R16). -/
def setOf (n : Fin 48) : Fin 8 := ⟨n.val / 6, by omega⟩
def legOf (n : Fin 48) : Fin 24 := ⟨n.val / 2, by omega⟩
def isLow (n : Fin 48) : Bool := n.val % 2 == 1

/-- Add the time HIGH up to `t`. -/
def ChanSt.account (c : ChanSt) (t : Time) : ChanSt :=
  { c with tHigh := if c.lvl == .high then c.tHigh + (t - max c.mark c.lastOn) else c.tHigh, mark := t }

/-- Release a channel (R157): off since this instant. -/
def ChanSt.release (c : ChanSt) (t : Time) : ChanSt :=
  let c' := c.account t
  { c' with lvl := .rel, lastOff := (if c.lvl == .rel then c.lastOff else t), chgAt := (if c.lvl == .rel then c.chgAt else t), req := false, pend := false,
            guardHeld := false, minHeld := false }

/-- The instant at which a chopper's pin last became LOW or REL once it is released at `t`; `was` as it stood (R244). -/
def ChanSt.relAt (c : ChanSt) (t was : Time) : Time := if c.lvl == .rel then was else t

/-- Drive a channel LOW at once. -/
def ChanSt.turnOff (c : ChanSt) (t : Time) : ChanSt :=
  let c' := c.account t
  { c' with lvl := .low, lastOff := (if c.lvl == .high then t else c.lastOff), chgAt := (if c.lvl == .low then c.chgAt else t), req := false, pend := false,
            guardHeld := false, minHeld := false }

/-- Drive a channel HIGH. -/
def ChanSt.turnOn (c : ChanSt) (t : Time) : ChanSt :=
  let c' := c.account t
  { c' with lvl := .high, lastOn := t, chgAt := (if c.lvl == .high then c.chgAt else t), req := true, pend := false, guardHeld := false, minHeld := false, freed := false }

/-- LGUARD of a switch's leg, `Time` units. -/
def State.lguard (s : State) (n : Fin 48) : Time := 2 * s.rf regPgnLguard (legOf n) 11 0

/-- T_ON and T_OFF of a channel (R164), never below 20 ns (R156), which alone holds the pulses of SELF_TEST (Table 18.2). -/
def State.chTon (s : State) (n : Fin 48) : Time :=
  max 40 (if s.testDrives then 0 else if s.groups[setOf n].direct then 2 * s.direct.tonMin else s.tOnEff (setOf n))
def State.chToff (s : State) (n : Fin 48) : Time :=
  max 40 (if s.testDrives then 0 else if s.groups[setOf n].direct then 2 * s.direct.toffMin else s.tOffEff (setOf n))

/-- The instant from which the leg guard admits an on-change: none while the partner is HIGH or keeps an earlier place (R161,
R162). -/
def State.guardFrom (s : State) (n : Fin 48) : Option Time :=
  let p := s.chans[partner n]
  if p.lvl == .high then none
  else if p.pend && p.req && decide (p.reqAt ≤ s.chans[n].reqAt) then none
  else some (p.lastOff + s.lguard n)

/-- The instant from which the minimum times admit an on-change, an off-change (R165); in the ASC pattern, and where the minimum off
time counts as met, only the 20 ns of R156. -/
def State.minOnFrom (s : State) (n : Fin 48) : Time :=
  s.chans[n].lastOff + (if s.chans[n].freed || s.groups[setOf n].asc then 40 else s.chToff n)
def State.minOffFrom (s : State) (n : Fin 48) : Time := s.chans[n].lastOn + s.chTon n

/-- The first whole nanosecond at or after an instant (R161). -/
def ceilNs (t : Time) : Time := (t + 1) / 2 * 2

/-- The first instant at which a pending change is permitted (R155). -/
def State.changeFrom (s : State) (n : Fin 48) : Option Time :=
  let c := s.chans[n]
  if !c.pend || c.lvl == .rel then none
  else if c.req then
    if c.blocked then none
    else (s.guardFrom n).map fun g => max c.reqAt (ceilNs (max g (s.minOnFrom n)))
  else some (max c.reqAt (ceilNs (s.minOffFrom n)))

/-- Apply a pending change at `t`; an on-change counts in the wear ledger (R253). -/
def State.applyChange (s : State) (n : Fin 48) (t : Time) : State :=
  if s.chans[n].req then (s.modChan n fun c => c.turnOn t).countEdge n
  else s.modChan n fun c => c.turnOff t

/-- GUARD_HELD, MIN_HELD and HOLDS (R161, R165). -/
def State.holdChange (s : State) (n : Fin 48) (t : Time) : State :=
  let c := s.chans[n]
  let g := c.req && (match s.guardFrom n with | none => true | some a => decide (t < a))
  let m := if c.req then decide (t < s.minOnFrom n) else decide (t < s.minOffFrom n)
  let s := if (g || m) && !(c.guardHeld || c.minHeld) then s.rcount regPgnChStat n 15 8 1 else s
  s.modChan n fun c => { c with guardHeld := g, minHeld := m }

/-- Apply a pending change now if every rule permits it, else mark what holds it. -/
def State.tryChange (s : State) (n : Fin 48) (t : Time) : State :=
  match s.changeFrom n with
  | some a => if a ≤ t then s.applyChange n t else s.holdChange n t
  | none => if s.chans[n].pend && s.chans[n].lvl != .rel then s.holdChange n t else s

/-- Request a level of a channel at `t` (R155): the latest request replaces the earlier; one equal to the applied level cancels.
A pending on-change that is requested again counts as requested then, so it loses its place of R162: DESIGN CHOICE, unsafe (log 164). -/
def State.reqCh (s : State) (n : Fin 48) (on : Bool) (t : Time) : State :=
  let c := s.chans[n]
  if c.lvl == .rel then s
  else if on == (c.lvl == .high) then
    s.modChan n fun c => { c with req := on, pend := false, guardHeld := false, minHeld := false }
  else (s.modChan n fun c => { c with req := on, pend := true, reqAt := t }).tryChange n t

/-- Release all six channels of a group as a trip-class action. -/
def State.releaseGroup (s : State) (g : Fin 8) (t : Time) : State :=
  (List.range 6).foldl (fun s k => s.modChan (Fin.ofNat 48 (6 * g.val + k)) fun c => c.release t) s

/-- All six channels become LOW at a boundary when a set passes from a REL row (R158). -/
def State.lowGroup (s : State) (g : Fin 8) (t : Time) : State :=
  (List.range 6).foldl (fun s k => s.modChan (Fin.ofNat 48 (6 * g.val + k)) fun c =>
    if c.lvl == .rel then { c with lvl := .low, chgAt := t, req := false, pend := false, blocked := false } else c) s

/-! ### Sets: pattern, state, leaving -/

/-- The regulator's state from `t` on, as it stands if every edge is applied when it is due. -/
def CellSt.enter (c : CellSt) (x : Reg) (t : Time) : CellSt := { c with cur := x, boundReq := none, seq := (t, x) :: c.seq }

/-- The applied state from `t` on: an entry of the sequence only where it differs from the state before (R103). -/
def CellSt.note (c : CellSt) (x : Reg) (t : Time) : CellSt :=
  let l := c.seq.dropWhile fun p => p.1 == t
  { c with seq := if l.head?.map (·.2) == some x then l else (t, x) :: l }

/-- Legs of the chop switch and of the other on switch, each with its side (Table 2.3). -/
def onSwitches (w : Fin 8) (sec : Fin 6) (td chopLow : Bool) : Fin 48 × Fin 48 :=
  let (src, snk) := pairOf sec td
  if chopLow then (swIdx w snk true, swIdx w src false) else (swIdx w src false, swIdx w snk true)

/-- Intended levels of the six channels for a state (Table 2.3). -/
def levelsOf (w : Fin 8) (sec : Fin 6) (td chopLow : Bool) (x : Reg) : List (Fin 48 × Bool) :=
  let (chop, other) := onSwitches w sec td chopLow
  (List.range 6).map fun k =>
    let n : Fin 48 := Fin.ofNat 48 (6 * w.val + k)
    (n, (n == chop && x == .on) || (n == other && (x == .on || x == .freewheel)))

/-- The levels requested of a set: of the state computed before a cut in the period after it (R159), else of the regulator's. In GENERATING the
regulator's ON and FREEWHEEL changes fall on the other on switch (R114), which Table 2.3 already says. -/
def State.intended (s : State) (w : Fin 8) : List (Fin 48 × Bool) :=
  let x := s.sets[w]
  match x.sector with
  | some sec => levelsOf w sec x.td x.chopLow (x.cell.boundReq.getD x.cell.cur)
  | none => []

/-- The state that the levels of the pair's two switches make (Table 2.3, R112). -/
def regOfLevels (a b : Bool) : Reg := if a && b then .on else if a || b then .freewheel else .decay

/-- The applied state of a driving set: of its pair's levels where it holds its pins, else the regulator's own (R103, R289). -/
def State.appliedReg (s : State) (w : Fin 8) : Reg :=
  let x := s.sets[w]
  match x.sector with
  | some sec =>
    if s.rowOf w == .drive then
      let (a, b) := onSwitches w sec x.td x.chopLow
      regOfLevels (s.chans[a].lvl == .high) (s.chans[b].lvl == .high)
    else x.cell.cur
  | none => x.cell.cur

/-- The applied state joins the sequence of a driving set at `t`. -/
def State.noteSet (s : State) (w : Fin 8) (t : Time) : State :=
  if s.sets[w].driving then s.modSet w fun x => { x with cell := x.cell.note (s.appliedReg w) t } else s

/-- The regime in force at `t`: the one decided for the period that contains it (R97). -/
def State.genAt (s : State) (w : Fin 8) (t : Time) : Bool :=
  if t < s.lastFp + s.fp then s.sets[w].cell.gen else s.sets[w].cell.genNext

/-- A set stops driving: no sector, nothing planned (Table 6.1, row 11). -/
def State.quitSet (s : State) (w : Fin 8) (t : Time) : State :=
  s.modSet w fun x =>
    { x with sector := none, driving := false, beginAt := none, ending := false, tdDecay := false, tdNew := false, rotUsed := false,
             x := { x.x with blanking := false, armed := false },
             cell := { x.cell with cur := .off, plan := [], commAt := none, resyncAt := none, boundReq := none,
                                   wasCut := false, postCut := false, waitAt := none, seq := [(t, .off)], freeNext := false } }

/-- A set stops driving at once, its channels released. -/
def State.offSet (s : State) (w : Fin 8) (t : Time) : State := (s.releaseGroup w t).quitSet w t

/-! ### Trips -/

/-- Set the HIZ latch of a group (Table 6.3): released, counted, reported with the stamp `st`. `src` 1 window, 2 FLT_N, 3 escalation. Of
two sources at one instant both are reported (R172). -/
def State.hizLatch (s : State) (g : Fin 8) (src win : Nat) (st : Time) : State :=
  let first := !s.groups[g].hiz
  let both := s.groups[g].hizAt == s.time
  let s := (s.releaseGroup g s.time).modGroup g fun x =>
    { x with hiz := true, src := if first then src else x.src, hizAt := if first then s.time else x.hizAt, cutNow := false, asc := false }
  let s := if s.sets[g].driving then s.offSet g s.time else s.modSet g fun x => { x with beginAt := none }
  let s := if first then s.rcount regPgnSgCount g 23 16 1 else s
  if first || both then s.raise 6 2 g 0 (0x61 + at_ src 8 + at_ win 16) st else s

/-- The switches in the scope of a CUT (R168): all six, or the edge switch of R114. -/
def State.cutScope (s : State) (g : Fin 8) : List (Fin 48) :=
  let all := (List.range 6).map fun k => (Fin.ofNat 48 (6 * g.val + k) : Fin 48)
  if s.rb regPgnSgCfg g 8 then
    match s.sets[g].sector with
    | some sec =>
      let (chop, other) := onSwitches g sec s.sets[g].td s.sets[g].chopLow
      [if s.genAt g s.time then other else chop]
    | none => all
  else all

/-- `t` is the instant of an SP boundary that is not yet processed: what happens there belongs to the period that it starts (R20). -/
def State.atNewSp (s : State) (t : Time) : Bool := decide (s.lastSp < t) && decide (t % s.sp = 0)

/-- Something spoils the window under way, or the one that begins at the coming SP boundary (R116). -/
def AdaptSt.spoil (a : AdaptSt) (new : Bool) : AdaptSt := if new then { a with spoilB := true } else { a with spoiled := true }

/-- A raise edge at `t` (R116, R117). -/
def AdaptSt.raiseEdge (a : AdaptSt) (new : Bool) (t : Time) : AdaptSt :=
  if new then { a with edgeB := a.edgeB + 1 }
  else { a with raises := a.raises + 1, tLast := t, tFirst := if a.raises = 0 then t else a.tFirst }

/-- A CUT now (R168): LOW, no on-change for the rest of the period; requests go on being recorded. The set cell learns of it at the
next boundary: the sequence goes on with the state that the levels left make (R112). -/
def State.cut (s : State) (g : Fin 8) : State :=
  let t := s.time
  let s := (s.cutScope g).foldl (fun s n => s.modChan n fun c =>
    if c.lvl == .high then { (c.turnOff t) with blocked := true } else { c with blocked := true }) s
  let s := s.modGroup g fun x => { x with cutNow := true, cutSeen := true }
  if s.sets[g].driving then
    (s.modSet g fun x =>
      { x with adapt := x.adapt.spoil (s.atNewSp t), cell := { x.cell with dist := t :: x.cell.dist, wasCut := true } }).noteSet g t
  else s

/-- The next FP boundary after `t`. -/
def State.fpNext (s : State) (t : Time) : Time := nextMult s.fp (t + 1)

/-- TRIP_CUT at the first cut period of a run (R169, R242). -/
def State.cutReport (s : State) (g : Fin 8) (win : Nat) (first : Bool) (st : Time) : State :=
  if first then (s.modSet g fun x => { x with trips := x.trips + 1 }).raise 6 2 g 0 (0x60 + at_ win 8) st else s

/-- A routed window trip acts on group g now (R167, R168), reported with the stamp `st`: masked in the ASC pattern, a release in HIZ, a
cut in CUT with TRIP_CUT at the first cut period of a run; the periods of a latched group count too (R169). One that meets a release at the
same instant is reported too (R172). -/
def State.tripGroup (s : State) (g : Fin 8) (win : Nat) (st : Time) : State :=
  if s.tripMasked g || s.groups[g].asc then s
  else
    let first := s.groups[g].cutRun == 0 && !s.groups[g].cutSeen
    if s.tripHiz g then (if s.groups[g].hiz && s.groups[g].hizAt != s.time then s else s.hizLatch g 1 win st)
    else (if s.groups[g].hiz then s.modGroup g fun x => { x with cutSeen := true } else s.cut g).cutReport g win first st

/-- A cut of a chopper now (R182), reported with the stamp `st`; a latched one's period counts. -/
def State.cutChop (s : State) (c : Fin 2) (st : Time) : State :=
  if !s.outEn then s
  else
    let t := s.time
    let first := s.chops[c].run == 0 && !s.chops[c].cutSeen
    let s := s.modChop c fun x =>
      let hi := x.ch.lvl == .high
      if x.latch then { x with cutSeen := true }
      else { x with ch := { (if hi then x.ch.turnOff t else x.ch) with blocked := true }
                    lowAt := if hi then t else x.lowAt
                    cutNow := true
                    cutSeen := true }
    if first then s.raise 6 8 3 0 (0x68 + at_ c.val 8) st else s

/-- Trip inputs and fault inputs that are asserted act on every group and chopper on which they have not acted in this period: the
conditions of Tables 6.2 and 6.3 are levels (R167, R168, R182, R224, R226). -/
def State.retrip (s : State) : State :=
  let s := forFin 8 s fun s g =>
    let s := if s.flt.getLsbD g && !s.tripMasked g && !s.groups[g].hiz then s.hizLatch g 2 0 s.time else s
    match s.outWindow g with
    | some n =>
      if (if s.tripHiz g then s.groups[g].hiz else s.groups[g].cutSeen) then s else s.tripGroup g n.val s.time
    | none => s
  forFin 2 s fun s c => if (s.outWindow (8 + c.val)).isSome && !s.chops[c].cutSeen then s.cutChop c s.time else s

/-! ### Faults that take an object to its safe state (R232) -/

/-- A FAULT event of a machine, a set, a leg or a switch: RECOVERY makes the trip mode HIZ, under which a trip input that is asserted
acts at once (Table 6.2, R167). -/
def State.raiseF (s : State) (level index fclass detail : Nat) (t : Time) : State := (s.raise 1 level index fclass detail t).retrip

/-- Arm the reaction for the first FP boundary at least 40 ns after detection. -/
def State.armSafe (s : State) (obj : Obj) (state cause : Nat) (fix : Bool) (t : Time) : State :=
  { s with sup := { s.sup with reqs := s.sup.reqs ++ [⟨obj, state, s.fpAfter t, cause, fix⟩] } }

/-- An F2 fault of a set, a leg or a switch: the set is at F2 and goes to its safe state (Table 9.1). A set of no configured machine has no
reaction and no events (R18); the loss of an input mapped to it is the acquisition's event. -/
def State.faultSet (s : State) (w : Fin 8) (level index detail : Nat) (t : Time) : State :=
  if s.setConf w then
    (((s.modSet w fun x => { x with fault := true }).armSafe (.set w) 0 (detail % 256) false t)).raiseF level index 3 detail t
  else if level = 8 then s.raise 1 level index 3 detail t
  else s

/-- A fault of class F2 or F3 of a machine: the machine goes to its safe state. -/
def State.faultMach (s : State) (m : Fin 2) (level index fclass detail : Nat) (t : Time) : State :=
  ((s.modMach m fun x => { x with sup := { x.sup with fault := true } }).armSafe (.mach m) 0 (detail % 256) false t).raiseF
    level index fclass detail t

/-! ### Requests -/

/-- Both requests of a leg fall on one nanosecond: both are withdrawn and LEG_CONFLICT is raised, class F2 (R162). -/
def State.reqPairs (s : State) (l : List (Fin 48 × Bool)) (t : Time) : State :=
  let onNow := fun (n : Fin 48) => l.any (fun (k, b) => k == n && b) && s.chans[n].lvl == .low
  l.foldl (fun s (n, on) =>
    if on && onNow n && onNow (partner n) then
      let s := s.modChan n fun c => { c with req := c.lvl == .high, pend := false }
      if isLow n then s
      else s.faultSet (setOf n) 1 (legOf n) 0x63 t
    else s.reqCh n on t) s

/-- The ASC pattern (R170): high sides off as trip-class actions, low sides on under the leg guard alone. -/
def State.ascPattern (s : State) (g : Fin 8) (t : Time) : State :=
  let s := s.lowGroup g t
  let s := s.modGroup g fun x => { x with asc := true }
  let s := (List.finRange 3).foldl (fun s l => s.modChan (swIdx g l false) fun c => c.turnOff t) s
  (List.finRange 3).foldl (fun s l =>
    (s.modChan (swIdx g l true) fun c => { c with blocked := false }).reqCh (swIdx g l true) true t) s

/-- Request the levels of the state in force; the applied state joins the sequence. -/
def State.reqSet (s : State) (w : Fin 8) (t : Time) : State := (s.reqPairs (s.intended w) t).noteSet w t

/-- A set goes to DECAY, and to OFF once its current is below DEMAG_I (R88, R326). -/
def State.decaySet (s : State) (w : Fin 8) (t : Time) : State :=
  let x := s.sets[w]
  if x.driving && x.sector.isSome then
    let s := s.modSet w fun x => { x with ending := true, beginAt := none,
                                          cell := { (x.cell.enter .decay t) with plan := [], commAt := none, resyncAt := none,
                                                                                 boundReq := none, waitAt := none, freeNext := false } }
    s.reqSet w t
  else if x.driving then s.offSet w t
  else s.modSet w fun x => { x with beginAt := none }

/-! ### Choppers -/

def State.chopTon (s : State) (c : Fin 2) : Time := max 40 (if s.testDrives then 0 else 2 * s.rf regPgnPgkMin c 15 0)
def State.chopToff (s : State) (c : Fin 2) : Time := max 40 (if s.testDrives then 0 else 2 * s.rf regPgnPgkMin c 31 16)

/-- Rows 1 to 4 hold and SELF_TEST does not drive the pin, or the chopper is latched. -/
def State.chopRel (s : State) (c : Fin 2) : Bool := !(s.outEn || s.testDrives) || s.chops[c].latch

/-- A pulse of Table 18.2 from `t` on: channel `a` HIGH, LOW 100 ns later; then its partner `b`, requested on within the LGUARD `g` and HIGH for
100 ns from the guard's end. -/
def testPulse (a b g t : Nat) : List Edge := [⟨t, a, true⟩, ⟨t + 200, a, false⟩, ⟨t + 200, b, true⟩, ⟨t + 400 + g, b, false⟩]

/-- The pulses of the pulse-generator block from `t` on (Table 18.2). Their order and spacing are not stated: leg after leg every 20 us, the high
side first, then the choppers. DESIGN CHOICE, unsafe (log 142). -/
def State.testPulses (s : State) (t : Time) : List Edge :=
  (List.finRange 24).flatMap (fun (l : Fin 24) =>
    let g := 2 * s.rf regPgnLguard l 11 0
    let a := t + 20 * us1 * l.val
    testPulse (2 * l.val) (2 * l.val + 1) g a ++ testPulse (2 * l.val + 1) (2 * l.val) g (a + 10 * us1)) ++
  [⟨t + 480 * us1, 48, true⟩, ⟨t + 480 * us1 + 200, 48, false⟩, ⟨t + 490 * us1, 49, true⟩, ⟨t + 490 * us1 + 200, 49, false⟩]

/-- The pulse-generator block of SELF_TEST begins: every channel that it may drive is LOW but for its pulses, which are scheduled (R460). -/
def State.testBegin (s : State) : State :=
  let s := forFin 8 s fun s w => if s.rowOf w == .test then s.lowGroup w s.time else s
  let s := forFin 2 s fun s c =>
    if s.chopRel c then s
    else s.modChop c fun x => { x with ch := x.ch.turnOff s.time, lowAt := if x.ch.lvl == .low then x.lowAt else s.time }
  { s with edges := s.testPulses (ceilNs s.time + 2 * us1) }

/-- It has ended: no pulse is left, and the rows of Table 6.1 hold the pins again. -/
def State.testEnd (s : State) : State :=
  let s := { s with edges := [] }
  let s := forFin 8 s fun s w =>
    if s.groups[w].asc && s.outEn && s.setConf w then s else (s.releaseGroup w s.time).modGroup w fun x => { x with asc := false }
  forFin 2 s fun s c =>
    if !s.outEn || s.chops[c].latch then s.modChop c fun x => { x with ch := x.ch.release s.time, lowAt := x.ch.relAt s.time x.lowAt }
    else s.modChop c fun x => { x with ch := x.ch.turnOff s.time, lowAt := if x.ch.lvl == .low then x.lowAt else s.time }

/-- The instant from which a chopper's pending change is permitted (R181). -/
def State.chopFrom (s : State) (c : Fin 2) : Option Time :=
  let x := s.chops[c].ch
  if !x.pend || x.lvl == .rel then none
  else if x.req then (if x.blocked then none else some (max x.reqAt (x.lastOff + s.chopToff c)))
  else some (max x.reqAt (x.lastOn + s.chopTon c))

/-- Converter n sleeps whenever it has nothing to do (R197). -/
def State.sleeps (s : State) (n : Nat) : Bool := bitsN ((s.rgetP regAcqSleep 0 0).toNat + (s.rgetP regAcqSleep 0 1).toNat * 2 ^ 32) n n == 1

/-- Converter n has a conversion in progress at `t`. -/
def State.convBusy (s : State) (n : Nat) (t : Time) : Bool := decide (t < (alGet s.acq.busy n).getD 0)

/-- An urgent request that arrives at `t` takes its place in the order of arrival (R198). One that finds its converter asleep, nothing in progress
and nothing asked for before it, is served no earlier than 2 µs after (R197). -/
def State.placeUrgent (s : State) (conv chan : Nat) (host : Bool) (t : Time) : State :=
  let asleep := s.sleeps conv && !s.convBusy conv t && s.acq.urgents.all fun u => u.conv != conv || decide (t < u.at_)
  { s with acq := { s.acq with
      urgents := (s.acq.urgents.filter fun u => decide (u.at_ ≤ t)) ++ [⟨conv, chan, host, t, if asleep then t + 2 * us1 else t⟩] ++
                 s.acq.urgents.filter fun u => !decide (u.at_ ≤ t) } }

/-- A converter queues up to 4 urgent requests; what becomes of a further one of the device's own is not stated, and it is not placed: DESIGN
CHOICE, unsafe (log 137). -/
def State.askUrgent (s : State) (conv chan : Nat) (host : Bool) (t : Time) : State :=
  if 4 ≤ (s.acq.urgents.filter fun u => u.conv == conv).length then s else s.placeUrgent conv chan host t

/-- Apply a chopper's change; each on-change asks for the open check at CHK_DELAY (R181, R244). -/
def State.applyChop (s : State) (c : Fin 2) (t : Time) : State :=
  if s.chops[c].ch.req then
    (s.modChop c fun x => { x with ch := x.ch.turnOn t }).askUrgent (if c = 0 then 42 else 43) (if c = 0 then 0x40 else 0x4B) false
      (t + 200 * s.rf regSupChpCfg c 31 16)
  else s.modChop c fun x => { x with ch := x.ch.turnOff t, lowAt := t }

/-- Request a chopper level. -/
def State.reqChop (s : State) (c : Fin 2) (on : Bool) (t : Time) : State :=
  let x := s.chops[c].ch
  if x.lvl == .rel then s
  else if on == (x.lvl == .high) then s.modChop c fun y => { y with ch := { y.ch with req := on, pend := false, minHeld := false } }
  else
    let s := s.modChop c fun y => { y with ch := { y.ch with req := on, pend := true, reqAt := t } }
    match s.chopFrom c with
    | some a => if a ≤ t then s.applyChop c t
                else s.modChop c fun y => { y with ch := { y.ch with minHeld := true } }
    | none => s

/-- Release both chopper pins. -/
def State.releaseChops (s : State) (t : Time) : State :=
  forFin 2 s fun s c => s.modChop c fun x => { x with ch := x.ch.release t, lowAt := x.ch.relAt t x.lowAt }

/-- Release every SW and CHP pin at once (R157, R228). -/
def State.releaseAll (s : State) (t : Time) : State :=
  (forFin 8 s fun s g => (s.releaseGroup g t).modGroup g fun x => { x with asc := false, cutNow := false }).releaseChops t

/-! ### SCHEDULED_EDGE and PENDING_CHANGE_APPLIED -/

/-- The instant of the next planned change; one that stands at a commutation takes effect with it (R50). -/
def CellSt.due (c : CellSt) : Option Time :=
  match c.plan, c.commAt with
  | (a, _) :: _, some (tc, _, _) => if a = tc then none else some a
  | (a, _) :: _, none => some a
  | [], _ => none

/-- The earliest instant at which a computed edge falls due. -/
def State.edgeDue (s : State) : Option Time :=
  let a := (List.finRange 8).filterMap fun w => if s.setRuns w then s.sets[w].cell.due else none
  let b := s.edges.map (·.t)
  (a ++ b).foldl (fun m t => some (match m with | none => t | some x => min x t)) none

/-- A set whose TD-change DECAY has ended takes the new TD and its chop switch at its next state change (R49). -/
def SetSt.takeTd (x : SetSt) (t : Time) : SetSt :=
  if x.tdNew then
    { x with td := x.tdReq, tdNew := false, chopLow := x.tdChop, cell := { x.cell with common := none, dist := t :: x.cell.dist } }
  else x

/-- Count an applied regulator change into `x` at `t` in the regime `gen` (R116): one into ON in MOTORING, or into FREEWHEEL in
GENERATING, is a raise edge; DECAY in MOTORING spoils the window. -/
def State.countChange (s : State) (w : Fin 8) (x : Reg) (gen : Bool) (t : Time) : State :=
  let raise_ := ((x == .on && !gen) || (x == .freewheel && gen)) && s.appliedReg w == x
  let new := s.atNewSp t
  let s := s.modSet w fun y =>
    { y with adapt := if raise_ then y.adapt.raiseEdge new t else if x == .decay && !gen then y.adapt.spoil new else y.adapt }
  if raise_ then s.rset regEngScCount w (setBits (s.rget regEngScCount w) 15 0 (s.rf regEngScCount w 15 0 + 1)) else s

/-- Take the regulator change of a set that falls due at `t`, with its level requests. -/
def State.takePlan (s : State) (w : Fin 8) (t : Time) : State × List (Fin 48 × Bool) :=
  match s.sets[w].cell.plan with
  | (_, x) :: rest =>
    if s.sets[w].cell.due = some t ∧ s.setRuns w then
      let s := s.modSet w fun y => ({ y with cell := { (y.cell.enter x t) with plan := rest } } : SetSt).takeTd t
      (s, s.intended w)
    else (s, [])
  | [] => (s, [])

/-- Everything requested at one instant: the sets' regulator changes, the staged edges and the pulses of SELF_TEST, in one judgement (R159,
R162, R460). -/
def State.edgesAt (s : State) (t : Time) : State :=
  let due := (List.finRange 8).filter fun w => s.sets[w].cell.due == some t && s.setRuns w
  let (s, l) := forFin 8 (s, ([] : List (Fin 48 × Bool))) fun (s, l) w =>
    let (s, r) := s.takePlan w t
    (s, l ++ r)
  let now := s.edges.filter fun e => e.t == t
  let s := { s with edges := s.edges.filter fun e => e.t != t }
  let sw := now.filterMap fun e =>
    if h : e.ch < 48 then
      (if s.rowOf (setOf ⟨e.ch, h⟩) == .direct || s.rowOf (setOf ⟨e.ch, h⟩) == .test then some ((⟨e.ch, h⟩ : Fin 48), e.on) else none)
    else none
  let s := now.foldl (fun s e => if e.ch < 48 then s else s.reqChop (if e.ch = 48 then 0 else 1) e.on t) s
  let s := s.reqPairs (l ++ sw) t
  due.foldl (fun s w => (s.noteSet w t).countChange w s.sets[w].cell.cur (s.genAt w t) t) s

/-- SCHEDULED_EDGE (R159): the requests that fall due first are applied or held. -/
def execScheduledEdge (s : State) : Host.Outcome State Fault Refusal :=
  match s.edgeDue with
  | some t => .next ((s.adv t).edgesAt t)
  | none => .next s

/-- PENDING_CHANGE_APPLIED (R155): a held change is applied at the first instant at which every rule permits it. -/
def execPendingChangeApplied (ch : Fin 50) (s : State) : Host.Outcome State Fault Refusal :=
  if h : ch.val < 48 then
    let n : Fin 48 := ⟨ch.val, h⟩
    match s.changeFrom n with
    | some a =>
      let t := max s.time a
      .next (((s.adv t).applyChange n t).noteSet (setOf n) t)
    | none => .next s
  else
    let c : Fin 2 := if ch.val = 48 then 0 else 1
    match s.chopFrom c with
    | some a =>
      let t := max s.time a
      .next ((s.adv t).applyChop c t)
    | none => .next s

end Sys2Proof.Machine
end

