-- ==== Sys2Proof/Machine/Lops.lean ====
section
/-! DEFINITION. Lops.lean: long operations and fences (R322, R341 to R350): their slots, pauses and ends, and the commands NOP,
BAD_OPCODE, FENCE, SUSPEND, CANCEL. -/
namespace Sys2Proof.Machine

/-! ### Slots and handles (R347) -/

/-- The handle of a slot's operation. -/
def State.handle (s : State) (k : Fin 8) : Nat := k.val + at_ s.host.lops[k].gen 3

/-- The slot that a handle names, while its operation runs or is suspended. -/
def State.lopOf (s : State) (h : Nat) : Option (Fin 8) :=
  (List.finRange 8).find? fun k => s.host.lops[k].state != 0 && s.handle k == h

/-- The slot that an accepted command takes: the lowest free one; R347 names none. DESIGN CHOICE, unsafe (log 145). -/
def State.freeSlot (s : State) : Option (Fin 8) := (List.finRange 8).find? fun k => s.host.lops[k].state == 0

/-- A long operation of an opcode runs, or is suspended. -/
def State.lopAny (s : State) (opc : BitVec 8) : Bool := s.host.lops.toList.any fun l => l.state != 0 && l.opc == opc
def State.lopRuns (s : State) (opc : BitVec 8) : Bool :=
  s.host.lops.toList.any fun l => (l.state == 1 || l.state == 3) && l.opc == opc

/-- A LINK_TEST runs or is suspended on link `k` (Table 18.1). -/
def State.linkTested (s : State) (k : Nat) : Bool :=
  s.host.lops.toList.any fun l => l.state != 0 && l.opc == 0x41 && bits l.arg0 4 0 == k

/-- The generation that follows: 1 to 8,191, then 1 again. -/
def nextGen (g : Nat) : Nat := if g = 8191 then 1 else g + 1

/-- Take a slot for an accepted command, completing it ACCEPTED with its handle; a ninth operation is refused with reason 15
(R322). -/
def State.lopStart (s : State) (c : Waiting) : State :=
  match s.freeSlot with
  | none => s.finish c stRefusedState 15
  | some k =>
    let s := s.modLop k fun l =>
      { state := 1, gen := nextGen l.gen, opc := c.opc, ring := c.ring, tag := c.tag, irq := c.irq, seq := c.seq, arg0 := c.arg0,
        arg1 := c.arg1, phase := 0, pauses := 0, since := s.time, suspAt := 0, stale := false, ending := 0, res := [],
        quit := 0 }
    s.finish c stAccepted (s.handle k)

/-! ### Fences (R341 to R343) -/

/-- DETAIL of a fence's marks (R344). -/
def FenceSt.detail (f : FenceSt) : Word := BitVec.ofNat 32 (0xC0 + at_ f.ring.val 8 + at_ (f.seq % 65536) 16)

/-- Every mark of a fence has been written. -/
def State.fenceWritten (s : State) (f : FenceSt) : Bool :=
  f.marked && f.traceLeft == 0 && !s.host.held.any fun h => match h with | .mark _ e => e.detail == f.detail | _ => false

/-- Keep what a coming baton may describe: the fences completed in the last 40 ns and the newest before (R361). -/
def fenceKept (x : FenceDone) (l : List FenceDone) : List FenceDone :=
  let young : FenceDone → Bool := fun d => decide (x.at_ < d.at_ + lead40)
  x :: l.takeWhile young ++ (l.dropWhile young).take 1

/-- Complete each fence that has its marks and waits for no earlier operation, nor for a completion still held, OK, with T_f modulo 2^40. A fence of a stopped
ring never completes OK (R352). -/
def State.fenceTry (s : State) : State :=
  s.host.fences.foldl (fun s f =>
    if s.fenceWritten f && f.lops.all (fun h => (s.lopOf h).isNone) && !(s.host.cpls.any fun c => c.ring == f.ring) &&
        !s.host.rings[cqIdx f.ring].stopped then
      let s := { s with host := { s.host with fences := s.host.fences.filter fun g => g.ring != f.ring,
                                              fenceOk := fenceKept ⟨s.time, f.tf, f.ring, f.seq⟩ s.host.fenceOk } }
      match s.host.waiting.find? (fun c => c.opc == 0x01 && c.ring == f.ring) with
      | some c => s.finishW c stOk (ticksOf f.tf % 2 ^ 40)
      | none => s
    else s) s

/-- What waits for room or for transfers goes on: events, completions, fences, messages, rings being disabled. -/
def State.pump (s : State) : State :=
  let s := s.drain.flushCpls.fenceTry.msixPump
  forFin 16 s fun s n => s.closeTry n

/-! ### Pauses and ends (Tables 13.2 and 13.3) -/

/-- Commands SUSPEND (0x02) or CANCEL (0x04) that wait on a handle. -/
def State.lopWaits (s : State) (opc : BitVec 8) (h : Nat) : List Waiting :=
  s.host.waiting.filter fun c => c.opc == opc && c.aux == h

/-- A device that is neither owner nor STANDBY leaves the shadow of PAIR_REJOIN: not started, trackers IDLE (R299, R301). -/
def State.shadowOff (s : State) : State :=
  if s.owner || s.ypl.role == .standby then s
  else
    let s := { s with started := false, ypl := { s.ypl with next := none, adopted := none, devF5 := false, devShut := false } }
    let s := forFin 2 s fun s m => s.modMach m fun x => { x with trk := TrkSt.reset }
    forFin 8 s fun s w => s.quitSet w s.time

/-- What a cancelled operation leaves, beyond its own words in Table 13.3: the unit it used returns to service, converters with their grid begun
anew (R191). -/
def State.lopCleanup (s : State) (k : Fin 8) : State :=
  match s.host.lops[k].opc with
  | 0x30 => if s.otp.burn.any fun b => b.cut != 0 then s else { s with otp := { s.otp with burn := none } }
  | 0x49 => s.shadowOff
  | 0x20 => if s.host.lops[k].state = 2 then s else s.gridStart
  | 0x40 =>
    let s := if s.selfBlock == some 0 then s.gridStart else s
    if s.selfBlock == some 2 then { s.testEnd with lts := { s.lts with stYield := false } } else s
  | 0x41 =>
    let i := bits s.host.lops[k].arg0 4 0
    if h : i < 13 then s.modLink ⟨i, h⟩ fun l => { l with locked := false } else s
  | _ => s

/-- An operation ends: its final completion, then those of the commands that waited on it, then fences (R342, R348). -/
def State.lopEnd (s : State) (k : Fin 8) (st : BitVec 8) (res : Nat) : State :=
  let l := s.host.lops[k]
  let h := s.handle k
  let s := s.modLop k fun l => { l with state := 0, ending := 0, res := [] }
  let s := s.complete ⟨l.ring, st, l.tag, l.seq, l.irq, BitVec.ofNat 48 res⟩
  let s := (s.lopWaits 0x02 h).foldl (fun s c => s.finishW c stRefusedState 2) s
  let s := (s.lopWaits 0x04 h).foldl
    (fun s c => if st = stCancelled then s.finishW c stOk 0 else s.finishW c stRefusedState 2) s
  s.fenceTry

/-- An operation ends as a cancel leaves it. -/
def State.lopQuit (s : State) (k : Fin 8) (st : BitVec 8) (res : Nat) : State := (s.lopCleanup k).lopEnd k st res

/-- The operation reaches pause point `n`: it goes on (true), pauses, or ends as asked; `res` is the RESULT of a final
CANCELLED or ABORTED from here on. -/
def State.lopPause (s : State) (k : Fin 8) (n res : Nat) : State × Bool :=
  let s := s.modLop k fun l => { l with pauses := n, quit := res }
  let l := s.host.lops[k]
  if l.ending = 0 then (s, true)
  else if l.ending = 2 then
    let h := s.handle k
    let s := s.modLop k fun l => { l with state := 2, ending := 0, suspAt := s.time }
    ((s.lopWaits 0x02 h).foldl (fun s c => s.finishW c stSuspended (h + at_ n 16)) s, false)
  else (s.lopQuit k (BitVec.ofNat 8 l.ending) res, false)

/-- End an operation with ABORTED: a suspended one at once, a running one at its next pause point (R350). -/
def State.lopAbort (s : State) (k : Fin 8) : State :=
  match s.host.lops[k].state with
  | 0 => s
  | 2 => s.lopQuit k stAborted s.host.lops[k].quit
  | _ => s.modLop k fun l => { l with state := 3, ending := 0x23 }

/-- Every operation but those of an opcode ends with ABORTED. -/
def State.abortLops (s : State) (but : BitVec 8) : State :=
  forFin 8 s fun s k => if s.host.lops[k].opc == but then s else s.lopAbort k

/-! ### NOP, BAD_OPCODE -/

/-- NOP (Table 12.6). -/
def execNop (q : CmdQ) (s : State) : Host.Outcome State Fault Refusal :=
  s.runCmd q 0x00 (q.arg0 == 0 && q.arg1 == 0) fun s c => s.finish c stOk (s.pacTime % 2 ^ 32)

/-- The opcodes of Table 12.6. -/
def opcodes : List (BitVec 8) :=
  [0x00, 0x01, 0x02, 0x03, 0x04, 0x08, 0x09, 0x0A, 0x0B, 0x0C, 0x10, 0x11, 0x12, 0x13, 0x14, 0x15] ++
  [0x16, 0x18, 0x20, 0x21, 0x28, 0x29, 0x30, 0x31, 0x32, 0x33, 0x38, 0x40, 0x41, 0x48, 0x49, 0x50]

/-- BAD_OPCODE (R321): an OPC outside Table 12.6, judged before every other check. -/
def execBadOpcode (q : CmdQ) (opc : BitVec 8) (s : State) : Host.Outcome State Fault Refusal :=
  if opcodes.contains opc || !s.canBegin q.ring then .next s
  else .next ((s.takeCmd q.ring).finish (s.ctx q opc) stBadOpcode 0)

/-! ### FENCE, SUSPEND, CANCEL -/

/-- FENCE (R341): it holds its ring until it completes. -/
def execFence (q : CmdQ) (s : State) : Host.Outcome State Fault Refusal :=
  s.runCmd q 0x01 (bits q.arg0 31 5 == 0 && q.arg1 == 0) fun s c =>
    let mask : BitVec 4 := BitVec.ofNat 4 (bits c.arg0 3 0)
    let own := (List.finRange 8).filter fun k => s.host.lops[k].state != 0 && s.host.lops[k].ring == c.ring
    if (List.finRange 4).any fun r => mask.getLsbD r && (!s.ringEn (eqIdx r) || s.host.rings[eqIdx r].stopped) then
      s.finish c stRefusedState 1
    else if own.any fun k => s.host.lops[k].state == 2 then s.finish c stRefusedState 2
    else
      let f : FenceSt := ⟨c.ring, s.stamp s.time, mask, c.arg0.getLsbD 4, bits c.arg0 4 0 == 0,
        if c.arg0.getLsbD 4 then BitVec.ofNat 4 ((List.finRange 4).foldl (fun a r => if s.ringEn (tqIdx r) then a + 2 ^ r.val else a) 0) else 0,
        own.map s.handle, c.seq⟩
      let s := s.freeNext.await c
      ({ s with host := { s.host with fences := s.host.fences ++ [f] } }).fenceTry

/-- The operands of SUSPEND, RESUME and CANCEL. -/
def handleOk (q : CmdQ) : Bool := bits q.arg0 31 16 == 0 && q.arg1 == 0

/-- SUSPEND (R348). -/
def execSuspend (q : CmdQ) (s : State) : Host.Outcome State Fault Refusal :=
  s.runCmd q 0x02 (handleOk q) fun s c =>
    let h := bits c.arg0 15 0
    match s.lopOf h with
    | none => s.finish c stRefusedState 1
    | some k =>
      let l := s.host.lops[k]
      if l.state = 2 then s.finish c stSuspended (h + at_ l.pauses 16)
      else
        let s := s.await { c with aux := h }
        if l.ending = 0 then s.modLop k fun l => { l with state := 3, ending := 2 } else s

/-- CANCEL (R348). -/
def execCancel (q : CmdQ) (s : State) : Host.Outcome State Fault Refusal :=
  s.runCmd q 0x04 (handleOk q) fun s c =>
    let h := bits c.arg0 15 0
    match s.lopOf h with
    | none => s.finish c stRefusedState 1
    | some k =>
      let l := s.host.lops[k]
      if l.state = 2 then (s.lopQuit k stCancelled l.quit).finish c stOk 0
      else
        let s := s.await { c with aux := h }
        let s := (s.lopWaits 0x02 h).foldl (fun s w => s.finishW w stRefusedState 2) s
        if l.ending = 0 ∨ l.ending = 2 then s.modLop k fun l => { l with state := 3, ending := 3 } else s

/-- RESUME_LIMIT_EXPIRY (R203, R301): 100 ms after its suspension a calibration or a rejoin is set to restart. -/
def execResumeLimitExpiry (slot : Fin 8) (t : Time) (s : State) : Host.Outcome State Fault Refusal :=
  let s := s.adv t
  let l := s.host.lops[slot]
  if l.state = 2 ∧ (l.opc = 0x20 ∨ l.opc = 0x49) ∧ l.suspAt + 100 * ms1 ≤ s.time then
    .next (s.modLop slot fun l => { l with stale := true })
  else .next s

end Sys2Proof.Machine
end

