-- ==== Sys2Proof/Machine/Trace.lean ====
section
/-! DEFINITION. Trace.lean: how Silo channels take records and deliver trace quads (R374 to R381). -/
namespace Sys2Proof.Machine

/-! ### Configuration of a channel -/

def State.trcCfg (s : State) (c : Fin 16) (hi lo : Nat) : Nat := s.rf regTrcCfg c hi lo
/-- MODE = 1: a ring channel. -/
def State.trcRingMode (s : State) (c : Fin 16) : Bool := s.rb regTrcCfg c 30
/-- RATE: 0 FP, 1 SP, 2 EVENT. -/
def State.trcRate (s : State) (c : Fin 16) : Nat := s.trcCfg c 27 26
/-- The trace ring of a channel. -/
def State.trcQ (s : State) (c : Fin 16) : Fin 4 := Fin.ofNat 4 (s.trcCfg c 25 24)
def State.trcPre (s : State) (c : Fin 16) : Nat := s.rf regTrcDepth c 15 0
def State.trcPost (s : State) (c : Fin 16) : Nat := s.rf regTrcDepth c 31 16
def State.trcLen (s : State) (c : Fin 16) : Nat := s.rf regTrcBuf c 31 16

/-- Records in a quad, and records that the region of a one-shot channel holds (R378). -/
def State.perQuad (s : State) (c : Fin 16) : Nat := if s.trcRate c = 2 then 1 else 2
def State.siloCap (s : State) (c : Fin 16) : Nat := s.perQuad c * s.trcLen c

/-- States in which a channel is armed or delivering: ARMED, POST, DUMP, RUN. -/
def SiloCh.live (x : SiloCh) : Bool := x.state == 1 || x.state == 2 || x.state == 3 || x.state == 5
/-- States in which it takes records. -/
def SiloCh.takes (x : SiloCh) : Bool := x.state == 1 || x.state == 2 || x.state == 5

/-! ### Quads (R379) -/

/-- The instant of a quad's first record. -/
def TQuad.t0 (q : TQuad) : Time := match q.recs with | r :: _ => r.t | [] => 0

/-- A trace quad without its PHASE (Table 14.4). -/
def traceQuad (c : Fin 16) (seq8 : Nat) (q : TQuad) : Quad :=
  let fl := b2n q.trig + at_ (b2n q.short) 1 + at_ (b2n q.gap) 2 + at_ (b2n (q.recs.any (·.poison))) 4 + at_ (b2n q.end_) 5
  let v := fun k => match q.recs[k]? with | some r => r.v.toNat | none => 0
  BitVec.ofNat 128 (ticksOf q.t0 % 2 ^ 40 + at_ c.val 40 + at_ q.recs.length 44 + at_ fl 48 + at_ (seq8 % 256) 56 +
    at_ (v 0) 64 + at_ (v 1) 96)

/-- A mark quad. -/
def markQuad (f : FenceSt) : Quad :=
  BitVec.ofNat 128 (ticksOf f.tf % 2 ^ 40 + at_ 8 48 + at_ f.detail.toNat 64)

/-- A fence still to mark trace ring q keeps a quad of channel c waiting: a ring channel's that holds a record at or after T_f, a
one-shot window not yet begun (R381). -/
def State.traceBlocked (s : State) (c : Fin 16) (q : TQuad) : Bool :=
  s.host.fences.any fun f => f.traceLeft.getLsbD (s.trcQ c) &&
    (if s.trcRingMode c then q.recs.any (fun r => decide (f.tf ≤ r.t)) else s.silo[c].quads == 0)

/-- Write the quads of channel c that wait, as far as its ring takes them (R379, R380). -/
def State.tqWrite (c : Fin 16) : List TQuad → State → State
  | [], s => s.modSilo c fun x => { x with outq := [] }
  | q :: l, s =>
    if s.canPut (tqIdx (s.trcQ c)) && !s.traceBlocked c q then
      let s := s.ringPut (tqIdx (s.trcQ c)) (traceQuad c s.silo[c].seq8 q) 55 true false
      tqWrite c l (s.modSilo c fun x => { x with seq8 := (x.seq8 + 1) % 256, quads := x.quads + 1, losing := false })
    else s.modSilo c fun x => { x with outq := q :: l }

/-- Write the waiting quads of every channel of ring q. -/
def State.tqRing (s : State) (q : Fin 4) : State :=
  forFin 16 s fun s c => if s.trcQ c = q then State.tqWrite c s.silo[c].outq s else s

/-- Cut records, oldest first, into quads; `t` is the trigger instant. -/
def quadsOf (per : Nat) (t : Option Time) (short : Bool) (l : List Rec) : List TQuad :=
  let qs := (cutList per l.length l).map fun rs => ({ recs := rs, trig := false, gap := false, end_ := false, short := short } : TQuad)
  let k := match t with
    | some t => qs.findIdx fun q => q.recs.any fun r => decide (t ≤ r.t)
    | none => qs.length
  let qs := qs.mapIdx fun i q => { q with trig := i == k }
  qs.mapIdx fun i q => { q with end_ := i + 1 == qs.length }

/-! ### Taking a record (R375, R378, R380) -/

/-- A ring channel's quad is complete: it joins the queue, or is lost while the region is full. It holds the first record at or after each
trigger that it marks (R378). -/
def State.siloPush (s : State) (c : Fin 16) (rs : List Rec) : State :=
  let x := s.silo[c]
  let hits := fun (t : Time) => rs.any fun r => decide (t ≤ r.t)
  if rs.isEmpty then s
  else if x.outq.length < s.trcLen c then
    let q : TQuad := { recs := rs, trig := x.marking.any hits, gap := x.gap, end_ := false, short := false }
    s.modSilo c fun x => { x with outq := x.outq ++ [q], gap := false, marking := x.marking.filter fun t => !hits t }
  else
    let s := (s.rcount regTrcCount c 31 16 1).rcount regTrcLost 0 31 0 1
    let first := !x.losing
    let s := s.modSilo c fun x => { x with gap := true, losing := true }
    if first then s.raise 0x0B 8 0x12 0 (0xD2 + at_ c.val 8) s.time else s

/-- Close a ring channel's open quad. -/
def State.siloShut (s : State) (c : Fin 16) : State := (s.modSilo c fun x => { x with recs := [] }).siloPush c s.silo[c].recs.reverse

/-- Close it, and write what its ring takes. -/
def State.siloClose (s : State) (c : Fin 16) : State := State.tqWrite c (s.siloShut c).silo[c].outq (s.siloShut c)

/-- A kept record of a ring channel: a quad that would straddle the T_f of a fence is closed early (R381). -/
def State.siloRing (s : State) (c : Fin 16) (r : Rec) : State :=
  let cut := s.host.fences.any fun f => f.traceLeft.getLsbD (s.trcQ c) && decide (f.tf ≤ r.t) &&
    s.silo[c].recs.any fun o => decide (o.t < f.tf)
  let s := if cut then s.siloClose c else s
  let s := s.modSilo c fun x => { x with recs := r :: x.recs }
  if s.perQuad c ≤ s.silo[c].recs.length then s.siloClose c else s

/-- Records from T on that a one-shot channel holds. -/
def SiloCh.postHeld (x : SiloCh) : Nat :=
  match x.trig with
  | some t => (x.recs.filter fun r => decide (t ≤ r.t)).length
  | none => 0

/-- A kept record of a one-shot channel: circular from arming, until POST records from T are held. -/
def State.siloShot (s : State) (c : Fin 16) (r : Rec) : State :=
  let x := s.silo[c]
  if x.trig.isSome && decide (s.trcPost c ≤ x.postHeld) then s
  else s.modSilo c fun x => { x with recs := (r :: x.recs).take (s.siloCap c) }

/-- A record of the source of channel c: every D-th is kept, counted from arming (log 23). -/
def State.siloRec (s : State) (c : Fin 16) (r : Rec) : State :=
  if !s.silo[c].takes then s
  else
    let n := s.silo[c].dec + 1
    let s := s.modSilo c fun x => { x with last := some r.v, dec := if s.trcCfg c 15 0 ≤ n then 0 else n }
    if s.trcCfg c 15 0 ≤ n then (if s.silo[c].state = 5 then s.siloRing c r else s.siloShot c r) else s

/-- A delivered sample of a sample channel reaches the channels that take every sample (Table 14.3). -/
def State.siloSample (s : State) (chan : Nat) (t : Time) (code : Int) (flags : BitVec 5) : State :=
  forFin 16 s fun s c =>
    if s.silo[c].takes && s.rb regTrcCfg c 28 && s.trcRate c == 2 && s.rf regTrcSrc c 7 0 == chan then
      s.siloRec c ⟨t, BitVec.ofNat 32 (uns code 16 + at_ flags.toNat 16), false⟩
    else s

/-! ### Fence marks in trace rings (R381) -/

/-- Trace ring q may take the mark of a fence: nothing earlier of it waits to be written. -/
def State.markReady (s : State) (f : FenceSt) (q : Fin 4) : Bool :=
  s.canPut (tqIdx q) && (List.finRange 16).all fun c =>
    s.trcQ c != q || s.silo[c].outq.isEmpty ||
      (if s.trcRingMode c then s.silo[c].outq.all (fun x => decide (f.tf ≤ x.t0)) else s.silo[c].quads == 0)

/-- Write the mark of fence `n` into the trace rings that can take it; a ring no longer enabled needs none. -/
def State.traceMarks (s : State) (n : Fin 16) : State :=
  match s.host.fences.find? fun f => f.ring == n && f.marked with
  | none => s
  | some f =>
    let s := forFin 16 s fun s c =>
      if s.trcRingMode c && f.traceLeft.getLsbD (s.trcQ c) && s.silo[c].recs.any (fun o => decide (o.t < f.tf)) then s.siloClose c else s
    let (s, left) := forFin 4 (s, f.traceLeft) fun (s, left) q =>
      if !left.getLsbD q then (s, left)
      else if !s.ringEn (tqIdx q) then (s, left &&& ~~~ (1#4 <<< q.val))
      else if s.markReady f q then (s.ringPut (tqIdx q) (markQuad f) 55 true false, left &&& ~~~ (1#4 <<< q.val))
      else (s, left)
    let s := { s with host := { s.host with fences := s.host.fences.map fun g => if g.ring == n then { g with traceLeft := left } else g } }
    forFin 4 s fun s q => s.tqRing q

/-- Every marked fence's trace marks. -/
def State.allTraceMarks (s : State) : State := forFin 16 s fun s n => s.traceMarks n

end Sys2Proof.Machine
end

