-- ==== Sys2Proof/Machine/Supervise.lean ====
section
/-! DEFINITION. Supervise.lean: safe states, holds and faults (chapter 9): SAFE_STATE, SAFE_APPLIED, FAULT_CLEAR, FAULT_CLEARED,
the fault-raising judgements, windows, FLT_N and ESTOP_N (chapter 8). -/
namespace Sys2Proof.Machine

/-! ### Ending procedures -/

/-- Discard a pending reversal with REV_CANCELLED (R68). -/
def State.discardRev (s : State) (m : Fin 2) (t : Time) : State :=
  if s.mach[m].decel.revPend then
    (s.modMach m fun x => { x with decel := { x.decel with revPend := false, revAt := none } }).raise 0x0A 3 m 0 0x26 t
  else s

/-- A deceleration in progress ends without its consequence. -/
def DecelSt.stop (d : DecelSt) : DecelSt :=
  { d with active := false, cause := 0, held := false, ref := 0, startDue := none, zeroNext := false }

/-- The current-vector observation of a machine's sets ends, but for that of an ASC safe state (R234). -/
def State.endObs (s : State) (m : Fin 2) : State :=
  if s.mach[m].sup.safe == some .asc then s
  else forFin 8 s fun s w => if machOf w = m then s.modSet w fun x => { x with obs := ObsSt.reset } else s

/-- End every procedure of chapter 3 and the deceleration: the tracker goes to IDLE (R70). -/
def State.idleMach (s : State) (m : Fin 2) : State :=
  (s.endObs m).modMach m fun x =>
    { x with
      trk := { x.trk with state := .idle, lost_ := false, stopping := false, good := 0, bad := 0, reports := [], misses := [] }
      decel := x.decel.stop
      start := { x.start with failDue := none, settleEnd := none, ascAt := none, est := none }
      loop := { x.loop with blend := none, takeover := none } }

/-- Every set of a machine stops driving at once. -/
def State.offMach (s : State) (m : Fin 2) (t : Time) : State :=
  forFin 8 s fun s w => if machOf w = m then s.offSet w t else s

/-! ### Applying a safe state (R233) -/

/-- The state that a policy gives, and whether it is an ASC applied under AUTO. -/
def State.policyKind (s : State) (m : Fin 2) (ask : Nat) : SafeKind × Bool :=
  match ask with
  | 1 => (.opened, false)
  | 2 => (.asc, false)
  | _ =>
    match s.rf regSupPolicy m 1 0 with
    | 0 => (.opened, false)
    | 1 => (.asc, false)
    | _ => if s.mach[m].sup.ascNow then (.asc, true) else (.opened, false)

def SafeKind.code : SafeKind → Nat
  | .opened => 1
  | .asc => 2

/-- Put the pins of a set where its row says: released, or the ASC pattern. -/
def State.pinsSafe (s : State) (w : Fin 8) (t : Time) : State :=
  match s.rowOf w with
  | .asc => s.ascPattern w t
  | _ => (s.releaseGroup w t).modGroup w fun x => { x with asc := false }

/-- The state that a machine is taken to, whether it is an ASC under AUTO, and whether it is one of R245, which ends only by R235 (log
17). -/
def State.safeKind (s : State) (m : Fin 2) (ask : Nat) (fix : Bool) : SafeKind × Bool × Bool :=
  let x := s.mach[m].sup
  if fix then (.asc, s.rf regSupPolicy m 1 0 == 2, true)
  else if x.fixAsc && x.safe == some .asc then (.asc, x.safeAuto && ask != 2, true)
  else
    let (k, auto) := s.policyKind m ask
    (k, auto, false)

/-- A machine enters a safe state of another kind than before: its procedures end, no set drives, the observation starts anew, and the
pins of its configured sets change now. -/
def State.enterSafe (s : State) (m : Fin 2) (k : SafeKind) : State :=
  let s := s.idleMach m
  let s := forFin 8 s fun s w =>
    if machOf w = m then (s.quitSet w s.time).modSet w fun x => { x with obs := ObsSt.reset } else s
  let s := s.modMach m fun x =>
    { x with sup := { x.sup with safe := some k, obsF := x.trk.f, obsFail := 0, ascRel := false } }
  (forFin 8 s fun s w => if machOf w = m && s.setConf w then s.pinsSafe w s.time else s).retrip

/-- Take a machine to its safe state now (R232, R233), SAFE_APPLIED with the stamp `t`: a pending reversal is discarded, its procedures
end. A fault (`ask` 0) leaves a machine already in a safe state in it; ESTOP_N, F5 and SAFE_STATE apply theirs anew (`ask` 3 the policy,
1 OPEN, 2 ASC). DEDUCED, unsafe (log 17). -/
def State.machSafe (s : State) (m : Fin 2) (ask cause : Nat) (fix : Bool) (t : Time) : State :=
  let s := s.discardRev m t
  if s.mach[m].sup.safe.isSome && ask == 0 then s
  else
    let (k, auto, fixed) := s.safeKind m ask fix
    let s := if s.mach[m].sup.safe == some k then s else s.enterSafe m k
    let s := s.modMach m fun x => { x with sup := { x.sup with safeAuto := auto, fixAsc := fixed } }
    s.raise 0x0A 3 m 0 (0x86 + at_ k.code 8 + at_ cause 16) t

/-- Take a configured set to its safe state. -/
def State.takeSetSafe (s : State) (w : Fin 8) (cause : Nat) (t : Time) : State :=
  if !s.setConf w || s.mach[machOf w].sup.safe.isSome || s.sets[w].safe.isSome then s
  else
    let (k, auto) := s.policyKind (machOf w) 0
    let s := (s.quitSet w s.time).modSet w fun x => { x with safe := some k, safeAuto := auto, rejoin := false }
    let s := s.pinsSafe w s.time
    s.raise 0x0A 2 w 0 (0x86 + at_ k.code 8 + at_ cause 16) t

/-- Apply one armed reaction. -/
def State.applyReq (s : State) (r : SafeReq) (t : Time) : State :=
  match r.obj with
  | .set w => s.takeSetSafe w r.cause t
  | .mach m => s.machSafe m r.state r.cause r.dcOv t

/-- Apply every armed reaction whose boundary has come. -/
def State.applyReqs (s : State) (t : Time) : State :=
  let due := s.sup.reqs.filter fun r => decide (r.due ≤ t)
  let s := { s with sup := { s.sup with reqs := s.sup.reqs.filter fun r => !decide (r.due ≤ t) } }
  due.foldl (fun s r => s.applyReq r t) s

/-- Configured machines. -/
def State.confMach (s : State) : List (Fin 2) := (List.finRange 2).filter fun m => s.machEn m

def State.mbrk (s : State) (b : Bool) : State := { s with sup := { s.sup with mbrk := b } }

/-! ### Device-level reactions -/

/-- R238 applies: ACTIVE, and the partner's latest accepted frame shows it STANDBY and fit. -/
def State.yields (s : State) : Bool :=
  s.ypl.role == .active && s.ypl.seen && s.ypl.pRole == 1 && !s.ypl.pUnfit

/-! ### The pair: epochs, fitness, frames (R276, R277, R280, R291) -/

/-- Epoch a is newer than epoch b (R276). -/
def newerEpoch (a b : Word) : Bool := let d := (a - b).toNat; decide (1 ≤ d) && decide (d < 2 ^ 31)

/-- A new epoch begins: the marks of R360 and R361 begin anew. -/
def State.newEpoch (s : State) (e : Word) : State :=
  { s with ypl := { s.ypl with epoch := e, epochOk := true },
           host := { s.host with fenceOk := [], rings := s.host.rings.map fun r => { r with taken := false, marks := [] } } }

/-- The epoch of a device that becomes an owner from UNJOINED or LOCKOUT. -/
def State.ownerEpoch (s : State) : Word :=
  1 + (if s.ypl.seen && newerEpoch s.ypl.pEpoch s.ypl.epoch then s.ypl.pEpoch else s.ypl.epoch)

/-- Own position as SOURCE_INDEX of a PAIR event. -/
def State.posIdx (s : State) : Nat := b2n s.posB

/-- The first condition of Table 11.6 that fails; 0: the standby is fit. -/
def State.unfitBy (s : State) : Nat :=
  let y := s.ypl
  if 2 < ((List.range 16).filter fun k => !y.expect.getLsbD k).length then 1
  else if !y.aligned then 2
  else if (match y.digBad with | some t => decide (t + 100 * ms1 < s.time) | none => false) then 3
  else if !s.acq.calValid || (List.finRange 8).any (fun w => s.setConf w && (s.inputsOf w).any fun n => s.inputLost n) then 4
  else if y.diverged then 5
  else if s.sup.f5 || s.thm.shutHeld || s.pcr.warn != 0 || s.thm.thw then 6
  else 0

/-- YPL_STAT.FIT: STANDBY and fit. -/
def State.fitNow (s : State) : Bool := s.ypl.role == .standby && s.unfitBy == 0

/-- FP index of the last boundary for which a baton is sent: every one, or the even ones when FP < 1 µs (R281). -/
def State.batonIdx (s : State) : Nat :=
  let j := s.lastFp / s.fp
  if s.fp < us1 then j / 2 * 2 else j

/-- A frame with its header (Table 11.3). -/
def State.frameOf (s : State) (type : Nat) (payload : List Quad) : List Quad :=
  let h := type + at_ s.ypl.role.code 4 + at_ (b2n s.posB) 7 + at_ payload.length 8 +
    at_ (b2n (s.ypl.role == .standby && !s.fitNow)) 13 + at_ s.ypl.fseq.toNat 16 + at_ s.ypl.epoch.toNat 32 +
    at_ (s.pacTime % 2 ^ 32) 64
  BitVec.ofNat 128 (h + at_ (crc32 (leBytes h 12 ++ quadBytes payload)).toNat 96) :: payload

/-- A device with PAIR_EN = 0 never operates its lanes (R275); one that has yielded sends nothing more (R238). -/
def State.maySend (s : State) : Bool := s.pairEn && s.pcr.asserted.isNone && !s.sup.yielded && s.pcr.state != 3

/-- Send a frame now (R281, R282): serial time on the lanes is not modelled. -/
def State.sendFrame (s : State) (type : Nat) (payload : List Quad) : State :=
  if s.maySend then
    let f := s.frameOf type payload
    { s with ypl := { s.ypl with fseq := s.ypl.fseq + 1, lastTx := s.time,
                                 sent := if s.ypl.lastTx = s.time then s.ypl.sent ++ [f] else [f] } }
  else s

/-- A frame that the management cores send waits for them through an MGR reset (R302). -/
def State.sendSlow (s : State) (type : Nat) (payload : List Quad) : State :=
  if s.msr.mgr then { s with ypl := { s.ypl with txq := s.ypl.txq ++ [(type, payload)] } } else s.sendFrame type payload

/-! ### Roles (R273, R275, R302) -/

/-- A planned hand-over in preparation ends; a CLAIM lowered for B_h rises again (Table 11.1). -/
def State.endHandover (s : State) : State :=
  { s with ypl := { s.ypl with hoAt := none, hoOut := false, hoReply := false, hoPrep := false,
                               claim := s.ypl.claim || (s.ypl.hoOut && s.owner && s.ypl.claimFell.isNone && !s.yieldHigh) } }

/-- It ends, and the owner's command completes (R297, R298). -/
def State.dropHandover (s : State) (st : BitVec 8) (res : Nat) : State :=
  let s := s.endHandover
  match s.oldest 0x48 with
  | some c => s.finishW c st res
  | none => s

/-- A SAFE_STATE for the policy applies it anew (R236). -/
def askOf (ask : Nat) : Nat := if ask = 0 then 3 else ask

/-- The safe states held while the device did not own apply from the instant it becomes owner (R236, R302). -/
def State.localSafe (s : State) (t : Time) : State :=
  s.confMach.foldl (fun s m =>
    let x := s.mach[m].sup
    match x.local_ with
    | some ask => (s.modMach m fun y => { y with sup := { y.sup with local_ := none } }).machSafe m (askOf ask) 0x89 false t
    | none => if x.holdEstop then s.machSafe m 3 0x88 false t else s) s

/-- The device becomes an owner without a partner that drives: CLAIM and OWN rise; OWN only with YIELD_IN low (R272). -/
def State.becomeOwner (s : State) (role : Role) (e : Word) (t : Time) : State :=
  let s := s.newEpoch e
  let s := { s with ypl := { s.ypl with role := role, claim := true, own := !(s.pairEn && s.ypl.yieldIn), ownAt := none, blocked := false },
                    sup := { s.sup with hbStop := false } }
  (s.localSafe t).retrip

/-- A device with PAIR_EN = 0 becomes SOLO once the OTP shadow is loaded (R275). -/
def State.soloAlone (s : State) (t : Time) : State :=
  if !s.pairEn && s.ypl.role == .unjoined && s.otp.loaded then s.becomeOwner .solo s.ownerEpoch t else s

/-- The commands that R302 refuses a device that does not own. -/
def ownerOpcs : List (BitVec 8) := [0x0C, 0x10, 0x11, 0x12, 0x13, 0x14, 0x16, 0x18, 0x20]

/-- The device no longer owns: its begun commands of R302 that are not committed complete ABORTED, RESULT 13 (R346). -/
def State.roleAborts (s : State) : State :=
  (s.host.waiting.filter fun c => !c.committed && ownerOpcs.contains c.opc).foldl (fun s c => s.finishW c stAborted 13) s

/-- The role becomes LOCKOUT, or UNJOINED: not started, trackers IDLE, pins released (R275); an owner's long operations end
(R350). -/
def State.leaveDrive (s : State) (role : Role) (t : Time) : State :=
  let s := if s.owner then (s.abortLops 0x49).roleAborts else s
  let s := s.dropHandover stAborted 0
  let s := { s with started := false, ypl := { s.ypl with role := role, claim := false, own := false, claimAt := none, claimFell := none,
                                                          ownAt := none, adopted := none, next := none, fit := false, devF5 := false,
                                                          devShut := false } }
  let s := forFin 2 s fun s m => (s.offMach m t).idleMach m
  let s := forFin 8 s fun s g => s.modGroup g fun x => { x with direct := false }
  { s.releaseAll t with direct := { s.direct with next := none } }

/-- DEPOSED: the device enters LOCKOUT (R295). Cause 0 YIELD_IN, 1 newer epoch, 2 own yield. -/
def State.depose (s : State) (cause : Nat) (t : Time) : State :=
  (s.leaveDrive .lockout t).raise 7 5 s.posIdx 0 (0xB3 + at_ cause 8) t

/-- The yield of R238: RELAY YIELD is sent, all pins are released, MBRK_REQ is asserted, the heartbeats stop, and the device enters
LOCKOUT with DEPOSED of cause 2 (R295, Table 11.2). An F5 cause latches the release as well. -/
def State.yield238 (s : State) (f5 : Bool) (t : Time) : State :=
  let s := s.sendFrame 7 [BitVec.ofNat 128 (2 + at_ s.batonIdx 64)]
  let s := (s.releaseAll s.time).mbrk true
  let s := { s with sup := { s.sup with hbStop := true } }
  let s := if f5 then { s with sup := { s.sup with yielded := true, f5 := true } } else s
  s.depose 2 t

/-- An F5 reaction: at once, latched (R231, R232, R238). -/
def State.reactF5 (s : State) (cause : Nat) (t : Time) : State :=
  let s := { s with sup := { s.sup with f5 := true }, thm := { s.thm with shutRun := false, seqDue := false },
                    pcr := { s.pcr with stopping := false, stopDue := false } }
  let s := if s.thm.shutHeld then s else { s with thm := { s.thm with exitCnt := 0, exitMet := false, exitDue := false } }
  if s.yields then s.yield238 true t
  else (s.confMach.foldl (fun s m => (s.modMach m fun x => { x with sup := { x.sup with fault := true } }).machSafe m 3 cause false t) s).mbrk true

/-! ### SAFE_STATE, SAFE_APPLIED -/

/-- SAFE_STATE (R236): accepted in every drive state; a device that does not own holds the request (R302). -/
def execSafeState (q : CmdQ) (s : State) : Host.Outcome State Fault Refusal :=
  s.runCmd q 0x15 (q.arg1 == 0 && bits q.arg0 31 4 == 0 && bits q.arg0 3 2 != 3 && !s.badMask (bits q.arg0 1 0)) fun s c =>
    s.awaitAt c (s.fpAfter s.time) (maskOf (s.maskMach (bits q.arg0 1 0)))

/-- The effect of SAFE_STATE on the machines of a mask: SAFE_CMD, then the safe state, held until a FAULT_CLEAR. -/
def State.safeCmd (s : State) (mask ask : Nat) (svc : Bool) (t : Time) : State :=
  let l := (List.finRange 2).filter fun m => (mask >>> m.val) % 2 == 1
  let s := s.raise 1 4 0 2 (0x89 + at_ mask 8 + at_ (b2n svc) 10) t
  l.foldl (fun s m =>
    let s := s.modMach m fun x => { x with sup := { x.sup with holdCmd := x.sup.holdCmd || !svc, holdSvc := x.sup.holdSvc || svc } }
    if s.owner then s.machSafe m (askOf ask) 0x89 false t
    else (s.discardRev m t).modMach m fun x => { x with sup := { x.sup with local_ := some ask } }) s

/-- Ask for SAFE_STATE from the service port: it acts at the boundary of R232 (R236, R335). -/
def State.askSafe (s : State) (mask ask : Nat) (t : Time) : State :=
  { s with svc := { s.svc with safes := s.svc.safes ++ [(s.fpAfter t, mask, ask)] } }

/-- Apply what the service port has asked for and whose boundary has come. -/
def State.applySafes (s : State) (t : Time) : State :=
  let due := s.svc.safes.filter fun r => decide (r.1 ≤ t)
  let s := { s with svc := { s.svc with safes := s.svc.safes.filter fun r => !decide (r.1 ≤ t) } }
  due.foldl (fun s r => s.safeCmd r.2.1 r.2.2 true t) s

/-- Machines whose safe state is ASC. -/
def State.inAsc (s : State) : Nat :=
  maskOf ((List.finRange 2).filter fun m => s.mach[m].sup.safe == some .asc)

/-- SAFE_APPLIED (R232): the armed reactions, what the service port has asked for, or the oldest SAFE_STATE, act at their boundary. -/
def execSafeApplied (s : State) : Host.Outcome State Fault Refusal :=
  let w := s.oldest 0x15
  let due := (s.sup.reqs.map (·.due)) ++ (s.svc.safes.map (·.1)) ++ (w.map (·.due)).toList
  match due with
  | [] => .next s
  | d :: ds =>
    let t := max s.time (ds.foldl min d)
    let s := ((s.adv t).applyReqs t).applySafes t
    match w with
    | some c =>
      if c.due ≤ t then
        let s := s.safeCmd c.aux (bits c.arg0 3 2) false t
        .next (s.finishW c stOk s.inAsc)
      else .next s
    | none => .next s

/-! ### FAULT_CLEAR, FAULT_CLEARED -/

/-- FAULT_CLEAR (R257): refusals in the order R302, F5, thermal, supply; otherwise it acts at the next boundary. -/
def execFaultClear (q : CmdQ) (s : State) : Host.Outcome State Fault Refusal :=
  s.runCmd q 0x16 (q.arg1 == 0 && bits q.arg0 31 1 == 0) fun s c =>
    if s.notOwner || s.sup.f5 then s.finish c stRefusedState 0
    else if s.thm.shutRun || (s.thm.shutHeld && !s.thm.exitMet) then s.finish c stRefusedTemp 0
    else if s.pcr.stopping then s.finish c stRefusedSupply 0
    else s.awaitAt c (s.fpAfter s.time) 0

/-- A STATUS bit of the last telemetry frame of link g for switch k of the set (Table 9.4). -/
def State.tlmBit (s : State) (g : Fin 8) (k b : Nat) : Bool := s.sup.glk[g].tlm.getLsbD (8 + 4 * k + b)

/-- A cause that took the set to F2 is still present: a lost input, a gate-link condition in the last frame, a lost link. -/
def State.setCause (s : State) (w : Fin 8) : Bool :=
  (s.inputsOf w).any (fun n => s.inputLost n) ||
  (List.range 6).any (fun k => s.tlmBit w k 0 || s.tlmBit w k 1 || s.tlmBit w k 2) ||
  s.sup.glk[w].gateBad != 0 || s.sup.glk[w].lost || s.sup.glk[w].tsdCnt.toList.any fun n => decide (3 ≤ n)

/-- A source of the group's latch is asserted (R171). -/
def State.latchHeld (s : State) (g : Fin 8) : Bool := s.flt.getLsbD g || (s.outWindow g).isSome

/-- Step 1 of R257 for the groups and the choppers. A group whose latch clears stays REL until its set begins driving or it enters direct
mode (R171). -/
def State.clearLatches (s : State) : State :=
  let s := forFin 8 s fun s g =>
    if s.groups[g].hiz && s.latchHeld g then s
    else s.modGroup g fun x => { x with hiz := false, src := 0, cutRun := 0, recovery := false, stay := x.stay || x.hiz }
  forFin 2 s fun s c =>
    if s.chops[c].latch && (s.outWindow (8 + c.val)).isSome then s
    else s.modChop c fun x => { x with latch := false, run := 0 }

/-- Step 2: chopper states and counts. -/
def State.clearChoppers (s : State) : State :=
  forFin 2 s fun s c => s.modChop c fun x => { x with state := 0, openCnt := 0, shortCnt := 0 }

/-- Step 3: a faulted set without its cause rejoins at the next SP boundary. -/
def State.rejoinSets (s : State) : State :=
  forFin 8 s fun s w =>
    let st := s.mach[machOf w].trk.state
    if s.sets[w].fault && !s.setCause w && !s.groups[w].hiz && (st == .locked || st == .low) then
      s.modSet w fun x => { x with fault := false, rejoin := true, plCnt := 0 }
    else s

/-- Step 4: the holds of R236, and MBRK_REQ. The holds of the shutdown sequences end too (R268, R429), and each faulted machine
needs only a DRIVE_START from here on (Table 9.1). -/
def State.endHolds (s : State) : State :=
  let s := forFin 2 s fun s m => s.modMach m fun x =>
    { x with sup := { x.sup with fault := false, holdCmd := false, holdSvc := false, holdEstop := x.sup.holdEstop && s.estop,
                                 local_ := none } }
  let s := { s with sup := { s.sup with estopHeld := s.sup.estopHeld && s.estop, f4 := s.sup.f4 && s.sup.estopHeld && s.estop },
                    thm := { s.thm with shutHeld := false, exitMet := false, exitCnt := 0 },
                    pcr := { s.pcr with stopHeld := false } }
  if s.sup.ov2.toList.any id then s else s.mbrk false

/-- Gate-link conditions may raise again (R251). -/
def State.clearGlk (s : State) : State :=
  forFin 8 s fun s g => s.modGlk g fun x =>
    { x with desat := 0, uvloP := 0, uvloN := 0, gateRaised := 0, tsdRaised := 0, lostRaised := false }

/-- A mask of sets, of machines. -/
def State.faultMask (s : State) : Nat :=
  (List.finRange 8).foldl (fun a w => if s.sets[w].fault then a + 2 ^ w.val else a) 0
def State.safeMask (s : State) : Nat :=
  maskOf ((List.finRange 2).filter fun m => s.mach[m].sup.safe.isSome)

/-- FAULT_CLEARED (R257): the five steps at the boundary, then the event and the completion. -/
def execFaultCleared (s : State) : Host.Outcome State Fault Refusal :=
  match s.oldest 0x16 with
  | some c =>
    let t := max s.time c.due
    let h := c.arg0.getLsbD 0
    let s := ((((s.adv t).clearLatches.clearChoppers).rejoinSets).endHolds).clearGlk
    let s := if h then { s with sup := { s.sup with hist := [], histLost := 0 } } else s
    let s := { s with svc := { s.svc with cleared := true } }
    let s := s.raise 0x0A 4 0 0 0x97 t
    .next (s.finishW c stOk (s.faultMask + at_ s.safeMask 8 + at_ (b2n s.sup.estopHeld) 10 + at_ (b2n s.sup.mbrk) 11 +
      at_ (b2n h) 12))
  | none => .next s

/-! ### Judgements found at a boundary and acted on -/

/-- DC_OV_ASC (R245 step 3): OV2_ASC_TIME has passed with ASC_NOW and the link at or above VDC_OV2; class F3, ASC whatever
the policy. It is raised at the first boundary at which the time has passed. -/
def execDcOvAsc (m : Fin 2) (s : State) : Host.Outcome State Fault Refusal :=
  match s.mach[m].sup.ov2Since with
  | some t0 =>
    let need := 200000 * s.rf regSupVdcCfg (s.vdcSel m) 15 0
    if s.machEn m ∧ t0 + need ≤ s.lastFp ∧ s.mach[m].sup.ovRaised = false then
      let s := s.modMach m fun x => { x with sup := { x.sup with fault := true, ovRaised := true } }
      .next ((s.armSafe (.mach m) 2 0x8C true s.lastFp).raiseF 3 m 4 0x8C s.lastFp)
    else .next s
  | none => .next s

/-- VDC_UV (R243): ten boundaries at or below the level while a machine on the link drives; class F3. -/
def execVdcUv (x : Fin 2) (s : State) : Host.Outcome State Fault Refusal :=
  if s.sup.uvDue[x] then
    let s := { s with sup := { s.sup with uvDue := s.sup.uvDue.set x false, uvRun := s.sup.uvRun.set x 0 } }
    let l := s.confMach.filter fun m => s.vdcSel m == x
    let s := l.foldl (fun s m =>
      (s.modMach m fun y => { y with sup := { y.sup with fault := true } }).armSafe (.mach m) 0 0x8D false s.lastFp) s
    .next (s.raise 1 8 6 4 (0x8D + at_ x.val 8) s.lastFp)
  else .next s

/-- PLAUSIBILITY (R239): PL_CNT has reached PL_TRIP. -/
def execPlausibility (w : Fin 8) (s : State) : Host.Outcome State Fault Refusal :=
  if s.sets[w].plDue then
    let neg := b2n s.sets[w].plNeg
    let s := s.modSet w fun x => { x with plDue := false, plCnt := 0 }
    .next (s.faultSet w 2 w (0x82 + at_ neg 8) s.lastFp)
  else .next s

/-- PL_STARVED (R240): 100 ms driving LOCKED without a qualifying period; raised once until one occurs, class F0. -/
def execPlStarved (w : Fin 8) (s : State) : Host.Outcome State Fault Refusal :=
  if s.sets[w].driving && s.mach[machOf w].trk.state == .locked && !s.sets[w].plRaised &&
      decide (s.sets[w].plSince + 100 * ms1 ≤ s.lastFp) then
    .next ((s.modSet w fun x => { x with plRaised := true }).raiseF 2 w 1 0x83 s.lastFp)
  else .next s

/-- FOLLOWING_ERROR (R241): FE_T has reached FE_TIME. -/
def execFollowingError (m : Fin 2) (s : State) : Host.Outcome State Fault Refusal :=
  if s.mach[m].sup.feDue then
    let neg := b2n s.mach[m].sup.feNeg
    let s := s.modMach m fun x => { x with sup := { x.sup with feDue := false, feT := 0 } }
    .next (s.faultMach m 3 m 3 (0x84 + at_ neg 8) s.lastSp)
  else .next s

/-- TRIP_RATE (R242): the count of cut runs in the window has reached the limit; once per window. -/
def execTripRate (w : Fin 8) (s : State) : Host.Outcome State Fault Refusal :=
  if s.rf regSupTripCfg 0 7 0 ≤ s.sets[w].trips ∧ s.sets[w].trips ≠ 0 ∧ s.sets[w].tripHit = false then
    .next ((s.modSet w fun x => { x with tripHit := true }).faultSet w 2 w 0x85 s.time)
  else .next s

/-- TRIP_ESCALATED (R169): CUT_RUN has reached TRIP_ESC at the boundary, which released and latched the group with source ESCALATION; class
F2. -/
def execTripEscalated (g : Fin 8) (s : State) : Host.Outcome State Fault Refusal :=
  let run := s.groups[g].cutRun
  if s.groups[g].escDue then
    let s := (s.rcount regPgnSgCount g 31 24 1).modGroup g fun x => { x with escDue := false }
    .next (s.faultSet g 2 g (0x62 + at_ (min run 255) 8) s.lastFp)
  else .next s

/-- CHP_ESCALATED (R182): CHP_RUN has reached ESC at the boundary, which released and latched the chopper; it is faulty; class F1. -/
def execChpEscalated (c : Fin 2) (s : State) : Host.Outcome State Fault Refusal :=
  if s.chops[c].escDue then
    let s := s.modChop c fun x => { x with escDue := false, state := 3 }
    .next ((s.rcount regPgnPgkCount c 31 24 1).raise 1 8 3 2 (0x69 + at_ c.val 8) s.lastFp)
  else .next s

/-- CHOPPER_OPEN (R244), class F1. -/
def execChopperOpen (c : Fin 2) (s : State) : Host.Outcome State Fault Refusal :=
  if s.rf regSupChpCfg c 11 8 ≤ s.chops[c].openCnt ∧ s.chops[c].state = 0 then
    .next ((s.modChop c fun x => { x with state := 1 }).raise 1 8 6 2 (0x8E + at_ c.val 8) s.time)
  else .next s

/-- CHOPPER_SHORT (R244), class F3 on the machines of the chopper's link; MBRK_REQ. -/
def execChopperShort (c : Fin 2) (s : State) : Host.Outcome State Fault Refusal :=
  if s.rf regSupChpCfg c 11 8 ≤ s.chops[c].shortCnt ∧ s.chops[c].state ≠ 2 then
    let link := s.rf regSupChpCfg c 0 0
    let s := (s.modChop c fun x => { x with state := 2 }).mbrk true
    let l := s.confMach.filter fun m => (s.vdcSel m).val == link
    let s := l.foldl (fun s m =>
      (s.modMach m fun y => { y with sup := { y.sup with fault := true } }).armSafe (.mach m) 0 0x8F false s.time) s
    .next (s.raise 1 8 6 4 (0x8F + at_ c.val 8) s.time)
  else .next s

/-! ### Windows, FLT_N, ESTOP_N -/

/-- The trip inputs of window n act on their destinations now (R224), their events with the stamp `st`. -/
def State.windowActs (s : State) (n : Fin 20) (st : Time) : State :=
  let s := forFin 8 s fun s g => if s.rb regCmpRoute n g then s.tripGroup g n st else s
  forFin 2 s fun s c => if s.rb regCmpRoute n (8 + c.val) then s.cutChop c st else s

/-- Thresholds and hysteresis of window n, DAC steps (Table 8.1). -/
def State.winUpper (s : State) (n : Fin 20) : Nat := s.rf regCmpWinCfg n 19 10
def State.winLower (s : State) (n : Fin 20) : Nat := s.rf regCmpWinCfg n 9 0
def State.winHyst (s : State) (n : Fin 20) : Nat := s.rf regCmpWinCfg n 25 20

/-- How far an input at `x` lies beyond an active side of window n, in sixteenths of a DAC step; not positive inside (R219, R220).
An input level is counted in sixteenths of a step, DAC code d standing at 16·d: DESIGN CHOICE, safe (log 121). -/
def State.winBeyond (s : State) (n : Fin 20) (x : Int) : Int :=
  let up := if s.winUpper n = 1023 then 0 else x - 16 * s.winUpper n
  let lo := if s.winLower n = 0 then 0 else 16 * s.winLower n - x
  max up lo

/-- The input at `x` is inside every active side of window n by more than HYST (R219, R220). -/
def State.winInside (s : State) (n : Fin 20) (x : Int) : Bool :=
  (s.winUpper n == 1023 || decide (x < 16 * ((s.winUpper n : Int) - s.winHyst n))) &&
  (s.winLower n == 0 || decide (16 * ((s.winLower n : Int) + s.winHyst n) < x))

/-- The windows run: not in DEEP, and under no reset at whose release every output is forced OUT (R223). -/
def State.winRuns (s : State) : Bool := s.pcr.state != 3 && (s.pcr.asserted.isNone || s.pcr.asserted == some 4)

/-- The depth from which an excursion of at least 10 ns is sure to count, sixteenths of a step (R222). -/
def State.winDepth (s : State) : Int := if s.otp.regions[1].load = 1 then 32 else 144

/-- A window output goes OUT by an excursion that began at `t`, which its events name within a tick (Table 1.6): counted, seen and acting (R224,
R225). Through an FLR the output changes, and its registers are in reset. -/
def State.windowTrip (s : State) (n : Fin 20) (t : Time) : State :=
  let s := { s with winOut := s.winOut ||| (1#20 <<< n.val) }
  if s.pcr.asserted.isSome then s
  else
    let s := s.rset regCmpSeen 0 (s.rget regCmpSeen 0 ||| (1#32 <<< n.val))
    let s := s.rcount regCmpCount n 15 0 1
    (s.windowActs n (s.stamp t)).freeNext

/-- WINDOW_OUT (R218 to R225): the input's excursion `e`. Beyond an active side and no shorter than FILT, it makes an enabled window OUT when
FILT has passed; one below the guaranteed depth or 10 ns does so if a free value says it. -/
def execWindowOut (n : Fin 20) (e : Excursion) (s : State) : Host.Outcome State Fault Refusal :=
  let filt := 50 * s.rf regCmpWinCfg n 30 28
  let u := s.adv (e.t + filt)
  if !s.rb regCmpWinCfg n 31 || s.winOut.getLsbD n || !s.winRuns || decide (s.winBeyond n e.level ≤ 0) || decide (e.len < filt) then
    .next (s.adv e.t)
  else if s.winDepth ≤ s.winBeyond n e.level ∧ 20 ≤ e.len then .next (u.windowTrip n e.t)
  else if s.free.getLsbD 0 then .next (u.freeNext.windowTrip n e.t)
  else .next (s.freeNext.adv e.t)

/-- WINDOW_IN (R219): the input has come to a level; inside every active side by more than HYST, the output returns to IN. -/
def execWindowIn (n : Fin 20) (e : InputLevel) (s : State) : Host.Outcome State Fault Refusal :=
  let s := s.adv e.t
  if s.winRuns && s.winInside n e.level then .next { s with winOut := s.winOut &&& ~~~ (1#20 <<< n.val) } else .next s

/-- FLT_N_LOW (R226): a low level of at least 20 ns; it latches group g unless rows 1 to 5 hold. `stays`: the level stays low;
a happening with stays = false ends it. DESIGN CHOICE for the operand (log 18). -/
def execFltNLow (g : Fin 8) (stays : Bool) (t : Time) (s : State) : Host.Outcome State Fault Refusal :=
  let s := s.adv t
  let was := s.flt.getLsbD g
  let lvl := if stays then s.flt ||| (1#8 <<< g.val) else s.flt &&& ~~~ (1#8 <<< g.val)
  let s := { s with flt := lvl }
  if was && !stays then .next s
  else
    let s := s.rset regCmpFltSeen 0 (s.rget regCmpFltSeen 0 ||| (1#32 <<< g.val))
    if s.tripMasked g then .next s
    else .next ((s.hizLatch g 2 0 (s.stamp s.time)).freeNext)

/-- The reaction to a low ESTOP_N: seen, held, ESTOP raised; the safe state on every configured set of an owner. -/
def State.estopHit (s : State) (st : Time) : State :=
  let s := s.rset regCmpFltSeen 0 (s.rget regCmpFltSeen 0 ||| 0x100)
  let s := { s with sup := { s.sup with estopHeld := true, f4 := true, mbrk := true } }
  let s := s.raise 1 4 0 5 0x88 st
  s.confMach.foldl (fun s m =>
    let s := s.modMach m fun x => { x with sup := { x.sup with holdEstop := true, fault := true } }
    if s.owner then s.machSafe m 3 0x88 false st else s) s

/-- ESTOP (R227, R236): the configured safe state on every configured set at once, held until a FAULT_CLEAR finds ESTOP_N
high; class F4, MBRK_REQ. `stays` as for FLT_N_LOW (log 18). -/
def execEstop (stays : Bool) (t : Time) (s : State) : Host.Outcome State Fault Refusal :=
  let s := s.adv t
  let was := s.estop
  let s := { s with estop := stays }
  if was && !stays then .next s
  else
    let st := s.stamp s.time
    .next (s.freeNext.estopHit st)

/-- The conditions of a link may raise anew once its set begins driving (R251). -/
def State.glkFresh (s : State) (g : Fin 8) : State :=
  s.modGlk g fun x => { x with desat := 0, uvloP := 0, uvloN := 0, gateRaised := 0, tsdRaised := 0, lostRaised := false }

end Sys2Proof.Machine
end

