-- ==== Sys2Proof/Machine/Sample.lean ====
section
/-! DEFINITION. Sample.lean: how a converter result is delivered (chapter 7): flags, latest-result registers, sample streams,
background tracking, divergence and member failure; the commands SAMPLE_RESULT, TRACK_UPDATE, PAIR_DIVERGE_RUN,
REFERENCE_CHECK, MEMBER_FAILURE, STREAM_SLOT_WRITE, LINK_SPEED_CHANGE. -/
namespace Sys2Proof.Machine

/-! ### Streams (R211 to R215) -/

/-- A channel code of Table 7.9 that is not reserved, and one whose samples lie on a grid. -/
def chanOk (c : Nat) : Bool := decide (c ≤ 0x31) || (decide (0x40 ≤ c) && decide (c ≤ 0x55))
def chanGrid (c : Nat) : Bool := decide (c < 0x10) || c == 0x30 || c == 0x31

def State.slotEn (s : State) (i : Fin 32) : Bool := s.rb regAcqStreamCfg i 31
def State.slotChan (s : State) (i : Fin 32) : Nat := s.rf regAcqStreamCfg i 7 0
def State.slotDecim (s : State) (i : Fin 32) : Nat := s.rf regAcqStreamCfg i 23 8
def State.slotRing (s : State) (i : Fin 32) : Fin 48 := sqIdx (Fin.ofNat 8 (s.rf regAcqStreamCfg i 26 24))

/-- A sample quad without its PHASE (Table 7.10); an unfilled lane holds EMPTY. -/
def sampleQuad (chan : Nat) (x : StreamSt) : Quad :=
  let lane := fun k => match x.lanes[k]? with | some v => uns v 16 | none => 0x8000
  BitVec.ofNat 128 (ticksOf x.t0 % 2 ^ 40 + at_ chan 40 + at_ x.flags.toNat 48 + at_ (x.seq % 256) 56 +
    at_ (lane 0) 64 + at_ (lane 1) 80 + at_ (lane 2) 96 + at_ (lane 3) 112)

/-- Close a slot's open quad: written, or dropped where its ring cannot take it (R215). -/
def State.closeQuad (s : State) (i : Fin 32) : State :=
  let x := s.acq.streams[i]
  if x.lanes.isEmpty then s
  else
    let ok := s.canPut (s.slotRing i)
    let s := s.modStream i fun x => { x with lanes := [], flags := 0, seq := (x.seq + 1) % 256, dropping := !ok }
    if ok then s.ringPut (s.slotRing i) (sampleQuad (s.slotChan i) x) 55 true false
    else
      let s := s.rcount regAcqStreamStat i 31 16 1
      if x.dropping then s else s.raise 5 8 1 0 (0x75 + at_ i.val 8) s.time

/-- Close the open quads of a channel, of every channel. -/
def State.closeChan (s : State) (c : Nat) : State :=
  forFin 32 s fun s i => if s.slotChan i = c then s.closeQuad i else s
def State.closeAll (s : State) : State := forFin 32 s fun s i => s.closeQuad i

/-- Offer a sample to the slots that take its channel; `steps` grid instants, or conversions, have passed since the channel's
sample before. A slot keeps the D-th of them, counted from its enabling. DESIGN CHOICE, unsafe (log 23). -/
def State.streamSample (s : State) (c steps : Nat) (x : Sample) : State :=
  forFin 32 s fun s i =>
    if s.slotEn i && s.slotChan i == c then
      let n := s.acq.streams[i].cnt + steps
      if n % s.slotDecim i = 0 then
        let s := s.modStream i fun y =>
          { y with cnt := 0, lanes := y.lanes ++ [x.code], flags := y.flags ||| x.flags, t0 := if y.lanes.isEmpty then x.t else y.t0 }
        if !chanGrid c || decide (4 ≤ s.acq.streams[i].lanes.length) then s.closeQuad i else s
      else s.modStream i fun y => { y with cnt := n % s.slotDecim i }
    else s

/-- Deliver a sample on a channel: ACQ_LATEST (R216), the streams and the Silo. -/
def State.deliver (s : State) (c steps : Nat) (x : Sample) : State :=
  let n := match alGet s.acq.latest c with | some l => (l.seq + 1) % 256 | none => 1
  { s with acq := { s.acq with latest := alSet s.acq.latest c ⟨x, n⟩ } }.streamSample c steps x |>.siloSample c x.t x.code x.flags

/-! ### The stream budget (R214) -/

/-- Nominal quad rate of a slot, thousands of quads a second. -/
def State.slotRate (s : State) (i : Fin 32) : Rat :=
  let d := s.slotDecim i
  let c := s.slotChan i
  if !s.slotEn i || d == 0 then 0
  else if c < 0x10 then mkRat 5000 d
  else if c < 0x30 then mkRat 5000 d
  else if c < 0x40 then mkRat 2500 d
  else mkRat 1000 d

/-- ACQ_BUDGET.USED before it is cut to a whole number, and BUDGET (Table 7.11). -/
def State.used (s : State) : Rat := (List.finRange 32).foldl (fun a i => a + s.slotRate i) 0
def State.budget (s : State) : Nat := match s.host.linkGen with | 1 => 12000 | 2 => 24000 | _ => 64000

/-- A write to ACQ_STREAM_CFG[i] (R211, R214, R43): a reserved channel, or a rate above the budget, leaves the slot unchanged;
an invalid DECIM leaves DECIM unchanged. -/
def State.writeSlot (s : State) (i : Fin 32) (v : Word) : State :=
  let old := s.rget regAcqStreamCfg i
  if !chanOk (bits v 7 0) then s.writeReject
  else
    let badD := bits v 23 8 == 0
    let d := if badD then bits old 23 8 else bits v 23 8
    let w : Word := BitVec.ofNat 32 (bits v 7 0 + at_ d 8 + at_ (bits v 26 24) 24 + at_ (bits v 31 31) 31)
    let s := if badD then s.writeReject else s
    if w = old then s
    else
      let s' := s.rset regAcqStreamCfg i w
      if w.getLsbD 31 && decide ((s.budget : Rat) < s'.used) then s.writeReject
      else ((s.closeQuad i).rset regAcqStreamCfg i w).modStream i fun y => { y with cnt := 0, dropping := false }

/-- STREAM_SLOT_WRITE (R214). -/
def execStreamSlotWrite (slot : Fin 32) (v : Word) (t : Time) (s : State) : Host.Outcome State Fault Refusal :=
  s.onRegs t fun s => s.writeSlot slot v

/-- Disable every slot. -/
def State.cutSlots (s : State) : State :=
  forFin 32 s fun s i => (s.closeQuad i).rsetF regAcqStreamCfg i 31 31 0

/-- LINK_SPEED_CHANGE (R214): at Gen1, 2 or 3; streams above the new budget are cut. -/
def execLinkSpeedChange (gen : Fin 3) (t : Time) (s : State) : Host.Outcome State Fault Refusal :=
  let s := s.adv t
  let s := { s with host := { s.host with linkGen := gen.val + 1, linkUp := true } }
  if (s.budget : Rat) < s.used then
    .next ((s.cutSlots.rsetF regAcqStat 0 5 5 1).raise 5 8 1 0 0x76 s.time).pump
  else .next s.pump

/-! ### Flags (Table 7.8) -/

/-- A CLAMP event of a channel, at most once in a millisecond for an input (R210). -/
def State.clampEvent (s : State) (c : Nat) (t : Time) : State :=
  if (match alGet s.acq.clampAt c with | some t0 => decide (t < t0 + ms1) | none => false) then s
  else { s with acq := { s.acq with clampAt := alSet s.acq.clampAt c t } }.raise 5 8 1 0 (0x73 + at_ c 8) t

/-- An input of a reference bank engages its clamp: others of the bank are NBR for a microsecond; CLAMP is raised. -/
def State.bankClamps (s : State) (n chan : Nat) (t : Time) : State :=
  { s with acq := { s.acq with bankClamp := alSet s.acq.bankClamp n t } }.clampEvent chan t

/-- A voltage or housekeeping conversion's flags: converter n, its channel; a clamped result makes the next one, or the next
two, REC. -/
def State.slowFlags (s : State) (n chan : Nat) (ovr : Bool) (t : Time) : State × BitVec 5 :=
  let left := (alGet s.acq.recLeft n).getD 0
  let f := flagIf ovr flOVR ||| flagIf (decide (0 < left)) flREC ||| flagIf s.susNow flSUS
  let left' := if ovr then (if n < 42 then 1 else 2) else left - 1
  let s := { s with acq := { s.acq with recLeft := alPut 0 s.acq.recLeft n left' } }
  (if ovr then s.clampEvent chan t else s, f)

/-- A calibration phase runs, or the converter block of a self test: no sample is delivered (R201, R461). -/
def State.calRuns (s : State) : Bool :=
  s.lopRuns 0x20 || s.host.lops.toList.any fun l => (l.state == 1 || l.state == 3) && l.opc == 0x40 && l.phase == 0

/-- A block of SELF_TEST begins: 0 converters, where open quads close as for a calibration, 1 comparators, 2 pulse generator (R460). -/
def State.blockEnter (s : State) (k : Fin 8) : State :=
  let s := s.modLop k fun l => { l with since := s.time }
  match s.host.lops[k].phase with
  | 0 => s.closeAll
  | 1 => s
  | _ => { s with lts := { s.lts with stYield := s.yieldHigh } }.testBegin

/-- Fast and link converters convert: power state RUN (R191). -/
def State.gridOn (s : State) : Bool := s.pcr.state == 0 && !s.calRuns && s.pcr.asserted.isNone

/-! ### The sampling grids (R24, R191) -/

/-- Instants of a grid of the given step that one FP holds. -/
def State.gridJ (s : State) (step : Time) : Nat := s.fp / step

/-- `t` is an instant B_k − j·step of the grid. -/
def State.onGrid (s : State) (step t : Time) : Bool :=
  let d := nextMult s.fp t - t
  d % step == 0 && decide (d / step < s.gridJ step)

/-- Number of the first instant of the grid at or after `t`. -/
def State.gridUp (s : State) (step t : Time) : Nat :=
  let b := nextMult s.fp t
  b / s.fp * s.gridJ step - min ((b - t) / step) (s.gridJ step - 1)

/-- The instant from which pair p converts: the grid runs and its input is enabled. -/
def State.pairSince (s : State) (p : Fin 16) : Time := max s.acq.gridAt s.acq.pairs[p].onAt

/-- Grid step of a pair: 50 ns, or 100 ns on one member. -/
def State.pairStep (s : State) (p : Fin 16) : Time := if s.pairSingle p then 200 else 100

/-- Grid instants in [a, b) that a member of pair p takes: alternate ones, the even member the first, or all of the single grid. -/
def State.ownInstants (s : State) (p : Fin 16) (odd : Bool) (a b : Time) : Nat :=
  let step := s.pairStep p
  let lo := s.gridUp step (max a (s.pairSince p))
  let n := s.gridUp step b - lo
  if s.pairSingle p then n
  else if (lo - s.gridUp step (s.pairSince p)) % 2 = b2n odd then (n + 1) / 2 else n / 2

/-- Fast or link converter n is awake at `t`: 2 µs after grid conversion returned at `since` (R197). -/
def State.awake (s : State) (n : Nat) (since t : Time) : Bool := !s.sleeps n || decide (since + 2 * us1 ≤ t)

/-- The converters of a set's current inputs have completed their wake at `t` (R197). -/
def State.setAwake (s : State) (w : Fin 8) (t : Time) : Bool :=
  (s.inputsOf w).all fun p =>
    let a := max s.acq.runAt s.acq.pairs[p].onAt
    s.awake (2 * p.val) a t && s.awake (2 * p.val + 1) a t

/-- The first two grid instants of the period that begins at `b`, at which the members convert REF (R207, Table 7.13). -/
def State.refSlots (s : State) (b : Time) : List Time :=
  let t := b + s.fp - 100 * (s.gridJ 100 - 1)
  [t, t + 100]

/-- REF takes the place of the pair's grid sample at `t`. -/
def State.refInstant (s : State) (p : Fin 16) (t : Time) : Bool :=
  match s.acq.pairs[p].checkDue with
  | some b => (s.refSlots b).contains t
  | none => false

/-- Pair p's member `odd` takes the grid instant `t` (R24, R191). -/
def State.takesInstant (s : State) (p : Fin 16) (odd : Bool) (t : Time) : Bool :=
  s.gridOn && s.rb regAcqIsMap p 7 && !(if odd then s.acq.pairs[p].failO else s.acq.pairs[p].failE) &&
  decide (s.pairSince p ≤ t) && s.onGrid (s.pairStep p) t && s.ownInstants p odd t (t + 1) == 1 && !s.refInstant p t &&
  s.awake (2 * p.val + b2n odd) (max s.acq.runAt s.acq.pairs[p].onAt) t

/-! ### Member failure (R207 to R209) -/

/-- A member of pair p fails: the pair runs on the survivor, or the input is lost and its set faulted. -/
def State.failMember (s : State) (p : Fin 16) (odd : Bool) (cause : Nat) (t : Time) : State :=
  let s := s.closeChan p.val
  let s := s.modPair p fun x =>
    { x with failE := x.failE || !odd, failO := x.failO || odd, cause := cause, run := 0, diverging := false, checkDue := none,
             n := 0, sr := 0, srs := 0, sss := 0 }
  let s := s.health 0 0x01 p.val cause t
  if s.inputLost p then
    if s.rb regAcqIsMap p 7 then s.faultSet (Fin.ofNat 8 (s.rf regAcqIsMap p 6 4)) 8 1 (0x72 + at_ p.val 8) t
    else s.raise 1 8 1 3 (0x72 + at_ p.val 8) t
  else s

def PairSt.member (x : PairSt) (odd : Bool) : MemberSt := if odd then x.memO else x.memE

/-- Grid instants in [a, b) at which a member owes a result (R208): not those that REF takes (R207), nor those before it is awake (R197). -/
def State.owed (s : State) (p : Fin 16) (odd : Bool) (a b : Time) : Nat :=
  let x := s.acq.pairs[p]
  let wake := if s.sleeps (2 * p.val + b2n odd) then max s.acq.runAt x.onAt + 2 * us1 else 0
  let refs := (x.checkDue.toList ++ x.checkAt.toList).flatMap s.refSlots
  s.ownInstants p odd (max a wake) b -
    (refs.filter fun t => decide (max a wake ≤ t) && decide (t < b) && s.ownInstants p odd t (t + 1) == 1).length

/-- Results of a member that have not come by `t`, in this housekeeping round: each is due 125 ns after its instant (R208, Table 7.1). -/
def State.missing (s : State) (p : Fin 16) (odd : Bool) (t : Time) : Nat :=
  let m := s.acq.pairs[p].member odd
  m.miss + (if t < 250 then 0 else s.owed p odd (m.last + 1) (t - 250))

/-- A member is stuck: 4,096 identical codes in a row while the other member's span more than 8 LSB (R208). -/
def MemberSt.stuck (m : MemberSt) : Bool :=
  decide (4096 ≤ m.same) && (match m.span with | some (lo, hi) => decide (lo + 8 < hi) | none => false)

/-- The member's own result, and the other member's. -/
def MemberSt.take (m : MemberSt) (code : Int) (gone : Nat) (t : Time) : MemberSt :=
  let m := { m with last := t, miss := m.miss + gone }
  if m.code = code ∧ m.same ≠ 0 then { m with same := min 4096 (m.same + 1) } else { m with code := code, same := 1, span := none }
def MemberSt.see (m : MemberSt) (code : Int) : MemberSt :=
  { m with span := some (match m.span with | some (lo, hi) => (min lo code, max hi code) | none => (code, code)) }

/-- What one result of a member tells of both (R208). -/
def State.noteMember (s : State) (p : Fin 16) (odd : Bool) (code : Int) (t : Time) : State :=
  let gone := s.owed p odd ((s.acq.pairs[p].member odd).last + 1) t
  s.modPair p fun y =>
    if odd then { y with memO := y.memO.take code gone t, memE := y.memE.see code }
    else { y with memE := y.memE.take code gone t, memO := y.memO.see code }

/-- A housekeeping round begins: missing results count anew (R208). -/
def State.memberRound (s : State) (b : Time) : State :=
  forFin 16 s fun s p => s.modPair p fun y =>
    { y with memE := { y.memE with last := max y.memE.last b, miss := 0 }, memO := { y.memO with last := max y.memO.last b, miss := 0 } }

/-- MEMBER_FAILURE (R208): three missing results in a round (cause 2), or a stuck member (cause 3). -/
def execMemberFailure (p : Fin 16) (odd stuck : Bool) (t : Time) (s : State) : Host.Outcome State Fault Refusal :=
  let s := s.adv t
  let x := s.acq.pairs[p]
  let gone := if odd then x.failO else x.failE
  let other := if odd then x.failE else x.failO
  if gone || (stuck && other) || !s.rb regAcqIsMap p 7 || !s.gridOn then .next s
  else if stuck then if (x.member odd).stuck then .next (s.failMember p odd 3 s.time) else .next s
  else if 3 ≤ s.missing p odd s.time then .next (s.failMember p odd 2 s.time) else .next s

/-- PAIR_DIVERGE_RUN (R207): the run has reached DIV_COUNT; the reference check is set for the next FP boundary. -/
def execPairDivergeRun (p : Fin 16) (s : State) : Host.Outcome State Fault Refusal :=
  let x := s.acq.pairs[p]
  if s.rf regAcqCtl 0 19 16 ≤ x.run ∧ x.checkDue = none then
    .next (s.modPair p fun y => { y with checkDue := some (s.fpNext s.time) })
  else .next s

/-- REFERENCE_CHECK (R207): both members convert REF at the first two grid instants of the period, the second result in CTL 125 ns after
its instant (Table 7.13). While there is no grid sample to replace, the check waits for the next boundary. -/
def execReferenceCheck (p : Fin 16) (even odd : Int) (s : State) : Host.Outcome State Fault Refusal :=
  match s.acq.pairs[p].checkDue with
  | some b =>
    let s := s.adv ((s.refSlots b).getLastD b + 250)
    let t := s.time
    if !s.gridOn || s.pairSingle p || !s.rb regAcqIsMap p 7 then .next (s.modPair p fun y => { y with checkDue := some (s.fpNext t) })
    else
    let off := fun (c : Int) => decide (16 < absR (intR (c - 4096)))
    let fe := off (s.code14 (2 * p.val) 0 even).1
    let fo := off (s.code14 (2 * p.val + 1) s.acq.pairs[p].ofsD odd).1
    let s := s.rcount regAcqPairStat p 15 8 1
    let s := s.modPair p fun y => { y with checkDue := none, checkAt := some b, run := 0, diverging := false }
    let s := if fe then s.failMember p false 4 t else s
    let s := if fo then s.failMember p true 4 t else s
    .next (if fe || fo then s else s.raise 5 8 1 0 (0x71 + at_ p.val 8) t)
  | none => .next s

/-! ### Background tracking (R206) -/

/-- The residual of the odd sample whose even neighbours are the new sample and the one before it, each 50 ns away. -/
def residual (x : Sample) (hist : List Sample) : Option (Rat × Rat × BitVec 5) :=
  match hist with
  | b :: a :: _ =>
    if b.t + 100 = x.t ∧ a.t + 200 = x.t then
      some (intR b.code - intR (a.code + x.code) / 2, intR (x.code - a.code) / 100, x.flags ||| b.flags ||| a.flags)
    else none
  | _ => none

/-- Divergence and the sums of R206 for one residual. -/
def State.trackPair (s : State) (p : Fin 16) (r : Rat × Rat × BitVec 5) : State :=
  let (rho, sl, fl) := r
  let lim := natR (s.rf regAcqCtl 0 15 8)
  let inn := decide (absR rho ≤ lim)
  let add := s.rb regAcqCtl 0 0 && inn && !badFlags fl && decide (s.acq.pairs[p].n < 8192)
  s.modPair p fun y =>
    let y := if inn then { y with run := 0, diverging := false } else { y with run := y.run + 1, diverging := true }
    if add then { y with n := y.n + 1, sr := y.sr + rho, srs := y.srs + rho * sl, sss := y.sss + sl * sl } else y

/-- Keep a value within ±lim; true when the limit acts. -/
def boundI (x lim : Int) : Int × Bool := if x < -lim then (-lim, true) else if lim < x then (lim, true) else (x, false)

/-- A bound that a value no longer touches is left (R206). -/
def State.reBound (s : State) : State :=
  forFin 16 s fun s p =>
    let sk := s.skewOf p
    s.modPair p fun y => { y with boundO := y.boundO && y.ofsD.natAbs == 1024, boundS := y.boundS && (sk + y.skewD).natAbs == 400 }

/-- TRACK_UPDATE (R206): 8,192 residuals are in; corrections are rounded to whole units (log 14). -/
def execTrackUpdate (p : Fin 16) (s : State) : Host.Outcome State Fault Refusal :=
  let x := s.acq.pairs[p]
  if x.n = 8192 then
    let sk := s.skewOf p
    let (o, bo) := boundI (x.ofsD + roundR (4 * x.sr / 8192)) 1024
    let d := if mkRat 8192 10000 ≤ x.sss then x.skewD - roundR (500 * x.srs / x.sss) else x.skewD
    let (tot, bs) := boundI (sk + d) 400
    let s := s.modPair p fun y =>
      { y with ofsD := o, skewD := tot - sk, n := 0, sr := 0, srs := 0, sss := 0,
               boundO := bo || (y.boundO && o.natAbs == 1024), boundS := bs || (y.boundS && tot.natAbs == 400) }
    let s := if bo && !x.boundO then s.raise 5 8 1 0 (0x70 + at_ p.val 8) s.time else s
    .next (if bs && !x.boundS then s.raise 5 8 1 0 (0x70 + at_ p.val 8 + at_ 1 16) s.time else s)
  else .next s

/-! ### SAMPLE_RESULT -/

/-- A fast converter's result at its grid instant `t`: member `odd` of pair p. -/
def State.fastSample (s : State) (p : Fin 16) (odd : Bool) (raw : Int) (t : Time) : State :=
  let x := s.acq.pairs[p]
  if !s.takesInstant p odd t then s
  else
    let (c, ovr) := s.code14 (2 * p.val + b2n odd) (if odd then x.ofsD else 0) raw
    let nbr := s.nbrClamp p.val t || x.diverging
    let smp : Sample := ⟨t, c, flagIf ovr flOVR ||| flagIf nbr flNBR ||| flagIf s.susNow flSUS ||| flagIf (s.pairSingle p) flSINGLE⟩
    let steps := match x.hist with | a :: _ => s.gridUp (s.pairStep p) t - s.gridUp (s.pairStep p) a.t | [] => 1
    let s := (s.noteMember p odd c t).deliver p.val steps smp
    let s := s.modPair p fun y => { y with hist := (smp :: y.hist).take 16 }
    if odd || s.pairSingle p then s
    else match residual smp x.hist with
      | some r => s.trackPair p r
      | none => s

/-- A link converter's result at an instant of the 100 ns grid (R191). -/
def State.linkSample (s : State) (x : Fin 2) (raw : Int) (t : Time) : State :=
  if !s.gridOn || !s.onGrid 200 t || decide (t < s.acq.gridAt) || !s.awake (40 + x.val) s.acq.runAt t then s
  else
    let (c, ovr) := s.code14 (40 + x.val) 0 raw
    let smp : Sample := ⟨t, c, flagIf ovr flOVR ||| flagIf (s.nbrClamp (16 + x.val) t) flNBR ||| flagIf s.susNow flSUS⟩
    let l := if x = 0 then s.acq.link0 else s.acq.link1
    let steps := match l with | a :: _ => s.gridUp 200 t - s.gridUp 200 a.t | [] => 1
    let s := s.deliver (0x30 + x.val) steps smp
    let l := (smp :: l).take 16
    { s with acq := if x = 0 then { s.acq with link0 := l } else { s.acq with link1 := l } }

/-- Input n of the bank inputs (0–15 IS, 16–17 VDC) lies beyond twice full scale at `t`: its clamp engages, whether or not it converts
(R210). -/
def State.inputClamp (s : State) (n : Nat) (beyond2 : Bool) (t : Time) : State :=
  if beyond2 && s.pcr.asserted.isNone && decide (s.pcr.state ≤ 1) then s.bankClamps n (if n < 16 then n else 0x20 + n) t else s

/-- What a result brings: the clamp of its input, then the sample. Fast converter c below 32, link converter c − 32 above. -/
def State.sampleIn (s : State) (c : Fin 34) (raw : Int) (beyond2 : Bool) (track : Time) : State :=
  if c.val < 32 then
    let p : Fin 16 := Fin.ofNat 16 (c.val / 2)
    (s.inputClamp p.val beyond2 track).fastSample p (c.val % 2 == 1) raw track
  else
    let x : Fin 2 := if c.val = 32 then 0 else 1
    (s.inputClamp (16 + x.val) beyond2 track).linkSample x raw track

/-! ### Voltage-converter results -/

/-- Time of one conversion of a voltage, of a housekeeping converter (Table 7.1). -/
def convTime (n : Nat) : Time := if n < 42 then 400 else us1

/-- Voltage or housekeeping converter n has no conversion in progress at `t`. -/
def State.convFree (s : State) (n : Nat) (t : Time) : Bool := decide ((alGet s.acq.busy n).getD 0 ≤ t)

/-- An urgent request waits on converter n at `t`: no scheduled one starts (R198). -/
def State.urgentHeld (s : State) (n : Nat) (t : Time) : Bool := s.acq.urgents.any fun u => u.conv == n && decide (u.at_ ≤ t)

/-- It converts from `t` on. -/
def State.converts (s : State) (n : Nat) (t : Time) : State :=
  { s with acq := { s.acq with busy := alSet s.acq.busy n (t + convTime n) } }

/-- A result of VC[w] on its input k (0 VU, 1 VV, 2 VW, 3 REF): calibrated, flagged, delivered. -/
def State.vcSample (s : State) (w : Fin 8) (k : Nat) (raw : Int) (t : Time) : State × Sample :=
  let s := s.converts (32 + w.val) t
  let (c, ovr) := s.code14 (32 + w.val) 0 raw
  let chan := 0x10 + 4 * w.val + k
  let (s, f) := s.slowFlags (32 + w.val) chan ovr t
  let x : Sample := ⟨t, c, f⟩
  (s.deliver chan 1 x, x)

end Sys2Proof.Machine
end

