-- ==== Sys2Proof/Machine/Tracker.lean ====
section
/-! DEFINITION. Tracker.lean: the rotor tracker, its inputs, starting and re-acquisition (chapter 3), and the commands of that
chapter. -/
namespace Sys2Proof.Machine

/-! ### Shorthands -/

def State.trkOn (s : State) (m : Fin 2) : Bool :=
  let t := s.mach[m].trk.state
  t == .capture || t == .locked

def State.lossDeg (s : State) (m : Fin 2) : Rat := natR (s.rf regComTrkCfg m 23 16)
def State.hallEn (s : State) (m : Fin 2) : Bool := s.rb regComSensCfg m 30
def State.encEn (s : State) (m : Fin 2) : Bool := s.rb regComSensCfg m 31
/-- Valid inputs (R78). -/
def State.hallValid (s : State) (m : Fin 2) : Bool := s.hallEn m && !s.mach[m].sens.hallFail
def State.encValid (s : State) (m : Fin 2) : Bool := s.encEn m && !s.mach[m].sens.encFail

/-- Span index 0 to 5 of a hall code (Table 3.3). -/
def hallSpan (h : BitVec 3) : Option Nat :=
  match h with
  | 5 => some 0
  | 4 => some 1
  | 6 => some 2
  | 2 => some 3
  | 3 => some 4
  | 1 => some 5
  | _ => none

/-- H: hall levels after inversion by HALL_INV (R75). -/
def State.hallCode (s : State) (m : Fin 2) : BitVec 3 :=
  if s.rb regComSensCfg m 29 then s.mach[m].sens.hall ^^^ 7 else s.mach[m].sens.hall

def State.hallOfs (s : State) (m : Fin 2) : Rat := mkRat (s.rf regComSensOfs m 15 0) 64

/-- Encoder counts per revolution, 4·LINES; the angle at a count (R77). -/
def State.encMod (s : State) (m : Fin 2) : Nat := 4 * s.rf regComEncLines m 15 0
def State.encAngle (s : State) (m : Fin 2) : Rat :=
  let k := s.encMod m
  (if k = 0 then 0 else mkRat (360 * s.poles m * s.mach[m].sens.encCount) k) + mkRat (s.rf regComSensOfs m 31 16) 64

/-! ### Position events (R71) -/

def PosSrc.rank : PosSrc → Nat
  | .crossing => 0
  | .hall => 1
  | .encoder => 2

/-- Order of processing: instant, then source, then set (R72). -/
def PosEvent.before (a b : PosEvent) : Bool :=
  decide (a.t < b.t) || (decide (a.t = b.t) &&
    (decide (a.src.rank < b.src.rank) || (decide (a.src.rank = b.src.rank) && decide (a.set ≤ b.set))))

def insertEv (x : PosEvent) : List PosEvent → List PosEvent
  | [] => [x]
  | y :: l => if x.before y then x :: y :: l else y :: insertEv x l

def sortEv (l : List PosEvent) : List PosEvent := l.foldr insertEv []

def State.report (s : State) (m : Fin 2) (e : PosEvent) : State :=
  s.modMach m fun x => { x with trk := { x.trk with reports := x.trk.reports ++ [e] } }

def State.reportMiss (s : State) (m : Fin 2) (t : Time) : State :=
  s.modMach m fun x => { x with trk := { x.trk with misses := x.trk.misses ++ [t] } }

/-! ### The update at a boundary (R72) -/

/-- What the event loop carries. -/
structure TrkRun where
  theta : Rat
  st    : TrkSt
  sens  : SensSt
  acc   : Nat
  rej   : Nat
  deriving DecidableEq, Repr

/-- One event of the loop of R72. -/
def State.trkEvent (s : State) (m : Fin 2) (r : TrkRun) (x : PosEvent) : TrkRun :=
  let dt := sec x.t - sec r.st.angAt
  let e := wrap180 (x.theta - (r.theta + 360 * r.st.f * dt))
  if mkRat (s.rf regComTrkCfg m 15 8) 4 < absR e then
    let sens := match x.src with
      | .crossing => r.sens
      | .hall => { r.sens with hallRej := r.sens.hallRej + 1, hallRejX := r.sens.hallRej != 0 && r.sens.hallRejX }
      | .encoder => { r.sens with encRej := r.sens.encRej + 1, encRejX := r.sens.encRej != 0 && r.sens.encRejX }
    { r with rej := r.rej + 1, sens := sens, st := { r.st with bad := if x.src = .crossing then r.st.bad + 1 else r.st.bad } }
  else
    let ka := mkRat (s.rf regComTrkGain m 7 0) 256
    let kf := mkRat (s.rf regComTrkGain m 15 8) 256
    let gap := maxR (sec x.t - sec r.st.tPrev) (sec s.fp)
    let sens := match x.src with
      | .crossing => { r.sens with hallRejX := true, encRejX := true }
      | .hall => { r.sens with hallRej := 0 }
      | .encoder => { r.sens with encRej := 0 }
    { r with
      theta := r.theta + ka * x.w * e
      acc := r.acc + 1
      sens := sens
      st := { r.st with
        f := rnd (r.st.f + kf * x.w * e / (360 * gap))
        tPrev := x.t
        bad := if x.src = .crossing then 0 else r.st.bad
        good := if absR e ≤ mkRat (s.rf regComTrkCfg m 7 0) 4 then r.st.good + 1 else 0
        rotEvent := 0
        rotCross := if x.src = .crossing then 0 else r.st.rotCross } }

/-- The hall span that limits the prediction: the halls are valid and no crossing was accepted in the last LOSS_DEG of rotation (R76). -/
def State.hallHolds (s : State) (m : Fin 2) (rotCross : Rat) : Option Nat :=
  if s.hallValid m && decide (s.lossDeg m ≤ rotCross) then hallSpan (s.hallCode m) else none

/-- Limit an advance `d` from `theta` so that it does not pass the boundary of hall span k in its direction (R76). -/
def State.hallStay (s : State) (m : Fin 2) (k : Nat) (theta d : Rat) : Rat :=
  let c := wrap180 (theta - (natR (60 * k + 30) + s.hallOfs m))
  if 0 < d then minR d (maxR 0 (30 - c)) else maxR d (minR 0 (-30 - c))

/-- The limit of R76 on the magnitude of f: 60° in the time since the last hall edge; since time 0 while none has come: DESIGN CHOICE, unsafe
(log 166). -/
def State.hallSpeed (s : State) (m : Fin 2) (b : Time) (f : Rat) : Rat :=
  let age := sec b - sec s.mach[m].sens.hallAt
  if age ≤ 0 then f else rnd (clampR f (-(1 / (6 * age))) (1 / (6 * age)))

/-- TRACKER_UPDATE: process the reports of the period that ends at `b` and predict the angle for `b` (R72, R76, R134). -/
def State.trkUpdate (s : State) (m : Fin 2) (b : Time) : State :=
  let x := s.mach[m]
  let now := sortEv (x.trk.reports.filter fun e => decide (e.at_ < b))
  let r := now.foldl (s.trkEvent m) ⟨angDeg x.trk.angle, x.trk, x.sens, 0, 0⟩
  let nm := (x.trk.misses.filter fun t => decide (t < b)).length
  let hold := s.hallHolds m r.st.rotCross
  let f := if hold.isSome then s.hallSpeed m b r.st.f else r.st.f
  let d := 360 * f * (sec b - sec x.trk.angAt)
  let turn := absR d
  let w := angWord (r.theta + (match hold with | some k => s.hallStay m k r.theta d | none => d))
  let delta := wrap180 (angDeg w - angDeg x.trk.angle)
  let p := s.poles m
  let rev := if 0 ≤ delta ∧ w.toNat < x.trk.angle.toNat then (x.loop.rev + 1) % p
    else if delta < 0 ∧ x.trk.angle.toNat < w.toNat then (x.loop.rev + p - 1) % p else x.loop.rev
  let s := s.modMach m fun y =>
    { y with
      sens := { r.sens with hallDue := r.sens.hallDue || (s.started && decide (3 ≤ r.sens.hallRej) && r.sens.hallRejX),
                            encDue := r.sens.encDue || (s.started && decide (16 ≤ r.sens.encRej) && r.sens.encRejX) }
      loop := { y.loop with rev := rev }
      trk := { r.st with
        angle := w
        angAt := b
        f := f
        bad := r.st.bad + nm
        reports := x.trk.reports.filter fun e => !decide (e.at_ < b)
        misses := x.trk.misses.filter fun t => !decide (t < b)
        rotEvent := r.st.rotEvent + turn
        rotCapt := r.st.rotCapt + turn
        rotCross := r.st.rotCross + turn
        rotLow := r.st.rotLow + turn } }
  (s.rcount regComTrkCount m 15 0 r.acc).rcount regComTrkCount m 23 16 r.rej

/-- The judgements of R74 and R79 at a boundary. -/
def State.trkJudge (s : State) (m : Fin 2) (b : Time) : State :=
  let t := s.mach[m].trk
  let cfg := fun hi lo => s.rf regComTrkCfg m hi lo
  let slow := decide (absR t.f < s.slFmin m)
  match t.state with
  | .capture | .locked =>
    let lost := decide (cfg 31 28 ≤ t.bad) ||
      (!slow && decide (s.lossDeg m ≤ t.rotEvent)) ||
      (t.state == .capture && decide (t.good < cfg 27 24) && decide (360 + s.lossDeg m ≤ t.rotCapt))
    if lost then s.modMach m fun x => { x with trk := { x.trk with lost_ := true } }
    else if t.state == .locked && slow && !s.hallValid m && !s.encValid m then
      s.modMach m fun x => { x with trk := { x.trk with state := .low, rotLow := 0, lowAt := b } }
    else s
  | .low =>
    let due := decide (4 * s.lossDeg m ≤ t.rotLow) || decide (t.lowAt + 200 * ms1 ≤ b)
    if due && s.mach[m].decel.active then s.modMach m fun x => { x with decel := { x.decel with zeroNext := true } }
    else if !slow && !due then s.modMach m fun x => { x with trk := { x.trk with state := .locked } }
    else s
  | _ => s

/-! ### Hall and encoder inputs -/

/-- HALL_EDGE (R75, R78): a filtered level change, stamped at its first transition. -/
def execHallEdge (m : Fin 2) (levels : BitVec 3) (t : Time) (s : State) : Host.Outcome State Fault Refusal :=
  let s := s.adv t
  let h0 := hallSpan (s.hallCode m)
  let st := s.stamp t
  let s := (s.freeNext).modMach m fun x => { x with sens := { x.sens with hall := levels, hallAt := st } }
  let h1 := hallSpan (s.hallCode m)
  let adj := match h0, h1 with
    | some a, some b => if b = (a + 1) % 6 then some b else if a = (b + 1) % 6 then some a else none
    | _, _ => none
  let bad := h1.isNone || (adj.isNone && h0 != h1)
  if s.hallValid m then
    let s := if bad && s.started then s.modMach m fun x => { x with sens := { x.sens with hallDue := true } } else s
    match adj with
    | some k =>
      .next (s.report m ⟨.hall, 0, st, wrap360 (natR (60 * k) + s.hallOfs m), mkRat (s.rf regComSensCfg m 7 0) 256, st⟩)
    | none => .next s
  else .next s

/-- At a DRIVE_START the code that stands is judged (R78). -/
def State.hallJudge (s : State) (m : Fin 2) : State :=
  if s.hallEn m && (hallSpan (s.hallCode m)).isNone then
    s.modMach m fun x => { x with sens := { x.sens with hallDue := true } }
  else s

/-- HALL_FAULT (R78), class F1: the halls are ignored until the next DRIVE_START. -/
def execHallFault (m : Fin 2) (s : State) : Host.Outcome State Fault Refusal :=
  if s.mach[m].sens.hallDue && s.started then
    let s := s.modMach m fun x => { x with sens := { x.sens with hallDue := false, hallFail := true } }
    .next (s.raiseF 3 m 2 0x38 s.time)
  else .next s

/-- ENCODER_EDGE (R77): one quadrature edge; a position event after the first ENC_Z since DRIVE_START. -/
def execEncoderEdge (m : Fin 2) (up : Bool) (t : Time) (s : State) : Host.Outcome State Fault Refusal :=
  let s := s.adv t
  let k := s.encMod m
  if k = 0 then .next s
  else
    let st := s.stamp t
    let s := (s.freeNext).modMach m fun x =>
      { x with sens := { x.sens with encCount := if up then (x.sens.encCount + 1) % k else (x.sens.encCount + k - 1) % k } }
    if s.encValid m && s.mach[m].sens.encIdx then
      .next (s.report m ⟨.encoder, 0, st, wrap360 (s.encAngle m), mkRat (s.rf regComSensCfg m 15 8) 256, st⟩)
    else .next s

/-- ENC_Z_EDGE (R77, R78, R134): the count becomes 0; a held count more than 4 from 0 is a fault; the revolution counter is
set. -/
def execEncZEdge (m : Fin 2) (t : Time) (s : State) : Host.Outcome State Fault Refusal :=
  let s := s.adv t
  let c := s.mach[m].sens.encCount
  let k := s.encMod m
  let far := decide (4 < c) && decide (c + 4 < k)
  .next (s.modMach m fun x =>
    { x with
      sens := { x.sens with encCount := 0, encIdx := x.sens.encIdx || s.started,
                            encDue := x.sens.encDue || (far && s.started && s.encValid m) }
      loop := { x.loop with rev := if s.encValid m then 0 else x.loop.rev } })

/-- ENC_FAULT (R78), class F1. -/
def execEncFault (m : Fin 2) (s : State) : Host.Outcome State Fault Refusal :=
  if s.mach[m].sens.encDue && s.started then
    let s := s.modMach m fun x => { x with sens := { x.sens with encDue := false, encFail := true } }
    .next (s.raiseF 3 m 2 0x39 s.time)
  else .next s

/-! ### Starting -/

/-- Every set of the machine that is not faulted begins driving from `t` on (R82, R83). -/
def State.beginSets (s : State) (m : Fin 2) (t : Time) : State :=
  (s.setsOf m).foldl (fun s w =>
    if s.sets[w].fault || s.sets[w].safe.isSome then s else s.modSet w fun x => { x with beginAt := some t }) s

/-- A deceleration that a loss has held goes on from the smaller of its reference and the recovered |f| (R88). -/
def DecelSt.recover (d : DecelSt) (f : Rat) : DecelSt := if d.active then { d with ref := minR d.ref (absR f) } else d

/-- The tracker enters CAPTURE; the machine cell takes over from `outgoing` (R80). No crossing has been accepted yet (R76). -/
def State.toCapture (s : State) (m : Fin 2) (outgoing : Rat) : State :=
  let deg := s.lossDeg m
  s.modMach m fun x =>
    { x with
      trk := { x.trk with state := .capture, good := 0, bad := 0, rotEvent := 0, rotCapt := 0, rotCross := deg, lost_ := false }
      decel := x.decel.recover x.trk.f
      loop := { x.loop with takeover := some outgoing } }

/-- Enter CAPTURE at angle `theta` for boundary `b`, speed `f` (R80). t_prev of R72 starts at `b`, the boundary of the entry, as no event
has been accepted: DESIGN CHOICE, unsafe (log 122). -/
def State.capture (s : State) (m : Fin 2) (theta f outgoing : Rat) (b : Time) : State :=
  (s.modMach m fun x =>
    { x with trk := { x.trk with angle := angWord theta, angAt := b, f := rnd f, tPrev := b, reports := [], misses := [] } }).toCapture
    m outgoing

/-- Begin the probe: from the first boundary at which every set is off (R79, R84). `probePh` 3 waits for it. -/
def State.beginProbe (s : State) (m : Fin 2) : State :=
  s.modMach m fun x =>
    { x with
      trk := { x.trk with state := .probe, lost_ := false }
      start := { x.start with probeIdx := 0, probeT := 2000 * s.rf regComProbeCfg m 7 0, probePh := 3, responses := [], tries := 0,
                              failDue := none } }

/-- The rotor is at rest: start on halls, on the encoder, or by probe (R80, R83). `t`: the boundary that follows. -/
def State.startAtRest (s : State) (m : Fin 2) (t0 : Time) : State :=
  let b := s.fpNext t0
  match s.hallValid m, hallSpan (s.hallCode m) with
  | true, some k =>
    let s := (s.capture m (natR (60 * k + 30) + s.hallOfs m) 0 0 b).beginSets m b
    let s := s.modMach m fun x => { x with trk := { x.trk with lastStart := 3 } }
    s.raise 0x0A 3 m 0 0x32 t0
  | _, _ =>
    if s.encValid m && s.mach[m].sens.encIdx then
      let s := (s.capture m (s.encAngle m) 0 0 b).beginSets m b
      let s := s.modMach m fun x => { x with trk := { x.trk with lastStart := 1 } }
      s.raise 0x0A 3 m 0 0x130 t0
    else s.beginProbe m

/-- Begin to listen at `t` (R81). -/
def State.beginListen (s : State) (m : Fin 2) (t : Time) : State :=
  let s := s.modMach m fun x =>
    { x with
      trk := { x.trk with state := .listen, lost_ := false }
      start := { x.start with listenAt := t, extended := false, vSeen := false, catches := [] } }
  forFin 8 s fun s w => if machOf w = m then s.modSet w fun x => { x with lineUV := none, lineVW := none, lineWU := none } else s

/-- One line voltage: its memory, and the crossing found (R81); its interpolated instant is rounded down to a half nanosecond: DESIGN CHOICE,
unsafe (log 167). -/
def lineCross (last : Option (Time × Rat)) (t : Time) (v hyst : Rat) : Option (Time × Rat) × Option (Time × Bool) :=
  if hyst < absR v then
    match last with
    | some (t0, v0) =>
      if v0 * v < 0 then
        let tc := t0 + natOf (intR ((t : Int) - t0) * (-v0) / (v - v0))
        (some (t, v), some (tc, decide (0 < v)))
      else (some (t, v), none)
    | none => (some (t, v), none)
  else (last, none)

/-- Three consecutive crossings advance by 60°/n in one direction. -/
def catchFound (step : Rat) : List (Time × Rat) → Bool
  | (_, c) :: (_, b) :: (_, a) :: _ =>
    (wrap180 (c - b) == step && wrap180 (b - a) == step) || (wrap180 (c - b) == -step && wrap180 (b - a) == -step)
  | _ => false

/-- START_CATCH (R82): the tracker is set from the last two crossings. -/
def State.tryCatch (s : State) (m : Fin 2) (t0 : Time) : State :=
  let st := s.mach[m].start
  match st.catches with
  | (tb, b) :: (ta, a) :: _ =>
    if st.vSeen && catchFound (mkRat 60 (s.nSets m)) st.catches && decide (ta < tb) then
      let f := wrap180 (b - a) / (360 * (sec tb - sec ta))
      let nb := s.fpNext t0
      let s := (s.capture m (b + 360 * f * (sec nb - sec tb)) f 0 nb).beginSets m nb
      let s := s.modMach m fun x => { x with trk := { x.trk with lastStart := 1 } }
      s.raise 0x0A 3 m 0 0x30 t0
    else s
  | _ => s

/-- LISTEN_CONVERSION (R81): one triplet; U and W are interpolated at the instant of the VV sample (200 ns apart). -/
def execListenConversion (w : Fin 8) (uPrev uNext v wPrev wNext : Int) (track : Time) (s : State) :
    Host.Outcome State Fault Refusal :=
  let s := s.adv track
  let m := machOf w
  let st := s.mach[m].trk.state
  if s.setConf w && s.gridOn && s.convFree (32 + w.val) (track - 400) && !s.urgentHeld (32 + w.val) (track - 400) && (st == .listen || (st == .lost && !s.sets[w].driving)) then
    let (s, _) := s.vcSample w 0 uPrev (track - 400)
    let (s, _) := s.vcSample w 1 v track
    let (s, _) := s.vcSample w 2 wNext (track + 400)
    let g := f32v (s.rget regComVphGain w)
    let cv := fun (x : Int) => intR (s.code14 (32 + w.val) 0 x).1 * g
    let u := cv uPrev + (cv uNext - cv uPrev) / 3
    let vv := cv v
    let ww := cv wPrev + (cv wNext - cv wPrev) * mkRat 2 3
    let h := s.zcHyst m
    let x := s.sets[w]
    let (l1, c1) := lineCross x.lineUV track (u - vv) h
    let (l2, c2) := lineCross x.lineVW track (vv - ww) h
    let (l3, c3) := lineCross x.lineWU track (ww - u) h
    let s := s.modSet w fun y => { y with lineUV := l1, lineVW := l2, lineWU := l3 }
    if st == .listen then
      let big := maxR (absR (u - vv)) (maxR (absR (vv - ww)) (absR (ww - u)))
      let add := fun (c : Option (Time × Bool)) (up dn : Rat) (l : List (Time × Rat)) =>
        match c with
        | some (t, r) => ((t, wrap360 ((if r then up else dn) + s.setOfs w)) :: l).take 3
        | none => l
      let cs := add c3 210 30 (add c2 90 270 (add c1 330 150 s.mach[m].start.catches))
      let s := s.modMach m fun y =>
        { y with start := { y.start with catches := cs, vSeen := y.start.vSeen || decide (f32v (s.rget regComCatchVmin m) < big) } }
      .next (s.tryCatch m s.time)
    else .next s
  else .next s

/-- CATCH_LISTEN_EXPIRY (R82): listening ends, or goes on once if the voltage was seen. -/
def execCatchListenExpiry (m : Fin 2) (s : State) : Host.Outcome State Fault Refusal :=
  let st := s.mach[m].start
  if s.mach[m].trk.state == .listen then
    let d := 200000 * s.rf regComStartCfg m 15 0
    let t := max s.time (st.listenAt + (if st.extended then 2 * d else d))
    let s := (s.adv t).tryCatch m t
    if s.mach[m].trk.state != .listen then .next s
    else if st.vSeen && !st.extended then .next (s.modMach m fun x => { x with start := { x.start with extended := true } })
    else .next (s.startAtRest m t)
  else .next s

/-! ### Probe -/

/-- Order of the patterns within a set (R84). -/
def probeOrder : List (Fin 6) := [0, 3, 1, 4, 2, 5]
def probeSec (i : Nat) : Fin 6 := probeOrder.getD (i % 6) 0

/-- The set of slot i. -/
def probeSet (m : Fin 2) (i : Nat) : Fin 8 := Fin.ofNat 8 (4 * m.val + i / 6)

/-- A slot starts at `t`: the pair of its pattern is ON. -/
def State.probeSlot (s : State) (m : Fin 2) (t : Time) : State :=
  let i := s.mach[m].start.probeIdx
  let w := probeSet m i
  let s := s.modMach m fun x => { x with start := { x.start with slotAt := t, probePh := 0 } }
  let s := s.modSet w fun x => { x with sector := some (probeSec i), td := false, chopLow := false,
                                        cell := { (x.cell.enter .on t) with plan := [], commAt := none, resyncAt := none } }
  s.reqSet w t

/-- The probe's first slot begins once every set is off: the sets pass to row 10 with all channels LOW, but for those that are
faulted, in a safe state or latched. -/
def State.probeStart (s : State) (m : Fin 2) (t : Time) : State :=
  let s := (s.setsOf m).foldl (fun s w =>
    if s.groups[w].hiz || s.sets[w].fault || (s.setSafe w).isSome then s
    else ((s.glkFresh w).modSet w fun x => { x with driving := true, sector := none, ending := false }).modGroup w fun x =>
      { x with stay := false }) s
  let s := (s.setsOf m).foldl (fun s w => if s.rowOf w == .drive then s.lowGroup w t else s) s
  s.probeSlot m t

/-- Pair current of the probed set at `t`; 0 without a sample (log 16). -/
def State.probeI (s : State) (m : Fin 2) (t : Time) : Rat :=
  let i := s.mach[m].start.probeIdx
  ((s.pairI (s.lastSample t) (probeSet m i) (probeSec i) false).getD (0, 0)).1

/-- PROBE_PULSE_END (R84): PROBE_T has passed or the current has reached PROBE_IMAX; the response is recorded. -/
def execProbePulseEnd (m : Fin 2) (t : Time) (s : State) : Host.Outcome State Fault Refusal :=
  let st := s.mach[m].start
  if s.mach[m].trk.state == .probe && st.probePh == 0 && !s.mach[m].trk.stopping then
    let tEnd := min (max s.time t) (st.slotAt + st.probeT)
    let i := s.probeI m tEnd
    if tEnd < st.slotAt + st.probeT ∧ i < f32v (s.rget regComProbeImax m) then .next (s.adv t)
    else
      let s := s.adv t
      let w := probeSet m st.probeIdx
      let r := if tEnd ≤ st.slotAt then 0 else i / (sec tEnd - sec st.slotAt)
      let s := s.modMach m fun x => { x with start := { x.start with probePh := 1, responses := x.start.responses ++ [r] } }
      let s := s.modSet w fun x => { x with cell := x.cell.enter .decay tEnd }
      .next (s.reqSet w s.time)
  else .next (s.adv t)

/-- The response of pattern s of set j. -/
def respOf (l : List Rat) (j : Nat) (sec : Nat) : Rat :=
  l.getD (6 * j + (match sec with | 0 => 0 | 3 => 1 | 1 => 2 | 4 => 3 | 2 => 4 | _ => 5)) 0

/-- φ of pattern s of set j in units of 60°/n, that is its place among the 6n patterns: (s·n + j) mod 6n, from 150° (R85). -/
def patAt (n k : Nat) : Nat × Nat := (k % n, (k / n) % 6)

/-- Index k with the largest response. -/
def bestPat (l : List Rat) (n : Nat) : Nat :=
  (List.range (6 * n)).foldl (fun b k =>
    let (j, q) := patAt n k
    let (jb, qb) := patAt n b
    if respOf l jb qb < respOf l j q then k else b) 0

/-- START_PROBE (R85): the angle, and STEP from it (R86). A largest response of 0 or less counts as ambiguous, of equal largest responses
the first pattern is taken, and where the denominator is 0 there is no correction: DESIGN CHOICE, unsafe (log 123). -/
def State.probeResult (s : State) (m : Fin 2) (t : Time) : State :=
  let n := s.nSets m
  let st := s.mach[m].start
  let l := st.responses
  let b := bestPat l n
  let r := fun k => let (j, q) := patAt n (k % (6 * n)); respOf l j q
  let rb := r b
  let ro := r (b + 3 * n)
  if rb - ro < rb * mkRat (s.rf regComProbeCfg m 31 24) 200 ∨ rb ≤ 0 then
    if st.tries < s.rf regComStartCfg m 23 16 then
      let s := s.modMach m fun x =>
        { x with start := { x.start with tries := x.start.tries + 1, probeT := min (2 * x.start.probeT) (100 * us1), probeIdx := 0,
                                         responses := [] } }
      s.probeSlot m t
    else s.modMach m fun x => { x with start := { x.start with failDue := some 1, probePh := 4 } }
  else
    let rm := r (b + 6 * n - 1)
    let rp := r (b + 1)
    let (j, q) := patAt n b
    let phi := natR (60 * q + 150) + mkRat (60 * j) n
    let den := 2 * (2 * rb - rm - rp)
    let corr := if den = 0 then 0 else clampR (mkRat 60 n * (rp - rm) / den) (-(mkRat 30 n)) (mkRat 30 n)
    let th := wrap360 (phi + corr)
    let nb := s.fpNext t
    let s := s.modMach m fun x =>
      { x with
        trk := { x.trk with state := .step, angle := angWord th, angAt := nb, f := 0, good := 0, bad := 0, tPrev := nb, lastStart := 2,
                            rotEvent := 0, rotCapt := 0, rotCross := s.lossDeg m, reports := [], misses := [] }
        start := { x.start with olTheta := th, olF := 0, stepAt := nb, probePh := 0 } }
    let s := (s.setsOf m).foldl (fun s w => s.modSet w fun x =>
      { x with driving := false, sector := none, beginAt := some nb, cell := { x.cell with cur := .off, plan := [] } }) s
    s.raise 0x0A 3 m 0 (0x31 + at_ (6 * j + q) 8) t

/-- PROBE_SLOT_END (R84): the next slot, the result, or a failure when the current does not fall. -/
def execProbeSlotEnd (m : Fin 2) (t : Time) (s : State) : Host.Outcome State Fault Refusal :=
  let st := s.mach[m].start
  let slot := 20000 * s.rf regComProbeCfg m 15 8
  let t := max s.time t
  if s.mach[m].trk.state == .probe && st.probePh == 1 && !s.mach[m].trk.stopping && decide (st.slotAt + slot ≤ t) then
    let s := s.adv t
    if s.demagI m ≤ absR (s.probeI m t) then
      if st.slotAt + 2 * slot ≤ t then
        .next (s.modMach m fun x => { x with start := { x.start with failDue := some 2, probePh := 4 } })
      else .next s
    else
      let w := probeSet m st.probeIdx
      let s := s.modSet w fun x => { x with sector := none, cell := { x.cell with cur := .off } }
      let s := s.modMach m fun x => { x with start := { x.start with probeIdx := x.start.probeIdx + 1 } }
      if s.mach[m].start.probeIdx < 6 * s.nSets m then .next (s.probeSlot m t) else .next (s.probeResult m t)
  else .next (s.adv t)

/-- START_FAIL (R84, R85, R87), class F2: the machine goes to its safe state. -/
def execStartFail (m : Fin 2) (s : State) : Host.Outcome State Fault Refusal :=
  match s.mach[m].start.failDue with
  | some c =>
    let s := s.modMach m fun x => { x with start := { x.start with failDue := none } }
    .next (s.faultMach m 3 m 3 (0x34 + at_ c 8) s.time)
  | none => .next s

/-! ### Locking, losing, re-acquiring -/

/-- σ of R125. -/
def State.sigma (s : State) (m : Fin 2) : Rat := if s.mach[m].decel.dirRev then -1 else 1

/-- LOCKED (R73, R87): LOCK_COUNT good events in CAPTURE, or in STEP with the sign of f matching DIR. The output outgoing after
stepping is STEP_I per set in the direction of DIR, DEDUCED, unsafe (log 19); 0 where the start follows a loss (R88). -/
def execLocked (m : Fin 2) (s : State) : Host.Outcome State Fault Refusal :=
  let t := s.mach[m].trk
  if s.rf regComTrkCfg m 27 24 ≤ t.good ∧ ¬ t.stopping ∧ (t.state = .capture ∨ (t.state = .step ∧ 0 < s.sigma m * t.f)) then
    let out := if s.mach[m].start.fromLost then 0 else s.sigma m * natR (s.setsOf m).length * f32v (s.rget regComStepI m)
    let s := s.modMach m fun x =>
      { x with
        trk := { x.trk with state := .locked, lost_ := false, rotEvent := 0 }
        start := { x.start with fromLost := false }
        decel := if t.state = .step then x.decel.recover x.trk.f else x.decel
        loop := if t.state = .step then { x.loop with takeover := some out } else x.loop }
    .next (s.raise 0x0A 3 m 0 0x33 s.lastFp)
  else .next s

/-- A loss is a recovery (R91): those within the running 10 s. -/
def State.addRecovery (s : State) (m : Fin 2) (t : Time) : State :=
  s.modMach m fun x =>
    { x with trk := { x.trk with lost_ := false, recov := t :: x.trk.recov.filter fun a => decide (t < a + 10 * s1) } }

/-- The ASC branch: the tracker enters ASC_OBSERVE, and the sets take the short circuit at the next boundary; ASC_SETTLE first (R88, R89). -/
def State.ascObserve (s : State) (m : Fin 2) (f : Rat) (t : Time) : State :=
  let nb := s.fpNext t
  let s := s.modMach m fun x =>
    { x with
      trk := { x.trk with state := .ascObserve, lost_ := false }
      start := { x.start with fLoss := f, fromLost := true, ascAt := some nb,
                              settleEnd := some (nb + 200000 * s.rf regComAscCfg m 23 16), est := none } }
  (s.setsOf m).foldl (fun s w => s.modSet w fun x => { x with beginAt := none }) s

/-- The sets of a lost machine take the short circuit at boundary `b`. -/
def State.ascEnter (s : State) (m : Fin 2) (b : Time) : State :=
  match s.mach[m].start.ascAt with
  | some t =>
    if t ≤ b then
      let s := s.modMach m fun x => { x with start := { x.start with ascAt := none } }
      (s.setsOf m).foldl (fun s w => (s.quitSet w b).modSet w fun x => { x with obs := ObsSt.reset }) s
    else s
  | none => s

/-- The OPEN branch: DECAY, tracker LOST. -/
def State.goLost (s : State) (m : Fin 2) (t : Time) : State :=
  let s := s.modMach m fun x =>
    { x with trk := { x.trk with state := .lost, lost_ := false }, start := { x.start with fromLost := true } }
  (s.setsOf m).foldl (fun s w => s.decaySet w t) s

/-- ROTOR_LOST (R88, R91): the branch by |f|; more than RECOVER_MAX recoveries in 10 s give ROTOR_LOST_REPEAT, class F2. A
STANDBY tracker does not run the sequence (R287). -/
def execRotorLost (m : Fin 2) (s : State) : Host.Outcome State Fault Refusal :=
  let t := s.mach[m].trk
  if t.lost_ && s.trkOn m && !t.stopping && !s.shadow then
    let b := s.lastFp
    let asc := decide (s.fAsc m ≤ absR t.f)
    let s := ((s.rcount regComTrkCount m 31 24 1).addRecovery m b).raise 0x0A 3 m 0 (0x35 + at_ (b2n asc) 8) b
    if s.rf regComAscCfg m 31 24 < s.mach[m].trk.recov.length then
      let s := s.modMach m fun x => { x with trk := { x.trk with state := .idle } }
      .next (s.faultMach m 3 m 3 0x37 b)
    else if asc then .next (s.ascObserve m t.f b)
    else .next (s.goLost m b).retrip
  else .next s

/-- LOW_RESTART (R79): the sets go to DECAY and OFF and the probe start begins without listening. -/
def execLowRestart (m : Fin 2) (s : State) : Host.Outcome State Fault Refusal :=
  let t := s.mach[m].trk
  if t.state = .low ∧ ¬ t.stopping ∧ ¬ s.mach[m].decel.active ∧ (4 * s.lossDeg m ≤ t.rotLow ∨ t.lowAt + 200 * ms1 ≤ s.lastFp) then
    let s := (s.setsOf m).foldl (fun s w => s.decaySet w s.lastFp) s
    .next ((s.beginProbe m).raise 0x0A 3 m 0 0x3A s.lastFp).retrip
  else .next s

/-- Every pair current of the machine is below DEMAG_I at `t`. -/
def State.currentsLow (s : State) (m : Fin 2) (t : Time) : Bool :=
  (s.setsOf m).all fun w => (List.finRange 3).all fun p =>
    decide (absR ((s.phaseI (s.lastSample t) w p).getD (0, 0)).1 < s.demagI m)

/-- LOST_DECAY_DONE (R70): once all pair currents are below DEMAG_I the sets are OFF and the tracker listens. -/
def execLostDecayDone (m : Fin 2) (t : Time) (s : State) : Host.Outcome State Fault Refusal :=
  let s := s.adv t
  if s.mach[m].trk.state == .lost && s.currentsLow m s.time then
    let s := (s.setsOf m).foldl (fun s w => s.offSet w s.time) s
    .next (if s.mach[m].trk.stopping then s.idleMach m else (s.beginListen m s.time).retrip)
  else .next s

/-- Window length clamped to 0.5–20 ms, in `Time` units. -/
def obsLen (seconds : Rat) : Rat := clampR seconds (mkRat 5 10000) (mkRat 2 100)
def obsTicks (len : Rat) : Time := natOf (len * 2000000000)

/-- The current inputs of a set can be observed: it has some, and none is lost (R209, R234). -/
def State.observable (s : State) (w : Fin 8) : Bool :=
  !(s.inputsOf w).isEmpty && !(s.inputsOf w).any fun n => s.inputLost n

/-- Start an observation window of length `len` of each set that can be observed. -/
def State.obsBegin (s : State) (m : Fin 2) (len : Rat) (t : Time) : State :=
  let o : ObsSt := { ObsSt.reset with running := true, attempt := 1, start := t, len := len, tLast := t }
  (s.setsOf m).foldl (fun s w => s.modSet w fun x => { x with obs := if s.observable w then o else ObsSt.reset }) s

/-- The first windows: T from the speed at loss, or at the application of the safe state (R89, R234). -/
def State.obsStart (s : State) (m : Fin 2) (f : Rat) (t : Time) : State :=
  s.obsBegin m (if f = 0 then mkRat 2 100 else obsLen (1 / absR f)) t

/-- Sum of wrapped angle steps of the points about a centre, oldest first. -/
def turnOf (ca cb : Rat) : List (Rat × Rat) → Option Rat → Rat → Rat
  | [], _, acc => acc
  | (a, b) :: l, last, acc =>
    let p := atan2R (b - cb) (a - ca)
    turnOf ca cb l (some p) (match last with | some q => acc + wrap180 (p - q) | none => acc)

/-- The estimate of one set from its window (R89): machine angle, speed. -/
def State.obsEstimate (s : State) (w : Fin 8) : Rat × Option (Rat × Rat) :=
  let o := s.sets[w].obs
  let pts := o.pts.reverse
  let as := pts.map (·.1)
  let bs := pts.map (·.2)
  let ca := (maxL as + minL as) / 2
  let cb := (maxL bs + minL bs) / 2
  let turn := turnOf ca cb pts none 0
  if 270 ≤ absR turn ∧ absR turn ≤ 450 then
    let f := turn / (360 * o.len)
    let (a, b) := o.pts.headD (0, 0)
    let phi := atan2R (b - cb) (a - ca)
    let l := s.sets[w].cell.lEst
    let delta := if l = 0 then 90 else atanR (s.sets[w].cell.rEst / (2 * piR * absR f * l))
    (turn, some (wrap360 (phi - sgnR f * delta + s.setOfs w), f))
  else (turn, none)

/-- Combine the sets' estimates, carried forward to the last sample of the last window, whichever set it is (R89). -/
def State.obsCombine (s : State) (m : Fin 2) : Option (Rat × Rat × Time) :=
  let l := (s.setsOf m).filterMap fun w => s.sets[w].obs.est
  let tl := (s.setsOf m).foldl (fun a w => if s.sets[w].obs.attempt = 0 then a else max a s.sets[w].obs.tLast) 0
  let c := l.map fun (th, f, t) => (wrap360 (th + 360 * f * (sec tl - sec t)), f)
  match circMean (c.map (·.1)) with
  | none => none
  | some mu =>
    let near := c.filter fun (th, _) => absR (wrap180 (th - mu)) ≤ 10
    match circMean (near.map (·.1)) with
    | none => none
    | some th => some (th, meanR (near.map (·.2)), tl)

/-- Set the tracker from an estimate, predicted to the last boundary. -/
def State.trkFrom (s : State) (m : Fin 2) (th f : Rat) (t : Time) : State :=
  s.modMach m fun x =>
    { x with trk := { x.trk with angle := angWord (th + 360 * f * (sec s.lastFp - sec t)), angAt := s.lastFp, f := rnd f, tPrev := t } }

/-- All windows of the machine have ended: the estimate, or its absence (R89, R234, R235). Under R234 the next windows follow at once,
with one length for every set: T of the estimate, else the shortest that R89 gives from a turn. DEDUCED, unsafe (log 124). -/
def State.obsDone (s : State) (m : Fin 2) (t : Time) : State :=
  let est := s.obsCombine m
  let turned := (s.setsOf m).any fun w => s.sets[w].obs.turned
  if s.mach[m].trk.state == .ascObserve then
    match est with
    | some (th, f, tl) =>
      (s.trkFrom m th f tl).modMach m fun x => { x with start := { x.start with est := some (th, rnd f, tl), estAt := t } }
    | none => s.faultMach m 3 m 3 0x37 t
  else
    let seen := (s.setsOf m).filter fun w => s.sets[w].obs.attempt != 0
    let long := !seen.isEmpty && seen.all fun w => s.sets[w].obs.start + obsTicks (mkRat 2 100) == t
    let len := match est with
      | some (_, f, _) => if f = 0 then mkRat 2 100 else obsLen (1 / absR f)
      | none => minL (seen.map fun w => s.sets[w].obs.len)
    let s := match est with
      | some (th, f, tl) =>
        (s.trkFrom m th f tl).modMach m fun x => { x with sup := { x.sup with obsF := rnd f, obsFail := 0 } }
      | none => s.modMach m fun x => { x with sup := { x.sup with obsFail := if long && !turned then x.sup.obsFail + 1 else 0 } }
    let s := s.modMach m fun x =>
      { x with sup := { x.sup with ascRel := x.sup.ascRel || (est.isSome && decide (absR x.sup.obsF ≤ s.fAscExit m)) ||
                                             decide (2 ≤ x.sup.obsFail) } }
    s.obsBegin m len t

/-- ASC_SETTLE_END (R89): the observation windows begin. Where no set can be observed, none gives an estimate. -/
def execAscSettleEnd (m : Fin 2) (s : State) : Host.Outcome State Fault Refusal :=
  match s.mach[m].start.settleEnd with
  | some t =>
    let s := (s.adv t).modMach m fun x => { x with start := { x.start with settleEnd := none } }
    let s := s.obsStart m s.mach[m].start.fLoss t
    .next (if s.mach[m].trk.state == .ascObserve && !(s.setsOf m).any (fun w => s.sets[w].obs.running) then s.obsDone m t else s)
  | none => .next s

/-- ASC_WINDOW_END (R89, R234): one set's window ends; in ASC_OBSERVE a second attempt follows a turn outside 270° to 450°. A set one of whose
current inputs is lost meanwhile gives no estimate. -/
def execAscWindowEnd (w : Fin 8) (s : State) : Host.Outcome State Fault Refusal :=
  let o := s.sets[w].obs
  let m := machOf w
  if o.running then
    let t := o.start + obsTicks o.len
    let s := s.adv t
    let (turn, est) := if s.observable w then s.obsEstimate w else (0, none)
    let again := if s.observable w then obsLen (360 * o.len / maxR (absR turn) 1) else o.len
    let retry := s.observable w && est.isNone && o.attempt == 1 && s.mach[m].trk.state == .ascObserve
    let s := s.modSet w fun x =>
      { x with obs :=
          if retry then { ObsSt.reset with running := true, attempt := 2, start := t, len := again, tLast := t }
          else { x.obs with running := false, est := est.map fun (th, f) => (th, f, o.tLast), turned := decide (270 ≤ absR turn),
                            len := again } }
    if retry || (s.setsOf m).any (fun v => s.sets[v].obs.running) then .next s
    else .next (s.obsDone m s.time)
  else .next s

/-- The rotation direction used for sequencing (R46): true reverse. -/
def State.rotOf (s : State) (w : Fin 8) : Bool :=
  let x := s.mach[machOf w]
  let step := x.trk.state == .step
  let f := if step then x.start.olF else x.trk.f
  if 0 < f then false else if f < 0 then true
  else if s.sets[w].rotUsed && !step then s.sets[w].rotRev else x.decel.dirRev

/-- The direction that the sign of the tracker speed gives at a boundary is the one last used (R46). -/
def State.noteRot (s : State) (w : Fin 8) : State :=
  let x := s.mach[machOf w].trk
  if s.sets[w].driving && x.state != .step && x.f ≠ 0 then s.modSet w fun y => { y with rotRev := decide (x.f < 0), rotUsed := true } else s

/-- The advance at speed |f| in degrees, from the 16 entries of COM_ADV (R54). -/
def State.advOf (s : State) (m : Fin 2) (f : Rat) : Rat :=
  let fe := s.feMax m
  let e := fun j => mkRat (s.rf regComAdv (16 * m.val + j) 10 0) 64
  if fe ≤ 0 then e 0
  else
    let x := absR f * 15 / fe
    if 15 ≤ x then e 15
    else
      let j := natOf x
      e j + (e (j + 1) - e j) * (x - natR j)

/-- The sector of an angle shifted by the advance in the rotation direction (R47). -/
def State.shiftedSector (s : State) (w : Fin 8) (theta f : Rat) : Fin 6 :=
  let a := s.advOf (machOf w) f
  let a := if s.mach[machOf w].trk.state == .step then 0 else a
  sectorAt (theta - s.setOfs w + (if s.rotOf w then -a else a))

/-- Wear score of a switch (R115): switching events plus WEAR_KQ per coulomb, in the snapshot of the latest boundary (R27). -/
def State.wearScore (s : State) (w : Fin 8) (n : Fin 48) : Rat :=
  natR (s.snap64 (ledgerNode n 0)) + s.sc w cWKQ * mkRat (s.snap64 (ledgerNode n 2)) 1000000

/-- The chop switch of a sector (Table 2.4, R115): true for the low side. `alt` is the ALTERNATE choice. -/
def State.chooseChop (s : State) (w : Fin 8) (sec : Fin 6) (td alt gen : Bool) : Bool :=
  match s.chopMode (machOf w) with
  | 0 => false
  | 1 => true
  | 2 => alt
  | _ =>
    let (chop, other) := onSwitches w sec td alt
    let a := if gen then other else chop
    let b := if gen then chop else other
    if s.wearScore w b < (1 - s.sc w cWHYST) * s.wearScore w a then !alt else alt

/-- A set enters the regulator in DECAY in sector `sec` at `t` (R90, R106, R158). Under ALTERNATE the first sector takes the high switch,
after a start as Table 2.4 says, and after a re-acquisition or a rejoin too: DESIGN CHOICE, unsafe (log 125). -/
def State.enterSet (s : State) (w : Fin 8) (sec : Fin 6) (t : Time) : State :=
  let m := machOf w
  let rot := s.rotOf w
  let rising := floatRises sec != rot
  let f := if s.mach[m].trk.state == .step then s.mach[m].start.olF else s.mach[m].trk.f
  ((s.glkFresh w).modGroup w fun x => { x with stay := false }).modSet w fun x =>
    { x with
      sector := some sec, driving := true, beginAt := none, ending := false, tdDecay := false, tdNew := false,
      chopLow := s.chooseChop w sec x.tdReq false false,
      prevSec := none, lastComm := t, rotUsed := false, td := x.tdReq,
      x := { CrossSt.reset with blanking := true, armed := true, slopeUp := rising, tc := t,
                                limit := if f = 0 then none else some (1 / (6 * absR f)) }
      plSince := t,
      adapt := { x.adapt with spoiled := true }
      cell := { x.cell with cur := .decay, state := .decay, seq := [(t, .decay)], plan := [], commAt := none, resyncAt := none,
                            boundReq := none, wasCut := false, postCut := false, masked := [], waitAt := none, common := none, dist := [t],
                            iHat := x.cell.iDec, badNow := true, badPrev := true, gen := false, genNext := false, freeNext := false } }

/-- The angle at `t` of a tracker outside STEP: the prediction from its last angle, under the limit of R76. -/
def State.trkTheta (s : State) (m : Fin 2) (t : Time) : Rat :=
  let x := s.mach[m].trk
  let d := 360 * x.f * (sec t - sec x.angAt)
  angDeg x.angle + (match s.hallHolds m x.rotCross with | some k => s.hallStay m k (angDeg x.angle) d | none => d)

/-- REACQUIRED (R90): the ASC is released at the first SP boundary at least 40 ns after the estimate, by the tracker as it stands there. -/
def execReacquired (m : Fin 2) (s : State) : Host.Outcome State Fault Refusal :=
  match s.mach[m].start.est with
  | some _ =>
    if s.mach[m].trk.state == .ascObserve then
      let b := max s.time (s.spAfter s.mach[m].start.estAt)
      let s := s.adv b
      let f := s.mach[m].trk.f
      let go := decide (s.fAscExit m < absR f)
      let theta := s.trkTheta m b
      let s := (s.modMach m fun x => { x with start := { x.start with est := none } }).endObs m
      let s := if go then s.toCapture m 0
        else s.modMach m fun x => { x with trk := { x.trk with state := .lost } }
      let s := (s.setsOf m).foldl (fun s w =>
        if s.sets[w].fault || s.sets[w].safe.isSome || s.groups[w].hiz then s
        else
          let s := s.modGroup w fun x => { x with asc := false }
          let s := s.enterSet w (s.shiftedSector w theta f) b
          let s := if go then s else s.modSet w fun x => { x with ending := true }
          if s.rowOf w == .drive then s.reqSet w b else s) s
      .next (s.raise 0x0A 3 m 0 (0x36 + at_ (b2n (!go)) 8) b).retrip
    else .next s
  | none => .next s

end Sys2Proof.Machine
end

