-- ==== Sys2Proof/Machine/Cell.lean ====
section
/-! DEFINITION. Cell.lean: the set cells (chapter 4), commutation instants and the chop switch (chapter 2), the crossing detector
(R59, R60), and the commands COMMUTATION, TD_DECAY_END, MISSED, ENG_OVERRUN, ADAPT_WINDOW_CLOSE and SAMPLE_RESULT. -/
namespace Sys2Proof.Machine

/-! ### Angle and speed used for sequencing -/

/-- Speed and angle at the last boundary that sequence the sectors: those of STEP's open loop, else the tracker's (R86). -/
def State.seqF (s : State) (m : Fin 2) : Rat := if s.mach[m].trk.state == .step then s.mach[m].start.olF else s.mach[m].trk.f
def State.seqTheta (s : State) (m : Fin 2) : Rat :=
  if s.mach[m].trk.state == .step then s.mach[m].start.olTheta else angDeg s.mach[m].trk.angle

/-- The angle predicted for an instant (R69, R76, R86). -/
def State.thetaAt (s : State) (m : Fin 2) (t : Time) : Rat :=
  if s.mach[m].trk.state == .step then s.mach[m].start.olTheta + 360 * s.mach[m].start.olF * (sec t - sec s.lastFp)
  else s.trkTheta m t

/-- The set cell of a driving set runs: the tracker is in STEP, CAPTURE, LOCKED or LOW and the set holds a sector. -/
def State.cellRuns (s : State) (w : Fin 8) : Bool :=
  let t := s.mach[machOf w].trk.state
  s.sets[w].driving && s.sets[w].sector.isSome &&
  ((t == .step && !s.mach[machOf w].trk.stopping) || t == .capture || t == .locked || t == .low)

/-! ### Commutation placement (R47, R50, R52) -/

/-- Steps from sector a to sector b in the rotation direction, 0 to 5. -/
def stepsTo (rev : Bool) (a b : Fin 6) : Nat := if rev then (a.val + 6 - b.val) % 6 else (b.val + 6 - a.val) % 6

/-- Planned changes in the 20 ns before a commutation at `tc` move to it (R50). -/
def ontoComm (tc : Time) (plan : List (Time × Reg)) : List (Time × Reg) :=
  plan.map fun (t, r) => if tc < t + 40 ∧ t < tc then (tc, r) else (t, r)

/-- Place a commutation of set w. -/
def State.place (s : State) (w : Fin 8) (tc : Time) (resync : Bool) (n : Fin 6) (adv : Rat) (chop : ChopPair) : State :=
  s.modSet w fun y =>
    { y with cell := { y.cell with
        commAt := some (tc, resync, n), commAdv := adv, commChop := chop, plan := ontoComm tc y.cell.plan } }

/-- The chop switch of a coming sector of set w, for either TD in force there: under ALTERNATE the switch that was not on before, after a
resync the high one (Table 2.4). -/
def State.commChoice (s : State) (w : Fin 8) (old new : Fin 6) (resync gen : Bool) : ChopPair :=
  let f := fun (td : Bool) => s.chooseChop w new td (!resync && (pairOf new td).1 == (pairOf old td).1) gen
  ⟨f false, f true⟩

/-- The commutation within 20 ns of the instant `t`, of those placed (R50). -/
def CellSt.commNear (c : CellSt) (t : Time) : Option Time :=
  let near := fun (tc : Time) => decide (t < tc + 40) && decide (tc < t + 40)
  match (c.commAt.map (·.1)).filter near with
  | some tc => some tc
  | none => (c.resyncAt.map (·.1)).filter near

/-- During the period that starts at `b`: compare the held sector with the one predicted for the next boundary, and place a resync there or
the next commutation in the period after. From the comparison that finds a resync on no crossing is accepted: DEDUCED, unsafe (log 149). Only the comparison is made while a commutation of the period under way is still to come, since
the next one follows from the sector it brings: DEDUCED, unsafe (log 126). -/
def State.placeComm (s : State) (w : Fin 8) (b : Time) : State :=
  let m := machOf w
  let x := s.sets[w]
  match x.sector with
  | some sec0 =>
    let b1 := b + s.fp
    let f := s.seqF m
    if f = 0 then s
    else
      let th := s.thetaAt m b1
      let rev := s.rotOf w
      let tgt := s.shiftedSector w th f
      let adv := if s.mach[m].trk.state == .step then 0 else s.advOf m f
      let held := match x.cell.commAt with | some (t, _, n) => if t ≤ b then n else sec0 | none => sec0
      if 2 ≤ stepsTo rev held tgt then
        let s := (s.rcount regComCount w 31 24 1).modSet w fun y => { y with x := { y.x with armed := false } }
        let chop := s.commChoice w held tgt true x.cell.genNext
        if x.cell.commAt.isSome then
          s.modSet w fun y =>
            { y with cell := { y.cell with resyncAt := some (b1, tgt, chop), resyncAdv := adv, plan := ontoComm b1 y.cell.plan } }
        else s.place w b1 true tgt adv chop
      else if x.cell.commAt.isSome then s
      else
        let thw := wrap360 (th - s.setOfs w)
        let dt := if rev then wrap180 (thw - (natR (30 + 60 * held.val) + adv)) / (360 * absR f)
          else wrap180 (natR (30 + 60 * ((held.val + 1) % 6)) - adv - thw) / (360 * f)
        let nx : Fin 6 := if rev then held + 5 else held + 1
        let chop := s.commChoice w held nx false x.cell.genNext
        if dt < 0 then (s.rcount regComCount w 7 0 1).place w b1 false nx adv chop
        else if dt < sec s.fp then s.place w (b1 + ofSecNs dt) false nx adv chop
        else s
  | none => s

/-! ### The pair model (R94 to R97) -/

def phaseAngle (p : Fin 3) : Rat := natR (120 * p.val)

/-- Pair back-EMF at the instant `t` for a pair of legs (R96): speed and angle are the tracker's, also in STEP. -/
def State.pairEmf (s : State) (w : Fin 8) (sec : Fin 6) (td : Bool) (t : Time) : Rat :=
  let m := machOf w
  let (src, snk) := pairOf sec td
  let th := s.trkTheta m t - s.setOfs w
  s.sc w cKE * s.mach[m].trk.f * (s.shapeAt w (th - phaseAngle src) - s.shapeAt w (th - phaseAngle snk))

/-- The shape entries that a pair back-EMF reads. -/
def State.emfReads (s : State) (w : Fin 8) (sec : Fin 6) (td : Bool) (t : Time) : List Nat :=
  let (src, snk) := pairOf sec td
  let th := s.trkTheta (machOf w) t - s.setOfs w
  let k := fun (p : Fin 3) => natOf (wrap360 (th - phaseAngle p) * mkRat 1024 360) % 1024
  [k src, (k src + 1) % 1024, k snk, (k snk + 1) % 1024]

/-- Applied voltage of a state (Table 4.1). -/
def uOf (x : Reg) (vdc vfw : Rat) : Rat :=
  match x with
  | .on => vdc
  | .freewheel => -vfw
  | .decay => -vdc
  | .off => 0

/-- The state in force at `t` in a list of changes in order of instant. -/
def regAt (start : Reg) (l : List (Time × Reg)) (t : Time) : Reg :=
  l.foldl (fun x (a, y) => if a ≤ t then y else x) start

def insertT (x : Time) : List Time → List Time
  | [] => [x]
  | y :: l => if x < y then x :: y :: l else if x = y then y :: l else y :: insertT x l

/-- Put a change into a plan, in order of instant. -/
def insertChange (x : Time × Reg) : List (Time × Reg) → List (Time × Reg)
  | [] => [x]
  | y :: l => if x.1 < y.1 then x :: y :: l else y :: insertChange x l

/-- Regulator transitions (Table 4.4): the new state, and the threshold to seek; no threshold means at once. -/
def decide44 (gen : Bool) (st : Reg) (ip hi lo hd slope : Rat) : Option (Reg × Option Rat) :=
  if gen then
    match st with
    | .on => some (.freewheel, none)
    | .freewheel => if hi ≤ ip then some (.decay, none) else if 0 < slope then some (.decay, some hi) else none
    | .decay => if ip ≤ lo then some (.freewheel, none) else if slope < 0 then some (.freewheel, some lo) else none
    | .off => none
  else
    match st with
    | .on => if hd ≤ ip then some (.decay, none) else if hi ≤ ip then some (.freewheel, none)
        else if 0 < slope then some (.freewheel, some hi) else none
    | .freewheel => if hd ≤ ip then some (.decay, none) else if ip ≤ lo then some (.on, none)
        else if slope < 0 then some (.on, some lo) else if 0 < slope then some (.decay, some hd) else none
    | .decay => if ip ≤ lo then some (.on, none) else if ip ≤ hi then some (.freewheel, none)
        else if slope < 0 then some (.freewheel, some hi) else none
    | .off => none

/-- Table 4.4 with R105: at i_ref = 0 the threshold lo is negative, so it is never reached and ON is never entered. -/
def decide105 (iref : Rat) (gen : Bool) (st : Reg) (ip hi lo hd slope : Rat) : Option (Reg × Option Rat) :=
  match decide44 gen st ip hi lo hd slope with
  | some (x, thr) => if iref = 0 ∧ (x = .on ∨ thr = some lo) then none else some (x, thr)
  | none => none

/-! ### What the switches of a set will do up to the next boundary (R103, R108) -/

/-- Sector that set x holds at `t`, by the commutations behind and before it. -/
def SetSt.secAt (x : SetSt) (t : Time) : Fin 6 :=
  let sec0 := x.sector.getD 0
  let a := match x.cell.commAt with
    | some (tc, _, n) => if tc ≤ t then n else if t < x.lastComm then x.prevSec.getD sec0 else sec0
    | none => if t < x.lastComm then x.prevSec.getD sec0 else sec0
  match x.cell.resyncAt with
  | some (tr, n, _) => if tr ≤ t then n else a
  | none => a

/-- TD of the pair that the projection models: the new one once its DECAY has ended (R49, R94, R106). -/
def SetSt.tdFor (x : SetSt) : Bool := if x.tdNew then x.tdReq else x.td

/-- Sector, TD and chop side in force at `t`. -/
def SetSt.pairAt (x : SetSt) (t : Time) : Fin 6 × Bool × Bool :=
  let ta := match x.cell.plan with | (a, _) :: _ => if x.tdNew && decide (a ≤ t) then some a else none | [] => none
  let tcm := match x.cell.commAt with | some (tc, _, _) => if tc ≤ t then some tc else none | none => none
  let td := if ta.isSome then x.tdReq else x.td
  (x.secAt t, td, if tcm.isSome && tcm != ta then x.cell.commChop.of td else if ta.isSome then x.tdChop else x.chopLow)

/-- A switch as it goes through its requests under the minimum times and the leg guard: level at the start and now, the instants from which
it may change, with and, for an on-change, without the guard, the request it has yet to take, its applied changes, newest first. -/
structure SwRun where
  n       : Fin 48
  ton     : Time
  toff    : Time
  first   : Bool
  lvl     : Bool
  onFrom  : Time
  onMin   : Time
  offFrom : Time
  pend    : Option (Bool × Time)
  out     : List (Time × Bool)
  deriving DecidableEq, Repr

def SwRun.apply (r : SwRun) (t : Time) (on : Bool) : SwRun :=
  if on then { r with lvl := true, pend := none, offFrom := ceilNs (t + r.ton), out := (t, true) :: r.out }
  else { r with lvl := false, pend := none, onFrom := ceilNs (t + r.toff), onMin := ceilNs (t + r.toff), out := (t, false) :: r.out }

/-- The request it has yet to take is applied if that is before `t`. -/
def SwRun.flush (r : SwRun) (t : Time) : SwRun :=
  match r.pend with
  | some (on, a) =>
    let u := max a (if on then r.onFrom else r.offFrom)
    if u < t then r.apply u on else r
  | none => r

/-- A request at `t` replaces the one before (R155). -/
def SwRun.ask (r : SwRun) (t : Time) (on : Bool) : SwRun :=
  let r := r.flush t
  if on == r.lvl then { r with pend := none }
  else if (if on then r.onFrom else r.offFrom) ≤ t then r.apply t on
  else { r with pend := some (on, t) }

/-- Level at `t`. -/
def SwRun.at_ (r : SwRun) (t : Time) : Bool := match r.out.find? fun (a, _) => decide (a ≤ t) with | some (_, l) => l | none => r.first

/-- A switch before the requests to come; the leg guard bounds its on-changes from below. -/
def State.swRun (s : State) (n : Fin 48) : SwRun :=
  let c := s.chans[n]
  let p := s.chans[partner n]
  let g := if p.lvl == .high then 0 else p.lastOff + s.lguard n
  { n := n, ton := s.chTon n, toff := s.chToff n, first := c.lvl == .high, lvl := c.lvl == .high, onFrom := ceilNs (max g (s.minOnFrom n)),
    onMin := ceilNs (s.minOnFrom n), offFrom := ceilNs (s.minOffFrom n), pend := if c.pend && c.lvl != .rel then some (c.req, c.reqAt) else none, out := [] }

/-- The six switches of set w at the end of the period that starts at `b`, as they go on from the present instant `t0`: the levels requested at it,
then those of the computed changes and of a commutation, each from its instant on. -/
def State.swRuns (s : State) (w : Fin 8) (b t0 : Time) : List SwRun :=
  let x := s.sets[w]
  let b1 := b + s.fp
  let own := x.cell.plan.filter fun (t, _) => decide (t < b1)
  let tc := match x.cell.commAt with | some (t, _, _) => if t < b1 then [t] else [] | none => []
  let lv := fun (t : Time) (r : Reg) => let (sec, td, ch) := x.pairAt t; levelsOf w sec td ch r
  let reqs := (t0, lv t0 (x.cell.boundReq.getD x.cell.cur)) ::
    ((own.map (·.1) ++ tc).foldr insertT []).map fun t => (t, lv t (regAt x.cell.cur own t))
  (List.range 6).map fun k =>
    let n : Fin 48 := Fin.ofNat 48 (6 * w.val + k)
    (reqs.foldl (fun r (t, l) => r.ask t (l.any fun (i, on) => i == n && on)) (s.swRun n)).flush b1

def levelIn (runs : List SwRun) (n : Fin 48) (t : Time) : Bool := runs.any fun r => r.n == n && r.at_ t

/-- The states that will be applied from `t0` on in the period that starts at `b`, in order of instant: by the switches of a set that holds its
pins, else the regulator's own (R103, R289). -/
def State.coming (s : State) (w : Fin 8) (b t0 : Time) (runs : List SwRun) : List (Time × Reg) :=
  let x := s.sets[w]
  let b1 := b + s.fp
  if s.rowOf w == .drive then
    let tc := match x.cell.commAt with | some (t, _, _) => [t] | none => []
    let ts := ((runs.flatMap fun r => r.out.map (·.1)) ++ tc).filter fun t => decide (t0 < t) && decide (t < b1)
    (insertT t0 (ts.foldr insertT [])).map fun t =>
      let (sec, td, ch) := x.pairAt t
      let (p, q) := onSwitches w sec td ch
      (t, regOfLevels (levelIn runs p t) (levelIn runs q t))
  else x.cell.plan.filter fun (t, _) => decide (t < b1)

/-! ### Projection and decision (R103, R105 to R110) -/

/-- What one set-cell computation gives. -/
structure CellRun where
  iHat   : Rat
  iP     : Rat
  e1     : Rat
  gen    : Bool
  vlim   : Bool
  held   : Bool
  /-- S of R103 -/
  st     : Reg
  tdChop : Bool
  change : Option (Time × Reg)
  bad    : Bool
  /-- shape entries read -/
  reads  : List Nat
  deriving DecidableEq, Repr

/-- The earliest instant at which the minimum times let set w pass from state `a` to `r`, given its switches at the boundary `b1` (R108). -/
def State.earliest (s : State) (w : Fin 8) (b1 : Time) (runs : List SwRun) (a r : Reg) (tdChop : Bool) : Time :=
  let x := s.sets[w]
  let (sec, td, ch) := x.pairAt (b1 - 1)
  let now := levelsOf w sec td ch a
  let nxt := if x.tdNew && td == x.td then levelsOf w sec x.tdReq tdChop r else levelsOf w sec td ch r
  (now.zip nxt).foldl (fun t ((n, p), (_, q)) =>
    match runs.find? fun z => z.n == n with
    | some z => if p == q || z.lvl == q then t else max t (if q then z.onMin else z.offFrom)
    | none => t) 0

/-- Where a change that is permitted from `t1` on goes beside a commutation at `tc` (R50, R110): before it by 20 ns or more, onto it, or
nowhere. -/
def besideComm (tc t1 early b1 b2 : Time) : Option Time :=
  if b1 < tc + 40 ∧ tc < b2 then
    if b1 ≤ tc ∧ t1 + 40 ≤ tc then some t1 else if early ≤ tc ∧ t1 ≤ tc + 40 then some tc else if b1 ≤ tc then none else some t1
  else some t1

/-- The change of the period after the one that starts at `b` (R103, R106 to R108, R110). None where a change has moved into that period
already (R50, R107). The second value: the minimum times moved it, in whichever period it falls. DEDUCED, unsafe (log 127). -/
def State.nextChange (s : State) (w : Fin 8) (b : Time) (runs : List SwRun) (st : Reg) (tdChop : Bool) (ip slope : Rat)
    (to_ : Option (Reg × Option Rat)) : Option (Time × Reg) × Bool :=
  let c := s.sets[w].cell
  let b1 := b + s.fp
  let b2 := b1 + s.fp
  match to_ with
  | none => (none, false)
  | some (tx, thr) =>
    let want : Option Time := match thr with
      | none => some b1
      | some th =>
        let q := (th - ip) / slope
        if slope = 0 ∨ q < 0 ∨ sec s.fp ≤ q then none else some (b1 + ofSecNs q)
    match want with
    | none => (none, false)
    | some t0 =>
      let early := s.earliest w b1 runs st tx tdChop
      let t1 := max t0 early
      let tc := match c.commAt with | some (t, _, _) => t | none => b2
      let tr := match c.resyncAt with | some (t, _, _) => t | none => b2
      let t2 := ((besideComm tc t1 early b1 b2).bind fun t => besideComm tr t early b1 b2).filter fun t =>
        decide (t < b2) && !c.plan.any (fun (a, _) => decide (b1 ≤ a) || decide (t ≤ a))
      (t2.map fun t => (t, tx), decide (t0 < early))

/-- SET_CELL_COMPUTATION after the model adaptation: projection from the decision sample `im` to the next boundary, regime, and the change for
the period after. -/
def State.project (s : State) (w : Fin 8) (b : Time) (im le re : Rat) : CellRun :=
  let m := machOf w
  let x := s.sets[w]
  let c := x.cell
  let td := x.tdFor
  let b1 := b + s.fp
  let davg := s.dAvg w
  let ts := b - davg
  let vdc := s.vdcOf m b
  let vfw := s.sc w cVFW
  let t0 := max b s.time
  let runs := s.swRuns w b t0
  let next := s.coming w b t0 runs
  let past := c.seq.reverse.filter fun (t, _) => decide (t < t0) || !next.any fun (a, _) => a == t0
  let chg := past ++ next
  let tc := match c.commAt with | some (t, _, _) => [t] | none => []
  let cuts := (chg.map (·.1) ++ tc ++ [x.lastComm, b1 - davg]).filter fun t => decide (ts < t) && decide (t < b1)
  let pts := cuts.foldr insertT [b1]
  let (ip, _, ihat, rd) := pts.foldl (fun (i, ta, ih, rd) tb =>
    let st := regAt .decay chg ta
    let mid := (ta + tb) / 2
    let e := s.pairEmf w (x.secAt ta) td mid
    let i' := if le = 0 then i else i + (uOf st vdc vfw - re * i - e) / le * (sec tb - sec ta)
    let i' := if st != .on && decide (i' < 0) then 0 else i'
    (i', tb, if tb = b1 - davg ∨ (davg = 0 ∧ tb = b1) then i' else ih, s.emfReads w (x.secAt ta) td mid ++ rd)) (im, ts, im, [])
  let st := regAt c.cur chg (b1 - 1)
  let mid := b1 + s.fp / 2
  let e1 := s.pairEmf w (x.secAt mid) td mid
  let iref := c.iRef
  let gen := decide (0 ≤ -vfw - re * iref - e1) && decide (le ≠ 0)
  let he := maxR (s.sc w cHMIN) (minR c.h (iref / 2))
  let slope := if le = 0 then 0 else (uOf st vdc vfw - re * ip - e1) / le
  let tdChop := s.chooseChop w (x.secAt (b1 - 1)) x.tdReq false gen
  let (chg', held) := s.nextChange w b runs st tdChop ip slope
    (decide105 iref gen st ip (iref + he) (iref - he) (iref + s.sc w cDECAYK * he) slope)
  { iHat := ihat, iP := ip, e1 := e1, gen := gen, vlim := decide (vdc - re * ip - e1 ≤ 0), held := held, st := st, tdChop := tdChop,
    change := chg', bad := decide (le = 0) || [ihat, ip, e1, slope, iref + s.sc w cDECAYK * he].any overF32, reads := s.emfReads w (x.secAt mid) td mid ++ rd }

/-! ### Residual, adaptation, plausibility -/

/-- The period qualifies (R104): constant state over the residual interval, no commutation, blanking, cut or TD-change DECAY in it, no bad
sample. -/
def State.qualifies (s : State) (w : Fin 8) (b : Time) : Bool :=
  let x := s.sets[w]
  let ts := b - s.dAvg w
  let tp := ts - s.fp
  let inside := fun (t : Time) => decide (tp < t) && decide (t ≤ ts)
  !x.cell.badNow && !x.cell.badPrev && !x.cell.seq.any (fun (t, _) => inside t) && !x.cell.dist.any inside &&
  !x.cell.masked.any (fun (a, z) => decide (a ≤ ts) && (decide (z = 0) || decide (tp < z))) && !(x.x.blanking && decide (x.x.tc ≤ ts))

/-- Raise a LIMIT event of the set when its condition arises; again only after a whole SP without it (R123). -/
def State.limitSet (s : State) (w : Fin 8) (detail : Nat) (b : Time) : State :=
  let key := detail % 2 ^ 12
  let last := (s.sets[w].limits.find? fun (k, _) => k == key).map (·.2)
  let s' := s.modSet w fun x => { x with limits := (key, b) :: x.limits.filter fun (k, _) => k != key }
  match last with
  | some t => if t + s.sp < b then s'.raise 2 2 w 0 detail b else s'
  | none => s'.raise 2 2 w 0 detail b

/-- The bounds of L_est and R_est (R118). -/
def State.lLow (s : State) (w : Fin 8) : Rat := s.sc w cLLO * s.sc w cLNOM
def State.lHigh (s : State) (w : Fin 8) : Rat := s.sc w cLHI * s.sc w cLNOM
def State.rLow (s : State) (w : Fin 8) : Rat := s.sc w cRLO * s.sc w cRNOM
def State.rHigh (s : State) (w : Fin 8) : Rat := s.sc w cRHI * s.sc w cRNOM

/-- Model adaptation (R118): new estimates, and whether each clamp acted; none where a number is none. -/
def State.adaptModel (s : State) (w : Fin 8) (r im u e : Rat) : Option (Rat × Rat × Bool × Bool) :=
  let c := s.sets[w].cell
  let fp := sec s.fp
  if c.lEst = 0 ∨ (im = 0 ∧ s.sc w cMUR ≠ 0) then none
  else
    let v := u - e
    let g := 1 / c.lEst + (if 50 ≤ absR v then s.sc w cMUL * r / (fp * v) else 0)
    let q := c.rEst / c.lEst - (if im = 0 then 0 else s.sc w cMUR * r / (fp * im))
    if g = 0 then none
    else
      let l := 1 / g
      let l' := rnd (clampR l (s.lLow w) (s.lHigh w))
      let rr := q * l'
      some (l', rnd (clampR rr (s.rLow w) (s.rHigh w)), decide (l < s.lLow w ∨ s.lHigh w < l), decide (rr < s.rLow w ∨ s.rHigh w < rr))

/-- PL_CNT on a qualifying period (R239). -/
def State.plausible (s : State) (w : Fin 8) (r im : Rat) (b : Time) : State :=
  let cfg := fun hi lo => s.rf regSupPlCfg 0 hi lo
  let lim := mkRat (cfg 7 0) 2 + mkRat (cfg 15 8) 256 * absR im
  let n := if lim < absR r then s.sets[w].plCnt + cfg 23 16 else s.sets[w].plCnt - 1
  s.modSet w fun x => { x with plCnt := n, plNeg := decide (r < 0), plDue := x.plDue || decide (cfg 31 24 ≤ n), plSince := b,
                               plRaised := false }

/-- The coefficient slots that the set cell reads at a boundary: those of the model and the band; in the model adaptation (`ada`) its gains
and bounds; for the wear choice of a commutation or a TD change to come its two (R103, R115, R118). -/
def State.slotReads (s : State) (w : Fin 8) (ada : Bool) : List Nat :=
  let c := s.sets[w].cell
  let wear := s.chopMode (machOf w) == 3 && (c.commAt.isSome || c.resyncAt.isSome || s.sets[w].tdNew)
  [cKE, cVFW, cHMIN, cHMAX, cDECAYK, cTON, cTOFF] ++
    (if s.rb regEngRegCfg 0 9 && c.qualifies then [cIADAPT] else []) ++
    (if ada then [cLNOM, cRNOM, cLLO, cLHI, cRLO, cRHI, cMUL, cMUR] else []) ++ if wear then [cWKQ, cWHYST] else []

/-- The ledger words of the wear choices to come. -/
def State.ledgerReads (s : State) (w : Fin 8) : List Nat :=
  let x := s.sets[w]
  let secs := (x.cell.commAt.map (·.2.2)).toList ++ (x.cell.resyncAt.map (·.2.1)).toList ++ if x.tdNew then x.sector.toList else []
  if s.chopMode (machOf w) != 3 then []
  else secs.flatMap fun sec =>
    let (a, b) := onSwitches w sec x.tdFor false
    [a, b].flatMap fun n => (List.range 4).map (ledgerNode n.val)

/-- A node word that the set cell reads is poisoned: a coefficient, a ledger word, or one of the shape entries given (R121, R372). -/
def State.cellPoison (s : State) (w : Fin 8) (ada : Bool) (shape : List Nat) : Bool :=
  let b := s.bankOf (machOf w)
  s.ecc.poison.any fun id => ((s.slotReads w ada).map (setSlot w b)).contains id || (s.ledgerReads w).contains id ||
    (shape.map (shapeNode w b)).contains id

/-! ### One period of a set cell -/

/-- The period that ends at the boundary `b`: its remaining changes are taken; after a cut the sequence goes on in the state the cut left,
while the levels requested at `b` are still those of the state computed before (R112, R159). -/
def State.settle (s : State) (w : Fin 8) (b : Time) : State :=
  let past := s.sets[w].cell.plan.filter fun (t, _) => decide (t ≤ b)
  let s := past.foldl (fun s (t, r) =>
    (s.modSet w fun x => ({ x with cell := { x.cell.enter r t with plan := x.cell.plan.drop 1 } } : SetSt).takeTd t).countChange w r
      (if t < b then s.sets[w].cell.gen else s.sets[w].cell.genNext) t) s
  s.modSet w fun x =>
    let c := x.cell
    let applied := match c.seq with | (_, r) :: _ => r | [] => c.cur
    let recent := fun (t : Time) => decide (b < t + 2 * s.fp + 400)
    let keep := c.seq.filter fun (t, _) => decide (b < t + s.fp + 400)
    let older := (c.seq.find? fun (t, _) => !decide (b < t + s.fp + 400)).toList
    { x with cell := { c with
        boundReq := if c.wasCut then some c.cur else none, cur := if c.wasCut || c.postCut then applied else c.cur,
        postCut := c.wasCut, wasCut := false, state := applied, seq := keep ++ older, dist := c.dist.filter recent,
        masked := c.masked.filter fun (_, z) => decide (z = 0) || recent z, gen := c.genNext,
        ovrRun := match c.ovrAt with | some a => if b ≤ a + s.fp then c.ovrRun else 0 | none => 0,
        commAt := c.commAt.filter fun (t, _, _) => decide (b ≤ t), resyncAt := c.resyncAt.filter fun (t, _, _) => decide (b < t) } }

/-- No result in time, or none that is a number: FREEWHEEL through the period after the one that starts at `b`, on the pair in force, also in the
DECAY of a TD change and of a set that ends, as R113 names every set: DEDUCED, unsafe (log 128). Edges of the period under way stay. -/
def State.overrun (s : State) (w : Fin 8) (b : Time) : State :=
  let b1 := b + s.fp
  s.modSet w fun y =>
    let t := (y.cell.commNear b1).getD b1
    { y with cell := { y.cell with
        waitAt := none, badPrev := y.cell.badNow, badNow := true, qualifies := false, vlim := false, minHold := false,
        plan := insertChange (t, .freewheel) (y.cell.plan.filter fun (a, _) => decide (a < b1) && a != t) } }

/-- The estimates after a period, with the flags of those held at a bound: a flag falls at an adaptation whose clamp does not act (R119). -/
def State.setModel (s : State) (w : Fin 8) (a : Option (Rat × Rat × Bool × Bool)) (b : Time) : State :=
  let s := match a with
    | some (l, r, lb, rb) => s.modSet w fun y => { y with cell := { y.cell with lEst := l, rEst := r, lBound := lb, rBound := rb } }
    | none => s
  let c := s.sets[w].cell
  let s := if c.lBound then s.limitSet w (0x42 + at_ (b2n (decide (rnd (s.lHigh w) ≤ c.lEst))) 9) b else s
  if c.rBound then s.limitSet w (0x142 + at_ (b2n (decide (rnd (s.rHigh w) ≤ c.rEst))) 9) b else s

/-- The band half-width at a bound: a LIMIT in each period in which h equals H_MIN or H_MAX (R123). DEDUCED, unsafe (log 129). -/
def State.bandLimits (s : State) (w : Fin 8) (b : Time) : State :=
  let h := s.sets[w].cell.h
  let s := if h = s.sc w cHMIN then s.limitSet w 0x40 b else s
  if h = s.sc w cHMAX then s.limitSet w 0x41 b else s

/-- The results of a computation in time: live values, the change of the period after, VLIM and MIN_HOLD (R101, R108, R109). In the DECAY of
a TD change, or of a set that ends, no transition is computed; a state other than DECAY is left at the next boundary (R49, R111). -/
def State.takeResult (s : State) (w : Fin 8) (b : Time) (p : CellRun) : State :=
  let b1 := b + s.fp
  let x := s.sets[w]
  let quiet := x.tdDecay || x.ending
  let held := p.held && !quiet
  let change := if quiet then (if p.st == .decay then none else some ((x.cell.commNear b1).getD b1, Reg.decay)) else p.change
  let s := if held then s.rcount regEngScCount w 23 16 1 else s
  let chop := fun (old new : Fin 6) (rs : Bool) => s.commChoice w old new rs p.gen
  let s := s.modSet w fun y =>
    { y with
      tdChop := match change with
        | some (a, _) =>
          match (y.cell.commAt.filter fun (t, _, _) => t == a).map (·.2.2), (y.cell.resyncAt.filter fun (t, _, _) => t == a).map (·.2.1) with
          | some n, _ => s.chooseChop w n y.tdReq false p.gen
          | none, some n => s.chooseChop w n y.tdReq false p.gen
          | none, none => p.tdChop
        | none => p.tdChop
      cell := { y.cell with
        iHat := p.iHat, iProj := rnd p.iP, ePair := rnd p.e1, genNext := p.gen, vlim := p.vlim, minHold := held,
        plan := match change with | some z => insertChange z y.cell.plan | none => y.cell.plan,
        commChop := match y.cell.commAt with
          | some (t, rs, n) => if b1 ≤ t then chop (y.sector.getD 0) n rs else y.cell.commChop
          | none => y.cell.commChop,
        resyncAt := y.cell.resyncAt.map fun (t, n, _) => (t, n, chop (y.sector.getD 0) n true) }
      adapt := if p.vlim || held then y.adapt.spoil false else y.adapt }
  if p.vlim then
    (s.modMach (machOf w) fun y => { y with sup := { y.sup with vlimNow := true } }).limitSet w 0x43 b
  else s

/-- The set-cell work of one set at boundary `b` (R102 to R113, R118, R239). -/
def State.computeCell (s : State) (w : Fin 8) (b : Time) : State :=
  let m := machOf w
  let x := s.sets[w]
  let c := x.cell
  let sec := x.sector.getD 0
  let v := (s.regI (s.decVal b) w sec x.tdFor (if x.tdNew then none else c.common)).getD (0, 0)
  let im := rnd v.1
  let short := s.decShort w b
  let s := s.modSet w fun y => { y with cell := { y.cell with iDec := im, short := short, badPrev := c.badNow, badNow := short || badFlags v.2 } }
  let r := rnd (im - c.iHat)
  let q := s.qualifies w b
  let ts := b - s.dAvg w
  let st := regAt .decay c.seq.reverse ts
  let ada := q && s.rb regEngRegCfg 0 9 && decide (s.sc w cIADAPT ≤ absR im) && st != .off
  let mid := ts - s.fp / 2
  let am := if ada then s.adaptModel w r im (uOf st (s.vdcOf m b) (s.sc w cVFW)) (s.pairEmf w (x.secAt mid) x.tdFor mid) else none
  let (l', r', _) := am.getD (c.lEst, c.rEst, c.lBound, c.rBound)
  let p := s.project w b im l' r'
  if s.cellPoison w ada ((if ada then s.emfReads w (x.secAt mid) x.tdFor mid else []) ++ p.reads) then
    (s.overrun w b).modSet w fun y => { y with cell := { y.cell with freeNext := true, badPrev := c.badNow } }
  else
    let s := s.modSet w fun y =>
      { y with cell := { y.cell with waitAt := none, resid := if y.tdDecay then y.cell.resid else r, qualifies := q } }
    let s := if q then s.plausible w r im b else s
    let s := (s.setModel w am b).bandLimits w b
    if (ada && am.isNone) || p.bad || overF32 v.1 || overF32 (im - c.iHat) then
      ((s.overrun w b).modSet w fun y => { y with cell := { y.cell with badPrev := c.badNow } }).faultSet w 2 w 0x45 b
    else s.takeResult w b p

/-- The passes in which sets are computed for boundary `b`: sets 0 to 3, then 4 to 7; a pass waits while an input of one of its sets has none of
its samples, and the second while the first waits (R102, R120, R121). -/
def State.cellPasses (s : State) (b : Time) : State :=
  let miss := fun (w : Fin 8) => s.sets[w].cell.waitAt == some b && s.cellRuns w && s.decMissing w b
  let aWaits := (List.finRange 8).any fun w => decide (w.val < 4) && miss w
  let bWaits := aWaits || (List.finRange 8).any miss
  forFin 8 s fun s w =>
    if s.sets[w].cell.waitAt == some b && s.cellRuns w && !(if w.val < 4 then aWaits else bWaits) then s.computeCell w b else s

/-- STATE of a set whose cell does not run at a boundary: of a set in its last DECAY, of a probed pair, else OFF (R101). -/
def SetSt.liveReg (x : SetSt) : Reg :=
  match x.sector with
  | some _ => match x.cell.seq with | (_, r) :: _ => r | [] => x.cell.cur
  | none => .off

/-- The work of a set cell at boundary `b` begins. -/
def State.cellBegin (s : State) (w : Fin 8) (b : Time) : State :=
  if s.cellRuns w then
    ((s.settle w b).placeComm w b).modSet w fun x =>
      { x with cell := { x.cell with badNow := x.cell.badNow || x.cell.waitAt.isSome, waitAt := some b, freeNext := false } }
  else s.modSet w fun x => { x with cell := { x.cell with state := x.liveReg } }

/-- The window of `a` has run for one SP more at the SP boundary `b`, where it closes after `win` of them and the next begins in the regime `gen`;
what happened at the instant `b` itself belongs to the period after (R20, R116). -/
def AdaptSt.roll (a : AdaptSt) (win : Nat) (gen drives : Bool) (b : Time) : AdaptSt :=
  let spoiled := a.spoiled || !drives
  if a.open_ && decide (a.sps + 1 < win) then
    { a with sps := a.sps + 1, raises := a.raises + a.edgeB, tFirst := if a.raises = 0 then b else a.tFirst,
             tLast := if a.edgeB = 0 then a.tLast else b, spoiled := spoiled || a.spoilB, edgeB := 0, spoilB := false }
  else
    { open_ := true, sps := 0, raises := a.edgeB, tFirst := b, tLast := b, spoiled := a.spoilB || !drives, gen := gen, edgeB := 0, spoilB := false,
      closed := if a.open_ && decide (0 < win) then some ⟨a.raises, a.tFirst, a.tLast, spoiled⟩ else none }

/-- Band-adaptation windows at boundary `b`: they run while the tracker is in CAPTURE, LOCKED or LOW, and a window in which the regime in force
changes is spoiled (R116). -/
def State.adaptRoll (s : State) (w : Fin 8) (b : Time) : State :=
  let st := s.mach[machOf w].trk.state
  let on := st == .capture || st == .locked || st == .low
  let win := (s.nodeF (setSlot w (s.bankOf (machOf w)) cWIN)).toNat
  s.modSet w fun x =>
    let a := if s.atNewSp b then (if on then x.adapt.roll win x.cell.gen x.driving b else AdaptSt.reset) else x.adapt
    { x with adapt := if a.gen != x.cell.gen then { a with spoiled := true } else a }

/-- The set cells at boundary `b`. -/
def State.cellsFp (s : State) (b : Time) : State :=
  let s := forFin 8 s fun s w => s.cellBegin w b
  (forFin 8 s fun s w => if s.setConf w then s.adaptRoll w b else s).cellPasses b

/-- Set cells that wait go on when their samples have come, before the deadline t2 (R102, Table 1.3). -/
def State.cellsWake (s : State) : State :=
  if s.time + lead40 ≤ s.lastFp + s.fp && s.sets.toList.any fun x => x.cell.waitAt == some s.lastFp then s.cellPasses s.lastFp else s

/-- The set whose cell reads a node word: one of its coefficients, its shape table or the ledger of its switches. -/
def nodeSet? (id : Nat) : Option (Fin 8) :=
  if 0x14000 ≤ id ∧ id < 0x18000 then some (Fin.ofNat 8 ((id - 0x14000) / 0x800))
  else if 0x18000 ≤ id ∧ id < 0x19000 ∧ 0x200 ≤ id % 0x400 ∧ id % 0x400 < 0x300 then
    some (Fin.ofNat 8 (4 * ((id - 0x18000) / 0x800) + (id % 0x400 - 0x200) / 0x40))
  else if 0x1A000 ≤ id ∧ id < 0x1A0C0 then some (Fin.ofNat 8 ((id - 0x1A000) / 24))
  else none

/-- Stalls of a pass in the period that starts at `b`, `Time` units: 3 CTL cycles for each error corrected between t1 and t2 on a word that a cell
of its sets reads (R120). DEDUCED, safe (log 130). -/
def State.stalls (s : State) (passB : Bool) (b : Time) : Time :=
  15 * (s.ecc.fixes.filter fun (t, id) => decide (b + 250 ≤ t) && decide (t + lead40 < b + s.fp) &&
    (match nodeSet? id with | some w => decide (4 ≤ w.val) == passB | none => false)).length

/-- The pass of set w ends after t2 by its stalls (R120, Table 4.5, Table 4.6). -/
def State.passLate (s : State) (w : Fin 8) (b : Time) : Bool :=
  let a := b + 250 + 280 + s.stalls false b
  decide (b + s.fp < lead40 + (if w.val < 4 then a else a + 280 + s.stalls true b))

/-- ENG_OVERRUN (R121, R122): at t2 a set that waits for samples, one whose computation was abandoned for a poisoned word, or one whose pass the
stalls have delayed; then the computations of every set of a late pass are abandoned. Counted, reported with the consecutive count; the third
is an F2 fault of the set. -/
def execEngOverrun (w : Fin 8) (s : State) : Host.Outcome State Fault Refusal :=
  let b := s.lastFp
  let c := s.sets[w].cell
  if s.cellRuns w && c.ovrAt != some b && (c.waitAt == some b || c.freeNext || s.passLate w b) then
    let s := s.adv (b + s.fp - lead40)
    let s := forFin 8 s fun s v =>
      if s.cellRuns v && !s.sets[v].cell.freeNext && s.sets[v].cell.ovrAt != some b && (v == w || s.passLate v b) then
        (s.overrun v b).modSet v fun x => { x with cell := { x.cell with freeNext := true } }
      else s
    let n := min 3 (c.ovrRun + 1)
    let s := s.modSet w fun x => { x with cell := { x.cell with freeNext := false, ovrRun := n, ovrAt := some b } }
    let s := (s.rcount regEngScCount w 31 24 1).rsetF regEngScStat w 11 11 1
    .next (if n < 3 then s.raiseF 2 w 1 (0x44 + at_ n 8) b else s.faultSet w 2 w (0x44 + at_ n 8) b)
  else .next s

/-! ### Commutation (R53, R59, R60) -/

/-- Phase common to two pairs (R94). -/
def commonPhase (a b : Fin 6) (td : Bool) : Option (Fin 3) :=
  let (p, q) := pairOf a td
  let (r, t) := pairOf b td
  if p = r ∨ p = t then some p else if q = r ∨ q = t then some q else none

/-- Sector time in seconds at speed f; none at 0 (R59). -/
def sectorTime (f : Rat) : Option Rat := if f = 0 then none else some (1 / (6 * absR f))

/-- The outgoing and incoming switches of a commutation (R53, R160): on switches of one pair that are not on switches of the other. -/
def swapped (w : Fin 8) (old new : Fin 6) (td0 td : Bool) : List (Fin 48) :=
  let (a, b) := onSwitches w old td0 false
  let (c, d) := onSwitches w new td false
  [a, b].filter (fun n => n != c && n != d) ++ [c, d].filter fun n => n != a && n != b

/-- The instant at which a pending edge will be applied, if a minimum time or the leg guard delays it (R160); an on-change that waits for its
partner's delayed off-change follows that by the leg guard. -/
def State.delayedTo (s : State) (n : Fin 48) (t : Time) : Option Time :=
  if !s.chans[n].pend then none
  else
    match s.changeFrom n with
    | some a => if t < a then some a else none
    | none => if s.chans[partner n].pend && !s.chans[n].blocked then (s.changeFrom (partner n)).map fun a => a + s.lguard n else none

/-- COMMUTATION (R53) or resync (R47) of set w at its placed instant, with the regulator change that stands at it (R50). COM_SECTOR.ADV takes the
advance that placed it, rounded down to 1/64°: DESIGN CHOICE, unsafe (log 131). -/
def execCommutation (w : Fin 8) (s : State) : Host.Outcome State Fault Refusal :=
  let x := s.sets[w]
  match x.cell.commAt, x.sector with
  | some (t0, resync, ns), some old =>
    if s.cellRuns w then
      let t := max s.time t0
      let s := s.adv t
      let m := machOf w
      let f := s.seqF m
      let rev := s.rotOf w
      let gen := s.genAt w t0
      let moved := match x.cell.plan with | (a, r) :: _ => if a = t0 then some r else none | [] => none
      let newTd := moved.isSome && x.tdNew
      let td := if newTd then x.tdReq else x.td
      let chop := if newTd then x.tdChop else x.cell.commChop.of td
      let cell := match moved with | some r => { (x.cell.enter r t) with plan := x.cell.plan.drop 1 } | none => x.cell
      let s := s.modSet w fun y =>
        { y with
          sector := some ns, prevSec := some old, lastComm := t, td := td, tdNew := y.tdNew && !newTd, chopLow := chop,
          rotUsed := f != 0 || y.rotUsed, rotRev := rev, adv := natOf (x.cell.commAdv * 64)
          x := { CrossSt.reset with blanking := true, armed := !resync, slopeUp := floatRises ns != rev, tc := t, limit := sectorTime f }
          cell := { cell with
            commAt := cell.resyncAt.map fun (a, n, _) => (a, true, n)
            commChop := match cell.resyncAt with | some (_, _, c) => c | none => cell.commChop
            commAdv := if cell.resyncAt.isSome then cell.resyncAdv else cell.commAdv
            resyncAt := none, dist := t :: cell.dist
            masked := if y.x.blanking then (y.x.tc, t) :: cell.masked else cell.masked
            common := if resync || newTd then none else commonPhase old ns td } }
      let s := s.reqSet w t
      let s := match moved with | some r => s.countChange w r gen t | none => s
      let late := (swapped w old ns x.td td).filterMap fun n => s.delayedTo n t
      if late.isEmpty then .next s
      else
        let s := s.rcount regComCount w 7 0 1
        .next (if resync then s else s.modSet w fun y => { y with x := { y.x with tc := late.foldl max t } })
    else .next s
  | _, _ => .next s

/-- TD_DECAY_END (R49): the pair current has fallen below DEMAG_I; the set takes the new TD, with a fresh chop switch, at its next state
change. -/
def execTdDecayEnd (w : Fin 8) (t : Time) (s : State) : Host.Outcome State Fault Refusal :=
  let s := s.adv t
  let x := s.sets[w]
  match x.sector with
  | some sec =>
    let i := ((s.pairI (s.lastSample s.time) w sec x.td).getD (0, 0)).1
    if x.tdDecay && decide (absR i < s.demagI (machOf w)) then
      .next (s.modSet w fun y =>
        { y with tdDecay := false, tdNew := true,
                 cell := { y.cell with masked := y.cell.masked.map fun (a, z) => (a, if z = 0 then s.time else z) } })
    else .next s
  | none => .next s

/-! ### Crossings (R58 to R62) -/

def PosEvent.ofCross (w : Fin 8) (t : Time) (th wt : Rat) (at_ : Time) : PosEvent := ⟨.crossing, w, t, th, wt, at_⟩

/-- Report a crossing of set w at `tz` (Table 3.2); `q`: 0 NORMAL, 1 COARSE, 2 EARLY. -/
def State.reportCross (s : State) (w : Fin 8) (tz : Time) (q : Nat) (track : Time) : State :=
  let m := machOf w
  let sec := (s.sets[w].sector.getD 0).val
  let th := wrap360 (natR (60 * (sec + 1)) + s.setOfs w)
  let wt := match q with
    | 0 => 1
    | 1 => mkRat (s.rf regComTrkGain m 23 16) 256
    | _ => mkRat (s.rf regComTrkGain m 31 24) 256
  s.report m (PosEvent.ofCross w tz th wt track)

/-- MISSED for set w: blanking ends without a crossing (R59). -/
def State.missedNow (s : State) (w : Fin 8) (t : Time) : State :=
  let s := s.modSet w fun x =>
    { x with x := { x.x with blanking := false, armed := false }, cell := { x.cell with masked := (x.x.tc, t) :: x.cell.masked } }
  (s.rcount regComCount w 15 8 1).reportMiss (machOf w) t

/-- A field of COM_ZC_CFG as it stood at the last boundary (R57). -/
def State.zcF (s : State) (m : Fin 2) (hi lo : Nat) : Nat := bits s.mach[m].trk.zcCfg hi lo

/-- More than DEMAG_MAX_PCT percent of the sector time has passed since tc. -/
def State.demagOver (s : State) (w : Fin 8) (t : Time) : Bool :=
  match s.sets[w].x.limit with
  | some l => decide (mkRat (s.rf regComDemagCfg (machOf w) 23 16) 100 * l < sec t - sec s.sets[w].x.tc)
  | none => false

/-- MISSED (R59, R62): the blanking limit passes on time alone. -/
def execMissed (w : Fin 8) (t : Time) (s : State) : Host.Outcome State Fault Refusal :=
  let s := s.adv t
  if s.cellRuns w && s.sets[w].x.blanking && s.demagOver w s.time then .next (s.missedNow w s.time) else .next s

/-- The procedure of R60 on a usable sample: terminal voltage vf, link voltage vdc, instant t. The interpolated instant is rounded down to a
tick (R61): DESIGN CHOICE, unsafe (log 132). -/
def State.crossSample (s : State) (w : Fin 8) (t : Time) (vf vdc : Rat) (ovr : Bool) : State :=
  let m := machOf w
  let x := s.sets[w].x
  let hyst := s.zcHyst m
  let conf := s.zcF m 27 24
  if x.blanking then
    let sec := s.sets[w].sector.getD 0
    let iF := ((s.phaseI (s.lastSample t) w (floatLeg sec)).getD (0, 0)).1
    let done := decide (x.tc + 200 * s.rf regComDemagCfg m 15 0 ≤ t) && decide (absR iF < s.demagI m) &&
      decide (vdc * mkRat 5 100 ≤ vf) && decide (vf ≤ vdc * mkRat 95 100) && !ovr
    if done then
      s.modSet w fun y =>
        { y with x := { y.x with blanking := false, tReady := t }, cell := { y.cell with masked := (x.tc, t) :: y.cell.masked } }
    else if s.demagOver w t then s.missedNow w t
    else s
  else
    let e := (if x.slopeUp then 1 else -1) * (vf - vdc / 2)
    if !x.armed then
      let n := if e < -hyst then x.wrong + 1 else 0
      let s := s.modSet w fun y => { y with x := { y.x with wrong := n } }
      if n = conf then (s.rcount regComCount w 23 16 1).reportMiss m t else s
    else if e ≤ 0 then
      s.modSet w fun y => { y with x := { y.x with seenPre := true, tPre := t, ePre := e, pos := none, confirm := 0 } }
    else
      let (tp, ep) := x.pos.getD (t, e)
      let n := if hyst < e then x.confirm + 1 else x.confirm
      let s := s.modSet w fun y => { y with x := { y.x with pos := some (tp, ep), confirm := n } }
      if conf ≤ n then
        let s := s.modSet w fun y => { y with x := { y.x with armed := false } }
        if !x.seenPre then s.reportCross w x.tReady 2 t
        else
          let tz := x.tPre + natOf (intR ((tp : Int) - x.tPre) * (-x.ePre) / (ep - x.ePre))
          s.reportCross w (tz / 5 * 5) (if x.tPre + 2 * (100 * s.zcF m 15 8) < tp then 1 else 0) t
      else s

/-! ### Band adaptation (R116, R117) -/

/-- ADAPT_WINDOW_CLOSE (R117): at the SP boundary that has closed a qualifying window, h moves by ρ. -/
def execAdaptWindowClose (w : Fin 8) (s : State) : Host.Outcome State Fault Refusal :=
  match s.sets[w].adapt.closed with
  | none => .next s
  | some a =>
    let ok := s.rb regEngRegCfg 0 8 && !a.spoiled && decide (3 ≤ a.raises) && decide (a.tFirst < a.tLast)
    let s := s.modSet w fun x => { x with adapt := { x.adapt with closed := none } }
    if ok then
      let fm := natR (a.raises - 1) / (sec a.tLast - sec a.tFirst)
      let tg := s.sc w cFSW
      let rho := clampR (1 + s.sc w cKB * (fm - tg) / tg) (mkRat 8 10) (mkRat 125 100)
      let h := rnd (clampR (s.sets[w].cell.h * rho) (s.sc w cHMIN) (s.sc w cHMAX))
      let s := s.modSet w fun x => { x with cell := { x.cell with h := h, fsw := rnd fm } }
      .next (s.bandLimits w s.lastSp)
    else .next s

/-! ### SAMPLE_RESULT -/

/-- SAMPLE_RESULT (R191, R216): a fast or link converter's result at its grid instant; set cells that waited for it go on. -/
def execSampleResult (c : Fin 34) (raw : Int) (beyond2 : Bool) (track : Time) (s : State) : Host.Outcome State Fault Refusal :=
  .next ((s.adv track).sampleIn c raw beyond2 track).cellsWake

end Sys2Proof.Machine
end

