-- ==== Sys2Proof/Machine/Demand.lean ====
section
/-! DEFINITION. Demand.lean: the machine cells (chapter 5): sources, fallback, ramps, feed-forward, the five loops, hand-overs,
controlled deceleration and reversal as the cell carries them out (R63 to R68, R508), and the commands of that chapter. -/
namespace Sys2Proof.Machine

/-! ### Trackers (R72 to R74, R86, R287) -/

/-- The tracker of machine m is updated at boundaries: it runs, or its machine holds a safe state. A STANDBY tracker runs in CAPTURE,
LOCKED and LOW only. -/
def State.trkRuns (s : State) (m : Fin 2) : Bool :=
  let t := s.mach[m].trk.state
  let on := t == .capture || t == .locked || t == .low
  if s.shadow then on
  else on || t == .step || t == .ascObserve || t == .lost || s.mach[m].sup.safe.isSome

/-- Stepping: the open-loop angle moves on with the speed as it was in the period that ends, then the speed changes: DESIGN CHOICE, unsafe
(log 133). STEP_TMAX passes (R86, R87). -/
def State.stepLoop (s : State) (m : Fin 2) (b : Time) : State :=
  let st := s.mach[m].start
  if s.mach[m].trk.state == .step && !s.mach[m].trk.stopping && decide (st.stepAt < b) then
    let fp := sec s.fp
    let top := 2 * s.slFmin m
    let f := clampR (st.olF + s.sigma m * f32v (s.rget regComStepAcc m) * fp) (-top) top
    let tmax := ms1 * s.rf regComStepCfg m 15 0
    s.modMach m fun x =>
      { x with start := { x.start with
          olTheta := wrap360 (x.start.olTheta + 360 * x.start.olF * fp), olF := rnd f,
          failDue := if x.start.failDue.isNone && decide (st.stepAt + tmax ≤ b) then some 3 else x.start.failDue } }
  else s

/-- The tracker's work at boundary `b`. -/
def State.trkFp (s : State) (m : Fin 2) (b : Time) : State :=
  let s := s.stepLoop m b
  if s.trkRuns m then (s.trkUpdate m b).trkJudge m b
  else s.modMach m fun x => { x with trk := { x.trk with reports := [], misses := [], angAt := b } }

/-- What machine cells judge at SP boundary `b`, for a command row that stands before the boundary rows of its instant: trackers, node words and
healthy sets as they will be there (R27, R66, R143). Only values are read from it. -/
def State.preview (s : State) (b : Time) : State :=
  let s := if s.lastFp < b then ({ s with lastFp := b } : State).confMach.foldl (fun s m => s.trkFp m b) { s with lastFp := b } else s
  { s with lastSp := max s.lastSp b }

/-! ### Healthy sets and limits -/

/-- A healthy set (R125): driving, without a set fault, not in a safe state. -/
def State.healthy (s : State) (w : Fin 8) : Bool :=
  let x := s.sets[w]
  s.setConf w && x.driving && x.sector.isSome && !x.ending && !x.fault && (s.setSafe w).isNone

def State.healthySets (s : State) (m : Fin 2) : List (Fin 8) := (s.setsOf m).filter s.healthy

/-- min(I_SET_MAX, C), and I_MAX for n_h healthy sets (R125). -/
def State.iSetLim (s : State) (m : Fin 2) : Rat := minR (s.mc m mISET) s.iCeil
def State.iMax (s : State) (m : Fin 2) (nh : Nat) : Rat := natR nh * s.iSetLim m

/-- The first set of a machine. -/
def firstSet (m : Fin 2) : Fin 8 := if m = 0 then 0 else 4

/-- HOST_AUX as a number. -/
def State.hostAux (s : State) (m : Fin 2) : Rat := f32v (s.hostAuxS m)

/-- f_lim (R142) in the mode `speed`. -/
def State.fLim (s : State) (m : Fin 2) (speed : Bool) (vdc : Rat) : Rat :=
  let a := minR (s.mc m mSPDLIM) (s.feMax m)
  let a := minR a (s.mc m mVCEIL * vdc / (2 * s.sc (firstSet m) cKE))
  let aux := s.hostAux m
  if !speed && aux ≠ 0 then minR a aux else a

/-! ### Feed-forward (R134) -/

def State.mechValid (s : State) (m : Fin 2) : Bool := s.encValid m && s.mach[m].sens.encIdx

/-- θ_mech at t_mid of the slow period over which the outputs of `b` apply. -/
def State.mechAt (s : State) (m : Fin 2) (b : Time) : Rat :=
  let t := b + s.mOut * s.fp + s.sp / 2
  wrap360 ((360 * natR s.mach[m].loop.rev + s.trkTheta m t) / natR (s.poles m))

def State.ffAt (s : State) (m : Fin 2) (b : Time) : Rat :=
  if !s.mechValid m && s.nodeS (machSlot m (s.bankOf m) mNOIDX) != 1 then 0
  else
    let th := s.mechAt m b
    let q := clampR (s.fTrk m / s.mc m mFRICF) (-1) 1
    s.mc m mFFCOG * s.cogAt m th + s.mc m mFFFRIC * q * s.fricAt m th

/-! ### Context of one run -/

/-- What a machine cell has at hand at an SP boundary. -/
structure McCtx where
  iMax  : Rat
  f     : Rat
  sig   : Rat
  k     : Rat
  vdc   : Rat
  ff    : Rat
  fLimT : Rat
  fLimS : Rat
  kps   : Rat
  deriving DecidableEq, Repr

def State.mcCtx (s : State) (m : Fin 2) (nh : Nat) (b : Time) : McCtx where
  iMax := s.iMax m nh
  f := s.fTrk m
  sig := s.sigma m
  k := s.mc m mKT
  vdc := s.vdcOf m b
  ff := s.ffAt m b
  fLimT := s.fLim m false (s.vdcOf m b)
  fLimS := s.fLim m true (s.vdcOf m b)
  kps := s.mc m mKPS

/-- The primary demand (Table 5.2). -/
def McCtx.primary (c : McCtx) (speed : Bool) (r j ofs : Rat) : Rat :=
  if speed then clampR (c.kps * (c.sig * minR r c.fLimS - c.f) + j + c.ff + ofs) (-c.iMax) c.iMax
  else c.sig * r / c.k + c.ff + ofs

/-- I_SPD for a hand-over into speed mode from an outgoing demand (R148). -/
def McCtx.intoSpeed (c : McCtx) (dPrev : Rat) : Rat × Rat :=
  let r := absR c.f
  let e := c.sig * minR r c.fLimS - c.f
  (rnd r, rnd (clampR (dPrev - c.ff - c.kps * e) (-(2 * c.iMax)) (2 * c.iMax)))

/-- The same for a judgement at SP boundary `b`, with the sets that are healthy there. -/
def State.ctxAt (s : State) (m : Fin 2) (b : Time) : McCtx := (s.preview b).mcCtx m (s.healthySets m).length b

/-- Speed regulation is in force: speed mode, or a controlled deceleration. -/
def State.speedNow (s : State) (m : Fin 2) : Bool := s.mach[m].src.speed || s.mach[m].decel.active

/-- Begin a blend with the disagreement `d0` (R149, R151): HANDOVER_START, and HANDOVER_DONE at once without a blend. It keeps the length that
HANDOVER_BLEND has here, so a bank swap leaves its offset unchanged (R147): DEDUCED, unsafe (log 134). -/
def State.beginBlend (s : State) (m : Fin 2) (internal : Bool) (d0 : Rat) (b : Time) : State :=
  let s := s.raise 0x0A 3 m 0
    (0x51 + at_ (b2n (s.speedNow m)) 8 + at_ s.mach[m].src.src 9 + at_ (b2n internal) 12) b
  let len := (s.preview b).mc m mBLEND
  if len = 0 then
    (s.modMach m fun x => { x with loop := { x.loop with blend := none, blendOfs := 0 } }).raise 0x0A 3 m 0 0x52 b
  else s.modMach m fun x => { x with loop := { x.loop with blend := some (b, rnd d0, len) } }

/-- Blend offset at SP boundary `b`: none once its time has passed (R149). -/
def LoopSt.blendAt (l : LoopSt) (b : Time) : Option Rat :=
  match l.blend with
  | some (t0, d0, len) => let t := sec b - sec t0
                          if len ≤ t then none else some (rnd (d0 * (1 - t / len)))
  | none => none

/-- An internal hand-over from the outgoing demand `dPrev` (R148, R151). After a reversal the demand restarts from zero in the
new direction (R67): the outgoing demand is 0 and a torque ramp starts at 0. DEDUCED, unsafe (log 21). -/
def State.handInternal (s : State) (m : Fin 2) (dPrev : Rat) (restart : Bool) (b : Time) : State :=
  let c := s.ctxAt m b
  let d := if restart then 0 else dPrev
  let speed := s.speedNow m
  let (r, j) := if speed then c.intoSpeed d
    else (if restart then 0 else rnd (c.sig * c.k * (d - c.ff)), s.mach[m].loop.iSpd)
  let s := s.modMach m fun x => { x with loop := { x.loop with r := r, iSpd := j, takeover := none } }
  s.beginBlend m true (d - c.primary speed r j 0) b

/-! ### Set-point sources (R126 to R132) -/

def State.srcCfg (s : State) (m : Fin 2) (hi lo : Nat) : Nat := s.rf regEngSrcCfg m hi lo

/-- The source uses ASP, PSP. -/
def SrcSt.usesAsp (x : SrcSt) : Bool := !x.fallback && (x.src == 1 || x.src == 3)
def SrcSt.usesPsp (x : SrcSt) : Bool := !x.fallback && (x.src == 2 || x.src == 3)

def State.aspTarget (s : State) (m : Fin 2) : Rat :=
  f32v (s.rget regEngAspGain m) * (s.mach[m].src.aspY - f32v (s.rget regEngAspOfs m))
def State.pspTarget (s : State) (m : Fin 2) : Rat :=
  f32v (s.rget regEngPspGain m) * (s.mach[m].src.pspX - f32v (s.rget regEngPspOfs m))

/-- Target of a source (Table 5.1). DUAL chooses between the targets before a negative speed target is taken as 0 (R126), and of equal magnitudes
takes the ASP target: DESIGN CHOICE, unsafe (log 151). -/
def State.sourceTarget (s : State) (m : Fin 2) (src : Nat) : Rat :=
  match src with
  | 0 => f32v (s.hostSpS m)
  | 1 => s.aspTarget m
  | 2 => s.pspTarget m
  | _ => if absR (s.pspTarget m) < absR (s.aspTarget m) then s.pspTarget m else s.aspTarget m

/-- Target in force: of the source, or of FALLBACK (R132). A negative speed target is taken as 0 (R126); in a controlled deceleration no
target is used (R133). -/
def State.targetNow (s : State) (m : Fin 2) : Rat :=
  let x := s.mach[m].src
  let t := if x.fallback then
      (match x.fbAction with | 0 => x.fbTarget | 3 => s.mc m mFBVAL | _ => 0)
    else s.sourceTarget m x.src
  if x.speed then maxR t 0 else t

/-- The source selected, not in FALLBACK, gives a valid target: its inputs are valid, and under DUAL they agree (R126, R132). -/
def State.targetValid (s : State) (m : Fin 2) : Bool :=
  let x := s.mach[m].src
  !x.fallback &&
    (match x.src with
     | 0 => true
     | 1 => x.aspOk
     | 2 => x.pspOk
     | _ => x.aspOk && x.pspOk && decide (absR (s.aspTarget m - s.pspTarget m) ≤ f32v (s.rget regEngXchkTol m)))

/-- PSP is invalid once no edge has come for 2 ms (R130). -/
def SrcSt.pspCheck (x : SrcSt) (t : Time) : SrcSt :=
  if x.pspOk && decide (x.pspEdge + 2 * ms1 ≤ t) then { x with pspOk := false, pspGood := 0, pspDue := x.pspDue || x.usesPsp } else x

/-- One completed ASP conversion of `v` volts for machine m (R129): validity by counts. -/
def State.aspCount (s : State) (m : Fin 2) (v : Rat) : State :=
  let lo := mkRat (s.rf regEngAspRange m 15 0) 1000
  let hi := mkRat (s.rf regEngAspRange m 31 16) 1000
  let inn := decide (lo ≤ v) && decide (v ≤ hi)
  s.modMach m fun x =>
    let y := x.src
    let bad := if inn then 0 else min 3 (y.aspBad + 1)
    let good := if inn then min 100 (y.aspGood + 1) else 0
    let ok := if y.aspOk then decide (bad < 3) else decide (100 ≤ good)
    { x with src := { y with aspV := rnd v, aspBad := bad, aspGood := good, aspOk := ok, aspNew := none,
                             aspDue := y.aspDue || (y.aspOk && !ok && y.usesAsp) } }

/-- An ASP conversion that has completed before `b` counts (R129). -/
def State.aspLand (s : State) (m : Fin 2) (b : Time) : State :=
  match s.mach[m].src.aspNew with
  | some (t, v) => if t < b then s.aspCount m v else s
  | none => s

/-- An ASP conversion whose track instant is `t` completes a conversion time of 1 µs later (Table 7.1). -/
def State.aspSample (s : State) (m : Fin 2) (v : Rat) (t : Time) : State :=
  (s.aspLand m (t + 1)).modMach m fun x => { x with src := { x.src with aspNew := some (t + us1, v) } }

/-- The mean of the PSP measurements completed in the SP that ends at `b`; the last one where there is none (R130). -/
def State.pspMean (s : State) (m : Fin 2) (b : Time) : Rat :=
  let x := s.mach[m].src
  let l := x.pspNew.filter fun p => decide (b ≤ p.1 + s.sp) && decide (p.1 < b)
  if l.isEmpty then x.pspLast else rnd (meanR (l.map (·.2)))

/-- The host watchdog runs (R128). -/
def State.wdRuns (s : State) (m : Fin 2) : Bool :=
  s.started && s.pcr.state == 0 && !s.mach[m].src.fallback && s.mach[m].src.src == 0 && s.srcCfg m 15 0 != 0

/-- Feed the watchdog. -/
def State.wdFeed (s : State) (m : Fin 2) : State :=
  s.modMach m fun x => { x with src := { x.src with wdTime := 0, wdMark := s.time } }

/-- Update of the sources at SP boundary `b`: watchdog time, ASP filter, PSP mean, cross-check timing (R128 to R131). A watchdog that stops
running (another source, HOST_WD = 0) and runs again later counts from 0: DESIGN CHOICE, unsafe (log 150). DUAL cross-checks the two
targets as they are formed, signs included: DESIGN CHOICE, unsafe (log 151). -/
def State.srcUpdate (s : State) (m : Fin 2) (b : Time) : State :=
  if b ≤ s.mach[m].src.upAt then s
  else
    let s := s.aspLand m b
    let x := s.mach[m].src
    let y := rnd (x.aspY + (x.aspV - x.aspY) * minR (mkRat s.sp ms1) 1)
    let p := s.pspMean m b
    let wd := if s.wdRuns m then x.wdTime + (b - x.wdMark) else 0
    let s := s.modMach m fun z =>
      { z with src := ({ z.src with upAt := b, aspY := y, pspX := p, pspNew := x.pspNew.filter fun p => decide (b ≤ p.1), wdTime := wd, wdMark := max b x.wdMark }).pspCheck b }
    let tol := f32v (s.rget regEngXchkTol m)
    let far := x.src == 3 && !x.fallback && decide (tol < absR (s.aspTarget m - s.pspTarget m))
    s.modMach m fun z =>
      { z with src := { z.src with xchk := if far then (if z.src.xchk = 0 then b else z.src.xchk) else 0 } }

/-- The fallback cause found at SP boundary `b`, on updated sources (R132); 0 none. -/
def State.fallbackCause (s : State) (m : Fin 2) (b : Time) : Nat :=
  let x := s.mach[m].src
  if x.fallback then 0
  else if s.wdRuns m && decide (s.srcCfg m 15 0 * ms1 ≤ x.wdTime) then 1
  else if x.usesAsp && !x.aspOk then 2
  else if x.usesPsp && !x.pspOk then 3
  else if x.xchk ≠ 0 ∧ x.xchk + s.srcCfg m 27 20 * ms1 ≤ b then 4
  else 0

/-! ### Decelerations (R63, R508) -/

/-- Rank of a cause, the highest first. -/
def decelRank (cause : Nat) : Nat :=
  match cause with
  | 3 => 4
  | 4 => 3
  | 1 => 2
  | 2 => 1
  | _ => 0

/-- A cause arises for a controlled deceleration (R508): it starts at the next SP boundary, takes one over, or changes nothing.
A cause other than REVERSE discards a pending reversal. -/
def State.startDecel (s : State) (m : Fin 2) (cause : Nat) (t : Time) : State :=
  let d := s.mach[m].decel
  if d.active then
    if decelRank d.cause < decelRank cause then
      let s := s.discardRev m t
      let s := s.modMach m fun x => { x with decel := { x.decel with cause := cause, since := t } }
      s.raise 0x0A 3 m 0 (0x20 + at_ cause 8) t
    else s
  else
    let s := if cause = 2 then s else s.discardRev m t
    s.modMach m fun x =>
      { x with decel := { x.decel with
          startDue := some (match x.decel.startDue with | some k => if decelRank k < decelRank cause then cause else k | none => cause)
          since := t } }

/-- Enter FALLBACK with a cause at SP boundary `b` (R132, R148, R151). HOLD takes the last valid target of the source that failed. -/
def State.enterFallback (s : State) (m : Fin 2) (cause : Nat) (b : Time) : State :=
  let act := s.srcCfg m 17 16
  let l := s.mach[m].loop
  let s := if cause = 4 then s.raiseF 3 m 2 0x54 b else s
  let s := s.modMach m fun x =>
    { x with src := { x.src with fallback := true, fbCause := cause, fbAction := act, fbTarget := x.src.valid, xchk := 0, wdTime := 0 } }
  let s := s.raise 0x0A 3 m 0 (0x53 + at_ cause 8) b
  let c := s.ctxAt m b
  let s := s.beginBlend m true (l.d - c.primary (s.speedNow m) l.r l.iSpd 0) b
  if act = 2 then s.startDecel m 1 b else s

/-- Update the sources and enter FALLBACK if a cause is found. -/
def State.judgeSources (s : State) (m : Fin 2) (b : Time) : State :=
  let s := s.srcUpdate m b
  match s.fallbackCause m b with
  | 0 => s
  | c => s.enterFallback m c b

/-- VDC of machine m exceeds ENG_VDC_HOLD at `b` (R64). -/
def State.vdcHolds (s : State) (m : Fin 2) (b : Time) : Bool := decide (f32v (s.rget regEngVdcHold m) < s.vdcOf m b)

/-- The ramp of a deceleration is held from SP boundary `b` on (R64). -/
def State.decelHold (s : State) (m : Fin 2) (b : Time) : State :=
  (s.modMach m fun x => { x with decel := { x.decel with held := true, heldAt := b, heldCnt := 0 } }).raise 0x0A 3 m 0 0x21 b

/-- The deceleration starts at SP boundary `b` (R63), held if the link is already above the level of R64. -/
def State.decelBegin (s : State) (m : Fin 2) (cause : Nat) (b : Time) : State :=
  let dPrev := s.mach[m].loop.d
  let s := s.modMach m fun x =>
    { x with decel := { x.decel with active := true, cause := cause, held := false, heldCnt := 0, ref := absR x.trk.f, startDue := none,
                                     zeroNext := false } }
  let s := s.handInternal m dPrev false b
  let s := s.raise 0x0A 3 m 0 (0x20 + at_ cause 8) b
  if s.vdcHolds m b then s.decelHold m b else s

/-- A direction change is enacted (R67). In STEP the stepping restarts with f_ol = 0, and STEP_TMAX counts on from the start of STEP (R87): DESIGN
CHOICE, unsafe (log 135). -/
def State.enactDir (s : State) (m : Fin 2) (rev : Bool) (b : Time) : State :=
  let step := s.mach[m].trk.state == .step
  (s.modMach m fun x =>
    { x with
      decel := { x.decel with dirRev := rev, revPend := false, revAt := none }
      start := if step then { x.start with olF := 0 } else x.start }).raise 0x0A 3 m 0 (0x25 + at_ (b2n rev) 8) b

/-- The deceleration ends at `b` by its cause (R65). By causes 1, 3 and 4, after which no loop of the machine runs on, no hand-over with its events is
made: DESIGN CHOICE, unsafe (log 154). -/
def State.decelEnd (s : State) (m : Fin 2) (b : Time) : State :=
  let d := s.mach[m].decel
  let s := s.modMach m fun x => { x with decel := x.decel.stop }
  let s := s.raise 0x0A 3 m 0 0x24 b
  match d.cause with
  | 1 => (s.offMach m b).idleMach m
  | 2 => (s.enactDir m (!d.dirRev) b).handInternal m 0 true b
  | 3 => s.machSafe m 0 0xA2 false b
  | _ => s.machSafe m 0 0x12 false b

/-- The ramp of a deceleration at an SP boundary after its start: hold, resume, reduce, end (R63 to R65, R79). While the rotor is lost the
reference stands (R88). -/
def State.decelStep (s : State) (m : Fin 2) (b : Time) : State :=
  let d := s.mach[m].decel
  let st := s.mach[m].trk.state
  if st != .capture && st != .locked && st != .low then s
  else
  let vdc := s.vdcOf m b
  let hold := f32v (s.rget regEngVdcHold m)
  let hyst := natR (s.rf regEngDecelCfg m 23 16)
  let s := if d.zeroNext then s.modMach m fun x => { x with decel := { x.decel with ref := 0, zeroNext := false } }
    else
      let s := if !d.held && s.vdcHolds m b then s.decelHold m b
        else if d.held && decide (vdc < hold - hyst) then
          (s.modMach m fun x => { x with decel := { x.decel with held := false } }).raise 0x0A 3 m 0 0x22 b
        else s
      if s.mach[m].decel.held then s
      else s.modMach m fun x =>
        { x with decel := { x.decel with ref := rnd (maxR 0 (x.decel.ref - f32v (s.rget regEngDecelRate m) * sec s.sp)) } }
  if s.mach[m].decel.ref = 0 ∧ absR (s.fTrk m) ≤ s.revSpeed m then s.decelEnd m b else s

/-! ### The loops -/

/-- Derating factor 1 − 0.7·clamp((T − S)/(F − S), 0, 1). -/
def derate (t s f : Rat) : Rat := 1 - mkRat 7 10 * (if f = s then (if t < s then 0 else 1) else clampR ((t - s) / (f - s)) 0 1)

/-- Hottest reported module temperature of the healthy sets, °C; none while no gate link of them has reported one, which derates nothing:
DESIGN CHOICE, unsafe (log 136). -/
def State.tMod (s : State) (m : Fin 2) : Option Rat :=
  let l := (s.healthySets m).flatMap fun w => s.sup.glk[w].temp.toList.filterMap (fun (x : Option Nat) => x)
  if l.isEmpty then none else some (mkRat ((l.foldl max 0 : Nat) : Int) 4 - 55)

/-- Loop results of one run. -/
structure McOut where
  dP   : Rat
  td   : Bool
  pTq  : Rat
  pSpd : Rat
  pVdc : Rat
  pThm : Rat
  pPwr : Rat
  pSel : Rat
  win  : Nat
  d    : Rat
  eS   : Rat
  uS   : Rat
  oS   : Rat
  eU   : Rat
  uU   : Rat
  oU   : Rat
  eL   : Rat
  uL   : Rat
  oL   : Rat
  against : Bool
  deriving DecidableEq, Repr

/-- Factor k_ov of the machine's link (R245). -/
def State.kOvOf (s : State) (m : Fin 2) : Rat := s.sup.kOv[s.vdcSel m]

/-- The five loops, selection and R140 (R135 to R137, R140). A p_x that is not eligible is −1 (R152). -/
def State.mcLoops (s : State) (m : Fin 2) (c : McCtx) (speed : Bool) (r ofs : Rat) : McOut :=
  let l := s.mach[m].loop
  let dP := c.primary speed r l.iSpd ofs
  let td := if dP < 0 then true else if 0 < dP then false else l.td
  let sg : Rat := if td then -1 else 1
  let mot := decide (0 ≤ sg * c.f)
  let eS := if speed then c.sig * minR r c.fLimS - c.f else c.fLimT - absR c.f
  let uS := c.kps * eS + l.iSpd + (if speed then c.ff + ofs else 0)
  let oS := if speed then clampR uS (-c.iMax) c.iMax - (c.ff + ofs) else clampR uS 0 c.iMax
  let tl := if s.hostAux m ≠ 0 then minR (s.mc m mTQLIM) (s.hostAux m) else s.mc m mTQLIM
  let pTq := if speed then tl / c.k else absR dP
  let pSpd := if speed then absR dP else if mot then oS else -1
  let eU := s.mc m mVDCUP - c.vdc
  let uU := s.mc m mKPV * eU + l.iVu
  let oU := clampR uU 0 c.iMax * s.kOvOf m
  let eL := c.vdc - s.mc m mVDCLO
  let uL := s.mc m mKPV * eL + l.iVl
  let oL := clampR uL 0 c.iMax
  let pVdc := if mot then oL else oU
  let kd := derate (mkRat s.thm.tDie 16) (natR (s.rf regThmLvl 1 7 0)) (natR (s.rf regThmLvl 2 7 0))
  let km := match s.tMod m with | some t => derate t (s.mc m mMDS) (s.mc m mMDF) | none => 1
  let pThm := c.iMax * minR kd km
  let pl := if mot then s.mc m mPMOT else s.mc m mPGEN
  let pPwr := if absR c.f < s.mc m mPWRF then c.iMax
    else minR c.iMax (pl * natR (s.poles m) / (c.k * 2 * piR * absR c.f))
  let order := [(2, pVdc), (3, pThm), (4, pPwr), (1, pSpd), (0, pTq)].filter fun (_, p) => decide (0 ≤ p)
  let (win, pSel) := order.foldl (fun (w, p) (v, q) => if q < p then (v, q) else (w, p)) (2, pVdc)
  let against := decide (c.sig * c.f < -(s.revSpeed m)) && decide (0 < sg * c.f)
  let d := if against then 0 else sg * pSel
  { dP := dP, td := td, pTq := pTq, pSpd := pSpd, pVdc := pVdc, pThm := pThm, pPwr := pPwr, pSel := pSel, win := win, d := rnd d,
    eS := eS, uS := uS, oS := oS, eU := eU, uU := uU, oU := oU, eL := eL, uL := uL, oL := oL, against := against }

/-- One integrator after the back-calculation of R138: value, and whether its clamp acts. -/
def integ (j sp ki e v u tt iMax : Rat) : Rat × Bool :=
  let x := j + sp * (ki * e + (v - u) / tt)
  let y := clampR x (-(2 * iMax)) (2 * iMax)
  (rnd y, decide (x ≠ y))

/-- Set the SATURATED bits and raise INTEGRATOR_SAT for those that become 1 (R138, R147). -/
def State.saturate (s : State) (m : Fin 2) (a u l : Bool) (b : Time) : State :=
  let old := s.mach[m].loop.sat
  let new : BitVec 3 := BitVec.ofNat 3 (b2n a + 2 * b2n u + 4 * b2n l)
  let s := s.modMach m fun x => { x with loop := { x.loop with sat := new } }
  (List.range 3).foldl (fun s k => if new.getLsbD k && !old.getLsbD k then s.raise 2 3 m 0 (0x57 + at_ k 8) b else s) s

/-- The entries that `tableAt` reads. -/
def tableReads (n : Nat) (x : Rat) : List Nat := [natOf x % n, (natOf x % n + 1) % n]

/-- The node words that machine cell m reads at SP boundary `b` (R372): its slots, KE of its first set (R142), the host nodes, and the table
entries of the feed-forward. -/
def State.mcReads (s : State) (m : Fin 2) (b : Time) : List Nat :=
  let k := s.bankOf m
  let th := wrap360 (s.mechAt m b)
  let x := s.mach[m].src
  (List.range 0x1C).map (machSlot m k) ++ [setSlot (firstSet m) k cKE, hostAuxNode m] ++
  (if x.src == 0 && !x.fallback then [hostSpNode m] else []) ++
  (if !s.mechValid m && s.nodeS (machSlot m k mNOIDX) != 1 then []
   else (tableReads 16384 (th * mkRat 16384 360)).map (cogNode m k) ++ (tableReads 4096 (th * mkRat 4096 360)).map (fricNode m k))

/-- A quantity that is no number arises in the machine cell: a division by a zero coefficient, an overflow, a poisoned word. -/
def State.mcBad (s : State) (m : Fin 2) (c : McCtx) (o : McOut) (b : Time) : Bool :=
  decide (c.k = 0) || decide (s.sc (firstSet m) cKE = 0) || decide (s.mc m mTTS = 0) || decide (s.mc m mTTV = 0) ||
  overF32 o.dP || overF32 o.uS || overF32 o.uU || overF32 o.uL || overF32 o.pTq || overF32 o.pPwr || overF32 c.ff ||
  (!s.ecc.poison.isEmpty && (s.mcReads m b).any s.poisoned)

/-! ### Following error (R241) -/

/-- Judged at SP boundary `b` on the demand of the preceding SP and the pair currents. -/
def State.feJudge (s : State) (m : Fin 2) (b : Time) : State :=
  let x := s.mach[m]
  let live := (x.trk.state == .locked || x.trk.state == .low) && x.sup.safe.isNone
  let dPrev := x.loop.d
  let sg : Rat := if dPrev < 0 then -1 else 1
  let hs := s.healthySets m
  let a := hs.foldl (fun acc w =>
    let y := s.sets[w]
    let i := ((s.pairI (s.decVal b) w (y.sector.getD 0) y.td).getD (0, 0)).1
    acc + i * (if y.td then -1 else 1) * sg) 0
  let e := absR dPrev - a
  let lim := natR (s.rf regSupFeCfg m 15 0) + mkRat (s.rf regSupFeCfg m 31 24) 100 * absR dPrev
  let free := decide (0 < e) && (x.sup.vlimSeen || decide (hs.length ≠ x.loop.nH))
  let ex := live && decide (lim < absR e) && !free
  let t := if !live then x.sup.feT else if ex then x.sup.feT + sec s.sp else maxR 0 (x.sup.feT - sec s.sp / 4)
  s.modMach m fun z =>
    { z with sup := { z.sup with feT := t, feNeg := if ex then decide (e < 0) else z.sup.feNeg, vlimSeen := false,
                                 feDue := z.sup.feDue || (ex && decide (mkRat (s.rf regSupFeCfg m 23 16) 100 ≤ t)) } }

/-! ### One run of a machine cell (R143) -/

/-- Hand-overs, deceleration and direction at the boundary, before the ramp. -/
def State.mcTransitions (s : State) (m : Fin 2) (b : Time) : State :=
  let s := s.judgeSources m b
  let d := s.mach[m].decel
  let s := match d.revAt with
    | some t =>
      if t ≤ b then
        let s := if d.active && d.cause == 2 then s.modMach m fun x => { x with decel := x.decel.stop } else s
        (s.enactDir m (!d.dirRev) b).handInternal m 0 true b
      else s
    | none => s
  let s := match s.mach[m].decel.startDue with
    | some k => s.decelBegin m k b
    | none => if s.mach[m].decel.active then s.decelStep m b else s
  match s.mach[m].loop.takeover with
  | some out =>
    let s := if s.mach[m].decel.active then
        s.modMach m fun x => { x with decel := { x.decel with ref := minR x.decel.ref (absR x.trk.f) } }
      else s
    s.handInternal m out false b
  | none => s

/-- The ramp of R133 towards a target. -/
def State.ramp (s : State) (m : Fin 2) (speed : Bool) (tgt : Rat) : Rat :=
  let r := s.mach[m].loop.r
  let step := (if !speed then s.mc m mTQRAMP else if absR r < absR tgt then s.mc m mSPDACC else s.mc m mSPDDEC) * sec s.sp
  rnd (r + clampR (tgt - r) (-step) step)

/-- Count of SPs for which the present winner has held (R139). -/
def LoopSt.winner' (l : LoopSt) (w : Nat) : LoopSt :=
  { l with winner := w, winRun := if l.winRun ≠ 0 ∧ l.winner = w then l.winRun + 1 else 1 }

/-- MACHINE_CELL_RUN at SP boundary `b` (R143) for a started machine of an owning device. MC_NUMERIC is raised as it arises: anew once a FAULT_CLEAR has
taken the machine's fault away (R237). -/
def State.mcRun (s : State) (m : Fin 2) (b : Time) : State :=
  let s := s.feJudge m b
  let nh := (s.healthySets m).length
  let s := if nh ≠ s.mach[m].loop.nH then
      (s.modMach m fun x => { x with loop := { x.loop with nH := nh } }).raise 0x0A 3 m 0 (0x58 + at_ nh 8) b
    else s
  let s := s.mcTransitions m b
  let c := s.mcCtx m nh b
  let speed := s.speedNow m
  let tgt := s.targetNow m
  let valid := if s.targetValid m then s.sourceTarget m s.mach[m].src.src else s.mach[m].src.valid
  let r := if s.mach[m].decel.active then s.mach[m].decel.ref else s.ramp m speed tgt
  let ofs := (s.mach[m].loop.blendAt b).getD 0
  let s := if s.mach[m].loop.blend.isSome && (s.mach[m].loop.blendAt b).isNone then (s.modMach m fun x => { x with loop := { x.loop with blend := none } }).raise 0x0A 3 m 0 0x52 b else s
  let o := s.mcLoops m c speed r ofs
  let bad := s.mcBad m c o b
  let fresh := bad && !(s.mach[m].loop.bad && s.mach[m].sup.fault)
  let st := s.mach[m].trk.state
  let safe := s.mach[m].sup.safe.isSome
  let d := if nh = 0 || safe || bad || st == .probe then 0
    else if st == .step then s.sigma m * natR nh * f32v (s.rget regComStepI m) else o.d
  let sp := sec s.sp
  let l := s.mach[m].loop
  let (js, cs) := integ l.iSpd sp (s.mc m mKIS) o.eS (if speed then d else o.pSel) o.uS (s.mc m mTTS) c.iMax
  let (ju, cu) := integ l.iVu sp (s.mc m mKIV) o.eU o.pSel o.uU (s.mc m mTTV) c.iMax
  let (jl, cl) := integ l.iVl sp (s.mc m mKIV) o.eL o.pSel o.uL (s.mc m mTTV) c.iMax
  let share := if nh = 0 then 0 else rnd (absR d / natR nh)
  let td := if d < 0 then true else if 0 < d then false else l.td
  let s := if o.against && !l.against && nh ≠ 0 then s.raise 2 3 m 0 0x59 b else s
  let s := s.modMach m fun x =>
    { x with src := { x.src with valid := valid }, loop :=
      { (x.loop.winner' o.win) with
        target := rnd tgt, r := r, fLim := rnd (if speed then c.fLimS else c.fLimT), pTq := rnd o.pTq, pSpd := rnd o.pSpd,
        pVdc := rnd o.pVdc, pThm := rnd o.pThm, pPwr := rnd o.pPwr, d := d, ff := rnd c.ff, iSpd := js, iVu := ju, iVl := jl,
        uSpd := rnd o.oS, uVu := rnd o.oU, uVl := rnd o.oL, blendOfs := ofs, iRef := share, td := td,
        against := o.against && decide (nh ≠ 0), mechOk := s.mechValid m, mechAng := rnd (s.mechAt m b),
        out := some (b + s.mOut * s.fp, share, td), bad := bad } }
  let s := s.saturate m cs cu cl b
  if fresh then s.faultMach m 3 m 3 0x81 b else s

/-- A thermal sequence runs or its hold is in force (R267). -/
def State.thmHeld (s : State) : Bool := s.thm.shutRun || s.thm.shutHeld

/-! ### Bank swap (R146, R147) -/

/-- Set-cell and machine-cell coefficients of bank `k` of machine m allow a start (R99; R145). -/
def State.setCoefOk (s : State) (m : Fin 2) (k : Nat) : Bool :=
  (s.setsOf m).all fun w =>
    let g := fun o => f32v (s.nodeW (setSlot w k o))
    decide (0 < g cLNOM) && decide (0 < g cRNOM) && decide (0 < g cKE) && decide (g cHMIN ≤ g cHINIT) && decide (g cHINIT ≤ g cHMAX)

def State.machCoefOk (s : State) (m : Fin 2) (k : Nat) : Bool :=
  let g := fun o => f32v (s.nodeW (machSlot m k o))
  decide (0 < g mKT) && decide (0 < g mISET) && decide (g mSPDLIM ≤ s.feMax m) && decide (g mVDCLO < g mVDCUP) &&
  decide (0 < g mPMOT) && decide (0 < g mPGEN) && decide (g mMDS < g mMDF)

/-- A NODE_BLOCK_LOAD into the inactive bank of machine m runs or is suspended (R368). -/
def State.loading (s : State) (m : Fin 2) : Bool :=
  s.host.lops.toList.any fun l => l.state != 0 && l.opc == 0x0A &&
    touchesBank m (1 - s.bankOf m) (bits l.arg0 16 0) (4 * bits l.arg0 31 17)

/-- BANK_SWAP (R146). -/
def execBankSwap (q : CmdQ) (s : State) : Host.Outcome State Fault Refusal :=
  let mask := bits q.arg0 1 0
  s.runCmd q 0x0C (bits q.arg0 31 2 == 0 && q.arg1 == 0 && mask != 0 && !s.badMask mask) fun s c =>
    if s.notOwner then s.finish c stRefusedState 0
    else if (s.maskMach mask).any fun m => s.mach[m].loop.swap || s.loading m then s.finish c stRefusedState 0
    else if s.thmHeld then s.finish c stRefusedTemp 0
    else
      let s := (s.maskMach mask).foldl (fun s m => s.modMach m fun x => { x with loop := { x.loop with swap := true } }) s
      s.awaitAt c (s.spAfter s.time) mask

/-- Clamp the estimates of a set to the bounds of the active bank, as it stands at `b` (R100). -/
def State.clampSet (s : State) (w : Fin 8) (b : Time) : State :=
  let p : State := { s with lastFp := max s.lastFp b }
  s.modSet w fun x =>
    { x with
      cell := { x.cell with
        lEst := rnd (clampR x.cell.lEst (p.lLow w) (p.lHigh w))
        rEst := rnd (clampR x.cell.rEst (p.rLow w) (p.rHigh w))
        h := clampR x.cell.h (p.sc w cHMIN) (p.sc w cHMAX) } }

/-- A machine swaps at SP boundary `b`: bank, estimates, integrators (R146, R147). -/
def State.swapMach (s : State) (m : Fin 2) (b : Time) : State :=
  let s := s.modMach m fun x => { x with loop := { x.loop with bank := !x.loop.bank, swap := false } }
  let s := (s.setsOf m).foldl (fun s w => s.clampSet w b) s
  let s := if s.started && s.pcr.state == 0 then
      let p := s.preview b
      let c := s.ctxAt m b
      let l := s.mach[m].loop
      let speed := s.speedNow m
      let eS := if speed then c.sig * minR l.r c.fLimS - c.f else c.fLimT - absR c.f
      let re := fun (u k e : Rat) =>
        let x := u - k * e
        let y := clampR x (-(2 * c.iMax)) (2 * c.iMax)
        (rnd y, decide (x ≠ y))
      let (js, cs) := re l.uSpd c.kps eS
      let (ju, cu) := re l.uVu (p.mc m mKPV) (p.mc m mVDCUP - c.vdc)
      let (jl, cl) := re l.uVl (p.mc m mKPV) (c.vdc - p.mc m mVDCLO)
      let s := s.modMach m fun x => { x with loop := { x.loop with iSpd := js, iVu := ju, iVl := jl } }
      s.saturate m (cs || l.sat.getLsbD 0) (cu || l.sat.getLsbD 1) (cl || l.sat.getLsbD 2) b
    else s
  s.raise 0x0A 3 m 0 (0x56 + at_ (s.bankOf m) 8) b

/-- A waiting BANK_SWAP acts at `b` (R146, R147): all named machines swap, or none. -/
def State.swapFor (s : State) (c : Waiting) (b : Time) : State :=
  let l := s.maskMach c.aux
  if l.all fun m => s.setCoefOk m (1 - s.bankOf m) && s.machCoefOk m (1 - s.bankOf m) then
    let s := l.foldl (fun s m => s.swapMach m b) s
    s.finishW c stOk (s.bankOf 0 + 2 * s.bankOf 1)
  else
    let s := l.foldl (fun s m => s.modMach m fun x => { x with loop := { x.loop with swap := false } }) s
    s.finishW c stRefusedState 0

/-- The swaps due at `b`: at most one for each machine waits (R146). -/
def State.swapsDue (s : State) (b : Time) : State :=
  (List.range 2).foldl (fun s _ => match s.oldest 0x0C with | some c => if c.due ≤ b then s.swapFor c b else s | none => s) s

/-- BANK_SWAPPED (R146, R147). -/
def execBankSwapped (s : State) : Host.Outcome State Fault Refusal :=
  match s.oldest 0x0C with
  | some c =>
    let b := max s.time c.due
    .next ((s.adv b).swapFor c b)
  | none => .next s

/-! ### SETPOINT, MODE_SELECT -/

/-- SETPOINT (R127). -/
def execSetpoint (q : CmdQ) (s : State) : Host.Outcome State Fault Refusal :=
  let m : Fin 2 := if q.arg0.getLsbD 0 then 1 else 0
  let keep := q.arg0.getLsbD 1
  let sp := q.arg1.extractLsb' 0 32
  let aux := q.arg1.extractLsb' 32 32
  let ok := bits q.arg0 31 2 == 0 && s.machEn m &&
    (keep || ((f32 sp).isSome && (match f32 aux with | some v => decide (0 ≤ v) | none => false)))
  s.runCmd q 0x10 ok fun s c =>
    if s.notOwner then s.finish c stRefusedState 0
    else
      let s := if keep then s else s.setHost m sp aux
      let s := s.wdFeed m
      let x := s.mach[m].src
      s.finish c stOk (b2n (x.fallback || x.src != 0) + at_ (b2n x.fallback) 1)

/-- MODE_SELECT (R150): it waits, uncommitted, for its judging boundary. -/
def execModeSelect (q : CmdQ) (s : State) : Host.Outcome State Fault Refusal :=
  let m : Fin 2 := if q.arg0.getLsbD 0 then 1 else 0
  s.runCmd q 0x11 (bits q.arg0 31 5 == 0 && !q.arg0.getLsbD 4 && q.arg1 == 0 && s.machEn m) fun s c =>
    if s.notOwner then s.finish c stRefusedState 0
    else if s.thmHeld then s.finish c stRefusedTemp 0
    else s.awaitJudge c (s.spAfter s.time) m

/-- The target of the source selected, as it stands at SP boundary `b`, is its last valid one (R132). -/
def State.takeValid (s : State) (m : Fin 2) (b : Time) : State :=
  let v := (s.preview b).sourceTarget m s.mach[m].src.src
  s.modMach m fun x => { x with src := { x.src with valid := v } }

/-- Choose mode and source at SP boundary `b`; FALLBACK is left; the inputs selected start from their present values (R129). A host watchdog that
did not run starts at 0: DESIGN CHOICE, unsafe (log 150). -/
def State.setMode (s : State) (m : Fin 2) (speed : Bool) (src : Nat) (b : Time) : State :=
  ((s.aspLand m b).modMach m fun x =>
    { x with src := { x.src with speed := speed, src := src, fallback := false, fbCause := 0, xchk := 0, wdTime := 0, wdMark := s.time,
                                 aspY := if src = 1 ∨ src = 3 then x.src.aspV else x.src.aspY } }).takeValid m b

/-- The judgement of a MODE_SELECT (Table 5.4): status, reason, |D0|, and the state. -/
def State.judgeMode (s : State) (m : Fin 2) (speed : Bool) (src : Nat) (b : Time) : State × BitVec 8 × Nat :=
  let s := (s.aspLand m b).modMach m fun x => { x with src := x.src.pspCheck b }
  let x := s.mach[m].src
  if !s.started || s.pcr.state == 1 then (s.setMode m speed src b, stOk, 0)
  else if x.speed == speed && x.src == src && !x.fallback then (s, stOk, 0)
  else if s.mach[m].decel.active || s.mach[m].decel.startDue.isSome then (s, stRefusedState, 1)
  else if (s.mach[m].loop.blendAt b).isSome then (s, stRefusedState, 2)
  else if ((src == 1 || src == 3) && !x.aspOk) || ((src == 2 || src == 3) && !x.pspOk) ||
      (src == 3 && decide (f32v (s.rget regEngXchkTol m) = 0)) then (s, stRefusedState, 3)
  else
    let dPrev := s.mach[m].loop.d
    let t := s.setMode m speed src b
    let c := t.ctxAt m b
    let (r, j) := if speed then (if x.speed then (t.mach[m].loop.r, t.mach[m].loop.iSpd) else c.intoSpeed dPrev)
      else ((t.preview b).targetNow m, t.mach[m].loop.iSpd)
    let d0 := dPrev - c.primary speed r j 0
    if (s.preview b).mc m mMAXSTEP < absR d0 then (s, stRefusedState, 4 + at_ (toF32 (absR d0)).toNat 16)
    else
      let t := t.modMach m fun y => { y with loop := { y.loop with r := r, iSpd := j } }
      (t.beginBlend m false d0 b, stOk, 0)

/-- What machine cell m does at SP boundary `b` before a hand-over is judged: a bank swap due, and a fallback found (R143). -/
def State.beforeHand (s : State) (m : Fin 2) (b : Time) : State :=
  let s := (s.adv b).swapsDue b
  if s.started && s.pcr.state == 0 then s.judgeSources m b else s

/-- MODE_SELECT_JUDGED (R150), after a bank swap and a fallback of the same boundary (R143). -/
def execModeSelectJudged (s : State) : Host.Outcome State Fault Refusal :=
  match s.oldest 0x11 with
  | some c =>
    let m : Fin 2 := if c.arg0.getLsbD 0 then 1 else 0
    let b := max s.time c.due
    let (s, st, res) := (s.beforeHand m b).judgeMode m (c.arg0.getLsbD 1) (bits c.arg0 3 2) b
    .next (s.finishW c st res)
  | none => .next s

/-! ### Sources: happenings -/

/-- PSP_MEASUREMENT (R130): one input period, in `Time` units, and its high part. -/
def execPspMeasurement (m : Fin 2) (period high : Nat) (t : Time) (s : State) : Host.Outcome State Fault Refusal :=
  let s := s.adv t
  if period = 0 then .next s
  else
    let duty := s.rb regEngSrcCfg m 18
    let x := if duty then mkRat (100 * high) period else 1 / sec period
    let inn := if duty then decide (5 ≤ x) && decide (x ≤ 95) else decide (1000 ≤ x) && decide (x ≤ 20000)
    .next (s.modMach m fun z =>
      let y := z.src.pspCheck s.time
      let bad := if inn then 0 else min 3 (y.pspBad + 1)
      let good := if inn then min 100 (y.pspGood + 1) else 0
      let ok := if y.pspOk then decide (bad < 3) else decide (100 ≤ good)
      { z with src := { y with pspNew := (y.pspNew.filter fun p => decide (s.time ≤ p.1 + s.sp)) ++ [(s.time, rnd x)], pspLast := rnd x, pspBad := bad, pspGood := good, pspOk := ok, pspEdge := s.time,
                               pspDue := y.pspDue || (y.pspOk && !ok && y.usesPsp) } })

/-- SETPOINT_INPUT (R129, R130, R153), class F1: an input in use has become invalid, by count or, for PSP, by 2 ms without an
edge; FALLBACK follows at the SP boundary (R132). -/
def execSetpointInput (m : Fin 2) (psp : Bool) (s : State) : Host.Outcome State Fault Refusal :=
  let x := s.mach[m].src
  let done := match x.aspNew with | some (t, _) => (s.adv t).aspLand m (max s.time t + 1) | none => s
  if !psp && done.mach[m].src.aspDue then
    .next ((done.modMach m fun z => { z with src := { z.src with aspDue := false } }).raiseF 3 m 2 0x55 done.time)
  else if psp && (x.pspDue || (x.pspOk && x.usesPsp && s.machEn m)) then
    let t := if x.pspDue then s.time else max s.time (x.pspEdge + 2 * ms1)
    let s := (s.adv t).modMach m fun z => { z with src := { z.src with pspDue := false, pspOk := false, pspGood := 0 } }
    .next (s.raiseF 3 m 2 0x155 t)
  else .next s

/-- A fallback cause judged at the coming SP boundary, after a bank swap due there (R143): FALLBACK is entered if the cause found is `c`. -/
def State.fallbackAt (s : State) (m : Fin 2) (c : Nat) : State :=
  let b := s.nextSp
  if s.machEn m && s.started && s.pcr.state == 0 && s.owner then
    let u := ((s.adv b).swapsDue b).srcUpdate m b
    if u.fallbackCause m b = c then u.enterFallback m c b else s
  else s

/-- SETPOINT_MISMATCH (R131), class F1, and FALLBACK with cause 4. -/
def execSetpointMismatch (m : Fin 2) (s : State) : Host.Outcome State Fault Refusal := .next (s.fallbackAt m 4)

/-- HOST_WATCHDOG_EXPIRY (R128), judged at an SP boundary: FALLBACK with cause 1. -/
def execHostWatchdogExpiry (m : Fin 2) (s : State) : Host.Outcome State Fault Refusal := .next (s.fallbackAt m 1)

/-- WINNER_CHANGED (R139): a new winner has held for WIN_CONFIRM SPs and differs from the one last reported. -/
def execWinnerChanged (m : Fin 2) (s : State) : Host.Outcome State Fault Refusal :=
  let l := s.mach[m].loop
  if l.winRun ≠ 0 ∧ s.srcCfg m 31 28 ≤ l.winRun ∧ l.winRep ≠ some l.winner then
    let s := s.modMach m fun x => { x with loop := { x.loop with winRep := some l.winner } }
    .next (s.raise 2 3 m 0 (0x50 + at_ l.winner 8 + at_ (l.winRep.getD 7) 11) s.lastSp)
  else .next s

/-- DECEL_HOLD_LONG (R64): each HOLD_MAX of a hold. -/
def execDecelHoldLong (m : Fin 2) (s : State) : Host.Outcome State Fault Refusal :=
  let d := s.mach[m].decel
  let hm := 100 * ms1 * s.rf regEngDecelCfg m 15 8
  if d.active && d.held && decide (d.heldAt + (d.heldCnt + 1) * hm ≤ s.lastSp) then
    .next ((s.modMach m fun x => { x with decel := { x.decel with heldCnt := x.decel.heldCnt + 1 } }).raise 2 3 m 0 0x23 s.lastSp)
  else .next s

/-- MC_OVERRUN (R28): the cell's outputs are not ready 40 ns before B_k+M; its sets keep the previous outputs; F0 with the
count, the third consecutive F2. -/
def execMcOverrun (m : Fin 2) (s : State) : Host.Outcome State Fault Refusal :=
  match s.mach[m].loop.out with
  | some _ =>
    let n := min 3 (s.mach[m].loop.mcRun + 1)
    let s := s.modMach m fun x => { x with loop := { x.loop with out := none, mcRun := n } }
    .next (if n < 3 then s.raiseF 3 m 1 (0x80 + at_ n 8) s.lastSp else s.faultMach m 3 m 3 (0x80 + at_ n 8) s.lastSp)
  | none => .next s

end Sys2Proof.Machine
end

