-- ==== Sys2Proof/Machine/Start.lean ====
section
/-! DEFINITION. Start.lean: starting, stopping and reversing the drive: DRIVE_START and its conditions (Table 12.8), DRIVE_STOP
(R326), REVERSE (R66), and their boundaries. -/
namespace Sys2Proof.Machine

/-! ### Conditions of DRIVE_START -/

/-- A binary32 register holds a positive finite value. -/
def State.posReg (s : State) (d : RegDesc) (i : Nat) : Bool :=
  match f32 (s.rget d i) with
  | some v => decide (0 < v)
  | none => false

/-- R42 and R55 for machine m. -/
def State.r42 (s : State) (m : Fin 2) : Bool :=
  let fe := s.feMax m
  s.posReg regComFeMax m && decide (fe ≤ 2500) && decide (fe * 48 * sec s.fp ≤ 1) &&
  (match s.feCeil m with | some c => decide (fe ≤ c) | none => true) &&
  s.posReg regEngDecelRate m && s.posReg regEngVdcHold m && (s.setsOf m).all fun w => s.posReg regComVphGain w

/-- R92 for machine m. -/
def State.r92 (s : State) (m : Fin 2) : Bool :=
  let p := natR (s.poles m)
  let lines := s.rf regComEncLines m 15 0
  decide (0 < s.slFmin m) && decide (s.slFmin m ≤ s.revSpeed m) &&
  decide (f32v (s.rget regComStepI m) ≤ s.iCeil) && decide (f32v (s.rget regComProbeImax m) ≤ s.iCeil) &&
  (match s.ascCeil with | some r => decide (s.fAsc m ≤ r * p / 60) | none => true) &&
  decide (s.rf regComAscCfg m 15 8 < s.rf regComAscCfg m 7 0) &&
  decide (2 * s.rf regComProbeCfg m 7 0 + 20 ≤ 10 * s.rf regComProbeCfg m 15 8) &&
  (!s.encEn m || (decide (1 ≤ lines) && decide (lines ≤ 16384) && decide (4 * natR lines * s.feMax m ≤ 4000000 * p)))

/-- R190 for the sets of machine m. -/
def State.r190 (s : State) (m : Fin 2) : Bool :=
  (s.setsOf m).all (fun w =>
    let l := s.inputsOf w
    let ph := fun (n : Fin 16) => s.rf regAcqIsMap n 1 0
    decide (2 ≤ (l.map ph).dedup.length) && decide ((l.map ph).Nodup) &&
    l.all fun n => (match f32 (s.rget regAcqIsScale n) with | some v => decide (v ≠ 0) | none => false) && !s.inputLost n) &&
  s.posReg regAcqScale (s.vdcSel m)

/-- Both sides of window n are active. -/
def State.bothSides (s : State) (n : Nat) : Bool := s.rf regCmpWinCfg n 19 10 != 1023 && s.rf regCmpWinCfg n 9 0 != 0

/-- R230. -/
def State.r230 (s : State) : Bool :=
  (List.finRange 8).all (fun w => !s.setConf w ||
    ((s.inputsOf w).all fun n => s.rb regCmpWinCfg n 31 && s.bothSides n && s.rb regCmpRoute n w)) &&
  (List.finRange 20).all (fun n => !s.winLevel n ||
    ((List.finRange 8).all (fun g => !(s.setConf g && s.rb regCmpRoute n g)) &&
     (List.finRange 2).all fun c => !(s.rb regPgnPgkCfg c 0 && s.rb regCmpRoute n (8 + c.val)))) &&
  (List.finRange 8).all fun g => !(s.setConf g && s.flt.getLsbD g)

/-- SUP_VDC_LVL of a link. -/
def State.vdcLvl (s : State) (x : Fin 2) (k : Nat) : Rat :=
  f32v (s.rget (if x = 0 then regSupVdcLvl0 else regSupVdcLvl1) k)

/-- VDC_OV3: the upper threshold of CW(16 + x) in volts (R243, Table 8.1). -/
def State.vdcOv3 (s : State) (x : Fin 2) : Rat :=
  intR ((s.rf regCmpWinCfg (16 + x.val) 19 10 : Int) - 512) * 16 * f32v (s.rget regAcqScale x)

/-- R243 for link x, which configured machines `l` select. -/
def State.r243 (s : State) (x : Fin 2) : Bool :=
  let l := s.confMach.filter fun m => s.vdcSel m == x
  let lv := s.vdcLvl x
  let n := 16 + x.val
  l.isEmpty ||
  (decide (lv 0 < lv 1) && decide (lv 1 < lv 2) && decide (lv 2 < lv 3) && decide (lv 3 < lv 4) && decide (lv 4 < s.vdcOv3 x) &&
   s.rb regCmpWinCfg n 31 && s.rf regCmpWinCfg n 19 10 != 1023 &&
   l.all (fun m => (s.setsOf m).all fun w => s.rb regCmpRoute n w) &&
   l.all fun m => decide (lv 2 ≤ s.mc m mVDCUP) && decide (s.mc m mVDCUP ≤ lv 4))

/-- A machine is held in its safe state by an unreleased hold: a fault or a command that no FAULT_CLEAR has cleared. -/
def State.heldMach (s : State) (m : Fin 2) : Bool :=
  let x := s.mach[m].sup
  x.fault || x.holdCmd || x.holdEstop || x.holdSvc || s.sup.f5 || s.sup.f4 || s.pcr.stopHeld || s.pcr.stopping

/-- A LINK_TEST runs or is suspended on the gate link of a set of the machine (R458). -/
def State.gateTested (s : State) (m : Fin 2) : Bool :=
  s.host.lops.toList.any fun l => l.state != 0 && l.opc == 0x41 &&
    (s.setsOf m).any fun w => bits l.arg0 4 0 == 2 + w.val

/-- First failing condition 2 to 12 of Table 12.8, or 13 of R458; 0 none. -/
def State.startReason (s : State) (named : List (Fin 2)) : Nat :=
  if s.pwr != 0 then 2
  else if named.any fun m => !s.machEn m || s.mach[m].trk.state != .idle || s.heldMach m then 3
  else if !s.pacValid then 4
  else if !s.machEn 0 || !s.confMach.all s.r42 then 5
  else if !s.confMach.all s.r92 then 6
  else if !s.confMach.all fun m => s.setCoefOk m (s.bankOf m) then 7
  else if !s.confMach.all fun m => s.machCoefOk m (s.bankOf m) then 8
  else if !s.acq.calValid || !s.confMach.all s.r190 then 9
  else if !s.r230 then 10
  else if !(s.r243 0 && s.r243 1) then 11
  else if s.groups.toList.any fun g => g.direct then 12
  else if named.any s.gateTested then 13
  else 0

/-- The machines a DRIVE_START or DRIVE_STOP mask names: 0 names every configured machine. -/
def State.namedMach (s : State) (mask : Nat) : List (Fin 2) :=
  if mask = 0 then s.confMach else (List.finRange 2).filter fun m => (mask >>> m.val) % 2 == 1

/-- DRIVE_START (R324, R42, R92, R99, R145, R190, R230, R243, R267, Table 15.4). -/
def execDriveStart (q : CmdQ) (s : State) : Host.Outcome State Fault Refusal :=
  s.runCmd q 0x12 (bits q.arg0 31 2 == 0 && q.arg1 == 0) fun s c =>
    let named := s.namedMach (bits q.arg0 1 0)
    if s.otp.lc == 4 then s.finish c stLifecycle 0
    else if s.notOwner then s.finish c stRefusedState 1
    else if s.thmHeld then s.finish c stRefusedTemp 0
    else if s.pcr.warn != 0 then s.finish c stRefusedSupply 0
    else
      match s.startReason named with
      | 0 => s.awaitAt c (s.spAfter s.time) (maskOf named)
      | k => s.finish c stRefusedState k

/-- A set starts: estimates from the active bank as it stands at the boundary `b` (R29, R100), counts afresh, TD as DIR: DESIGN CHOICE,
unsafe (log 119). -/
def State.startSet (s : State) (w : Fin 8) (b : Time) : State :=
  let p : State := { s with lastFp := max s.lastFp b }
  let l := rnd (p.sc w cLNOM)
  let r := rnd (p.sc w cRNOM)
  let h := rnd (p.sc w cHINIT)
  s.modSet w fun x =>
    { x with
      td := s.mach[machOf w].decel.dirRev, tdReq := s.mach[machOf w].decel.dirRev, rotUsed := false,
      plCnt := 0, plDue := false, plSince := b, limits := [],
      adapt := AdaptSt.reset
      safe := if x.fault then x.safe else none
      cell := { CellSt.reset with lEst := l, rEst := r, h := h } }

/-- A machine leaves IDLE at `b` (R80, R257, R325): its live state is initialised, its safe state is released, the standing hall code is judged.
Recoveries of the last 10 s go on counting (R91). A machine held in ASC begins in ASC_OBSERVE, its short circuit uninterrupted. -/
def State.startMach (s : State) (m : Fin 2) (b : Time) : State :=
  let asc := s.mach[m].sup.safe == some .asc
  let f := s.mach[m].sup.obsF
  let s := (s.aspLand m b).modMach m fun x =>
    { x with
      loop := { LoopSt.reset with bank := x.loop.bank, swap := x.loop.swap, td := x.decel.dirRev }
      src := { x.src with wdTime := 0, wdMark := b, aspY := x.src.aspV, xchk := 0 }
      sens := { x.sens with hallFail := false, hallDue := false, hallRej := 0, hallRejX := false, encIdx := false, encFail := false,
                            encDue := false, encRej := 0, encRejX := false }
      trk := { x.trk with lost_ := false, stopping := false }
      start := { StartSt.reset with olTheta := 0 }
      sup := { x.sup with safe := none, safeAuto := false, fixAsc := false, fault := false, feDue := false,
                          obsFail := 0, ascRel := false } }
  let s := (s.setsOf m).foldl (fun s w => s.startSet w b) s
  let s := (s.takeValid m b).hallJudge m
  if asc then
    let s := (s.ascObserve m f b).modMach m fun x => { x with start := { x.start with ascAt := none } }
    (s.setsOf m).foldl (fun s w => s.modSet w fun x => { x with obs := ObsSt.reset }) s
  else
    let s := forFin 8 s fun s w => if machOf w = m then (s.modGroup w fun x => { x with asc := false }) else s
    if s.rb regComStartCfg m 31 then s.startAtRest m b else s.beginListen m b

/-- DRIVE_START_ACTS (R325). Where it starts the drive, the host watchdog of every machine starts afresh (R128); where the drive is started already,
that of the machines it starts (startMach): DESIGN CHOICE, unsafe (log 152). -/
def execDriveStartActs (s : State) : Host.Outcome State Fault Refusal :=
  match s.oldest 0x12 with
  | some c =>
    let b := max s.time c.due
    let s := if s.started then s.adv b else forFin 2 (s.adv b) fun s m => s.wdFeed m
    let s := { s with started := true }
    let s := (List.finRange 2).foldl (fun s m => if (c.aux >>> m.val) % 2 = 1 then s.startMach m b else s) s
    .next (s.finishW c stOk c.aux)
  | none => .next s

/-! ### DRIVE_STOP -/

/-- DRIVE_STOP (R326): it acts at the first FP boundary at least 40 ns after execution. -/
def execDriveStop (q : CmdQ) (s : State) : Host.Outcome State Fault Refusal :=
  s.runCmd q 0x13 (bits q.arg0 31 3 == 0 && q.arg1 == 0) fun s c =>
    if s.notOwner then s.finish c stRefusedState 0
    else s.awaitAt c (s.fpAfter s.time) (maskOf (s.namedMach (bits q.arg0 1 0)))

/-- One machine of a DRIVE_STOP. -/
def State.stopMach (s : State) (m : Fin 2) (decel : Bool) (t : Time) : State :=
  let st := s.mach[m].trk.state
  if s.mach[m].sup.safe.isSome then (s.discardRev m t).idleMach m
  else if st == .idle then s.discardRev m t
  else if decel && (st == .capture || st == .locked || st == .low) then s.startDecel m 1 t
  else
    let s := s.discardRev m t
    let s := s.modMach m fun x => { x with decel := x.decel.stop, trk := { x.trk with lost_ := false } }
    let s := (s.setsOf m).foldl (fun s w => s.decaySet w t) s
    let s := forFin 8 s fun s w => if machOf w = m then s.modGroup w fun x => { x with asc := false } else s
    if (s.setsOf m).any fun w => s.sets[w].ending then
      s.modMach m fun x => { x with trk := { x.trk with stopping := true }, loop := { x.loop with takeover := none },
                                        start := { x.start with ascAt := none, settleEnd := none, est := none, failDue := none } }
    else (s.offMach m t).idleMach m

/-- Machines that decelerate or are about to. -/
def State.decelMask (s : State) : Nat :=
  maskOf ((List.finRange 2).filter fun m => s.mach[m].decel.active || s.mach[m].decel.startDue.isSome)

/-- DRIVE_STOP_ACTS (R326, R68, R508). -/
def execDriveStopActs (s : State) : Host.Outcome State Fault Refusal :=
  match s.oldest 0x13 with
  | some c =>
    let t := max s.time c.due
    let s := (List.finRange 2).foldl
      (fun s m => if (c.aux >>> m.val) % 2 = 1 then s.stopMach m (c.arg0.getLsbD 2) t else s) (s.adv t)
    .next (s.finishW c stOk s.decelMask)
  | none => .next s

/-! ### REVERSE -/

/-- REVERSE (R66): it waits, uncommitted, for its judging boundary. -/
def execReverse (q : CmdQ) (s : State) : Host.Outcome State Fault Refusal :=
  let m : Fin 2 := if q.arg0.getLsbD 0 then 1 else 0
  s.runCmd q 0x14 (bits q.arg0 31 3 == 0 && q.arg1 == 0 && s.machEn m) fun s c =>
    if s.notOwner then s.finish c stRefusedState 0
    else if s.thmHeld then s.finish c stRefusedTemp 0
    else s.awaitJudge c (s.spAfter s.time) m

/-- Outcome of a REVERSE at its judging boundary `b`, on the tracker speed at that boundary (Table 2.7): the state, the status and RESULT. -/
def State.judgeRev (s : State) (m : Fin 2) (tgt first : Bool) (b : Time) : State × BitVec 8 × Nat :=
  let d := s.mach[m].decel
  let other := (d.active && d.cause != 2) || (match d.startDue with | some k => k != 2 | none => false)
  if !s.started || s.pcr.state == 1 then
    if tgt == d.dirRev then (s, stOk, 0)
    else (s.enactDir m tgt b, stOk, 0)
  else if tgt == d.dirRev && !d.revPend then (s, stOk, 0)
  else if tgt == d.dirRev then
    let was := d.active && d.cause == 2
    let s := s.discardRev m b
    let s := s.modMach m fun x =>
      { x with decel := if was then x.decel.stop else { x.decel with startDue := if x.decel.startDue = some 2 then none else x.decel.startDue } }
    (if was then s.handInternal m s.mach[m].loop.d false b else s, stOk, 2)
  else if d.revPend then (s, stOk, 1)
  else if other then (s, stRefusedState, 0)
  else if absR ((s.preview b).fTrk m) ≤ s.revSpeed m then
    (s.modMach m fun x => { x with decel := { x.decel with revPend := true, revAt := some (b + s.sp) } }, stOk, 0)
  else if !first then (s, stRefusedSpeed, 0)
  else
    let s := s.startDecel m 2 b
    (s.modMach m fun x => { x with decel := { x.decel with revPend := true } }, stOk, 1)

/-- REVERSE_JUDGED (R66, R67), after a bank swap and a fallback of the same boundary (R143). -/
def execReverseJudged (s : State) : Host.Outcome State Fault Refusal :=
  match s.oldest 0x14 with
  | some c =>
    let m : Fin 2 := if c.arg0.getLsbD 0 then 1 else 0
    let b := max s.time c.due
    let (s, st, r) := (s.beforeHand m b).judgeRev m (c.arg0.getLsbD 1) (c.arg0.getLsbD 2) b
    .next (s.finishW c st r)
  | none => .next s

end Sys2Proof.Machine
end

