-- ==== Sys2Proof/Machine/Direct.lean ====
section
/-! DEFINITION. Direct.lean: direct mode of the pulse generator (R173 to R180): PG_DIRECT, DIRECT_ENTER, DIRECT_LEAVE,
DIRECT_BOUNDARY, COMMIT. -/
namespace Sys2Proof.Machine

/-- An edge time that requests nothing (R175). -/
abbrev edgeNone : Nat := 0xFFFFF

/-- Groups in direct mode, as a mask. -/
def State.directMask (s : State) : Nat :=
  (List.finRange 8).foldl (fun a g => if s.groups[g].direct then a + 2 ^ g.val else a) 0

/-- Groups a mask names. -/
def groupsIn (mask : Nat) : List (Fin 8) := (List.finRange 8).filter fun g => (mask >>> g.val) % 2 == 1

/-- The staged period and minimum times are valid (R179). -/
def State.stagedOk (s : State) : Bool :=
  let p := s.rf regPgnDirPeriod 0 19 0
  let a := s.rf regPgnDirMin 0 15 0
  let b := s.rf regPgnDirMin 0 31 16
  decide (500 ≤ p) && decide (p ≤ 1000000) && decide (20 ≤ a) && decide (20 ≤ b)

/-- The first direct boundary at least 40 ns after `t` is the first one at or after this instant: the coming boundary, or the
one that follows it, whatever period holds by then. -/
def State.dirDue (s : State) (t : Time) : Time :=
  match s.direct.next with
  | some n => if t + lead40 ≤ n then n else n + 1
  | none => s.fpAfter t

/-- The direct boundary at which a request of `due` acts, if it is reached: the boundary just processed or the coming one. -/
def State.dirAct (s : State) (due : Time) : Option Time :=
  match s.direct.next with
  | some n => if due ≤ s.direct.cur then some s.direct.cur else if due ≤ n then some n else none
  | none => some due

/-- PG_DIRECT (R173). -/
def execPgDirect (q : CmdQ) (s : State) : Host.Outcome State Fault Refusal :=
  let gs := groupsIn (bits q.arg0 7 0)
  s.runCmd q 0x18 (bits q.arg0 31 9 == 0 && q.arg1 == 0 && !gs.isEmpty && gs.all s.setConf) fun s c =>
    if s.notOwner then s.finish c stRefusedState 0
    else if c.arg0.getLsbD 8 then
      if s.started && s.pwr == 0 && gs.all (fun g => s.rowOf g == .off && !s.groups[g].hiz) &&
          (s.directMask != 0 || s.stagedOk) then
        s.awaitAt c (s.dirDue s.time) 1
      else s.finish c stRefusedState 0
    else if s.direct.next.isNone then s.finish c stOk s.directMask
    else s.awaitAt c (s.dirDue s.time) 0

/-- The oldest waiting PG_DIRECT that enters (1), that leaves (0). -/
def State.oldestDirect (s : State) (k : Nat) : Option Waiting :=
  s.host.waiting.find? fun c => c.opc == 0x18 && c.aux == k

/-- Start the direct timebase at D_0 = `t` with the staged period and minimum times (R174). -/
def State.dirStart (s : State) (t : Time) : State :=
  if s.direct.next.isSome then s
  else
    let p := s.rf regPgnDirPeriod 0 19 0
    { s with direct := { s.direct with
        next := some (t + 2 * p), cur := t, period := p, tonMin := s.rf regPgnDirMin 0 15 0, toffMin := s.rf regPgnDirMin 0 31 16,
        on := List.replicate 48 edgeNone, off := List.replicate 48 edgeNone, pending := none, queued := none } }

/-- Group g joins: its channels LOW, their active edges NONE (R174); the group stays REL no longer (R171). -/
def State.dirJoin (s : State) (g : Fin 8) (t : Time) : State :=
  let s := s.modGroup g fun x => { x with direct := true, stay := false }
  let own := fun (l : List Nat) => l.zipIdx.map fun (v, i) => if i / 6 = g.val then edgeNone else v
  let s := { s with direct := { s.direct with on := own s.direct.on, off := own s.direct.off } }
  if s.rowOf g == .direct then s.lowGroup g t else s

/-- DIRECT_ENTER (R174): the entry boundary of the oldest accepted entry. -/
def execDirectEnter (s : State) : Host.Outcome State Fault Refusal :=
  match s.oldestDirect 1 with
  | some c =>
    match s.dirAct c.due with
    | some b =>
      let t := max s.time b
      let s := (s.adv t).dirStart b
      let s := ((groupsIn (bits c.arg0 7 0)).foldl (fun s g => s.dirJoin g t) s).retrip
      let s := s.raise 0x0A 8 3 0 (0x64 + at_ s.directMask 8) t
      .next (s.finishW c stOk s.directMask)
    | none => .next s
  | none => .next s

/-- Group g leaves: released as a trip-class action; its scheduled edges are dropped (R176). -/
def State.dirDrop (s : State) (g : Fin 8) (t : Time) : State :=
  if s.groups[g].direct then
    let s := s.modGroup g fun x => { x with direct := false }
    let s := { s with edges := s.edges.filter fun e => decide (e.ch / 6 ≠ g.val) }
    if s.rowOf g == .asc then s else s.releaseGroup g t
  else s

/-- The timebase stops when no group is in direct mode (R176). -/
def State.dirStop (s : State) : State :=
  if s.directMask = 0 then { s with direct := { s.direct with next := none, pending := none, queued := none } } else s

/-- DIRECT_LEAVE (R176). -/
def execDirectLeave (s : State) : Host.Outcome State Fault Refusal :=
  match s.oldestDirect 0 with
  | some c =>
    match s.dirAct c.due with
    | some b =>
      let t := max s.time b
      let s := ((groupsIn (bits c.arg0 7 0)).foldl (fun s g => s.dirDrop g t) (s.adv t)).dirStop
      let s := s.raise 0x0A 8 3 0 (0x65 + at_ s.directMask 8) t
      .next (s.finishW c stOk s.directMask)
    | none => .next s
  | none => .next s

/-! ### Commits -/

/-- The staged set, with its flags, at the instant a commit lands (R177). -/
def State.snapshot (s : State) (due : Time) : Snap where
  period := s.rf regPgnDirPeriod 0 19 0
  tonMin := s.rf regPgnDirMin 0 15 0
  toffMin := s.rf regPgnDirMin 0 31 16
  on := (List.range 48).map fun n => s.rf regPgnDirOn n 19 0
  off := (List.range 48).map fun n => s.rf regPgnDirOff n 19 0
  pNew := s.direct.pNew
  eNew := s.direct.eNew
  due := due

/-- A write of 1 to PGN_DIR_COMMIT.COMMIT lands at the present time (R177, R178): it becomes the pending commit, replaces it,
or queues behind it. Without a group in direct mode it has no effect. -/
def State.commitNow (s : State) : State :=
  match s.direct.next with
  | some n =>
    if s.directMask = 0 then s
    else
      let late := decide (n < s.time + lead40)
      let x := s.snapshot (s.dirDue s.time)
      let s := if late then s.rsetF regPgnDirStat 0 8 8 1 else s
      let behind := late && (match s.direct.pending with | some p => decide (p.due ≤ n) | none => false)
      let d := if behind then { s.direct with queued := some x } else { s.direct with pending := some x }
      { s with direct := { d with pNew := false, eNew := false } }
  | none => s

/-- COMMIT (R177). -/
def execCommit (t : Time) (s : State) : Host.Outcome State Fault Refusal :=
  s.onRegs t State.commitNow

/-- Channels of the groups in direct mode. -/
def State.dirChans (s : State) : List (Fin 48) := (List.finRange 48).filter fun n => s.groups[setOf n].direct

def edgeOf (l : List Nat) (n : Nat) : Nat := l.getD n edgeNone

/-- The first check of R179 that a commit fails, counted from 1; 0 if none does. -/
def State.commitFails (s : State) (x : Snap) : Nat :=
  let bad := fun v => decide (v < 20) || decide (65535 < v)
  let past := fun v => v != edgeNone && decide (x.period ≤ v)
  let near := fun (a b : Nat) => a != edgeNone && b != edgeNone && decide (a < b + 20) && decide (b < a + 20)
  if x.period < 500 ∨ 1000000 < x.period then 1
  else if bad x.tonMin || bad x.toffMin then 2
  else if x.eNew && s.dirChans.any (fun (n : Fin 48) => past (edgeOf x.on n) || past (edgeOf x.off n)) then 3
  else if x.eNew && s.dirChans.any (fun (n : Fin 48) => near (edgeOf x.on n) (edgeOf x.off n)) then 4
  else if s.rb regPgnCtl 0 0 && x.pNew && !x.eNew then 5
  else 0

/-- R180 for one channel: the edges a new period leaves. Where P − TOFF_MIN is below 0 the spec states no instant: a free
value below P (log 22). -/
def clampEdges (p ton toff free on off : Nat) : Nat × Nat :=
  let pull := if toff ≤ p then p - toff else free % p
  let off' := if off != edgeNone && decide (p ≤ off) then pull else off
  if off' ≠ off ∧ on < off ∧ off' < on + ton then (edgeNone, edgeNone)
  else (if on != edgeNone && decide (p ≤ on) then edgeNone else on, off')

/-- Apply a period-only commit's clamps to the channels in direct mode; EDGE_CLAMP where any edge changes (R180). -/
def State.clampSnap (s : State) (x : Snap) (t : Time) : State × Snap :=
  let chg := s.dirChans.filter fun (n : Fin 48) =>
    clampEdges x.period x.tonMin x.toffMin s.free.toNat (edgeOf x.on n) (edgeOf x.off n) != (edgeOf x.on n, edgeOf x.off n)
  let new := fun (n : Fin 48) => clampEdges x.period x.tonMin x.toffMin s.free.toNat (edgeOf x.on n) (edgeOf x.off n)
  let x' := chg.foldl (fun x (n : Fin 48) => { x with on := x.on.set n (new n).1, off := x.off.set n (new n).2 }) x
  let s := s.rsetF regPgnDirStat 0 10 10 1
  if chg.isEmpty then (s, x)
  else
    let s := chg.foldl (fun s (n : Fin 48) => (s.rsetF regPgnDirOn n 19 0 (new n).1).rsetF regPgnDirOff n 19 0 (new n).2) s
    (((s.rsetF regPgnDirStat 0 9 9 1).raise 2 8 3 0 (0x66 + at_ (min chg.length 255) 8) t).freeNext, x')

/-- Check and apply a commit at its boundary (R179, R180). -/
def State.applyCommit (s : State) (x : Snap) (t : Time) : State :=
  match s.commitFails x with
  | 0 =>
    let (s, x) := if x.pNew && !x.eNew then s.clampSnap x t else (s, x)
    { s with direct := { s.direct with period := x.period, tonMin := x.tonMin, toffMin := x.toffMin, on := x.on, off := x.off } }
  | k => (s.rsetF regPgnDirStat 0 11 11 1).raise 2 8 3 0 (0x67 + at_ k 8) t

/-- The requests of the direct period that starts at `d` (R175). -/
def State.dirEdges (s : State) (d : Time) : List Edge :=
  s.dirChans.flatMap fun (n : Fin 48) =>
    let put := fun (v : Nat) (b : Bool) => if v = edgeNone then [] else [(⟨d + 2 * v, n.val, b⟩ : Edge)]
    put (edgeOf s.direct.on n) true ++ put (edgeOf s.direct.off n) false

/-- DIRECT_BOUNDARY (R175, R178, R179): the pending commit is checked and applied or rejected, the queued one becomes pending,
and the period's requests are scheduled. -/
def execDirectBoundary (s : State) : Host.Outcome State Fault Refusal :=
  match s.direct.next with
  | some b =>
    let t := max s.time b
    let s := s.adv t
    let s := match s.direct.pending with
      | some x =>
        if x.due ≤ b then
          let s := s.applyCommit x t
          { s with direct := { s.direct with pending := s.direct.queued, queued := none } }
        else s
      | none => s
    .next { s with edges := s.edges ++ s.dirEdges b, direct := { s.direct with cur := b, next := some (b + 2 * s.direct.period) } }
  | none => .next s

end Sys2Proof.Machine
end

