-- ==== Sys2Proof/Machine/Acquire.lean ====
section
/-! DEFINITION. Acquire.lean: voltage and housekeeping conversions, urgent requests, the chopper checks of R244, calibration and its
factors (chapter 7), and window configuration writes (R221). -/
namespace Sys2Proof.Machine

/-! ### Floating-phase samples (R56 to R60) -/

/-- What a device in shadow adds to ZC_SETTLE and to ZC_GUARD: SB_MARGIN (R289). -/
def State.zcPad (s : State) : Time := if s.shadow then 200 * s.rf regYplCfg 0 7 4 else 0

/-- The instants at which set w is due to leave ON: its computed changes into another state, and a commutation. -/
def State.zcEnds (s : State) (w : Fin 8) : List Time :=
  let c := s.sets[w].cell
  (c.plan.filterMap fun (t, x) => if x == .on then none else some t) ++ (match c.commAt with | some (t, _, _) => [t] | none => [])

/-- The first floating-phase instant of set w at or after `t` (R57): t_on + ZC_SETTLE + i·ZC_SPACING, rounded up to a tick, t_on being the
latest entry of the pair, as applied, into ON or the commutation after it; never within ZC_GUARD before the pair leaves ON. -/
def State.zcFrom (s : State) (w : Fin 8) (t : Time) : Option Time :=
  let m := machOf w
  match s.sets[w].cell.seq with
  | (t0, .on) :: _ =>
    let t1 := max t0 s.sets[w].lastComm + 100 * s.zcF m 7 0 + s.zcPad
    let step := 100 * max 1 (s.zcF m 15 8)
    let at_ := fun (k : Nat) => nextMult 5 (t1 + k * step)
    let k := (t - t1) / step
    let a := if t ≤ at_ k then at_ k else at_ (k + 1)
    if (s.zcEnds w).all fun tl => decide (a + 10 * s.zcF m 23 16 + s.zcPad ≤ tl) then some a else none
  | _ => none

/-- The instants at which set w is due to enter ON, each with ZC_SETTLE after it. -/
def State.zcStarts (s : State) (w : Fin 8) : List Time :=
  let x := s.sets[w]
  let at_ := fun (t : Time) => t + 100 * s.zcF (machOf w) 7 0 + s.zcPad
  (x.cell.plan.filterMap fun (t, r) => if r == .on then some (at_ t) else none) ++
    (match x.cell.commAt with | some (t, _, _) => [at_ t] | none => [])

/-- A REF conversion from `t` on ends at least 200 ns before the next scheduled floating-phase instant (R194). -/
def State.zcGap (s : State) (w : Fin 8) (t : Time) : Bool :=
  ((s.zcFrom w t).toList ++ (s.zcStarts w).filter fun a => decide (t ≤ a)).all fun a => decide (t + 800 ≤ a)

/-- FLOATING_PHASE_SAMPLE (R57, R58, R60): taken on the schedule, used only when not REC. -/
def execFloatingPhaseSample (w : Fin 8) (raw : Int) (track : Time) (s : State) : Host.Outcome State Fault Refusal :=
  let s := s.adv track
  match s.sets[w].sector with
  | some sec =>
    if s.cellRuns w && s.gridOn && s.convFree (32 + w.val) track && !s.urgentHeld (32 + w.val) track && s.zcFrom w track == some track then
      let (s, x) := s.vcSample w (floatLeg sec).val raw track
      if x.flags &&& flREC != 0 then .next s
      else
        let vf := intR x.code * f32v (s.rget regComVphGain w)
        .next (s.crossSample w track vf (s.vdcOf (machOf w) track) (x.flags &&& flOVR != 0))
    else .next s
  | none => .next s

/-! ### Urgent requests (R198, R199) -/

/-- The converter of a channel. -/
def convOf (c : Nat) : Nat := if c < 0x30 then 32 + (c - 0x10) / 4 else if c ≤ 0x4A then 42 else 43

/-- VC[w] admits host requests (Table 7.4). -/
def State.vcAdmits (s : State) (w : Fin 8) : Bool :=
  let t := s.mach[machOf w].trk.state
  !s.setConf w || (!s.sets[w].driving && t != .listen && t != .probe && t != .ascObserve && t != .lost)

/-- ADC_URGENT (R199): it completes with its result. -/
def execAdcUrgent (q : CmdQ) (s : State) : Host.Outcome State Fault Refusal :=
  let c := bits q.arg0 7 0
  s.runCmd q 0x21 (bits q.arg0 31 8 == 0 && q.arg1 == 0 &&
      ((decide (0x10 ≤ c) && decide (c ≤ 0x2F)) || (decide (0x40 ≤ c) && decide (c ≤ 0x55)))) fun s w =>
    let conv := convOf c
    if decide (2 ≤ s.pwr) || s.lopRuns 0x20 ||
        decide (2 ≤ (s.acq.urgents.filter fun u => u.host && u.conv == conv).length) ||
        decide (4 ≤ (s.acq.urgents.filter fun u => u.conv == conv).length) ||
        (decide (c < 0x30) && !s.vcAdmits (Fin.ofNat 8 ((c - 0x10) / 4))) then
      s.finish w stRefusedState 0
    else
      (s.askUrgent conv c true s.time).await { w with aux := c }

/-- The urgent request that converter n serves at `t`: the first in order of arrival (R198), its converter awake (R197). -/
def State.urgentAt (s : State) (n : Nat) (t : Time) : Option Urgent :=
  match s.acq.urgents.find? fun u => u.conv == n with
  | some u => if u.ready ≤ t then some u else none
  | none => none

def State.dropUrgent (s : State) (u : Urgent) : State :=
  { s with acq := { s.acq with urgents := s.acq.urgents.erase u } }

/-- Complete the host request that a delivered sample serves (R199). -/
def State.answerUrgent (s : State) (u : Urgent) (x : Sample) : State :=
  match s.host.waiting.find? fun w => w.opc == 0x21 && w.aux == u.chan with
  | some w =>
    (s.dropUrgent u).finishW w stOk (uns x.code 16 + at_ x.flags.toNat 16 + at_ (ticksOf x.t % 2 ^ 24) 24)
  | none => s.dropUrgent u

/-! ### Chopper checks (R244) -/

/-- PGN_PGK_CFG[c].MODE = SUP. -/
def State.chopSup (s : State) (c : Fin 2) : Bool := s.rb regPgnPgkCfg c 0
def State.chkDelay (s : State) (c : Fin 2) : Time := 200 * s.rf regSupChpCfg c 31 16
def State.chopCurrent (s : State) (c : Fin 2) (code : Int) : Rat := intR code * f32v (s.rget regAcqScale (2 + c.val))

/-- The open check counts a result taken with CHPc HIGH, CHK_DELAY or more after its on-change. -/
def State.openCheck (s : State) (c : Fin 2) (x : Sample) : State :=
  let ch := s.chops[c].ch
  if s.chopSup c && ch.lvl == .high && decide (ch.lastOn + s.chkDelay c ≤ x.t) then
    let low := decide (s.chopCurrent c x.code < f32v (s.rget regSupChpImin c)) && x.flags &&& flOVR == 0
    (s.rcount regSupChpStat c 31 16 1).modChop c fun y => { y with openCnt := if low then min 15 (y.openCnt + 1) else 0 }
  else s

/-- The short check counts a scheduled result taken CHK_DELAY or more after CHPc became LOW or REL. -/
def State.shortCheck (s : State) (c : Fin 2) (x : Sample) : State :=
  let ch := s.chops[c].ch
  if s.chopSup c && ch.lvl != .high && decide (s.chops[c].lowAt + s.chkDelay c ≤ x.t) then
    let hi := decide (f32v (s.rget regSupChpImin c) ≤ s.chopCurrent c x.code)
    s.modChop c fun y => { y with shortCnt := if hi then min 15 (y.shortCnt + 1) else 0 }
  else s

/-! ### Housekeeping conversions -/

/-- A housekeeping result on a channel 0x40 to 0x55 (R185): the 12-bit result is left-aligned, then calibrated, so the code delivered need not be a
multiple of 4: DESIGN CHOICE, unsafe (log 157). -/
def State.hkSample (s : State) (c : Nat) (raw : Int) (t : Time) : State × Sample :=
  let conv := convOf c
  let s := s.converts conv t
  let (code, ovr) := s.codeHk conv (4 * raw)
  let (s, f) := s.slowFlags conv c ovr t
  let x : Sample := ⟨t, code, f⟩
  (s.deliver c 1 x, x)

/-- ASP0 serves both machines: ASP_SHARED is set for either machine, which of the two bits decides not being stated. DESIGN CHOICE, unsafe
(log 153). -/
def State.aspShared (s : State) : Bool := s.rb regEngSrcCfg 0 19 || s.rb regEngSrcCfg 1 19

/-- An ASP result, in volts, to the machines it serves (R129). -/
def State.aspFeed (s : State) (c : Nat) (x : Sample) : State :=
  let v := intR x.code * mkRat 18 81920
  if c = 0x41 then
    let s := s.aspSample 0 v x.t
    if s.aspShared then s.aspSample 1 v x.t else s
  else if c = 0x4C ∧ ¬ s.aspShared then s.aspSample 1 v x.t
  else s

/-- A REF result of a voltage converter: VC_REF at the third in a row beyond 32 LSB (R194). -/
def State.vcRef (s : State) (w : Fin 8) (x : Sample) : State :=
  let n := if 32 < absR (intR (x.code - 4096)) then min 4 (s.acq.vcRefRun[w] + 1) else 0
  let s := { s with acq := { s.acq with vcRefRun := s.acq.vcRefRun.set w n } }
  if n = 3 then s.raise 5 8 1 0 (0x74 + at_ w.val 8) x.t else s

/-! ### Schedules of housekeeping and voltage converters (R193 to R197) -/

/-- Period of housekeeping input i: fixed for the ASPs, none for OTP_VPP, else ACQ_HK_CFG (Table 7.5). -/
def State.hkPeriod (s : State) (i : Nat) : Time :=
  if i = 9 then 0 else if i = 1 ∨ i = 12 then 50 * us1 else 10 * us1 * s.rf regAcqHkCfg i 15 0

/-- The instant at which input i is next due: a whole multiple of its period (R196). -/
def State.hkDue (s : State) (i : Fin 22) : Option Time :=
  let p := s.hkPeriod i
  if p = 0 then none else some (nextMult p (s.acq.hkAt[i] + 1))

/-- A write of ACQ_HK_CFG: a new period counts from now (R196). -/
def State.writeHk (s : State) (i : Fin 22) (v : Word) : State :=
  let p := s.hkPeriod i
  let s := s.writeWord regAcqHkCfg i 0 v
  if s.hkPeriod i = p then s else { s with acq := { s.acq with hkAt := s.acq.hkAt.set i s.time } }

/-- The scheduled conversion of input i starts at `t`: due, and no input of its converter is due before it, or with it and lower (R196). -/
def State.hkTakes (s : State) (i : Fin 22) (t : Time) : Bool :=
  match s.hkDue i with
  | some d =>
    decide (d ≤ t) && (List.finRange 22).all fun j =>
      decide (j.val / 11 ≠ i.val / 11) || (match s.hkDue j with | some e => decide (t < e ∨ d < e ∨ (d = e ∧ i ≤ j)) | none => true)
  | none => false

/-- The first instant at which the conversion of input i that is due finds its converter free: its sample is stamped with it (R196). -/
def State.hkSlot (s : State) (i : Fin 22) : Time := max ((s.hkDue i).getD 0) ((alGet s.acq.busy (42 + i.val / 11)).getD 0)

/-- The instant up to which input i is served moves on. -/
def State.hkServed (s : State) (i : Fin 22) : State :=
  { s with acq := { s.acq with hkAt := s.acq.hkAt.set i ((s.hkDue i).getD s.acq.hkAt[i]) } }

/-- VC[w] converts REF on its own account at `t` (Table 7.4, R194): at full rate in PROBE and ASC_OBSERVE, every 100 µs in the gaps of the
floating-phase schedule while the set drives, every 10 µs while it is otherwise off; not while its set listens or is unconfigured. -/
def State.refTakes (s : State) (w : Fin 8) (t : Time) : Bool :=
  let st := s.mach[machOf w].trk.state
  let since := fun (p : Time) => decide (s.acq.refAt[w] + p ≤ t)
  s.pcr.state == 0 && s.setConf w &&
  (if st == .probe || st == .ascObserve then true
   else if s.sets[w].driving then since (100 * us1) && s.zcGap w t
   else if st == .listen || st == .lost then false
   else since (10 * us1))

/-- A result of a housekeeping input: its use by the sources, and by the chopper checks where it was scheduled. -/
def State.hkResult (s : State) (c : Nat) (raw : Int) (track : Time) (sched : Bool) : State × Sample :=
  let (s, x) := s.hkSample c raw track
  let s := s.aspFeed c x
  let k : Fin 2 := if c = 0x40 then 0 else 1
  (if sched && (c == 0x40 || c == 0x4B) then (s.openCheck k x).shortCheck k x else s, x)

/-- A result of voltage converter w on its input k. -/
def State.vcResult (s : State) (w : Fin 8) (k : Nat) (raw : Int) (track : Time) : State × Sample :=
  let (s, x) := s.vcSample w k raw track
  (if k = 3 then s.vcRef w x else s, x)

/-- A phase of a calibration has just ended at `t`: internal urgent requests are served there (R201). The time that serving takes is not stated; up
to four conversions: DESIGN CHOICE, unsafe (log 138). -/
def State.calServes (s : State) (t : Time) : Bool :=
  s.host.lops.toList.any fun l => (l.state == 1 || l.state == 3) && l.opc == 0x20 && l.phase != 0 && decide (t ≤ l.since + 4 * us1)

/-- CHOPPER_CHECK_CONVERSION (R244): the urgent conversion of AUX_ICH[c] asked for at an on-change. -/
def execChopperCheckConversion (c : Fin 2) (raw : Int) (track : Time) (s : State) : Host.Outcome State Fault Refusal :=
  let chan := if c = 0 then 0x40 else 0x4B
  let s := s.adv track
  match s.urgentAt (convOf chan) track with
  | some u =>
    if u.host || u.chan != chan || decide (2 ≤ s.pcr.state) || s.pcr.asserted.isSome || !s.convFree (convOf chan) track ||
        (s.calRuns && !s.calServes track) then .next s
    else
      let (s, x) := (s.dropUrgent u).hkSample chan raw track
      .next ((s.aspFeed chan x).openCheck c x)
  | none => .next s

/-! ### Calibration (R200 to R205) -/

/-- The serial number of OTP region 0; 0 unless it is VALID. -/
def State.serialW (s : State) (k : Nat) : Word :=
  if s.otp.regions[0].load = 1 then s.shadowW (1 + k) else 0

/-- The tag of the factors in force (R205). -/
def State.calTag (s : State) : Word :=
  crc32 (wordBytes ((List.range 44).map (fun n => s.rget regAcqCalOfs n) ++ (List.range 44).map (fun n => s.rget regAcqCalGain n) ++
    (List.range 16).map (fun p => s.rget regAcqCalSkew p) ++ [s.serialW 0, s.serialW 1]))

/-- A set drives, listens, is in direct mode or in the ASC pattern (R201, R459). -/
def State.drivesAny (s : State) : Bool :=
  (List.finRange 8).any fun w => s.sets[w].driving || s.groups[w].direct || s.groups[w].asc ||
    (s.setConf w && s.mach[machOf w].trk.state == .listen)

/-- ADC_CALIBRATE (R201): a long operation; open quads close as it starts. -/
def execAdcCalibrate (q : CmdQ) (s : State) : Host.Outcome State Fault Refusal :=
  s.runCmd q 0x20 (bits q.arg0 31 1 == 0 && q.arg1 == 0) fun s c =>
    let offs := c.arg0.getLsbD 0
    if s.notOwner || s.pwr != 0 || s.drivesAny || s.lopRuns 0x20 || s.lopRuns 0x40 ||
        (s.started && (s.chopSup 0 || s.chopSup 1)) || (offs && !s.acq.calValid) then
      s.finish c stRefusedState 0
    else if s.freeSlot.isNone then s.lopStart c
    else (s.closeAll).lopStart c

/-- Duration of calibration phase n (Table 7.7). -/
def calTime (n : Nat) : Time := if n = 0 then 400 * us1 else 1200 * us1

/-- A result held aside: phase, converter or pair, value in 32 bits. -/
def calPack (ph n : Nat) (v : Int) : Nat := ph + 4 * n + 256 * uns v 32
def calPh (x : Nat) : Nat := x % 4
def calN (x : Nat) : Nat := (x / 4) % 64
def calV (x : Nat) : Int := sgn (x / 256) 32

/-- The result of phase `ph` for index n passes its limits (Table 7.7). -/
def calPass (ph : Nat) (v : Int) : Bool :=
  match ph with
  | 0 => decide (v.natAbs ≤ 4096)
  | 1 => decide (28672 ≤ v) && decide (v ≤ 36864)
  | _ => decide (v.natAbs ≤ 400)

/-- The converter that a failing result names: a pair's skew is that of its odd member. -/
def calConv (ph n : Nat) : Nat := if ph = 2 then 2 * n + 1 else n

/-- Apply the results of the passing converters; failing ones, of pairs and others (R202). -/
def State.calApply (s : State) (res : List Nat) (full : Bool) : State × List Nat :=
  let fails := (List.range 44).filter fun n =>
    res.any fun x => calConv (calPh x) (calN x) == n && !calPass (calPh x) (calV x)
  let s := res.foldl (fun s x =>
    if fails.contains (calConv (calPh x) (calN x)) then s
    else match calPh x with
      | 0 => s.rsetF regAcqCalOfs (calN x) 15 0 (uns (calV x) 16)
      | 1 => s.rsetF regAcqCalGain (calN x) 15 0 (uns (calV x) 16)
      | _ => s.rsetF regAcqCalSkew (calN x) 9 0 (uns (calV x) 10)) s
  let s := forFin 16 s fun s p => s.modPair p fun y => { y with ofsD := 0, skewD := if full then 0 else y.skewD }
  (s.reBound, fails)

/-- Failures and recoveries of the pairs after a calibration (R202); a member that had failed before is marked with cause 1 too. -/
def State.calPairs (s : State) (fails : List Nat) (full : Bool) : State :=
  forFin 16 s fun s p =>
    let fe := fails.contains (2 * p.val)
    let fo := fails.contains (2 * p.val + 1)
    let one := fun (s : State) (odd : Bool) =>
      if if odd then s.acq.pairs[p].failO else s.acq.pairs[p].failE then s.modPair p fun y => { y with cause := 1 }
      else s.failMember p odd 1 s.time
    let s := if fe then one s false else s
    let s := if fo then one s true else s
    if full && !fe && !fo then s.modPair p fun y => { y with failE := false, failO := false, cause := 0 } else s

/-- CAL_COMPLETE (R202). -/
def State.calDone (s : State) (k : Fin 8) (res : List Nat) (full : Bool) : State :=
  let first := res.find? fun x => !calPass (calPh x) (calV x)
  let (s, fails) := s.calApply res full
  let s := s.calPairs fails full
  let ok := fails.all fun n => decide (n < 32) && !fails.contains (if n % 2 = 0 then n + 1 else n - 1)
  let s := { s with acq := { s.acq with
    calValid := ok, restored := false,
    calFailPhase := match first with | some x => calPh x + 1 | none => 0,
    calFirst := match first with | some x => calConv (calPh x) (calN x) | none => 0 } }
  s.gridStart.lopEnd k (if fails.isEmpty then stOk else stVerifyFail)
    (b2n (!full) + at_ (b2n ok) 1 + at_ fails.length 8 + at_ s.calTag.toNat 16)

/-- CAL_PHASE_END (R202, R203): the running phase ends with the values it determined: OFS in 1/16 LSB and GAIN in 2^-15 by
converter, SKEW in 0.5 ps by pair (those of pairs 0 to 15). -/
def execCalPhaseEnd (vals : List (Fin 44 × Int)) (t : Time) (s : State) : Host.Outcome State Fault Refusal :=
  match s.running 0x20 with
  | some k =>
    let l := s.host.lops[k]
    let s := s.adv (max t (l.since + calTime l.phase))
    let full := !l.arg0.getLsbD 0
    let vals := if l.phase = 2 then vals.filter fun v => decide (v.1.val < 16) else vals
    let res := l.res ++ vals.map fun v => calPack l.phase v.1.val v.2
    let s := s.modLop k fun l => { l with phase := l.phase + 1, since := s.time, res := res }
    if l.phase + 1 < (if full then 3 else 1) ∨ l.ending = 3 ∨ l.ending = 0x23 then
      let (s, on) := s.lopPause k (l.phase + 1) 0
      .next (if on then s else s.gridStart)
    else .next (s.calDone k res full)
  | none => .next s

/-- OFS_D and SKEW_D of every pair become 0. -/
def State.clearTracked (s : State) : State :=
  (forFin 16 s fun s p => s.modPair p fun y => { y with ofsD := 0, skewD := 0 }).reBound

/-- CAL_TAG_WRITE (R205). -/
def State.writeCalTag (s : State) (v : Word) : State :=
  if v = s.calTag then { s.clearTracked with acq := { s.clearTracked.acq with calValid := true, restored := true } }
  else (s.rsetF regAcqStat 0 4 4 1).raise 5 8 1 0 0x78 s.time

def execCalTagWrite (v : Word) (t : Time) (s : State) : Host.Outcome State Fault Refusal :=
  s.onRegs t fun s => s.writeCalTag v

/-- A write to a factor register: RWL and ranged; a change of its value ends CAL_VALID (R205). -/
def State.writeFactor (s : State) (d : RegDesc) (n : Nat) (v : Word) : State :=
  let s' := s.writeWord d n 0 v
  if s'.rget d n = s.rget d n then s' else { s' with acq := { s'.acq with calValid := false, restored := false } }

/-- CAL_FACTOR_WRITE (R205). -/
def execCalFactorWrite (f : CalFactor) (v : Word) (t : Time) (s : State) : Host.Outcome State Fault Refusal :=
  match f with
  | .ofs n => s.onRegs t fun s => s.writeFactor regAcqCalOfs n v
  | .gain n => s.onRegs t fun s => s.writeFactor regAcqCalGain n v
  | .skew p => s.onRegs t fun s => (s.writeFactor regAcqCalSkew p v).reBound

/-! ### Window configuration (R220, R221, R223) -/

/-- A write to CMP_WIN_CFG[n]: both active sides must lie more than 2·HYST apart; an accepted change of EN, LOWER, UPPER or HYST
sets the output OUT, and a window without EN is IN. -/
def State.writeWindow (s : State) (n : Fin 20) (v : Word) : State :=
  let old := s.rget regCmpWinCfg n
  let both := bits v 19 10 != 1023 && bits v 9 0 != 0
  if s.idleWindow && both && decide (bits v 19 10 ≤ bits v 9 0 + 2 * bits v 25 20) then s.writeReject
  else
    let s := s.writeWord regCmpWinCfg n 0 v
    let new := s.rget regCmpWinCfg n
    let key := fun (w : Word) => (w.getLsbD 31, bits w 25 0)
    if key new = key old then s
    else if new.getLsbD 31 then { s with winOut := s.winOut ||| (1#20 <<< n.val) }
    else { s with winOut := s.winOut &&& ~~~ (1#20 <<< n.val) }

/-- WINDOW_CONFIG_WRITE (R221). -/
def execWindowConfigWrite (n : Fin 20) (v : Word) (t : Time) (s : State) : Host.Outcome State Fault Refusal :=
  s.onRegs t fun s => s.writeWindow n v

end Sys2Proof.Machine
end

