-- ==== Sys2Proof/Machine/GateLink.lean ====
section
/-! DEFINITION. GateLink.lean: the gate links (R246 to R251) and the wear ledger's thermal cycles (R254). -/
namespace Sys2Proof.Machine

/-- Bits of a frame in the order sent: least significant first. -/
def frameBits (f : BitVec 64) (n : Nat) : List Bool := (List.range n).map fun i => f.getLsbD i

/-- A frame with its CRC in bits [63:56], c[7] first (R246). -/
def withCrc8 (f : BitVec 64) : BitVec 64 :=
  let c := crc8 (frameBits f 56)
  (List.range 8).foldl (fun f j => if c.getLsbD (7 - j) then f ||| (1#64 <<< (56 + j)) else f) (f &&& 0x00FFFFFFFFFFFFFF)

/-- The link serves a configured set and is in use (GLK_CFG.EN). -/
def State.glkUsed (s : State) (g : Fin 8) : Bool := s.setConf g && s.rb regGlkCfg g 0

/-- Switch k of set g. -/
def swOf (g : Fin 8) (k : Nat) : Fin 48 := Fin.ofNat 48 (6 * g.val + k)

/-- The applied level of a switch has been steady since 4 µs before `t`. -/
def State.steady4 (s : State) (n : Fin 48) (t : Time) : Bool :=
  decide (s.chans[n].chgAt + 4 * us1 ≤ t)

/-- A discarded frame is counted (R249). -/
def State.glkDiscard (s : State) (g : Fin 8) (t : Time) : State :=
  (s.rcount regGlkStat g 31 16 1).modGlk g fun x =>
    { x with discards := t :: x.discards.filter fun u => decide (t < u + 60 * s1) }

/-- One STATUS condition of a switch: raised once, when it arises (R251). -/
def State.glkCond (s : State) (g : Fin 8) (k : Nat) (now : Bool) (held : BitVec 6) (detail : Nat) (t : Time) : State × BitVec 6 :=
  if now then
    if held.getLsbD k then (s, held)
    else (s.faultSet g 0 (swOf g k) detail t, held ||| (1#6 <<< k))
  else (s, held &&& ~~~ (1#6 <<< k))

/-- STATUS of one switch in an accepted frame that began at `t0`. -/
def State.glkSwitch (s : State) (g : Fin 8) (k : Nat) (f : BitVec 64) (t0 t : Time) : State :=
  let b := fun i => f.getLsbD (8 + 4 * k + i)
  let x := s.sup.glk[g]
  let (s, d) := s.glkCond g k (b 0) x.desat 0x90 t
  let (s, p) := s.glkCond g k (b 1) x.uvloP 0x91 t
  let (s, n) := s.glkCond g k (b 2) x.uvloN 0x191 t
  let bad := !b 3
  let m := 1#6 <<< k
  let put := fun (v : BitVec 6) (on : Bool) => if on then v ||| m else v &&& ~~~m
  s.modGlk g fun y =>
    { y with desat := d, uvloP := p, uvloN := n, gateBad := put y.gateBad (bad && s.steady4 (swOf g k) t0),
             gateDue := put y.gateDue (bad && (y.gateDue.getLsbD k || (x.gateBad.getLsbD k && !x.gateRaised.getLsbD k))),
             gateRaised := if bad then y.gateRaised else put y.gateRaised false }

/-- The module temperature of an accepted frame (R251). -/
def State.glkTemp (s : State) (g : Fin 8) (f : BitVec 64) : State :=
  let leg := bitsN f.toNat 33 32
  let code := bitsN f.toNat 43 34
  if h : leg < 3 then
    let hot := decide (natR (s.rf regGlkCfg g 15 8) ≤ mkRat code 4 - 55)
    s.modGlk g fun x =>
      { x with temp := x.temp.set leg (some code), inRound := x.inRound ||| (1#3 <<< leg),
               tsdCnt := x.tsdCnt.set leg (if hot then min 3 (x.tsdCnt[leg] + 1) else 0),
               tsdRaised := if hot then x.tsdRaised else x.tsdRaised &&& ~~~ (1#3 <<< leg) }
  else s

/-- TELEMETRY_FRAME (R249, R251): the frame's last bit is received at `t`; `midOk`: every bit had its mid-bit transition. -/
def execTelemetryFrame (g : Fin 8) (frame : BitVec 64) (midOk : Bool) (t : Time) (s : State) :
    Host.Outcome State Fault Refusal :=
  let s := s.adv t
  let x := s.sup.glk[g]
  let st := s.stamp s.time
  let seq := bitsN frame.toNat 7 4
  if s.pcr.asserted.isSome || s.pcr.state == 3 || s.linkTested (2 + g.val) then .next s
  else if !midOk || crc8 (frameBits frame 64) != 0 || bitsN frame.toNat 3 0 != 1 then .next (s.glkDiscard g s.time)
  else if x.seqSeen && seq != (x.lastSeq + 1) % 16 then
    .next ((s.glkDiscard g s.time).modGlk g fun y => { y with lastSeq := seq })
  else
    let acked := x.cmdBusy && !x.cmdWait && bitsN frame.toNat 47 44 == x.cmdSeq
    let s := s.freeNext.modGlk g fun y =>
      { y with tlm := frame, lastSeq := seq, seqSeen := true, lastAt := s.time, lastSt := st, lost := false, lostRaised := false,
               cmdBusy := y.cmdBusy && !acked, cmdFailDue := y.cmdFailDue && !acked }
    if s.glkUsed g then
      let t0 := s.time - 67 * 80
      let s := (List.range 6).foldl (fun s k => s.glkSwitch g k frame t0 st) s
      .next (s.glkTemp g frame)
    else .next s

/-- GATE_MISMATCH (R251), class F2. -/
def execGateMismatch (sw : Fin 48) (s : State) : Host.Outcome State Fault Refusal :=
  let g := setOf sw
  let k := sw.val % 6
  if s.sup.glk[g].gateDue.getLsbD k then
    let s := s.modGlk g fun x => { x with gateDue := x.gateDue &&& ~~~ (1#6 <<< k), gateRaised := x.gateRaised ||| (1#6 <<< k) }
    .next (s.faultSet g 0 sw 0x92 s.sup.glk[g].lastSt)
  else .next s

/-- MOD_TSD (R251), class F2: three consecutive readings at or above the level. -/
def execModTsd (l : Fin 24) (s : State) : Host.Outcome State Fault Refusal :=
  let g : Fin 8 := Fin.ofNat 8 (l.val / 3)
  let k : Fin 3 := Fin.ofNat 3 (l.val % 3)
  let x := s.sup.glk[g]
  if s.glkUsed g && decide (3 ≤ x.tsdCnt[k]) && !x.tsdRaised.getLsbD k.val then
    let s := s.modGlk g fun y => { y with tsdRaised := y.tsdRaised ||| (1#3 <<< k.val) }
    .next (s.faultSet g 1 l (0x94 + at_ (x.temp[k].getD 0) 8) x.lastSt)
  else .next s

/-- GLK_LOST (R250), class F2: no frame accepted for 12 µs, and the set drives. -/
def execGlkLost (g : Fin 8) (t : Time) (s : State) : Host.Outcome State Fault Refusal :=
  let s := s.adv t
  let x := s.sup.glk[g]
  if s.glkUsed g && s.sets[g].driving && !x.lostRaised && decide (x.lastAt + 12 * us1 ≤ s.time) then
    .next ((s.modGlk g fun y => { y with lost := true, lostRaised := true }).faultSet g 2 g 0x93 s.time)
  else .next s

/-- The discarded frames of the 60 s up to the last housekeeping-round boundary exceed ERR_LIM per million of the 15,000,000 expected
(R249, Table 1.6). -/
def State.glkErr (s : State) (g : Fin 8) : Bool :=
  decide (15 * s.rf regGlkCfg g 31 16 < (s.sup.glk[g].discards.filter fun u => decide (u ≤ s.lastHr ∧ s.lastHr < u + 60 * s1)).length)

/-- GLK_ERROR (R249) on a link in use for a configured set (R18), judged at a housekeeping-round boundary and stamped with it (Table 1.6):
reported once while it lasts; R40 reports it again. -/
def execGlkError (g : Fin 8) (s : State) : Host.Outcome State Fault Refusal :=
  if s.glkErr g && s.glkUsed g then
    if s.sup.glk[g].errRaised then .next s
    else .next ((s.modGlk g fun x => { x with errRaised := true }).health 5 0x07 g 0 s.lastHr)
  else .next (s.modGlk g fun x => { x with errRaised := false })

/-- A write of GLK_CMD[g] (R248): rejected while the set drives; GO queues the command, but not while one awaits acknowledgement
(Table 17.4) or the link is under test (R458). -/
def State.writeGlkCmd (s : State) (g : Fin 8) (v : Word) : State :=
  if s.sets[g].driving || (v.getLsbD 0 && (s.sup.glk[g].cmdBusy || s.linkTested (2 + g.val))) then s.writeReject
  else
    let s := s.writeWord regGlkCmd g 0 v
    if v.getLsbD 0 then s.modGlk g fun x => { x with cmdBusy := true, cmdWait := true, cmdFrames := 0, cmdFailDue := false } else s

/-- GLK_CMD_GO (R248). -/
def execGlkCmdGo (g : Fin 8) (v : Word) (t : Time) (s : State) : Host.Outcome State Fault Refusal :=
  s.onRegs t fun s => s.writeGlkCmd g v

/-- CMD_FAIL (R248): ten frames have passed without the acknowledgement. -/
def execCmdFail (g : Fin 8) (s : State) : Host.Outcome State Fault Refusal :=
  if s.sup.glk[g].cmdFailDue then
    .next ((s.modGlk g fun x => { x with cmdFailDue := false, cmdBusy := false }).rsetF regGlkStat g 3 3 1)
  else .next s

/-- GATE_LINK_FRAME_SEND (R246, R248): the pending command, else an idle frame. The first command frame has SEQ 1, and frames
are counted as the device sends them. DEDUCED, unsafe (log 26). -/
def execGateLinkFrameSend (g : Fin 8) (t : Time) (s : State) : Host.Outcome State Fault Refusal :=
  let s := s.adv t
  let x := s.sup.glk[g]
  if !s.regsOn || s.linkTested (2 + g.val) then .next s
  else if x.cmdWait then
    let n := (x.sent + 1) % 16
    let f := withCrc8 (BitVec.ofNat 64 (2 + at_ n 4 + at_ (s.rf regGlkCmd g 31 24) 8 + at_ (s.rf regGlkCmd g 23 8) 16))
    .next (s.modGlk g fun y => { y with cmdWait := false, cmdSeq := n, sent := n, cmdFrames := 0, lastSent := f })
  else
    .next (s.modGlk g fun y =>
      { y with lastSent := withCrc8 3, cmdFrames := if y.cmdBusy then y.cmdFrames + 1 else 0,
               cmdFailDue := y.cmdFailDue || (y.cmdBusy && decide (10 ≤ y.cmdFrames + 1)) })

/-! ### Thermal cycles (R252, R254) -/

def cycleBin (d : Rat) : Option Nat :=
  if d < 5 then none
  else if d < 10 then some 0
  else if d < 15 then some 1
  else if d < 20 then some 2
  else if d < 30 then some 3
  else if d < 40 then some 4
  else if d < 60 then some 5
  else if d < 80 then some 6
  else some 7

def binNode (l b : Nat) : Nat := 0x1A100 + 0x10 * l + b

/-- A binary32 temperature as the ledger holds it: 0 °C is −0.0 (R252). -/
def tempWord (x : Rat) : Word := if x = 0 then 0x80000000 else toF32 x

/-- Turning points and bins for one reading. -/
def State.cycleStep (s : State) (l : Fin 24) (r : Rat) : State :=
  let c := s.sup.cycles[l]
  let put := fun (s : State) (turn ext : Rat) =>
    { s with sup := { s.sup with cycles := s.sup.cycles.set l ⟨some turn, some ext⟩ } }
  match c.turn, c.ext with
  | some a, some e =>
    if e = a ∨ (a < e ∧ e ≤ r) ∨ (e < a ∧ r ≤ e) then put s a r
    else if 2 ≤ absR (e - r) then
      let s := match cycleBin (absR (e - a)) with
        | some b => s.ledgerPut (binNode l b) (s.nodeW (binNode l b) + 1)
        | none => s
      put s e r
    else s
  | _, _ => put s r r

/-- Judge a module's last reading of the round: extremes and cycles (R252, R254). -/
def State.wearRound (s : State) (l : Fin 24) (r : Rat) : State :=
  let mx := s.nodeW (binNode l 8)
  let s := if mx = 0 ∨ f32v mx < r then s.ledgerPut (binNode l 8) (tempWord r) else s
  let mn := s.nodeW (binNode l 9)
  let s := if s.started && (mn == 0 || decide (r < f32v mn)) then s.ledgerPut (binNode l 9) (tempWord r) else s
  s.cycleStep l r

/-- Every module that was read in the round that ends. -/
def State.wearAll (s : State) : State :=
  let s := forFin 24 s fun s l =>
    let g : Fin 8 := Fin.ofNat 8 (l.val / 3)
    let k : Fin 3 := Fin.ofNat 3 (l.val % 3)
    match s.sup.glk[g].inRound.getLsbD k.val, s.sup.glk[g].temp[k] with
    | true, some c => s.wearRound l (mkRat c 4 - 55)
    | _, _ => s
  forFin 8 s fun s g => s.modGlk g fun x => { x with inRound := 0 }

end Sys2Proof.Machine
end

