-- ==== Sys2Proof/Machine/Otp.lean ====
section
/-! DEFINITION. Otp.lean: the fuse array, its shadow, locks, life cycle, programming and scans (chapter 15), with RESUME (R348), which
an OTP_PROGRAM answers by judging its word again, and HOUSEKEEPING_CONVERSION, which may serve a pre-check.  -/
namespace Sys2Proof.Machine

/-! ### Words (R385 to R387) -/

/-- Raw words (Table 15.1). -/
def otpRaw (a : Nat) : Bool := (decide (128 ≤ a) && decide (a ≤ 130)) || (decide (960 ≤ a) && decide (a ≤ 965))

/-- Choose `n` different columns of a list. -/
def pickCols : Nat → List (BitVec 7) → List (BitVec 7)
  | 0, _ => []
  | n + 1, l => let k := Config.eccPick n % max 1 l.length
                l.getD k 0 :: pickCols n (l.eraseIdx k)

/-- The columns of odd weight of at least 3. -/
def oddCols : List (BitVec 7) :=
  ((List.range 128).map (BitVec.ofNat 7)).filter fun c =>
    let w := ((List.range 7).filter fun k => c.getLsbD k).length
    w % 2 == 1 && decide (3 ≤ w)

/-- The column of data bit i (R386): with the seven check bits' own, columns that differ and are of odd weight, so that a single-bit error is
corrected and a double-bit error is not taken for one. -/
def eccCol (i : Fin 32) : BitVec 7 := (pickCols 32 oddCols).getD i.val 0

/-- Check bits of a data word. -/
def otpCheckBits (d : Word) : BitVec 7 :=
  (List.finRange 32).foldl (fun c (i : Fin 32) => if d.getLsbD i then c ^^^ eccCol i else c) 0

/-- A codeword: data in [31:0], check bits in [38:32]; a raw word carries none (R386). -/
def otpCodeword (a : Nat) (d : Word) : BitVec 39 :=
  if otpRaw a then d.setWidth 39 else BitVec.ofNat 39 (d.toNat + at_ (otpCheckBits d).toNat 32)

def otpData (c : BitVec 39) : Word := c.extractLsb' 0 32
def otpChk (c : BitVec 39) : BitVec 7 := c.extractLsb' 32 7

/-- What the check makes of a codeword: the data, and whether one bit was corrected; none where it is uncorrectable. -/
def otpDecode (c : BitVec 39) : Option (Word × Bool) :=
  let d := otpData c
  let syn := otpCheckBits d ^^^ otpChk c
  if syn = 0 then some (d, false)
  else
    match (List.finRange 32).find? fun i => eccCol i == syn with
    | some i => some (d ^^^ (1#32 <<< i.val), true)
    | none => if (List.range 7).any fun k => syn == 1#7 <<< k then some (d, true) else none

/-- A normal and a margin read. -/
def State.otpNorm (s : State) (a : Nat) : BitVec 39 := (alGet s.otp.norm a).getD 0
def State.otpMarg (s : State) (a : Nat) : BitVec 39 := (alGet s.otp.marg a).getD 0

/-- Data bits of a raw word: burned when either read gives 1 (R386). -/
def State.otpRawBits (s : State) (a : Nat) : Word := otpData (s.otpNorm a ||| s.otpMarg a)

/-- The data of a word as used, and whether a bit was corrected. -/
def State.otpWord (s : State) (a : Nat) : Option (Word × Bool) :=
  if otpRaw a then some (s.otpRawBits a, false) else otpDecode (s.otpNorm a)

/-- The data of a word, corrected where it can be. -/
def State.otpVal (s : State) (a : Nat) : Word := match s.otpWord a with | some (d, _) => d | none => otpData (s.otpNorm a)

/-- A fuse can be burned and never restored: what a pulse on the bits of `tgt` left, as the reads give it. -/
def otpAfter (old given tgt : BitVec 39) : BitVec 39 := old ||| (given &&& tgt)

def State.otpStore (s : State) (a : Nat) (n m : BitVec 39) : State :=
  { s with otp := { s.otp with norm := alPut 0 s.otp.norm a n, marg := alPut 0 s.otp.marg a m } }

/-! ### Judging a region (R388, R389, R395) -/

def regionWords (r : Nat) : List Nat := (List.range 64).map (64 * r + ·)

/-- CRC-32 over words 0 to 62, with the life-cycle code taken as 0. -/
def State.otpSeal (s : State) (r : Nat) : Word :=
  crc32 (wordBytes ((List.range 63).map fun i =>
    let v := s.otpVal (64 * r + i)
    if r = 2 ∧ i < 3 then v &&& 0xFFFFFFF0 else v))

/-- The state a copy of the thermometer code names. -/
def thermoCode (v : Word) : Option Nat :=
  match bits v 3 0 with
  | 0 => some 0
  | 1 => some 1
  | 3 => some 2
  | 7 => some 3
  | 15 => some 4
  | _ => none

/-- The most advanced valid copy. -/
def State.otpThermo (s : State) : Option Nat :=
  ([128, 129, 130].filterMap fun a => thermoCode (s.otpRawBits a)).foldl
    (fun m k => some (match m with | some x => max x k | none => k)) none

/-- The copies of the code, bits [3:0], disagree. -/
def State.otpCopiesDiffer (s : State) : Bool :=
  let c := fun a => bits (s.otpRawBits a) 3 0
  c 128 != c 129 || c 128 != c 130

/-- Every word of a region reads 0 normally. -/
def State.otpZero (s : State) (r : Nat) : Bool := (regionWords r).all fun a => s.otpNorm a == 0

/-- Word `a` is read in margin: every one by a scan (`full`); at the load the seal, the raw words and an all-zero region (R389). -/
def State.marginRead (s : State) (a : Nat) (full : Bool) : Bool := full || a % 64 == 63 || otpRaw a || s.otpZero (a / 64)

/-- A read of word `a` finds an uncorrectable error (R386). -/
def State.otpBroken (s : State) (a : Nat) (full : Bool) : Bool :=
  (s.otpWord a).isNone || (s.marginRead a full && !otpRaw a && (otpDecode (s.otpMarg a)).isNone)

/-- STATUS of a region: 0 BLANK, 1 VALID, 2 INVALID; 3 for region 15, which has no seal. -/
def State.otpStatus (s : State) (r : Nat) (full : Bool) : Nat :=
  let ws := regionWords r
  if r = 15 then 3
  else if ws.any (fun a => s.otpBroken a full) then 2
  else if s.otpZero r && ws.all (fun a => s.otpMarg a == 0) then 0
  else if s.otpVal (64 * r + 63) == s.otpSeal r && (r != 2 || s.otpThermo.isSome) then 1
  else 2

/-- The WEAK words of a region: corrected ones, and those whose reads differ, among the words read in margin: all in a scan; the
seal, the raw words and an all-zero region at the load (R387, R389). -/
def State.otpWeakWords (s : State) (r : Nat) (full : Bool) : List Nat :=
  (regionWords r).filter fun a =>
    (match s.otpWord a with | some (_, c) => c | none => false) ||
    (s.marginRead a full && (if otpRaw a then otpData (s.otpNorm a) != otpData (s.otpMarg a) else s.otpNorm a != s.otpMarg a))

/-! ### OTP_LOG (class B) -/

/-- The finding that gives way: the oldest WEAK entry, else the oldest. -/
def logVictim (l : List OtpLogE) : List OtpLogE :=
  let old := fun (l : List OtpLogE) => l.foldl (fun (m : Option OtpLogE) e =>
    some (match m with | some x => if e.time < x.time then e else x | none => e)) none
  match (old (l.filter fun e => e.kind == 1)).orElse fun _ => old l with
  | some e => l.erase e
  | none => l

/-- Record a finding: 1 WEAK, 2 INCOMPLETE, 3 FAILED. -/
def State.otpFinding (s : State) (a kind : Nat) (t : Time) : State :=
  let e : OtpLogE := ⟨a, kind, t⟩
  let same := fun (x : OtpLogE) => x.word == a && x.kind == kind
  let l := s.otp.log
  let new := if l.any same then l.map (fun x => if same x then e else x)
    else if l.length < 8 then l ++ [e] else logVictim l ++ [e]
  { s with otp := { s.otp with log := new } }

/-- A word done clears its entries. -/
def State.otpClear (s : State) (a : Nat) : State :=
  { s with otp := { s.otp with log := s.otp.log.filter fun x => x.word != a, weakSeen := s.otp.weakSeen.filter (· != a) } }

/-! ### Judgements (R391, R393, R395, R405) -/

def State.otpWl (s : State) (r : Nat) : Bool := s.otp.wl.getLsbD r
def State.otpRl (s : State) (r : Nat) : Bool := s.otp.rl.getLsbD r

/-- Lock bits found blown take effect and never fall (R392, R393). -/
def State.otpLocksNow (s : State) : State :=
  let g := fun (a : Nat) => (s.otpRawBits a ||| s.otpRawBits (a + 1) ||| s.otpRawBits (a + 2)).setWidth 16
  { s with otp := { s.otp with wl := s.otp.wl ||| g 960, rl := s.otp.rl ||| g 963 } }

/-- Region 2 as judged: the state never moves back. -/
def State.otpLifeNow (s : State) (status : Nat) : State :=
  { s with otp := { s.otp with
      lcBad := status == 2
      lc := max s.otp.lc (if status = 2 then 3 else s.otpThermo.getD 0) } }

/-- R391 asks for replacement: OTP_INVALID for region r, which is INVALID. -/
def State.otpInvalidBad (s : State) (r : Nat) : Bool := s.otpWl r || (decide (2 ≤ s.otp.lc) && decide (s.otp.lc ≤ 4)) || r == 2

/-- A newly found WEAK word (R405). -/
def State.otpWeakFound (s : State) (a : Nat) (t : Time) : State :=
  if s.otp.weakSeen.contains a then s
  else
    let s := { s.otpFinding a 1 t with otp := { (s.otpFinding a 1 t).otp with weakSeen := s.otp.weakSeen ++ [a] } }
    s.health 2 0x0A a (a / 256) t

/-- Judge region r after its words were read: status, WEAK words, locks and life cycle. `scan`: by a scan, else at the load. An
INVALID status is reported when it is new, and so is OTP_INVALID of R391. -/
def State.otpJudge (s : State) (r : Fin 16) (scan : Bool) (t : Time) : State :=
  let st := s.otpStatus r scan
  let weak := s.otpWeakWords r scan
  let was := s.otp.regions[r].now
  let wasBad := s.otp.regions[r].bad
  let any := (decide (st = 1) || r == 15 || r == 2) && (!weak.isEmpty || (r == 2 && s.otpCopiesDiffer))
  let s := s.modRegion r fun x =>
    { x with load := if scan then x.load else st, now := st, weak := any, weakCnt := min 255 weak.length }
  let s := if r = 2 then s.otpLifeNow st else s
  let s := if r = 15 then s.otpLocksNow else s
  let s := weak.foldl (fun s a => s.otpWeakFound a t) s
  let s := if st = 2 ∧ (¬ scan ∨ was ≠ 2) then s.raise 8 8 0x0A 0 (0xE0 + at_ r.val 8 + at_ (b2n scan) 12) t else s
  let bad := decide (st = 2) && s.otpInvalidBad r
  let s := s.modRegion r fun x => { x with bad := bad }
  if bad && (!scan || !wasBad) then s.health 3 0x0A r 0 t else s

/-- Judge every region: locks and life cycle first, on which R391 depends. -/
def State.otpJudgeAll (s : State) (scan : Bool) (t : Time) : State :=
  let s := (s.otpJudge 15 scan t).otpJudge 2 scan t
  forFin 16 s fun s r => if r = 15 ∨ r = 2 then s else s.otpJudge r scan t

/-! ### OTP_SHADOW_LOAD (R389, R390, R263, R414, R415) -/

/-- Words a region gives the shadow: those of a VALID region, and the readable ones of an INVALID region 4. -/
def State.shadowOf (s : State) (r : Fin 16) : List (Nat × Word) :=
  let st := s.otp.regions[r].load
  if st = 1 ∨ (st = 2 ∧ r = 4) then
    (regionWords r).filterMap fun a => match s.otpWord a with
      | some (d, _) => if d = 0 then none else some (a, d)
      | none => none
  else []

/-- Trims of the temperature sensors from region 1 (Tables 15.2 and 15.3). -/
def State.sensTrims (s : State) : Vector SensorSt 16 :=
  Vector.ofFn fun (i : Fin 16) =>
    let a := s.shadowW (64 + 2 * i.val)
    match s.otp.regions[1].load with
    | 1 => { s.thm.sens[i] with n0 := bits a 15 0, t0 := sgn (bits a 31 16) 16, k := f32v (s.shadowW (65 + 2 * i.val)) }
    | 2 => { s.thm.sens[i] with n0 := 10000, t0 := 560, k := mkRat (-16) 10 }
    | _ => { s.thm.sens[i] with n0 := 10000, t0 := 400, k := mkRat (-16) 10 }


/-- Thresholds above their ceilings are set to them (R263). -/
def State.lowerLevels (s : State) : State :=
  (List.range 4).foldl (fun s k =>
    if s.thmCeil k < s.rf regThmLvl k 7 0 then s.rsetF regThmLvl k 7 0 (s.thmCeil k) else s) s

/-- The label of R414. -/
def attestLabel : List Byte := [0x4B, 0x54, 0x34, 0x32, 0x30, 0x38, 0x20, 0x41, 0x54, 0x54, 0x45, 0x53, 0x54]

/-- The private scalar derived from the secret of region 3 (R414). -/
def State.attestScalar (s : State) : Nat :=
  let k := wordBytes ((List.range 8).map fun i => s.shadowW (192 + i))
  ofBe (hmac384 k (0x01 :: attestLabel) ++ hmac384 k (0x02 :: attestLabel)) % (p384N - 1) + 1

/-- The bytes of which R415 takes the digest. -/
def State.otpBytes (s : State) : List Byte :=
  (List.finRange 16).flatMap fun (r : Fin 16) =>
    let ws := (List.range 64).map fun i =>
      if r = 3 ∨ (s.otpRl r ∧ i < 63) then (0 : Word) else s.otpVal (64 * r.val + i)
    BitVec.ofNat 8 (if r = 15 then 1 else s.otp.regions[r].load) :: wordBytes ws

/-- The attestation key and the OTP digest of a load. -/
def State.loadKeys (s : State) : State :=
  let have_ := s.otp.regions[3].load == 1
  let d := if have_ then s.attestScalar else 0
  let (x, y) := if have_ then pubOf d else (0, 0)
  { s with msr := { s.msr with keyHave := have_, keyD := d, keyX := x, keyY := y, otpDigest := sha384 s.otpBytes } }

/-- BOOT_SEL (GLB_STRAPS). -/
def State.bootSel (s : State) : Bool := s.pcr.straps.getLsbD 0

/-- The boot ROM starts: with BOOT_SEL = 1 it awaits an image (R331). -/
def State.bootStart (s : State) : State :=
  if s.bootSel && !s.msr.measured then { s with msr := { s.msr with ready := true } } else s

/-- OTP_SHADOW_LOAD (R389): once after each release of a POR, BOR or PIN reset. -/
def execOtpShadowLoad (t : Time) (s : State) : Host.Outcome State Fault Refusal :=
  let s := s.adv t
  if s.otp.loaded || s.pcr.asserted.isSome then .next s
  else
    let s := { s with otp := { s.otp with lc := 0, lcBad := false, weakSeen := [], loaded := true, scanAt := s.time,
                                          scanBands := [] } }
    let s := s.otpJudgeAll false s.time
    let s := { s with otp := { s.otp with shadow := (List.finRange 16).flatMap s.shadowOf } }
    let s := { s with thm := { s.thm with sens := s.sensTrims } }
    .next (s.lowerLevels.loadKeys.bootStart.soloAlone s.time)

/-! ### Conditions of a burn (R269, R395, R397, R398) -/

/-- FIELD_EN of region r. -/
def State.fieldEn (s : State) (r : Nat) : Bool := (s.shadowW 448).getLsbD r

/-- Table 15.4 permits programming region r. -/
def State.lcProgram (s : State) (r : Nat) : Bool :=
  !s.otp.lcBad && r != 2 && r != 15 &&
  (match s.otp.lc with
   | 1 => true
   | 2 => (decide (4 ≤ r) && decide (r ≤ 13)) || s.fieldEn r
   | 3 => s.fieldEn r
   | _ => false)

/-- Debug and test access is open (Table 15.4, R394). -/
def State.debugOpen (s : State) : Bool := s.otp.loaded && !s.otp.lcBad && decide (s.otp.lc ≤ 1)

/-- An OTP operation runs or stays suspended (R397). -/
def State.otpBusy (s : State) : Bool := s.otp.burn.isSome || s.lopAny 0x30 || s.lopAny 0x32

/-- An OTP operation runs: OTP_STAT.BUSY. -/
def State.otpRuns (s : State) : Bool :=
  s.lopRuns 0x30 || s.lopRuns 0x32 || (match s.otp.burn with | some b => b.kind != 1 || b.slot == 8 | none => false)

/-- Every zone temperature of the latest round lies from 10 °C to 85 °C (R269). -/
def State.otpWin (s : State) : Bool :=
  s.thm.read && s.thm.zones.toList.all fun z => decide (160 ≤ z.temp) && decide (z.temp ≤ 1360)

/-- OTP_VPP, on the latest conversion of channel 0x49, lies from 2.425 V to 2.575 V (R398). -/
def State.vppOk (s : State) : Bool :=
  match alGet s.acq.latest 0x49 with
  | some l =>
    let v := intR l.s.code * mkRat 36 81920
    decide (mkRat 2425 1000 ≤ v) && decide (v ≤ mkRat 2575 1000)
  | none => false

/-! ### Burning (R398 to R401) -/

def State.modBurn (s : State) (f : BurnSt → BurnSt) : State := { s with otp := { s.otp with burn := s.otp.burn.map f } }

/-- OTP_LAST outcome of a final status and word outcome. -/
def lastOutcomeOf (st : BitVec 8) (o : Nat) : Nat :=
  if o = 4 then 6
  else if o = 2 then 7
  else if o = 1 then 8
  else if st = stRefusedTemp then 4
  else if st = stRefusedSupply then 5
  else if st = stOk then 0
  else 9

/-- What a lock or an advance leaves behind when it ends: locks and state as they now read. -/
def State.burnSeen (s : State) (kind : Nat) : State :=
  if kind = 3 then s.otpLocksNow
  else if kind = 5 then s.otpLifeNow (s.otpStatus 2 false)
  else s

/-- RESULT of OTP_PROGRAM. -/
def burnResult (b : BurnSt) (o : Nat) : Nat := b.done + at_ b.last 7 + at_ o 17

/-- An OTP burn ends with a status; `o` is the last word's outcome. -/
def State.burnEnd (s : State) (b : BurnSt) (st : BitVec 8) (o : Nat) : State :=
  let s := ({ s with otp := { s.otp with burn := none } }).burnSeen b.kind
  match b.kind with
  | 1 =>
    if b.slot = 8 then (match s.oldest 0x30 with | some c => s.finishW c st 0 | none => s)
    else s.lopEnd (Fin.ofNat 8 b.slot) st (burnResult b o)
  | 2 => { s with otp := { s.otp with lastRounds := b.rounds, lastOutcome := lastOutcomeOf st o } }
  | 3 =>
    match s.oldest 0x31 with
    | some c => s.finishW c st 0
    | none => s
  | _ =>
    match s.oldest 0x33 with
    | some c => s.finishW c st (if st = stOk then s.otp.lc else 0)
    | none => s

/-- Every word is done. -/
def State.burnOk (s : State) (b : BurnSt) : State :=
  match b.kind with
  | 3 =>
    let s := s.otpLocksNow
    let say := fun (s : State) (k : Nat) => if (b.target >>> k) % 2 = 1 then s.raise 8 8 0x0A 0 (0xE3 + at_ b.region 8 + at_ k 12) s.time else s
    let s := say (say s 0) 1
    let s := if b.force then
        (s.modRegion (Fin.ofNat 16 b.region) fun x => { x with forced := true }).raise 8 8 0x0A 0 (0xE5 + at_ b.region 8) s.time
      else s
    s.burnEnd b stOk 0
  | 5 =>
    let moved := decide (s.otp.lc < b.target)
    let s := { s with otp := { s.otp with lc := max s.otp.lc b.target } }
    let s := if moved then s.raise 8 8 0x0A 0 (0xE4 + at_ s.otp.lc 8) s.time else s
    s.burnEnd b stOk 0
  | _ => s.burnEnd b stOk 0

/-- Bits of a word that a burn must see: its data, and its check bits unless it is raw. -/
def otpMask (a : Nat) (v : BitVec 39) : BitVec 39 := if otpRaw a then v &&& 0xFFFFFFFF else v

/-- The target of a word: for a raw word, the bits to be burned added to those read. -/
def State.burnTarget (s : State) (a : Nat) (v : BitVec 39) : BitVec 39 :=
  if otpRaw a then otpMask a (v ||| s.otpNorm a ||| s.otpMarg a) else v

/-- Both reads equal the target. -/
def State.burnMet (s : State) (a : Nat) (tgt : BitVec 39) : Bool :=
  otpMask a (s.otpNorm a) == tgt && otpMask a (s.otpMarg a) == tgt

/-- The next word begins with its pre-check: life cycle, temperatures, and an urgent request for OTP_VPP (R398, R399). -/
def State.burnAsk (s : State) (b : BurnSt) : State :=
  match b.words with
  | [] => s.burnOk b
  | (a, _) :: _ =>
    let b0 := { b with rounds := 0, started := false, last := a, pre := true }
    let s := { s with otp := { s.otp with burn := some b0 } }
    if b.kind = 1 ∧ b.slot ≠ 8 ∧ ¬ s.lcProgram (a / 64) then s.burnEnd b0 stLifecycle 3
    else if !s.otpWin then s.burnEnd b0 stRefusedTemp 3
    else s.placeUrgent 42 0x49 false s.time

/-- A word is done: the operation goes on with the next one; OTP_PROGRAM pauses or ends between words (R399, Table 13.3). -/
def State.burnNext (s : State) (b : BurnSt) (a : Nat) (rest : List (Nat × BitVec 39)) : State :=
  let b1 := { b with words := rest, done := b.done + 1, started := false }
  let s := ({ s with otp := { s.otp with burn := some b1 } }).otpClear a
  if b.kind = 1 ∧ rest ≠ [] then
    let (s, go) := s.lopPause (Fin.ofNat 8 b.slot) b1.done (burnResult b1 0)
    if go then s.burnAsk b1 else s
  else s.burnAsk b1

/-- The word under way has passed its pre-check: it is read, its value checked; one already met is done without a round (R398). -/
def State.burnRead (s : State) (b : BurnSt) (a : Nat) (v : BitVec 39) (rest : List (Nat × BitVec 39)) : State :=
  let tgt := s.burnTarget a v
  if otpMask a (s.otpNorm a ||| s.otpMarg a) &&& ~~~tgt != 0 then s.burnEnd b stVerifyFail 4
  else if s.burnMet a tgt then s.burnNext b a rest
  else s.modBurn fun x => { x with started := true, words := (a, tgt) :: rest }

/-- OTP_VPP has been converted for the pre-check (R398, R399): its first word's accepts an OTP_PROGRAM. -/
def State.burnVpp (s : State) : State :=
  match s.otp.burn with
  | some b =>
    match b.words with
    | (a, v) :: rest =>
      if !b.pre then s
      else if !s.vppOk then s.burnEnd b stRefusedSupply 3
      else if b.kind = 1 ∧ b.slot = 8 then
        match s.oldest 0x30, s.freeSlot with
        | some c, some k =>
          let s := ({ s with host := { s.host with waiting := s.host.waiting.erase c } }).lopStart c
          let s := s.closeTry c.ring
          let b := { b with pre := false, slot := k.val }
          ({ s with otp := { s.otp with burn := some b } }).burnRead b a v rest
        | some c, none => ({ s with otp := { s.otp with burn := none } }).finishW c stRefusedState 15
        | none, _ => { s with otp := { s.otp with burn := none } }
      else
        let b := { b with pre := false }
        ({ s with otp := { s.otp with burn := some b } }).burnRead b a v rest
    | [] => s
  | none => s

/-- The burn under way is not suspended. -/
def State.burnLive (s : State) (b : BurnSt) : Bool := b.kind != 1 || b.slot == 8 || b.cut != 0 || s.host.lops[Fin.ofNat 8 b.slot].state != 2

/-- The word under way is cut short: INCOMPLETE, logged and raised (R400). -/
def State.burnIncomplete (s : State) (b : BurnSt) (t : Time) : State :=
  (s.otpFinding b.last 2 t).raise 8 8 0x0A 0 (0xE1 + at_ b.last 8) t

/-- The pulse that MGR let complete has ended, its word verified or not (R400, Table 15.5): the final completion of the command follows the
restart, with the last word handled. -/
def State.mgrBurnEnd (s : State) (b : BurnSt) (met : Bool) (t : Time) : State :=
  let s := if met then s.otpClear b.last else s.burnIncomplete b t
  let s := ({ s with otp := { s.otp with burn := none } }).burnSeen b.kind
  let r := if met then burnResult { b with done := b.done + 1 } 0 else burnResult b 1
  match b.kind with
  | 1 => s.modLop (Fin.ofNat 8 b.slot) fun l => { l with quit := r }
  | 2 => { s with otp := { s.otp with lastRounds := b.rounds, lastOutcome := if met then 0 else 8 } }
  | _ => s

/-- OTP_BURN_ROUND (R398): the verify reads after a pulse; a bit that reads 1 in margin reads 1 normally (R387). -/
def execOtpBurnRound (normal margin : BitVec 39) (t : Time) (s : State) : Host.Outcome State Fault Refusal :=
  let s := s.adv t
  match s.otp.burn with
  | some b =>
    match b.words with
    | (a, tgt) :: rest =>
      if !s.burnLive b || !b.started then .next s
      else
        let s := s.otpStore a (otpAfter (s.otpNorm a) (normal ||| margin) tgt) (otpAfter (s.otpMarg a) margin tgt)
        let n := b.rounds + 1
        let b := { b with rounds := n }
        let s := { s with otp := { s.otp with lastRounds := if b.kind = 2 then n else s.otp.lastRounds } }
        if b.cut = 1 then .next ((s.burnIncomplete b s.time).burnEnd b stAborted 1)
        else if b.cut = 2 then .next (s.mgrBurnEnd b (s.burnMet a tgt) s.time)
        else if s.burnMet a tgt then .next (s.burnNext b a rest)
        else if 8 ≤ n then
          let s := (s.otpFinding a 3 s.time).raise 8 8 0x0A 0 (0xE2 + at_ a 8) s.time
          .next (s.burnEnd b stVerifyFail 2)
        else .next (s.modBurn fun x => { x with rounds := n })
    | [] => .next s
  | none => .next s

/-- A burn is stopped at once (R400): the word cut short is INCOMPLETE, and the operation ends ABORTED. -/
def State.burnAbandon (s : State) (t : Time) : State :=
  match s.otp.burn with
  | some b => if b.started then (s.burnIncomplete b t).burnEnd b stAborted 1 else s.burnEnd b stAborted 3
  | none => s

/-- A thermal shutdown abandons a burn once the pulse in progress has completed (R266, step 2). -/
def State.burnTsd (s : State) (t : Time) : State :=
  match s.otp.burn with
  | some b => if b.started && s.burnLive b then (if b.cut = 0 then s.modBurn fun x => { x with cut := 1 } else s) else s.burnAbandon t
  | none => s

/-- A supply warning stops a pulse at once (R400); a suspended operation has none. -/
def State.burnSupply (s : State) (t : Time) : State :=
  match s.otp.burn with
  | some b => if s.burnLive b then s.burnAbandon t else s
  | none => s

/-- A reset cuts a burn: the word stays INCOMPLETE in OTP_LOG, and nothing completes (R400). -/
def State.burnCut (s : State) (t : Time) : State :=
  match s.otp.burn with
  | some b =>
    let s := if b.started then s.otpFinding b.last 2 t else s
    { s with otp := { s.otp with burn := none } }
  | none => s

/-- Start a burn. -/
def State.burnStart (s : State) (kind : Nat) (words : List (Nat × BitVec 39)) (slot region target : Nat) (force : Bool) : State :=
  s.burnAsk { kind := kind, words := words, rounds := 0, done := 0, slot := slot, region := region, target := target, force := force,
              started := false, last := 0, pre := true, cut := 0 }

/-- Why OTP_PROGRAM of region r is refused (R399). -/
def State.programRefusal (s : State) (r : Nat) : Option (BitVec 8) :=
  if !s.lcProgram r then some stLifecycle
  else if s.otpWl r then some stLocked
  else if s.otpBusy || decide (2 ≤ s.pwr) then some stRefusedState
  else if !s.otpWin then some stRefusedTemp
  else none

/-- OTP_PROGRAM (R399): a long operation, accepted once the pre-check of its first word has passed; `data` is what it fetches
(R357; log 159). -/
def execOtpProgram (q : CmdQ) (data : List Word) (s : State) : Host.Outcome State Fault Refusal :=
  let a := bits q.arg0 9 0
  let n := bits q.arg0 15 10 + 1
  let r := a / 64
  let ok := bits q.arg0 31 16 == 0 && q.arg1.toNat % 4 == 0 && (a + n - 1) / 64 == r && r != 2 && r != 15
  if s.waitsData q ok (s.programRefusal r).isSome then .next s
  else s.runCmd q 0x30 ok fun s c =>
    match s.programRefusal r with
    | some st => s.finish c st 0
    | none => (s.await c).burnStart 1 (data.zipIdx.map fun (d, i) => (a + i, otpCodeword (a + i) d)) 8 r 0 false

/-- OTP_LOCK (R394). -/
def execOtpLock (q : CmdQ) (s : State) : Host.Outcome State Fault Refusal :=
  let r := bits q.arg0 3 0
  let w := q.arg0.getLsbD 4
  let rd := q.arg0.getLsbD 5
  s.runCmd q 0x31 (bits q.arg0 31 9 == 0 && bits q.arg0 7 6 == 0 && q.arg1 == 0 && (w || rd) && !(rd && (r == 2 || r == 15))) fun s c =>
    let valid := r == 15 || s.otpStatus r false == 1
    let force := c.arg0.getLsbD 8 && s.otp.lc == 1
    if s.otp.lc == 0 || s.otp.lc == 4 || s.otp.lcBad then s.finish c stLifecycle 0
    else if s.otpWl 15 then s.finish c stLocked 0
    else if s.otpBusy || decide (2 ≤ s.pwr) then s.finish c stRefusedState 0
    else if !s.otpWin then s.finish c stRefusedTemp 0
    else if !valid && !force then s.finish c stLockIncomplete 0
    else
      let bit : BitVec 39 := 1#39 <<< r
      let words := (if w then [960, 961, 962] else []) ++ (if rd then [963, 964, 965] else [])
      (s.await c).burnStart 3 (words.map fun a => (a, bit)) 0 r (b2n w + 2 * b2n rd) (force && !valid)

/-- Regions judge VALID on a fresh read with their write locks blown. -/
def State.sealed (s : State) (l : List Nat) : Bool := l.all fun r => s.otpStatus r false == 1 && s.otpWl r

/-- LIFECYCLE_ADVANCE (R396). -/
def execLifecycleAdvance (q : CmdQ) (s : State) : Host.Outcome State Fault Refusal :=
  let k := bits q.arg0 2 0
  s.runCmd q 0x33 (bits q.arg0 31 3 == 0 && q.arg1 == 0 && k != 0 && decide (k ≤ 4)) fun s c =>
    if decide (k < s.otp.lc) || (s.otp.lc == 0 && k != 1) || s.otp.lc == 4 || s.otp.lcBad then s.finish c stLifecycle 0
    else if decide (2 ≤ k) && !(s.sealed [0, 1, 3] && s.otpRl 3) then s.finish c stRefusedState 1
    else if decide (3 ≤ k) && !s.sealed [4, 7] then s.finish c stRefusedState 2
    else if s.otpBusy || decide (2 ≤ s.pwr) then s.finish c stRefusedState 3
    else if !s.otpWin then s.finish c stRefusedTemp 0
    else
      let code : BitVec 39 := BitVec.ofNat 39 (2 ^ k - 1)
      let seal_ := if s.otp.lc = 0 then [(191, otpCodeword 191 (s.otpSeal 2))] else []
      (s.await c).burnStart 5 ([(128, code), (129, code), (130, code)] ++ seal_) 0 2 k false

/-! ### OTP_CMD (R401, R402) -/

/-- A read of OTP_ADDR into OTP_DATA, OTP_CHECK and OTP_LAST. It is permitted while an operation runs (R402 over R401: log 29). -/
def State.otpCmdRead (s : State) (margin : Bool) : State :=
  let a := s.rf regOtpAddr 0 9 0
  if s.pwr == 3 then s
  else if s.otpRl (a / 64) then
    let s := s.rset regOtpData 0 0
    { s with otp := { s.otp with check := 0, lastOutcome := 1, lastWeak := false } }
  else
    let c := if margin then s.otpMarg a else s.otpNorm a
    let d := if otpRaw a then otpData c else match otpDecode c with | some (d, _) => d | none => otpData c
    let s := s.rset regOtpData 0 d
    { s with otp := { s.otp with check := if otpRaw a then 0 else otpChk c, lastOutcome := 0,
                                 lastWeak := otpMask a (s.otpNorm a) != otpMask a (s.otpMarg a) } }

/-- OTP_CMD_READ (R402). -/
def execOtpCmdRead (t : Time) (s : State) : Host.Outcome State Fault Refusal :=
  s.onRegs t fun s => s.otpCmdRead false

/-- OTP_CMD_MARGIN (R402). -/
def execOtpCmdMargin (t : Time) (s : State) : Host.Outcome State Fault Refusal :=
  s.onRegs t fun s => s.otpCmdRead true

/-- A program of OTP_ADDR with OTP_DATA; a refusal is reported in OTP_LAST. -/
def State.otpCmdProgram (s : State) : State :=
  let a := s.rf regOtpAddr 0 9 0
  let r := a / 64
  let no := fun (o : Nat) => { s with otp := { s.otp with lastOutcome := o, lastRounds := 0 } }
  if s.otpRuns then s.writeReject
  else if !s.lcProgram r then no 3
  else if s.otpWl r then no 2
  else if s.otpBusy || decide (2 ≤ s.pwr) then no 9
  else if !s.otpWin then no 4
  else s.burnStart 2 [(a, otpCodeword a (s.rget regOtpData 0))] 0 r 0 false

/-- OTP_CMD_PROGRAM (R401). -/
def execOtpCmdProgram (t : Time) (s : State) : Host.Outcome State Fault Refusal :=
  s.onRegs t State.otpCmdProgram

/-! ### Scans (R403, R404) -/

/-- Regions a scan mask names: 0 names all. -/
def scanRegions (mask : Nat) : List (Fin 16) := (List.finRange 16).filter fun r => mask == 0 || (mask >>> r.val) % 2 == 1

/-- OTP_MARGIN_SCAN (R403). -/
def execOtpMarginScan (q : CmdQ) (s : State) : Host.Outcome State Fault Refusal :=
  s.runCmd q 0x32 (bits q.arg0 31 16 == 0 && q.arg1 == 0) fun s c =>
    if s.otpBusy then s.finish c stRefusedState 0 else s.lopStart c

/-- RESULT of a scan of the first `n` regions of a list. -/
def State.scanResult (s : State) (l : List (Fin 16)) : Nat :=
  let m := fun (p : Fin 16 → Bool) => l.foldl (fun a r => if p r then a + 2 ^ r.val else a) 0
  m (fun _ => true) + at_ (m fun r => s.otp.regions[r].weakCnt != 0 || s.otp.regions[r].weak) 16 +
    at_ (m fun r => s.otp.regions[r].now == 2) 32

/-- SCAN_REGION_DONE (R403). -/
def execScanRegionDone (t : Time) (s : State) : Host.Outcome State Fault Refusal :=
  let s := s.adv t
  match s.running 0x32 with
  | some k =>
    let l := scanRegions (bits s.host.lops[k].arg0 15 0)
    let n := s.host.lops[k].phase
    match l[n]? with
    | some r =>
      let s := (s.otpJudge r true s.time).modLop k fun x => { x with phase := n + 1 }
      let res := s.scanResult (l.take (n + 1))
      if n + 1 < l.length then .next (s.lopPause k (n + 1) res).1 else .next (s.lopEnd k stOk res)
    | none => .next (s.lopEnd k stOk (s.scanResult l))
  | none => .next s

/-- The 20 °C band of a zone temperature, and a temperature at least 2 °C past that band's edges (R404). -/
def bandOf (t : Int) : Int := t / 320
def bandLeft (b t : Int) : Bool := decide (320 * (b + 1) + 32 ≤ t) || decide (t ≤ 320 * b - 32)

/-- A Gleaner scan is due. -/
def State.gleanDue (s : State) : Bool :=
  decide (s.otp.scanAt + 60 * s1 ≤ s.time) ||
  (s.otp.scanBands.zip (s.thm.zones.toList.map (·.temp))).any fun (b, t) => bandLeft b t

/-- A scan that falls due stays due (R404). -/
def State.scanNote (s : State) : State :=
  if s.otp.loaded && s.gleanDue then { s with otp := { s.otp with scanDue := true } } else s

/-- GLEANER_SCAN_DUE (R404): it waits while an OTP operation runs or is suspended (R397). -/
def execGleanerScanDue (t : Time) (s : State) : Host.Outcome State Fault Refusal :=
  let s := (s.adv t).scanNote
  if s.otp.loaded && !s.otpBusy && s.pwr != 3 && s.pcr.asserted.isNone && s.otp.scanDue then
    let s := s.otpJudgeAll true s.time
    .next { s with otp := { s.otp with scans := (s.otp.scans + 1) % 65536, scanAt := s.time, scanDue := false,
                                       scanBands := if s.thm.read then s.thm.zones.toList.map fun z => bandOf z.temp else [] } }
  else .next s

/-! ### Conversions -/

/-- HOUSEKEEPING_CONVERSION (R185, R191, R193 to R199): a scheduled or host-urgent conversion of a housekeeping or voltage channel, where its
converter is free for it; or the urgent one of OTP_VPP that a pre-check asks for (R398). -/
def execHousekeepingConversion (chan : BitVec 8) (raw : Int) (track : Time) (s : State) : Host.Outcome State Fault Refusal :=
  let s := s.adv track
  let c := chan.toNat
  let n := convOf c
  let hk := decide (0x40 ≤ c) && decide (c ≤ 0x55)
  let vc := decide (0x10 ≤ c) && decide (c ≤ 0x2F)
  let w : Fin 8 := Fin.ofNat 8 ((c - 0x10) / 4)
  let k := (c - 0x10) % 4
  let cal := s.calRuns && !(c == 0x49 && s.calServes track)
  if decide (2 ≤ s.pcr.state) || cal || s.pcr.asserted.isSome || !s.convFree n track || !(hk || vc) then .next s
  else
    match s.urgentAt n track with
    | some u =>
      if u.chan == c && (u.host || c == 0x49) then
        let (s, x) := if hk then s.hkResult c raw track false else s.vcResult w k raw track
        .next (if u.host then s.answerUrgent u x else (s.dropUrgent u).burnVpp)
      else .next s
    | none =>
      if s.urgentHeld n track then .next s
      else if hk then
        let i : Fin 22 := Fin.ofNat 22 (c - 0x40)
        if s.hkTakes i track then .next ((s.hkServed i).hkResult c raw (s.hkSlot i) true).1 else .next s
      else if k = 3 && s.refTakes w track then
        .next ({ s with acq := { s.acq with refAt := s.acq.refAt.set w track } }.vcResult w k raw track).1
      else .next s

/-! ### RESUME -/

/-- A resumed OTP_PROGRAM starts its next word, judging Table 15.4 again (Table 15.5). -/
def State.burnResume (s : State) : State :=
  match s.otp.burn with
  | some b => if b.kind = 1 then s.burnAsk b else s
  | none => s

end Sys2Proof.Machine
end

