-- ==== Sys2Proof/Machine/Thermal.lean ====
section
/-! DEFINITION. Thermal.lean: temperature sensors, zones, alarms and the orderly shutdown (chapter 10). Temperatures are in 1/16 °C. -/
namespace Sys2Proof.Machine

/-! ### Readings (R258 to R260) -/

/-- The reading of a count, before it is rounded to 1/16 °C (log 14). -/
def SensorSt.reads (x : SensorSt) (n : Nat) : Rat := intR x.t0 + x.k * intR ((n : Int) - x.n0)

/-- Cause for which a reading breaks a sensor: 1 range, 2 rate, 0 none. -/
def SensorSt.breaks (x : SensorSt) (n : Nat) : Nat :=
  let t := x.reads n
  if t < -960 ∨ 3200 < t then 1
  else if x.have_ ∧ 328 ≤ (roundR t - x.temp).natAbs then 2
  else 0

/-- A sensor takes a reading; true when it breaks on it. -/
def SensorSt.take (x : SensorSt) (n : Nat) : SensorSt × Bool :=
  let c := x.breaks n
  let new := !x.broken && c != 0
  ({ x with temp := roundR (x.reads n), have_ := true, broken := x.broken || new, cause := if new then c else x.cause }, new)

/-- A threshold of Table 10.1 in 1/16 °C: 0 TW1, 1 DR_START, 2 DR_FULL, 3 TSD, 4 THW. -/
def State.thmLvl (s : State) (k : Nat) : Int := 16 * (s.rf regThmLvl k 7 0 : Int)

/-- The two sensors of a zone. -/
def sensOf (z : Fin 8) (k : Nat) : Fin 16 := Fin.ofNat 16 (2 * z.val + k)

/-- Broken sensors of a zone. -/
def State.zoneBroken (s : State) (z : Fin 8) : Nat := b2n s.thm.sens[sensOf z 0].broken + b2n s.thm.sens[sensOf z 1].broken

/-- The temperature of a zone (R260). -/
def State.zoneTemp (s : State) (z : Fin 8) : Int :=
  let a := s.thm.sens[sensOf z 0]
  let b := s.thm.sens[sensOf z 1]
  if a.broken && b.broken then s.thmLvl 3
  else if a.broken then b.temp + 160
  else if b.broken then a.temp + 160
  else max a.temp b.temp

/-- The zone that gives T_die: the lowest among equals. -/
def State.hotZone (s : State) : Fin 8 :=
  (List.finRange 8).foldl (fun h z => if s.thm.zones[h].temp < s.thm.zones[z].temp then z else h) 0

/-! ### Alarms (R264, R265) -/

/-- Counts of one threshold after a round: rounds at or above it, rounds below it less 3 °C. -/
def alarmCount (t lvl : Int) (up dn : Nat) : Nat × Nat :=
  if lvl ≤ t then (min 3 (up + 1), 0) else if t < lvl - 48 then (0, min 3 (dn + 1)) else (0, 0)

def ZoneSt.round (z : ZoneSt) (t tw1 tsd : Int) : ZoneSt :=
  let (a, b) := alarmCount t tw1 z.tw1Up z.tw1Dn
  let (c, d) := alarmCount t tsd z.tsdUp z.tsdDn
  { z with temp := t, tw1Up := a, tw1Dn := b, tsdUp := c, tsdDn := d }

/-- DETAIL of a thermal event (R270). -/
def thmDetail (code idx : Nat) (temp : Int) : Nat := code + at_ idx 8 + at_ (uns temp 16) 16

/-- The device TSD alarm, TW1 alarm. -/
def State.tsdAlarm (s : State) : Bool := s.thm.zones.toList.any (·.tsd)
def State.tw1Alarm (s : State) : Bool := s.thm.zones.toList.any (·.tw1)

/-- The orderly sequence runs or its hold is in force, or its first step is due (R268). -/
def State.thmSeq (s : State) : Bool := s.thm.shutRun || s.thm.shutHeld || s.thm.seqDue

/-- Every zone is below min(125 °C, TSD − 10 °C) (R268). -/
def State.exitCool (s : State) : Bool :=
  let lim := min 2000 (s.thmLvl 3 - 160)
  s.thm.zones.toList.all fun z => decide (z.temp < lim)

/-- The exit condition after a round. -/
def State.exitRound (s : State) : State :=
  if !s.thmSeq then s
  else if s.exitCool then
    let n := min 977 (s.thm.exitCnt + 1)
    { s with thm := { s.thm with exitCnt := n, exitDue := s.thm.exitDue || (decide (977 ≤ n) && !s.thm.exitMet) } }
  else { s with thm := { s.thm with exitCnt := 0, exitMet := false, exitDue := false } }

/-- The sensors, not broken, whose reading is at or above THW. -/
def State.hotSensors (s : State) : List (Fin 16) :=
  (List.finRange 16).filter fun (i : Fin 16) => !s.thm.sens[i].broken && decide (s.thmLvl 4 ≤ s.thm.sens[i].temp)

/-- A new reading of every sensor, stamped `t`; each at or above THW raises THW (R265). -/
def State.thmRound (s : State) (counts : List Nat) (t : Time) : State :=
  let s := forFin 16 s fun s i =>
    let (x, new) := s.thm.sens[i].take (counts.getD i.val 0)
    let s := { s with thm := { s.thm with sens := s.thm.sens.set i x } }
    if new then s.health 1 0x09 i.val 0 (t + us1) else s
  let s := forFin 8 s fun s z => s.modZone z fun x => x.round (s.zoneTemp z) (s.thmLvl 0) (s.thmLvl 3)
  let s := { s with thm := { s.thm with read := true, readAt := t, lastRound := s.lastHr,
                                        tNew := some (s.spAfter (t + us1), s.thm.zones[s.hotZone].temp) } }
  let s := s.exitRound.scanNote
  s.hotSensors.foldl (fun s i =>
    let s := { s with thm := { s.thm with thw := true } }
    (s.raise 1 8 9 6 (thmDetail 0xA3 i.val s.thm.sens[i].temp) t).reactF5 0xA3 t) s

/-- THERMAL_READING (R258 to R261, R265): the gate of the present round ends. One reading a round; none in DEEP (R262). -/
def execThermalReading (counts : List Nat) (s : State) : Host.Outcome State Fault Refusal :=
  if (s.thm.read ∧ s.thm.lastRound = s.lastHr) ∨ s.pcr.state = 3 ∨ s.pcr.asserted.isSome then .next s
  else
    let t := max s.time (s.lastHr + 50 * us1)
    .next ((s.adv t).thmRound counts t)

/-- T_die reaches the machine cells (R261). -/
def State.thmToCells (s : State) (b : Time) : State :=
  match s.thm.tNew with
  | some (t, x) => if t ≤ b then { s with thm := { s.thm with tDie := x, tNew := none } } else s
  | none => s

/-- TW1_SET (R264). -/
def execTw1Set (z : Fin 8) (s : State) : Host.Outcome State Fault Refusal :=
  let x := s.thm.zones[z]
  if !x.tw1 && decide (3 ≤ x.tw1Up) then
    .next ((s.modZone z fun x => { x with tw1 := true }).raise 3 8 9 0 (thmDetail 0xA0 z.val x.temp) s.thm.readAt)
  else .next s

/-- TW1_CLEAR (R264). -/
def execTw1Clear (z : Fin 8) (s : State) : Host.Outcome State Fault Refusal :=
  let x := s.thm.zones[z]
  if x.tw1 && decide (3 ≤ x.tw1Dn) then
    .next ((s.modZone z fun x => { x with tw1 := false }).raise 3 8 9 0 (thmDetail 0xA1 z.val x.temp) s.thm.readAt)
  else .next s

/-! ### Orderly shutdown (R266 to R268) -/

/-- Calibrations, self tests and link tests end ABORTED (step 4). -/
def State.abortTests (s : State) : State :=
  forFin 8 s fun s k =>
    let l := s.host.lops[k]
    if l.state != 0 && (l.opc == 0x20 || l.opc == 0x40 || l.opc == 0x41) then s.lopQuit k stAborted l.quit else s

/-- Step 1 for one machine: it decelerates with `cause` where it may, in CAPTURE and LOST only where a deceleration is in progress already; else it
goes to its safe state. -/
def State.stopOrSafe (s : State) (m : Fin 2) (decel : Bool) (cause detail : Nat) (t : Time) : State :=
  let st := s.mach[m].trk.state
  let d := s.mach[m].decel
  if s.mach[m].sup.safe.isSome then s
  else if decel && !s.mach[m].trk.stopping && (st == .locked || st == .low || d.active || d.startDue.isSome) then s.startDecel m cause t
  else s.machSafe m 0 detail false t

/-- Steps 1, 2 and 4 at the boundary `t`. -/
def State.thmStart (s : State) (t : Time) : State :=
  let s := { s with thm := { s.thm with seqDue := false, shutRun := true, tmaxExp := false, yielding := false } }
  let s := s.confMach.foldl (fun s m => s.stopOrSafe m (!s.rb regThmCfg 0 0) 3 0xA2 t) s
  (s.burnTsd t).abortTests

/-- The sequence where R238 applies: steps 2 and 4 at once, then step 5. -/
def State.thmYield (s : State) (t : Time) : State :=
  let s := s.yield238 false t
  let s := { s with thm := { s.thm with seqDue := false, shutRun := true, tmaxExp := false, yielding := true, seqAt := t } }
  (s.burnTsd t).abortTests

/-- Take the first step of a sequence whose boundary has come. -/
def State.thmStep (s : State) (b : Time) : State := if s.thm.seqDue && decide (s.thm.seqAt ≤ b) then s.thmStart b else s

/-- TSD (R264, R266): the zone's alarm asserts; the first one asserts the device alarm, class F4. -/
def execTsd (z : Fin 8) (s : State) : Host.Outcome State Fault Refusal :=
  let x := s.thm.zones[z]
  if !x.tsd && decide (3 ≤ x.tsdUp) then
    let first := !s.tsdAlarm
    let s := s.modZone z fun x => { x with tsd := true }
    if !first then .next s
    else
      let t := s.thm.readAt
      let s := (s.raise 1 8 9 5 (thmDetail 0xA2 z.val x.temp) t).mbrk true
      if s.thmSeq || s.sup.f5 then .next s
      else
        let s := { s with thm := { s.thm with exitCnt := 0, exitMet := false, exitDue := false } }
        if s.yields then .next (s.thmYield t)
        else .next { s with thm := { s.thm with seqDue := true, seqAt := s.fpAfter t } }
  else .next s

/-- TSD_ALARM_RELEASE (R264): no effect on the sequence or its hold. -/
def execTsdAlarmRelease (z : Fin 8) (s : State) : Host.Outcome State Fault Refusal :=
  let x := s.thm.zones[z]
  if x.tsd && decide (3 ≤ x.tsdDn) then .next (s.modZone z fun x => { x with tsd := false }) else .next s

/-- TSD_TMAX in `Time` units. -/
def State.tsdTmax (s : State) : Time := 10 * ms1 * s.rf regThmCfg 0 23 8

/-- TSD_TMAX_EXPIRY (R266, step 3): every machine still driving goes to its safe state. -/
def execTsdTmaxExpiry (s : State) : Host.Outcome State Fault Refusal :=
  if s.thm.shutRun && !s.thm.yielding && s.confMach.any fun m => s.mach[m].sup.safe.isNone then
    let t := max s.time (s.thm.seqAt + s.tsdTmax)
    let s := s.adv t
    let s := { s with thm := { s.thm with tmaxExp := true } }
    .next (s.confMach.foldl (fun s m => if s.mach[m].sup.safe.isNone then s.machSafe m 0 0xA2 false t else s) s)
  else .next s

/-- Every command whose execution has begun has completed, a long operation that runs too; a fence of a stopped ring never does (R352), and a suspended
operation does not by itself. -/
def State.begunDone (s : State) : Bool :=
  s.host.lops.toList.all (fun l => l.state != 1 && l.state != 3) &&
  s.host.waiting.all (fun c => c.opc == 0x01 && s.host.rings[cqIdx c.ring].stopped) && s.host.cpls.isEmpty

/-- SHUTDOWN_DONE (R266, step 5): it follows every completion and event; the hold is then in force. -/
def execShutdownDone (t : Time) (s : State) : Host.Outcome State Fault Refusal :=
  let s := s.adv t
  if s.thm.shutRun && (s.thm.yielding || s.confMach.all fun m => s.mach[m].sup.safe.isSome) && s.begunDone then
    let s := { s with thm := { s.thm with shutRun := false, shutHeld := true, yielding := false }, sup := { s.sup with f4 := true } }
    .next (s.raise 3 8 9 0 (0xA4 + at_ (b2n s.thm.tmaxExp) 8) s.time)
  else .next s

/-- EXIT_MET (R268). -/
def execExitMet (s : State) : Host.Outcome State Fault Refusal :=
  if s.thm.exitDue && s.thmSeq then
    let s := { s with thm := { s.thm with exitDue := false, exitMet := true } }
    .next (s.raise 3 8 9 0 (thmDetail 0xA5 s.hotZone.val s.thm.zones[s.hotZone].temp) s.thm.readAt)
  else .next s

end Sys2Proof.Machine
end

