-- ==== Sys2Proof/Machine/Nodes.lean ====
section
/-! DEFINITION. Nodes.lean: node space: reading and writing single nodes, block transfers, integrity (R364 to R373). -/
namespace Sys2Proof.Machine

/-! ### The node map (Table 14.1) -/

/-- The row of a node: 0 cogging, 1 friction, 2 shape, 3 banks, 4 set-cell live, 5 machine-cell live, 6 reserved, 7 ledger, 8 none. -/
def nodeRow (id : Nat) : Nat :=
  if id < 0x10000 then 0
  else if id < 0x14000 then 1
  else if id < 0x18000 then 2
  else if id < 0x19000 then 3
  else if id < 0x19200 then 4
  else if id < 0x19280 then 5
  else if id < 0x1A000 then 6
  else if id < 0x1A800 then 7
  else 8

/-- What a node accepts: a binary32 value in a range, any finite binary32, an unsigned value in a range, any word. -/
inductive NodeKind where
  | real (mn mx : Rat)
  | finite
  | nonneg
  | nat (mn mx : Nat)
  | word
  deriving DecidableEq, Repr

/-- Valid columns of Table 5.3 and Table 4.2. -/
def machKinds : List NodeKind :=
  [.real (mkRat 1 1000) 1000, .real 1 2000, .real 1 10000000, .real (mkRat 1 100) 100000, .real (mkRat 1 100) 100000,
   .real (mkRat 1 10) 2500, .real (mkRat 5 10) 1, .real 0 100000, .real 0 10000000, .real (mkRat 1 10000) 10,
   .real 10 10000, .real 10 10000, .real 0 10000, .real 0 1000000, .real (mkRat 1 10000) 10,
   .real 1000 10000000, .real 1000 10000000, .real (mkRat 1 10) 100, .real 40 175, .real 40 175,
   .real 0 1000000, .real 0 5, .real 0 10000, .real 0 2, .real 0 2, .real (mkRat 1 100) 100, .real (-1000000) 1000000, .nat 0 1]
def setKinds : List NodeKind :=
  [.real (mkRat 1 1000000) (mkRat 1 10), .real (mkRat 1 10000) 10, .real (mkRat 1 1000) 100, .real 0 20,
   .real (mkRat 25 100) 1, .real 1 4, .real (mkRat 25 100) 1, .real 1 4, .real 0 (mkRat 5 10), .real 0 (mkRat 5 100),
   .real 0 2000, .real (mkRat 5 10) 500, .real (mkRat 5 10) 500, .real (mkRat 5 10) 500, .real (mkRat 125 100) 8,
   .real 500 40000, .real 0 1, .real (mkRat 5 10000000) (mkRat 500 1000000), .real (mkRat 5 10000000) (mkRat 500 1000000),
   .real 0 1000000, .real 0 (mkRat 5 10), .nat 1 1000]

/-- What a writable node accepts; none for a node that is reserved or not writable. -/
def nodeKind (id : Nat) : Option NodeKind :=
  match nodeRow id with
  | 0 => some (.real (-2000) 2000)
  | 1 => some (.real 0 2000)
  | 2 => some (.real (-4) 4)
  | 3 =>
    let o := id % 0x400
    if o < 0x200 then machKinds[o]? else if o < 0x300 then setKinds[o % 0x40]? else none
  | 5 => if id % 0x40 = 0x12 then some .finite else if id % 0x40 = 0x13 then some .nonneg else none
  | 7 =>
    if id < 0x1A0C0 then some .word
    else if 0x1A100 ≤ id ∧ id < 0x1A280 then
      (let b := id % 0x10
       if b < 8 then some .word else if b < 10 then some .finite else none)
    else none
  | _ => none

/-- Checks 2 and 3 of Table 14.2: a decimal bound is the nearest binary32 number (log 30). -/
def NodeKind.ok (k : NodeKind) (v : Word) : Bool :=
  match k with
  | .real mn mx => match f32 v with | some x => decide (rnd mn ≤ x) && decide (x ≤ rnd mx) | none => false
  | .finite => (f32 v).isSome
  | .nonneg => match f32 v with | some x => decide (0 ≤ x) | none => false
  | .nat mn mx => decide (mn ≤ v.toNat) && decide (v.toNat ≤ mx)
  | .word => true

/-! ### Reading (R101, R152, R366) -/

def Reg.code : Reg → Nat
  | .off => 0
  | .on => 1
  | .freewheel => 2
  | .decay => 3

/-- Set-cell live nodes (Table 4.3). -/
def State.setLive (s : State) (w : Fin 8) (o : Nat) : Word :=
  let c := s.sets[w].cell
  match o with
  | 0x00 => toF32 c.iDec
  | 0x01 => toF32 c.iProj
  | 0x02 => toF32 c.iRef
  | 0x03 => toF32 c.resid
  | 0x04 => toF32 c.lEst
  | 0x05 => toF32 c.rEst
  | 0x06 => toF32 c.h
  | 0x07 => toF32 c.fsw
  | 0x08 => toF32 c.ePair
  | 0x09 => BitVec.ofNat 32 c.state.code
  | _ => 0

/-- Machine-cell live nodes (Table 5.5). -/
def State.machLive (s : State) (m : Fin 2) (o : Nat) : Word :=
  let l := s.mach[m].loop
  match o with
  | 0x00 => toF32 l.target
  | 0x01 => toF32 l.r
  | 0x02 => toF32 l.fLim
  | 0x03 => toF32 l.pTq
  | 0x04 => toF32 l.pSpd
  | 0x05 => toF32 l.pVdc
  | 0x06 => toF32 l.pThm
  | 0x07 => toF32 l.pPwr
  | 0x08 => toF32 l.d
  | 0x09 => toF32 l.ff
  | 0x0A => toF32 l.iSpd
  | 0x0B => toF32 l.iVu
  | 0x0C => toF32 l.iVl
  | 0x0D => toF32 l.blendOfs
  | 0x0E => toF32 l.iRef
  | 0x0F => BitVec.ofNat 32 l.winner
  | 0x10 => BitVec.ofNat 32 l.nH
  | 0x11 => toF32 l.mechAng
  | 0x12 => s.hostSpS m
  | 0x13 => s.hostAuxS m
  | _ => 0

/-- The value of a node: live at the latest boundary of its kind, else the word last written; reserved nodes hold 0. -/
def State.nodeRead (s : State) (id : Nat) : Word :=
  match nodeRow id with
  | 4 => s.setLive (Fin.ofNat 8 ((id - 0x19000) / 0x40)) (id % 0x40)
  | 5 => s.machLive (Fin.ofNat 2 ((id - 0x19200) / 0x40)) (id % 0x40)
  | _ => s.nodeW id

/-- The value of a node in the snapshot of the latest FP boundary, which a record takes and a trigger judges (R375, R377). -/
def State.nodeTap (s : State) (id : Nat) : Word :=
  if nodeRow id = 4 ∨ nodeRow id = 5 then s.nodeRead id else s.nodeSnap id

/-- The value that a store copies (R371): live and ledger nodes from one FP boundary, any other as it stands. -/
def State.nodeCopy (s : State) (id : Nat) : Word :=
  if nodeRow id = 7 then s.nodeSnap id else s.nodeRead id

/-- NODE_READ (R366, R372). -/
def execNodeRead (q : CmdQ) (s : State) : Host.Outcome State Fault Refusal :=
  let id := bits q.arg0 16 0
  s.runCmd q 0x08 (bits q.arg0 31 17 == 0 && q.arg1 == 0 && decide (id < 0x1A800)) fun s c =>
    if s.pwr == 3 then s.finish c stRefusedState 0
    else if s.poisoned id then s.finish c stVerifyFail id
    else s.finish c stOk (s.nodeRead id).toNat

/-! ### Writing (R367 to R369, R255) -/

/-- Banks of machine m that are protected (R368). -/
def State.protectedBank (s : State) (m : Fin 2) (b : Nat) : Bool :=
  (b == s.bankOf m && !s.idleWindow) || (b != s.bankOf m && s.mach[m].loop.swap)

/-- The node lies in a protected bank. -/
def State.nodeProtected (s : State) (id : Nat) : Bool :=
  (List.finRange 2).any fun m => [0, 1].any fun b => s.protectedBank m b && touchesBank m b id 1

/-- Checks 4 to 7 of Table 14.2 refuse a write of the node. -/
def State.nodeRefused (s : State) (id : Nat) : Bool :=
  s.nodeProtected id || (nodeRow id == 7 && !s.idleWindow) || (nodeRow id == 5 && !s.owner) || s.pwr == 3

/-- Land a word in a node: a late view for the engines (R27, R29), the carried charge of a Q node discarded (R253), the watchdog
fed by a host node (R128), the poison mark cleared (R372). -/
def State.nodeWrite (s : State) (id : Nat) (v : Word) : State :=
  let s := { s with ecc := { s.ecc with poison := s.ecc.poison.filter (· != id) } }
  match nodeRow id with
  | 5 =>
    let m : Fin 2 := Fin.ofNat 2 ((id - 0x19200) / 0x40)
    let s := if id % 0x40 = 0x12 then s.setHost m v s.mach[m].src.hostAux else s.setHost m s.mach[m].src.hostSp v
    s.wdFeed m
  | 7 =>
    let s := s.ledgerPut id v
    if id < 0x1A0C0 ∧ 2 ≤ id % 4 then
      { s with sup := { s.sup with qFrac := s.sup.qFrac.set (Fin.ofNat 48 ((id - 0x1A000) / 4)) 0 } }
    else s
  | _ => (s.lateNote id (s.nodeW id)).nodeSet id v

/-- NODE_WRITE (R367). -/
def execNodeWrite (q : CmdQ) (s : State) : Host.Outcome State Fault Refusal :=
  let id := bits q.arg0 16 0
  let v := q.arg1.extractLsb' 0 32
  let ok := bits q.arg0 31 17 == 0 && q.arg1.extractLsb' 32 32 == 0 && (match nodeKind id with | some k => k.ok v | none => false)
  s.runCmd q 0x09 ok fun s c =>
    if s.nodeRefused id then s.finish c stRefusedState 0 else (s.nodeWrite id v).finish c stOk 0

/-! ### Block transfers (R370, R371) -/

/-- The block of a transfer: first node, number of nodes. -/
def blockOf (a : Word) : Nat × Nat := (bits a 16 0, 4 * bits a 31 17)

/-- The rules of R370 that a block must meet. -/
def blockOk (a : Word) (addr : BitVec 64) : Bool :=
  let (f, n) := blockOf a
  f % 4 == 0 && n != 0 && addr.toNat % 16 == 0 && nodeRow f != 8 && nodeRow (f + n - 1) == nodeRow f

/-- Rows that a load may name; the machine-cell live row holds two writable nodes only, and no block lies within them. DEDUCED,
safe (log 31). -/
def rowLoadable (r : Nat) : Bool := r ≤ 3 || r == 7

/-- NODE_BLOCK_LOAD (R370). -/
def execNodeBlockLoad (q : CmdQ) (s : State) : Host.Outcome State Fault Refusal :=
  let f := (blockOf q.arg0).1
  s.runCmd q 0x0A (blockOk q.arg0 q.arg1 && rowLoadable (nodeRow f)) fun s c =>
    if s.nodeRefused f then s.finish c stRefusedState 0 else s.lopStart c

/-- NODE_BLOCK_STORE (R370). -/
def execNodeBlockStore (q : CmdQ) (s : State) : Host.Outcome State Fault Refusal :=
  s.runCmd q 0x0B (blockOk q.arg0 q.arg1) fun s c =>
    if s.pwr == 3 then s.finish c stRefusedState 0 else s.lopStart c

/-- The first of the nodes from `id` on whose fetched value fails checks 2 and 3. -/
def firstBad (id : Nat) (data : List Word) (n : Nat) : Option Nat :=
  ((List.range n).find? fun i =>
    match nodeKind (id + i) with | some k => !k.ok (data.getD i 0) | none => false).map (id + ·)

/-- A chunk of a load: every value checked, then written; values for reserved nodes are discarded. -/
def State.loadChunk (s : State) (id : Nat) (data : List Word) (n : Nat) : State :=
  (List.range n).foldl (fun s i => if (nodeKind (id + i)).isSome then s.nodeWrite (id + i) (data.getD i 0) else s) s

/-- A chunk of a store: poisoned words as 0xFFFF_FFFF. -/
def State.storeChunk (s : State) (addr id n : Nat) : State :=
  (List.range n).foldl (fun s i =>
    s.hostWrite (addr + 4 * i) (if s.poisoned (id + i) then 0xFFFFFFFF else s.nodeCopy (id + i))) s

/-- A block transfer of slot k has moved `n` nodes: it pauses, goes on or ends. -/
def State.blockNext (s : State) (k : Fin 8) (more : Bool) (st : BitVec 8) (res : Nat) : State :=
  let c := s.host.lops[k].phase + 1
  let s := s.modLop k fun l => { l with phase := c }
  if more then (s.lopPause k c 0).1 else s.lopEnd k st res

/-- BLOCK_CHUNK_DONE (R371). `data`: the words a load fetched. A chunk moves only while the device may issue transfers. A coefficient outside its
Valid column ends the load VERIFY_FAIL, as R371 says, though R99 names BAD_OPERAND for a NODE_BLOCK_LOAD: DESIGN CHOICE, unsafe (log 139). -/
def execBlockChunkDone (slot : Fin 8) (data : List Word) (t : Time) (s : State) : Host.Outcome State Fault Refusal :=
  let s := s.adv t
  let l := s.host.lops[slot]
  if (l.state = 1 ∨ l.state = 3) ∧ (l.opc = 0x0A ∨ l.opc = 0x0B) ∧ s.busOk then
    let (f, total) := blockOf l.arg0
    let done := 1024 * l.phase
    let n := min 1024 (total - done)
    let more := decide (done + n < total)
    if l.opc = 0x0A then
      match firstBad (f + done) data n with
      | some id => .next (s.lopEnd slot stVerifyFail id)
      | none => .next ((s.loadChunk (f + done) data n).blockNext slot more stOk 0)
    else
      let bad := (List.range n).filter fun i => s.poisoned (f + done + i)
      let first := match l.res with | a :: _ => a | [] => match bad with | i :: _ => f + done + i + 1 | [] => 0
      let cnt := min 32767 (l.res.getD 1 0 + bad.length)
      let s := (s.storeChunk (l.arg1.toNat + 4 * done) (f + done) n).modLop slot fun x =>
        { x with res := if first = 0 then [] else [first, cnt] }
      .next (if first = 0 then s.blockNext slot more stOk 0 else s.blockNext slot more stVerifyFail (first - 1 + at_ cnt 17))
  else .next s

/-! ### Integrity (R372) -/

/-- Corrections of the last minute exceed 16 (NODE_ECC). -/
def State.eccMany (s : State) : Bool := decide (16 < (s.ecc.fixes.filter fun (u, _) => decide (s.time < u + 60 * s1)).length)

/-- Put a node among the poisoned, in order. -/
def insertNat (x : Nat) : List Nat → List Nat
  | [] => [x]
  | y :: l => if x < y then x :: y :: l else if x = y then y :: l else y :: insertNat x l

/-- NODE_SCRUB (R372): a read of a node word finds an error; a single-bit one is corrected and counted, NODE_ECC is reported when the
count passes 16 in a minute; an uncorrectable one poisons the word. -/
def execNodeScrub (id : BitVec 17) (uncorrectable : Bool) (t : Time) (s : State) : Host.Outcome State Fault Refusal :=
  let s := s.adv t
  let n := id.toNat
  if 0x1A800 ≤ n then .next s
  else if uncorrectable then
    if s.poisoned n then .next s
    else
      let s := { s with ecc := { s.ecc with poison := insertNat n s.ecc.poison } }
      .next (s.raise 1 8 6 2 (0x95 + at_ n 8) s.time)
  else
    let was := s.eccMany
    let s := { s with ecc := { s.ecc with fixes := (s.time, n) :: s.ecc.fixes.filter fun (u, _) => decide (s.time < u + 60 * s1) } }
    .next (if s.eccMany && !was then s.health 7 0x11 0 0 s.time else s)

end Sys2Proof.Machine
end

