-- ==== Sys2Proof/Machine/Silo.lean ====
section
/-! DEFINITION. Silo.lean: arming, tapping, triggering, stopping and delivering Silo channels (R374 to R384), and the marks of fences
(R343, R381). -/
namespace Sys2Proof.Machine

/-! ### Taps and triggers at boundaries (Table 14.3, R377) -/

/-- A Silo event (R384). -/
def State.siloEvent (s : State) (c : Fin 16) (code extra : Nat) (t : Time) : State :=
  s.raise 0x0B 8 0x12 0 (code + at_ c.val 8 + extra) t

/-- What the source of a channel offers at boundary `b`: its node, or the latest sample of its sample channel. -/
def State.siloVal (s : State) (c : Fin 16) (b : Time) : Option Rec :=
  if s.rb regTrcCfg c 28 then
    (alGet s.acq.latest (s.rf regTrcSrc c 7 0)).map fun x =>
      ⟨x.s.t, BitVec.ofNat 32 (uns x.s.code 16 + at_ x.s.flags.toNat 16), false⟩
  else
    let id := s.rf regTrcSrc c 16 0
    if s.poisoned id then some ⟨b, 0xFFFFFFFF, true⟩ else some ⟨b, s.nodeTap id, false⟩

/-- The record that a channel takes at a boundary of rate 0 (FP) or 1 (SP). -/
def State.siloTap (s : State) (c : Fin 16) (sp : Bool) (b : Time) : Option Rec :=
  let r := s.trcRate c
  if r = 1 then (if sp then s.siloVal c b else none)
  else if sp then none
  else if r = 0 then s.siloVal c b
  else if s.rb regTrcCfg c 28 then none
  else (s.siloVal c b).filter fun x => decide (s.silo[c].last ≠ some x.v)

/-- Every channel takes its record of a boundary. -/
def State.siloTaps (s : State) (sp : Bool) (b : Time) : State :=
  forFin 16 s fun s c =>
    match s.siloTap c sp b with
    | some r => s.siloRec c r
    | none => s

/-- THR and HYST, and a node's value, in the format of FMT; none for a NaN or an infinity. -/
def trigNum (fmt : Bool) (w : Word) : Option Rat := if fmt then some (natR w.toNat) else f32 w

/-- A NODE trigger: whether the condition is met, and whether RISE or FALL is ready for the next boundary. -/
def nodeTrig (cond : Nat) (ready : Bool) (v thr hyst : Rat) : Bool × Bool :=
  match cond with
  | 0 => (decide (thr ≤ v), false)
  | 1 => (decide (v ≤ thr), false)
  | 2 => if thr ≤ v then (ready, false) else (false, ready || decide (v < thr - hyst))
  | _ => if v ≤ thr then (ready, false) else (false, ready || decide (thr + hyst < v))

/-- The NODE trigger of an armed channel is judged at FP boundary `b`. -/
def State.siloJudge (s : State) (c : Fin 16) (b : Time) : State :=
  let x := s.silo[c]
  let g := s.rget regTrcTrig c
  if (x.state = 1 ∨ x.state = 5) ∧ bits g 31 28 = 1 then
    let id := s.rf regTrcTnode c 16 0
    let fmt := g.getLsbD 24
    match trigNum fmt (s.nodeTap id), trigNum fmt (s.rget regTrcThr c), trigNum fmt (s.rget regTrcHyst c) with
    | some v, some t, some h =>
      if s.poisoned id then s
      else
        let (hit, ready) := nodeTrig (bits g 27 25) x.cond v t h
        s.modSilo c fun x =>
          { x with cond := ready, trigDue := if hit && x.takesTrig then x.trigDue ++ [(b, false)] else x.trigDue }
    | _, _, _ => s
  else s

/-- A channel arms at boundary `b`; NONE triggers there (R377, R382). -/
def State.siloArm (s : State) (c : Fin 16) (b : Time) : State :=
  let none_ := s.rf regTrcTrig c 31 28 == 0
  let st := if s.trcRingMode c then 5 else 1
  s.modSilo c fun x =>
    { SiloCh.reset with
      state := st, seq8 := x.seq8, tTime := x.tTime, trigDue := if none_ then [(b, false)] else [] }

/-- The Silo's work at FP boundary `b`: re-armed channels, taps, NODE triggers. -/
def State.siloFp (s : State) (b : Time) : State :=
  let s := forFin 16 s fun s c => if s.silo[c].rearm then s.siloArm c b else s
  let s := s.siloTaps false b
  forFin 16 s fun s c => s.siloJudge c b

/-! ### Arming (R376, R382) -/

/-- The record rate of a channel, records per second. -/
def State.trcPerSec (s : State) (c : Fin 16) : Rat :=
  let d := natR (max 1 (s.trcCfg c 15 0))
  let chan := s.rf regTrcSrc c 7 0
  let base : Rat :=
    if s.trcRate c = 1 then 2000000000 / natR (max 1 s.sp)
    else if s.trcRate c = 2 ∧ s.rb regTrcCfg c 28 then
      (if chan < 0x10 then 20000000 else if chan < 0x30 then 5000000 else if chan < 0x40 then 10000000 else 1000000)
    else 2000000000 / natR (max 1 s.fp)
  base / d

/-- Channels that a waiting TRACE_ARM will arm. -/
def State.arming (s : State) (c : Fin 16) : Bool :=
  s.silo[c].rearm || s.host.waiting.any fun w => w.opc == 0x28 && Nat.testBit w.aux c.val

/-- Armed, delivering, or being armed. -/
def State.trcBusy (s : State) (c : Fin 16) : Bool := s.silo[c].live || s.arming c

/-- TRC_RATE: the record rate of armed channels. -/
def State.trcUsed (s : State) : Rat :=
  (List.finRange 16).foldl (fun a c => if s.trcBusy c then a + s.trcPerSec c else a) 0

def State.trcBase (s : State) (c : Fin 16) : Nat := s.rf regTrcBuf c 15 0

/-- Regions of two channels share a quad. -/
def State.trcOverlap (s : State) (c d : Fin 16) : Bool :=
  decide (s.trcBase c < s.trcBase d + s.trcLen d) && decide (s.trcBase d < s.trcBase c + s.trcLen c)

/-- Condition `k` of R382 fails for channel `c` of `mask`. -/
def State.armFails (s : State) (mask : Nat) (k : Nat) (c : Fin 16) : Bool :=
  match k with
  | 1 => !s.rb regTrcCfg c 31 || !(s.silo[c].state == 0 || s.silo[c].state == 4) ||
      s.host.waiting.any fun w => w.opc == 0x28 && Nat.testBit w.aux c.val
  | 2 =>
    (if s.rb regTrcCfg c 28 then !chanOk (s.rf regTrcSrc c 7 0) else decide (0x1A800 ≤ s.rf regTrcSrc c 16 0)) ||
      decide (0x1A800 ≤ s.rf regTrcTnode c 16 0)
  | 3 =>
    decide (32768 < s.trcBase c + s.trcLen c) || s.trcLen c == 0 ||
      (List.finRange 16).any fun d => d != c && (s.trcBusy d || Nat.testBit mask d.val) && s.trcOverlap c d
  | 4 =>
    let n := s.trcPre c + s.trcPost c
    !s.trcRingMode c && (n == 0 || decide (s.siloCap c < n))
  | 5 => !s.ringEn (tqIdx (s.trcQ c))
  | 6 =>
    let extra := (List.finRange 16).foldl (fun a d => if Nat.testBit mask d.val && !s.trcBusy d && decide (d ≤ c) then a + s.trcPerSec d else a) 0
    decide (100000000 < s.trcUsed + extra)
  | _ => s.pwr == 3

/-- The first failing condition of R382, and its lowest channel. -/
def State.armRefusal (s : State) (mask : Nat) : Option (Nat × Fin 16) :=
  ([1, 2, 3, 4, 5, 6, 7].flatMap fun k => (List.finRange 16).map fun c => (k, c)).find? fun p =>
    Nat.testBit mask p.2.val && s.armFails mask p.1 p.2

/-- The operands of TRACE_ARM and TRACE_STOP. -/
def traceArgs (q : CmdQ) : Bool := bits q.arg0 31 16 == 0 && q.arg1 == 0

/-- TRACE_ARM (R382). -/
def execTraceArm (q : CmdQ) (s : State) : Host.Outcome State Fault Refusal :=
  let mask := bits q.arg0 15 0
  s.runCmd q 0x28 (traceArgs q && mask != 0) fun s c =>
    match s.armRefusal mask with
    | some (k, ch) => s.finish c stRefusedState (k + at_ ch.val 16)
    | none => s.awaitAt c (s.fpAfter s.time) mask

/-- TRACE_ARMED (R382): the channels of the oldest TRACE_ARM arm at its boundary, and it completes. -/
def execTraceArmed (s : State) : Host.Outcome State Fault Refusal :=
  match s.oldest 0x28 with
  | none => .next s
  | some w =>
    let s := s.adv w.due
    let s := forFin 16 s fun s c => if Nat.testBit w.aux c.val then s.siloArm c w.due else s
    .next (s.finishW w stOk 0)

/-! ### Triggers and windows (R377 to R379) -/

/-- The first waiting quad that holds a record at or after `t` is marked; none: the mark stays owed. -/
def markQuads (t : Time) : List TQuad → List TQuad × Bool
  | [] => ([], false)
  | q :: l =>
    if q.recs.any fun r => decide (t ≤ r.t) then ({ q with trig := true } :: l, true)
    else
      let (l, b) := markQuads t l
      (q :: l, b)

/-- TRACE_TRIGGER (R377, R378): the first trigger of a one-shot channel fixes T; each trigger of a ring channel marks a quad. -/
def execTraceTrigger (c : Fin 16) (s : State) : Host.Outcome State Fault Refusal :=
  let x := s.silo[c]
  match x.trigDue with
  | [] => .next s
  | (t, ft) :: more =>
    let s := s.modSilo c fun x => { x with trigDue := if x.state = 5 then more else [] }
    if x.state = 1 then
      let s := s.modSilo c fun x => { x with trig := some t, tTime := t, state := 2 }
      .next ((s.rcount regTrcCount c 15 0 1).siloEvent c 0xD0 (at_ (b2n ft) 12) t)
    else if x.state = 5 then
      let (qs, hit) := markQuads t x.outq
      let s := s.modSilo c fun x => { x with trig := some t, tTime := t, outq := qs, marking := if hit then x.marking else x.marking ++ [t] }
      .next ((s.rcount regTrcCount c 15 0 1).siloEvent c 0xD0 (at_ (b2n ft) 12) t)
    else .next s

/-- The window of a one-shot channel: the last PRE records before T and, from T on, the first `post`; and PRE_SHORT. -/
def State.siloWindow (s : State) (c : Fin 16) (post : Nat) : List Rec × Bool :=
  let x := s.silo[c]
  let old := x.recs.reverse
  match x.trig with
  | some t =>
    let before := old.filter fun r => decide (r.t < t)
    let pre := before.drop (before.length - s.trcPre c)
    (pre ++ (old.filter fun r => decide (t ≤ r.t)).take post, decide (before.length < s.trcPre c))
  | none => (old.drop (old.length - s.siloCap c), false)

/-- The window enters DUMP and is written as far as its ring takes it. -/
def State.siloDump (s : State) (c : Fin 16) (post : Nat) (stop : Bool) : State :=
  let (w, short) := s.siloWindow c post
  let qs := quadsOf (s.perQuad c) s.silo[c].trig short w
  let s := s.modSilo c fun x => { x with state := 3, outq := qs, quads := 0, recs := [], preShort := short, stopped := stop }
  State.tqWrite c s.silo[c].outq s

/-- TRACE_WINDOW_COMPLETE (R378): POST records from T on are held. -/
def execTraceWindowComplete (c : Fin 16) (s : State) : Host.Outcome State Fault Refusal :=
  if s.silo[c].state = 2 ∧ s.trcPost c ≤ s.silo[c].postHeld then .next (s.siloDump c (s.trcPost c) false) else .next s

/-- TRACE_QUAD_DELIVERY (R380): a trace ring takes what waits for it. -/
def execTraceQuadDelivery (q : Fin 4) (s : State) : Host.Outcome State Fault Refusal :=
  .next ((s.tqRing q).allTraceMarks.fenceTry)

/-- TRACE_DONE (R378, R379): a delivered window makes its channel DONE, or re-arms it at the next FP boundary; a stopped channel
becomes IDLE without DONE. DESIGN CHOICE (log 32). -/
def execTraceDone (c : Fin 16) (s : State) : Host.Outcome State Fault Refusal :=
  let x := s.silo[c]
  if x.state = 3 ∧ x.outq = [] then
    if x.stopped then .next (s.modSilo c fun x => { x with state := 0, stopped := false })
    else
      let again := s.rb regTrcCfg c 29
      let s := s.modSilo c fun x => { x with state := 4, rearm := again }
      .next (s.siloEvent c 0xD1 (at_ (x.quads % 65536) 16) s.time)
  else .next s

/-! ### Stopping (R383) -/

/-- TRACE_STOP (R383). -/
def execTraceStop (q : CmdQ) (s : State) : Host.Outcome State Fault Refusal :=
  s.runCmd q 0x29 (traceArgs q) fun s c => s.awaitAt c (s.fpAfter s.time) (bits c.arg0 15 0)

/-- The last waiting quad of a ring channel carries END. -/
def endQuads (l : List TQuad) : List TQuad := l.mapIdx fun i q => { q with end_ := q.end_ || i + 1 == l.length }

/-- One armed channel stops: a partial window, or the quads still queued, whose last carries END (log 32). A channel that is not armed is
unaffected (R383). -/
def State.siloStop (s : State) (c : Fin 16) (t : Time) : State :=
  let x := s.silo[c]
  if x.state = 1 ∨ x.state = 2 then
    let part := !x.recs.isEmpty
    let s := s.modSilo c fun x => { x with trigDue := [] }
    let s := s.siloDump c (s.siloCap c) true
    s.siloEvent c 0xD3 (at_ (b2n part) 12) t
  else if x.state = 3 then
    (s.modSilo c fun x => { x with stopped := true }).siloEvent c 0xD3 (at_ (b2n (!s.trcRingMode c)) 12) t
  else if x.state = 5 then
    let s := s.siloShut c
    let s := s.modSilo c fun x => { x with state := 3, stopped := true, trigDue := [], outq := endQuads x.outq }
    (State.tqWrite c s.silo[c].outq s).siloEvent c 0xD3 0 t
  else s

/-- STOPPED (R383): the named channels stop at the boundary of the oldest TRACE_STOP, and it completes. -/
def execStopped (s : State) : Host.Outcome State Fault Refusal :=
  match s.oldest 0x29 with
  | none => .next s
  | some w =>
    let s := s.adv w.due
    let s := forFin 16 s fun s c => if Nat.testBit w.aux c.val then s.siloStop c w.due else s
    .next (s.finishW w stOk 0)

/-! ### Fence marks (R343, R344, R381) -/

/-- A held entry stands before the mark of a fence at `tf`. -/
def beforeMark (f : FenceSt) (rings : List (Fin 4)) (h : Held) : Bool :=
  match h with
  | .mark _ _ => true
  | _ => decide (h.evt.time < f.tf) || !rings.any fun r => f.mask.getLsbD r

/-- FENCE_MARK (R343): once T_f + 20 µs has passed and no fence with an earlier T_f on a shared ring still waits, the marks take
their places; trace marks follow as their rings allow. -/
def execFenceMark (n : Fin 16) (t : Time) (s : State) : Host.Outcome State Fault Refusal :=
  let s := s.adv t
  match s.host.fences.find? fun f => f.ring == n with
  | none => .next s
  | some f =>
    if f.marked then .next ((s.traceMarks n).drain.fenceTry)
    else if s.time < f.tf + 20 * us1 ∨
        s.host.fences.any (fun g => !g.marked && decide (g.tf < f.tf) && ((g.mask &&& f.mask) != 0 || (g.trace && f.trace))) then .next s
    else
      let marks := ((List.finRange 4).filter fun (r : Fin 4) => f.mask.getLsbD r).map fun (r : Fin 4) =>
        Held.mark r ⟨0x0F, 0x0D, 8, 0, f.detail, f.tf⟩
      let before := s.host.held.filter fun h => beforeMark f (s.heldRings h) h
      let after := s.host.held.filter fun h => !beforeMark f (s.heldRings h) h
      let s := { s with host := { s.host with
        held := before ++ marks ++ after,
        fences := s.host.fences.map fun (g : FenceSt) => if g.ring == n then { g with marked := true } else g } }
      .next ((s.drain.traceMarks n).fenceTry)

/-- EVENT_DRAIN (R328): a routed event ring gains room; held entries are written in the order raised. -/
def execEventDrain (t : Time) (s : State) : Host.Outcome State Fault Refusal := .next ((s.adv t).drain.fenceTry)

end Sys2Proof.Machine
end

