-- ==== Sys2Proof/Machine/Boundary.lean ====
section
/-! DEFINITION. Boundary.lean: what a fast-period and a slow-period boundary do inside the drive (Table 1.3, R26 to R29): cut
periods, charge, trackers, stepping, set cells, rows of Table 6.1, link levels, choppers and safe states. -/
namespace Sys2Proof.Machine

/-! ### The period that ends -/

/-- A run of cut periods that has become `n` reaches the level `esc`: it was below, or what escalates is not latched yet. -/
def escReached (esc n : Nat) (latched : Bool) : Bool := decide (0 < n) && decide (esc ≤ n) && (!latched || decide (n ≤ max esc 1))

/-- The period that ends in CUT_RUN and the counts of a group; an escalation releases and latches it at this boundary, before any edge of the new
period (R169, R172). -/
def State.endCut (s : State) (g : Fin 8) : State :=
  let cut := s.groups[g].cutSeen
  let n := if cut then s.groups[g].cutRun + 1 else 0
  let esc := escReached (s.rf regPgnSgCfg g 7 0) n s.groups[g].hiz
  let s := (if cut then s.rcount regPgnSgCount g 15 0 1 else s).modGroup g fun x =>
    { x with cutRun := n, cutSeen := false, cutNow := false, escDue := x.escDue || esc }
  if esc then s.hizLatch g 3 0 s.time else s

/-- The same for a chopper (R182). -/
def State.endChopCut (s : State) (c : Fin 2) : State :=
  let cut := s.chops[c].cutSeen
  let n := if cut then s.chops[c].run + 1 else 0
  let esc := escReached (s.rf regPgnPgkCfg c 15 8) n s.chops[c].latch
  (if cut then s.rcount regPgnPgkCount c 15 0 1 else s).modChop c fun x =>
    { x with run := n, cutSeen := false, cutNow := false, escDue := x.escDue || esc, latch := x.latch || esc,
             lowAt := if esc then x.ch.relAt s.time x.lowAt else x.lowAt,
             ch := { (if esc then x.ch.release s.time else x.ch) with blocked := false } }

/-- CUT_RUN and the counts of cut periods of every group and chopper; the block of a cut ends (R168). -/
def State.endCuts (s : State) : State :=
  let s := forFin 2 (forFin 8 s fun s g => s.endCut g) fun s c => s.endChopCut c
  forFin 48 s fun s n => s.modChan n fun c => { c with blocked := false }

/-- Charge conducted in the period that ends at `b`, by switch; then the leg currents of the decision sample at `b` (R253). -/
def State.chargeAt (s : State) (b : Time) : State :=
  let s := forFin 48 s fun s n =>
    let c := s.chans[n].account b
    let i := s.sup.legI[legOf n]
    let q := maxR (if isLow n then -i else i) 0 * sec c.tHigh * 1000000
    let s := s.modChan n fun c => { (c.account b) with tHigh := 0 }
    if q = 0 then s else s.countCharge n q
  { s with sup := { s.sup with legI := Vector.ofFn fun (l : Fin 24) =>
      ((s.phaseI (s.decVal b) (Fin.ofNat 8 (l.val / 3)) (Fin.ofNat 3 (l.val % 3))).getD (0, 0)).1 } }

/-- A new FP_STEPS is in force from its first multiple on (PAC_FP_CFG); the sample grids start anew with it (R24, R191). -/
def State.takeFp (s : State) (b : Time) : State :=
  match s.fpNewAt with
  | some a =>
    if a ≤ b then { s with fpSteps := s.rf regPacFpCfg 0 10 0, fpNewAt := none, acq := { s.acq with gridAt := b } } else s
  | none => s

/-! ### Trackers -/

/-- COM_ZC_CFG goes by its value at the boundary (R57), and the periods in which VLIM was 1 have one more ended (R241). -/
def State.machFp (s : State) (m : Fin 2) : State :=
  s.modMach m fun x =>
    { x with trk := { x.trk with zcCfg := s.rget regComZcCfg m }
             sup := { x.sup with vlimSeen := x.sup.vlimSeen || x.sup.vlimNow, vlimNow := false } }

/-- ASC_NOW of a machine (R234). -/
def State.ascNowFp (s : State) (m : Fin 2) : State :=
  let x := s.mach[m]
  let f := absR (if x.sup.safe == some .asc then x.sup.obsF else x.trk.f)
  let now := if x.sup.ascNow then decide (s.fAscExit m < f) else decide (s.fAsc m ≤ f) && decide (0 < s.feMax m)
  s.modMach m fun y => { y with sup := { y.sup with ascNow := now } }

/-! ### Sets -/

/-- A request of the probe that waits for every set to be off, and the converters of its inputs awake, begins at this boundary (R84, R197). -/
def State.probeFp (s : State) (m : Fin 2) (b : Time) : State :=
  if s.mach[m].trk.state == .probe && s.mach[m].start.probePh == 3 && (s.setsOf m).all (fun w => !s.sets[w].driving && s.setAwake w b) then
    s.probeStart m b
  else s

/-- Sets that leave by DECAY are OFF once their current is below DEMAG_I; the last of a stopped machine idles it (R70, R326). -/
def State.endSets (s : State) (m : Fin 2) (b : Time) : State :=
  let s := (s.setsOf m).foldl (fun s w =>
    let x := s.sets[w]
    let i := ((s.pairI (s.lastSample b) w (x.sector.getD 0) x.td).getD (0, 0)).1
    if x.ending && decide (absR i < s.demagI m) then s.offSet w b else s) s
  if s.mach[m].trk.stopping && (s.setsOf m).all (fun w => !s.sets[w].driving) then s.idleMach m else s

/-- A set begins driving at boundary `b` (R82, R83, R86, R158): not while it is faulted, in a safe state or latched; it waits for the converters
of its inputs (R197). -/
def State.beginSet (s : State) (w : Fin 8) (b : Time) : State :=
  match s.sets[w].beginAt with
  | some t =>
    if b < t || !s.setAwake w b then s
    else if s.sets[w].fault || (s.setSafe w).isSome || s.groups[w].hiz then s.modSet w fun x => { x with beginAt := none }
    else
      let m := machOf w
      let s := s.enterSet w (s.shiftedSector w (s.seqTheta m) (s.seqF m)) b
      if s.rowOf w == .drive then s.lowGroup w b else s
  | none => s

/-- New machine-cell outputs reach the sets at B_k+M (R28, R49); in STEP each set has STEP_I with TD following DIR (R80). -/
def State.takeOut (s : State) (m : Fin 2) (b : Time) : State :=
  let s := match s.mach[m].loop.out with
    | some (t, i, td) =>
      if t ≤ b then
        let s := s.modMach m fun x => { x with loop := { x.loop with out := none, mcRun := 0 } }
        (s.setsOf m).foldl (fun s w => s.modSet w fun x =>
          { x with tdReq := td, cell := { x.cell with iRef := if s.healthy w then i else 0 } }) s
      else s
    | none => s
  if s.mach[m].trk.state == .step then
    (s.setsOf m).foldl (fun s w => s.modSet w fun x =>
      { x with tdReq := s.mach[m].decel.dirRev, cell := { x.cell with iRef := f32v (s.rget regComStepI m) } }) s
  else s

/-- A change of TD sends the set into DECAY on the old pair (R49), with a commutation that stands within 20 ns (R50). -/
def State.turnTd (s : State) (w : Fin 8) (b : Time) : State :=
  let x := s.sets[w]
  if s.cellRuns w && x.tdReq != x.td && !x.tdDecay && !x.tdNew && !x.ending then
    s.modSet w fun y =>
      let y := { y with tdDecay := true, adapt := y.adapt.spoil (s.atNewSp b) }
      match (y.cell.commNear b).filter fun tc => decide (b < tc) with
      | some tc => { y with cell := { y.cell with plan := [(tc, .decay)], masked := (b, 0) :: y.cell.masked } }
      | none => { y with cell := { (y.cell.enter .decay b) with plan := [], masked := (b, 0) :: y.cell.masked } }
  else s

/-- The decision sample joins an observation window (R89): a and b of the phase currents. -/
def State.obsFp (s : State) (w : Fin 8) (b : Time) : State :=
  let o := s.sets[w].obs
  if o.running && s.observable w && decide (o.start < b) && decide (b ≤ o.start + obsTicks o.len) then
    let i := fun (p : Fin 3) => ((s.phaseI (s.decVal b) w p).getD (0, 0)).1
    let pt := ((2 * i 0 - i 1 - i 2) / 3, (i 1 - i 2) / sqrt3R)
    s.modSet w fun x => { x with obs := { x.obs with pts := pt :: x.obs.pts, tLast := b } }
  else s

/-- The observation of R234 begins for a machine that has entered an ASC safe state, ASC_SETTLE first (R89). -/
def State.obsSafe (s : State) (m : Fin 2) (b : Time) : State :=
  let x := s.mach[m]
  if x.sup.safe == some .asc && x.trk.state != .ascObserve && x.start.settleEnd.isNone &&
      (s.setsOf m).all (fun w => !s.sets[w].obs.running && decide (s.sets[w].obs.start = 0)) &&
      (s.setsOf m).any s.observable then
    s.modMach m fun y => { y with start := { y.start with settleEnd := some (b + 200000 * s.rf regComAscCfg m 23 16), fLoss := y.sup.obsF } }
  else s

/-- The row of Table 6.1 takes hold of the pins at a boundary (R158): released, the ASC pattern, or LOW and then the edges. -/
def State.rowPins (s : State) (w : Fin 8) (b : Time) : State :=
  let held := (List.range 6).any fun k => s.chans[(Fin.ofNat 48 (6 * w.val + k) : Fin 48)].lvl != .rel
  match s.rowOf w with
  | .asc => if s.groups[w].asc then s else s.ascPattern w b
  | .direct | .drive | .test => (s.lowGroup w b).modGroup w fun x => { x with asc := false }
  | _ => if held || s.groups[w].asc then (s.releaseGroup w b).modGroup w fun x => { x with asc := false } else s

/-- The intended levels become the requests of a driving set (R159). -/
def State.loadEdges (s : State) (w : Fin 8) (b : Time) : State :=
  if s.rowOf w == .drive && s.sets[w].sector.isSome then s.reqSet w b else s

/-- Time with the tracker LOCKED counts for PL_STARVED while the set drives (R240). -/
def State.starveFp (s : State) (w : Fin 8) (b : Time) : State :=
  if s.sets[w].driving && s.mach[machOf w].trk.state == .locked then s else s.modSet w fun x => { x with plSince := b }

/-! ### Links and choppers (R243 to R245) -/

/-- Configured machines on link x. -/
def State.onLink (s : State) (x : Fin 2) : List (Fin 2) := s.confMach.filter fun m => s.vdcSel m == x

/-- A machine of the link drives. -/
def State.linkDrives (s : State) (x : Fin 2) : Bool := (s.onLink x).any fun m => (s.setsOf m).any fun w => s.sets[w].driving

/-- VDC_OV2 (R245 step 2), class F1: raised as the sample reaches the level; a running sequence goes on. -/
def State.ov2Fp (s : State) (x : Fin 2) (v : Rat) (b : Time) : State :=
  let hi := decide (s.vdcLvl x 4 ≤ v)
  let was := s.sup.ov2Hi[x]
  let s := { s with sup := { s.sup with ov2Hi := s.sup.ov2Hi.set x hi } }
  let s := if hi && !was then
      let s := (s.mbrk true).raise 1 8 6 2 (0x8B + at_ x.val 8) b
      if s.sup.ov2[x] then s
      else { s with sup := { s.sup with ov2 := s.sup.ov2.set x true, ov2Start := s.sup.ov2Start.set x (some (nextMult s.sp b)),
                                        kOv := s.sup.kOv.set x 1 } }
    else s
  (s.onLink x).foldl (fun s m => s.modMach m fun y =>
    let on := hi && y.sup.ascNow
    { y with sup := { y.sup with ov2Since := if on then some (y.sup.ov2Since.getD b) else none, ovRaised := on && y.sup.ovRaised } }) s

/-- VDC_OV1 arises anew: never met, or absent for a whole SP (R123). -/
def State.ov1New (s : State) (x : Fin 2) (b : Time) : Bool :=
  match s.sup.ov1At[x] with
  | some t => decide (t + s.sp < b)
  | none => true

/-- VDC_OV1, a LIMIT event under the rule of R123. -/
def State.ov1Fp (s : State) (x : Fin 2) (v : Rat) (b : Time) : State :=
  if s.vdcLvl x 3 ≤ v then
    let t : State := { s with sup := { s.sup with ov1At := s.sup.ov1At.set x (some b) } }
    if s.ov1New x b then t.raise 2 8 6 0 (0x8A + at_ x.val 8) b else t
  else s

/-- Ten consecutive boundaries at or below VDC_UV while a machine on the link drives. -/
def State.uvFp (s : State) (x : Fin 2) (v : Rat) : State :=
  let low := decide (v ≤ s.vdcLvl x 0) && s.linkDrives x
  let n := if low then min 10 (s.sup.uvRun[x] + 1) else 0
  { s with sup := { s.sup with uvRun := s.sup.uvRun.set x n, uvDue := s.sup.uvDue.set x (s.sup.uvDue[x] || decide (n = 10 ∧ s.sup.uvRun[x] = 9)) } }

/-- The levels of a link that a configured machine selects are judged at `b`. -/
def State.linkFp (s : State) (x : Fin 2) (b : Time) : State :=
  if (s.onLink x).isEmpty || s.pcr.state == 3 || s.pcr.asserted.isSome then s
  else
    let v := s.vdcAt x b
    ((s.ov2Fp x v b).ov1Fp x v b).uvFp x v

/-- The level that Supervision asks of chopper c at `b`, for the next boundary (R244); LOW where MODE is not SUP, in SHORT, and on a link
that no configured machine selects. -/
def State.chopWant (s : State) (c : Fin 2) (b : Time) : Bool :=
  let x : Fin 2 := Fin.ofNat 2 (s.rf regSupChpCfg c 0 0)
  let v := s.vdcAt x b
  if !s.chopSup c || s.chops[c].state == 2 || (s.onLink x).isEmpty then false
  else if s.vdcLvl x 2 ≤ v then true
  else if v ≤ s.vdcLvl x 1 then false
  else s.chops[c].want

/-- Chopper c at `b`: its pin takes part or is released, the level asked for before becomes the request, as in R159 (R181), and the next one is
computed (R244). -/
def State.chopFp (s : State) (c : Fin 2) (b : Time) : State :=
  let ch := s.chops[c].ch
  let s := if s.chopRel c then
      (if ch.lvl != .rel then s.modChop c fun y => { y with ch := y.ch.release b, lowAt := y.ch.relAt b y.lowAt } else s)
    else if ch.lvl == .rel then
      s.modChop c fun y => { y with ch := { y.ch with lvl := .low, req := false, pend := false }, lowAt := b }
    else s
  let want := s.chopWant c b
  (if s.testDrives then s else s.reqChop c s.chops[c].want b).modChop c fun y => { y with want := want }

/-- A chopper that serves a link is faulty. -/
def State.chopFaulty (s : State) (x : Fin 2) : Bool :=
  (List.finRange 2).any fun c => s.chopSup c && s.rf regSupChpCfg c 0 0 == x.val && s.chops[c].state != 0

/-- k_ov at SP boundary `b` (R245 step 2), on a link that a configured machine selects (R243; a sequence left on another stands still: DEDUCED,
unsafe, log 155); at 1 again the sequence ends and MBRK_REQ is released unless a chopper of the link is
faulty or another cause holds it. -/
def State.kOvSp (s : State) (x : Fin 2) (b : Time) : State :=
  match s.sup.ov2Start[x] with
  | some t =>
    if !s.sup.ov2[x] || decide (b < t) || (s.onLink x).isEmpty then s
    else
      let step := mkRat s.sp (ms1 * max 1 (s.rf regSupVdcCfg x 31 16))
      let up := decide (s.vdcAt x b < s.vdcLvl x 3)
      let k := clampR (s.sup.kOv[x] + (if up then step else -step)) 0 1
      let s := { s with sup := { s.sup with kOv := s.sup.kOv.set x k } }
      if up && decide (k = 1) then
        let s := { s with sup := { s.sup with ov2 := s.sup.ov2.set x false, ov2Start := s.sup.ov2Start.set x none } }
        let other := s.sup.ov2.toList.any id || s.sup.estopHeld || s.sup.f4 || s.sup.f5 || s.sup.yielded || s.chopFaulty x ||
          s.chops.toList.any fun c => c.state == 2
        if other then s else s.mbrk false
      else s
  | none => s

/-! ### The drive at FP boundary `b` -/

/-- Outcome of the period that ends, at `b` (Table 1.3, R72, R169, R253); `b0` is the boundary before. -/
def State.fpEnd (s : State) (b : Time) : State :=
  let s := s.chargeAt b
  let s := { s.endCuts with lastFp := b }
  let s := s.confMach.foldl (fun s m => (s.machFp m).trkFp m b) s
  let s := s.confMach.foldl (fun s m => s.ascNowFp m) s
  forFin 2 s fun s x => s.linkFp x b

/-- The set cells, the rows and the edges of the period that begins at `b`; a trip that is still asserted prevails over the edges (R172). -/
def State.fpBegin (s : State) (b : Time) : State :=
  let s := s.confMach.foldl (fun s m => (((s.ascEnter m b).takeOut m b).endSets m b).probeFp m b) s
  let s := forFin 8 s fun s w => s.turnTd w b
  let s := forFin 8 s fun s w => if s.setConf w then s.obsFp w b else s
  let s := s.confMach.foldl (fun s m => s.obsSafe m b) s
  let s := forFin 8 s fun s w => if s.setConf w then s.beginSet w b else s
  let s := forFin 8 s fun s w => if s.setConf w then (s.noteRot w).starveFp w b else s
  let s := s.cellsFp b
  let s := (forFin 8 s fun s w => s.rowPins w b).retrip
  let s := forFin 8 s fun s w => s.loadEdges w b
  forFin 2 s fun s c => s.chopFp c b

/-! ### The drive at SP boundary `b` -/

/-- An ASC applied under AUTO is changed to OPEN (R235). -/
def State.ascRelSp (s : State) (b : Time) : State :=
  let s := forFin 2 s fun s m =>
    let x := s.mach[m].sup
    if x.safe == some .asc && x.safeAuto && x.ascRel then
      let s := s.modMach m fun y => { y with sup := { y.sup with safe := some .opened, ascRel := false, safeAuto := false, fixAsc := false } }
      let s := (s.setsOf m).foldl (fun s w =>
        ((s.modSet w fun y => { y with obs := ObsSt.reset }).releaseGroup w b).modGroup w fun g => { g with asc := false }) s
      s.raise 0x0A 3 m 0 0x87 b
    else s
  (forFin 8 s fun s w =>
    let x := s.sets[w]
    let m := machOf w
    if x.safe == some .asc && x.safeAuto && s.mach[m].sup.safe.isNone && !s.mach[m].sup.ascNow then
      let s := s.modSet w fun y => { y with safe := some .opened, safeAuto := false }
      let s := (s.releaseGroup w b).modGroup w fun g => { g with asc := false }
      s.raise 0x0A 2 w 0 0x87 b
    else s).retrip

/-- A faulted set that a FAULT_CLEAR has freed rejoins (R257). -/
def State.rejoinSp (s : State) (w : Fin 8) (b : Time) : State :=
  let x := s.sets[w]
  let m := machOf w
  let st := s.mach[m].trk.state
  if x.rejoin && (st == .locked || st == .low) && !x.fault && !s.groups[w].hiz && s.mach[m].sup.safe.isNone then
    let s := (s.modSet w fun y => { y with safe := none, safeAuto := false, rejoin := false }).modGroup w fun g => { g with asc := false }
    let fresh := x.adapt.open_ && x.adapt.sps == 0
    let s := (s.enterSet w (s.shiftedSector w (s.seqTheta m) (s.seqF m)) b).modSet w fun y => { y with adapt := { y.adapt with spoiled := !fresh } }
    let s := (s.cellBegin w b).cellPasses b
    if s.rowOf w == .drive then ((s.lowGroup w b).retrip).reqSet w b else s
  else s.modSet w fun y => { y with rejoin := false }

/-- ENG_MC_STAT. MODE tells the regulation in force, speed through a controlled deceleration (R63, R148). SRC is the selected source; a machine in
FALLBACK tells it by its own bit. -/
def State.mcStat (s : State) (m : Fin 2) : Nat :=
  let x := s.mach[m]
  let l := x.loop
  b2n (s.speedNow m) + at_ x.src.src 2 + at_ l.winner 8 + at_ l.nH 12 + at_ (b2n l.td) 16 +
    at_ l.sat.toNat 20 + at_ (b2n l.mechOk) 23 + at_ (b2n l.against) 24 + at_ x.src.fbCause 25 + at_ (b2n x.src.fallback) 28 +
    at_ (b2n l.blend.isSome) 29 + at_ (b2n l.bank) 30 + at_ (b2n l.swap) 31

/-- The machine-cell values of the slow period that began at `sp` (R285). -/
def State.mcWords (s : State) (m : Fin 2) (sp : Time) : McWords :=
  let x := s.mach[m]
  let l := x.loop
  let d := x.decel
  { ramped := toF32 (if d.active then d.ref else l.r)
    loops := BitVec.ofNat 128 ((toF32 l.iSpd).toNat + at_ (toF32 l.iVu).toNat 32 + at_ (toF32 l.iVl).toNat 64 + at_ (toF32 l.blendOfs).toNat 96)
    demand := toF32 l.d
    stat := BitVec.ofNat 32 (s.mcStat m)
    blendSp := min 65535 (match l.blend with | some (t, _, _) => (sp - t) / s.sp | none => 0)
    wdMs := min 65535 (x.src.wdTime / ms1)
    dirs := d.cause + at_ (b2n d.held) 3 + at_ (b2n l.mechOk) 4 }

/-- Batons keep the values of the slow period that ends at `b` until the new ones are complete (R285). -/
def State.mcShow (s : State) (m : Fin 2) (b : Time) : State :=
  let v := s.mcWords m (b - s.sp)
  s.modMach m fun x => { x with loop := { x.loop with shown := v } }

/-- The machine cell of m runs: started, in RUN, on the owner (R143). -/
def State.mcLive (s : State) (m : Fin 2) : Bool := s.machEn m && s.started && s.pcr.state == 0 && s.owner && s.ypl.ownAt.isNone

/-- The drive's work at SP boundary `b`. -/
def State.spWork (s : State) (b : Time) : State :=
  let s := s.thmToCells b
  let s := forFin 2 s fun s x => s.kOvSp x b
  let s := s.ascRelSp b
  let s := forFin 8 s fun s w => if s.sets[w].rejoin then s.rejoinSp w b else s
  forFin 2 s fun s m => if s.mcLive m then (s.mcShow m b).mcRun m b else s

end Sys2Proof.Machine
end

