-- ==== Sys2Proof/Machine/Baton.lean ====
section
/-! DEFINITION. Baton.lean: the baton (R285 to R290): its content at a boundary, its adoption, and the drive of a device in shadow. -/
namespace Sys2Proof.Machine

/-! ### Codes and status words -/

/-- Code of Table 3.1, and the state of a code. -/
def Trk.code : Trk → Nat
  | .idle => 0
  | .listen => 1
  | .probe => 2
  | .step => 3
  | .capture => 4
  | .locked => 5
  | .low => 6
  | .ascObserve => 7
  | .lost => 8
def trkOf (n : Nat) : Trk :=
  match n with
  | 1 => .listen
  | 2 => .probe
  | 3 => .step
  | 4 => .capture
  | 5 => .locked
  | 6 => .low
  | 7 => .ascObserve
  | 8 => .lost
  | _ => .idle

/-- The regulator state of a code. -/
def regOf (n : Nat) : Reg :=
  match n with
  | 1 => .on
  | 2 => .freewheel
  | 3 => .decay
  | _ => .off

/-! ### SEQ16 and FENCE (R360, R361) -/

/-- SEQ16 of CQn in the baton of `b`. -/
def State.seq16 (s : State) (n : Fin 16) (b : Time) : Nat :=
  let r := s.host.rings[cqIdx n]
  let q := (s.rget regRngSeq n).toNat
  match r.marks.find? (fun (t, _) => decide (t + lead40 ≤ b)) with
  | some (_, k) => k % 65536
  | none =>
    match r.marks.getLast? with
    | some (_, k) => (k + 65535) % 65536
    | none => if r.taken then (q + 65534) % 65536 else (q + 65535) % 65536

/-- The FENCE field. -/
def State.fenceField (s : State) (b : Time) : Nat :=
  match s.host.fenceOk.find? (fun d => decide (d.at_ + lead40 ≤ b)) with
  | some d => ticksOf d.tf % 2 ^ 32 + at_ d.ring.val 32 + at_ 1 36 + at_ (d.seq % 65536) 48
  | none => 0

/-! ### The content of a baton (Table 11.5) -/

/-- SET_w. -/
def State.batonSet (s : State) (w : Fin 8) : Nat :=
  if s.machEn (machOf w) then
    let x := s.sets[w]
    (toF32 x.cell.h).toNat + at_ (match x.sector with | some k => k.val | none => 7) 32 + at_ (b2n x.chopLow) 35 +
      at_ x.cell.state.code 36 + at_ (b2n x.cell.gen) 38 + at_ (b2n x.td) 39 + at_ (min s.groups[w].cutRun 255) 40 + at_ (min x.plCnt 255) 48
  else 0

/-- Quads 1 or 2, 3 or 4, 5 or 6 of machine m. The results of a slow period are complete once its set cells may take them (R28): until
then its predecessor's stand. DEDUCED (log 146). -/
def State.batonMach (s : State) (m : Fin 2) : Quad × Quad × Quad :=
  if s.machEn m then
    let x := s.mach[m]
    let v := if x.loop.out.isSome then x.loop.shown else s.mcWords m s.lastSp
    let dirs := b2n x.decel.dirRev + at_ (b2n x.decel.revPend) 1 + at_ v.dirs 2
    let i := match (s.setsOf m).find? s.healthy with | some w => s.sets[w].cell.iRef | none => 0
    (BitVec.ofNat 128 (x.trk.angle.toNat + at_ (toF32 x.trk.f).toNat 32 + at_ x.trk.state.code 64 + at_ x.loop.rev 68 + at_ dirs 73 +
        at_ v.ramped.toNat 96),
     v.loops,
     BitVec.ofNat 128 (v.demand.toNat + at_ (toF32 i).toNat 32 + at_ v.stat.toNat 64 + at_ v.blendSp 96 + at_ v.wdMs 112))
  else (0, 0, 0)

/-- k_ov in units of 2^-15. -/
def State.kovField (s : State) : Nat :=
  natOf (s.sup.kOv[(0 : Fin 2)] * 32768) + at_ (natOf (s.sup.kOv[(1 : Fin 2)] * 32768)) 16

/-- Quad 0. -/
def State.batonHead (s : State) (b : Time) : Quad :=
  let dev := b2n s.sup.f4 + at_ (b2n s.sup.f5) 1 + at_ (b2n s.sup.estopHeld) 2 + at_ (b2n s.sup.mbrk) 3 + at_ (b2n s.thm.shutHeld) 4
  BitVec.ofNat 128 (b / s.fp + at_ (b2n (b % s.sp == 0)) 64 + at_ (b2n s.started) 65 + at_ (b2n (s.ypl.hoOut && s.ypl.hoAt.isSome)) 66 +
    at_ s.faultMask 68 + at_ s.safeMask 76 + at_ s.inAsc 78 + at_ dev 80 +
    at_ (s.chops[(0 : Fin 2)].state + 4 * s.chops[(1 : Fin 2)].state) 88 +
    at_ ((match s.ypl.hoAt with | some t => if s.ypl.hoOut then t / s.fp else 0 | none => 0) % 2 ^ 32) 96)

/-- The sixteen payload quads of the baton of boundary `b`. -/
def State.batonAt (s : State) (b : Time) : List Quad :=
  let (a0, l0, d0) := s.batonMach 0
  let (a1, l1, d1) := s.batonMach 1
  let sets := fun (k : Nat) => BitVec.ofNat 128 (s.batonSet (Fin.ofNat 8 (2 * k)) + at_ (s.batonSet (Fin.ofNat 8 (2 * k + 1))) 64)
  let seqs := fun (lo : Nat) => BitVec.ofNat 128 ((List.range 8).foldl (fun a i => a + at_ (s.seq16 (Fin.ofNat 16 (lo + i)) b) (16 * i)) 0)
  let host := fun (m : Fin 2) => if s.machEn m then (s.seen b (hostSpNode m) s.mach[m].src.hostSp).toNat + at_ (s.seen b (hostAuxNode m) s.mach[m].src.hostAux).toNat 32 else 0
  [s.batonHead b, a0, a1, l0, l1, d0, d1] ++ (List.range 4).map sets ++
    [seqs 0, seqs 8, BitVec.ofNat 128 (host 0 + at_ (host 1) 64),
     BitVec.ofNat 128 (s.kovField + at_ s.ypl.digest.toNat 32 + at_ (s.fenceField b) 64), 0]

/-- The device sends batons: ACTIVE, or SOLO with a partner that is joining, without which phase 5 of PAIR_REJOIN could not end (R281, R299).
DEDUCED (log 33). -/
def State.batonDue (s : State) (b : Time) : Bool :=
  (s.ypl.role == .active || (s.ypl.role == .solo && s.ypl.pJoining)) && (decide (us1 ≤ s.fp) || b / s.fp % 2 == 0)

/-- BATON_SEND at boundary `b` (R281, R282). -/
def State.batonSend (s : State) (b : Time) : State := if s.batonDue b then s.sendFrame 1 (s.batonAt b) else s

/-! ### Fields of an adopted baton -/

/-- Bits [hi:lo] of quad `k`. -/
def BatonSt.f (x : BatonSt) (k hi lo : Nat) : Nat := bitsN (x.quads.getD k 0).toNat hi lo
def BatonSt.bit (x : BatonSt) (k i : Nat) : Bool := (x.quads.getD k 0).getLsbD i
/-- A binary32 field; a pattern that is no number reads as 0. -/
def BatonSt.num (x : BatonSt) (k lo : Nat) : Rat := f32v (BitVec.ofNat 32 (x.f k (lo + 31) lo))
/-- Bits of SET_w. -/
def BatonSt.set (x : BatonSt) (w : Fin 8) (hi lo : Nat) : Nat :=
  let o := 64 * (w.val % 2)
  x.f (7 + w.val / 2) (hi + o) (lo + o)
/-- B_j. -/
def State.batonTime (s : State) (x : BatonSt) : Time := x.f 0 63 0 * s.fp

/-- Tracker states in which a STANDBY tracker runs on its own events (R287). -/
def Trk.runs (t : Trk) : Bool := t == .capture || t == .locked || t == .low

/-! ### Adoption (R286, R287, R289, R298) -/

/-- Copy the baton's tracker, predicted forward to `b`. -/
def State.trkCopy (s : State) (x : BatonSt) (m : Fin 2) (b : Time) : State :=
  let k := 1 + m.val
  let f := x.num k 32
  let th := angDeg (BitVec.ofNat 32 (x.f k 31 0)) + 360 * f * (sec b - sec (s.batonTime x))
  s.modMach m fun y =>
    { y with
      trk := { y.trk with state := trkOf (x.f k 67 64), angle := angWord th, angAt := b, f := f, good := 0, bad := 0, tPrev := b,
                          rotEvent := 0, rotCapt := 0, rotCross := 0, rotLow := 0, lowAt := b, lost_ := false, reports := [], misses := [] }
      loop := { y.loop with rev := x.f k 72 68 } }

/-- Own angle minus the baton's, both at B_j. -/
def State.divergence (s : State) (x : BatonSt) (m : Fin 2) : Rat :=
  let t := s.mach[m].trk
  let own := angDeg t.angle + 360 * t.f * (sec (s.batonTime x) - sec t.angAt)
  wrap180 (own - angDeg (BitVec.ofNat 32 (x.f (1 + m.val) 31 0)))

/-- The tracker of machine m at an adoption, and whether the baton is divergent for it. -/
def State.trkAdopt (s : State) (x : BatonSt) (m : Fin 2) (b : Time) : State × Bool :=
  let t := trkOf (x.f (1 + m.val) 67 64)
  let own := s.mach[m].trk
  if t.runs && own.state.runs then
    let e := s.divergence x m
    let far := (t == .locked || t == .low) && decide (mkRat (s.rf regYplCfg 0 31 24) 4 < absR e)
    let d := far || own.lost_
    let n := if d then s.ypl.divRun[m] + 1 else 0
    let due := decide (n = s.rf regYplCfg 0 23 20)
    let s := { s with ypl := { s.ypl with divRun := s.ypl.divRun.set m n, divLast := s.ypl.divLast.set m (roundR (e * 64)),
                                          divDue := if due then s.ypl.divDue.set m true else s.ypl.divDue } }
    (if own.lost_ then s.trkCopy x m b else s, d)
  else (({ s with ypl := { s.ypl with divRun := s.ypl.divRun.set m 0 } }).trkCopy x m b, false)

/-- The shadow estimates of every set start where the owner's do, at DRIVE_START (R100). -/
def State.shadowSets (s : State) : State :=
  forFin 8 s fun s w => s.modSet w fun x =>
    { x with cell := { x.cell with lEst := rnd (s.sc w cLNOM), rEst := rnd (s.sc w cRNOM) } }

/-- A set at an adoption: i_ref, TD, h, CUT_RUN, PL_CNT and SET_FAULT; its virtual drive begins and ends with the owner's. DEDUCED,
unsafe (log 34). -/
def State.setAdopt (s : State) (x : BatonSt) (w : Fin 8) (b : Time) : State :=
  let m := machOf w
  let k := 5 + m.val
  let fault := x.bit 0 (68 + w.val)
  let s := (s.modGroup w fun g => { g with cutRun := x.set w 47 40 }).modSet w fun y =>
    { y with tdReq := x.bit k 80, fault := fault, plCnt := x.set w 55 48,
             safe := if fault then some (y.safe.getD (s.policyKind m 0).1) else none,
             cell := { y.cell with iRef := x.num k 32, h := f32v (BitVec.ofNat 32 (x.set w 31 0)) } }
  let sec := x.set w 34 32
  if sec < 6 then
    if s.sets[w].driving && s.sets[w].sector.isSome then s else s.enterSet w (Fin.ofNat 6 sec) b
  else if s.sets[w].driving then s.offSet w b else s

/-- Preparation of a planned hand-over: regulator state, regime and sector of the baton (R298). -/
def State.setPrepare (s : State) (x : BatonSt) (w : Fin 8) (b : Time) : State :=
  let sec := x.set w 34 32
  if sec < 6 then
    s.modSet w fun y =>
      { y with sector := some (Fin.ofNat 6 sec), chopLow := x.set w 35 35 == 1, td := x.set w 39 39 == 1,
               cell := { (y.cell.enter (regOf (x.set w 37 36)) b) with gen := x.set w 38 38 == 1, genNext := x.set w 38 38 == 1, plan := [] } }
  else s

/-- The drive and fault state of a machine. -/
def State.machAdopt (s : State) (x : BatonSt) (m : Fin 2) : State :=
  let safe := x.bit 0 (76 + m.val)
  s.modMach m fun y =>
    { y with sup := { y.sup with fault := safe,
                                 safe := if safe then some (if x.bit 0 (78 + m.val) then .asc else .opened) else none } }

/-- HANDOVER of a baton: a baton without it after one that carried it, or past B_h, ends the preparation; the first that carries it prepares
(R298). -/
def State.hoAdopt (s : State) (x : BatonSt) (b : Time) : State :=
  let ended := !x.bit 0 66 && !s.ypl.hoOut && (s.ypl.hoPrep || s.ypl.hoAt.any fun h => decide (h ≤ b))
  let s := if ended then { s with ypl := { s.ypl with hoAt := none, hoPrep := false } } else s
  let prep := x.bit 0 66 && s.ypl.hoAt.isSome && !s.ypl.hoOut && !s.ypl.hoPrep
  if prep then
    let s := forFin 8 s fun s w => if s.setConf w then s.setPrepare x w b else s
    { s with ypl := { s.ypl with hoPrep := true } }
  else s

/-- Adoption of a baton at boundary `b`. -/
def State.adopt (s : State) (x : BatonSt) (b : Time) : State :=
  let s := if x.bit 0 65 && !s.started then s.shadowSets else s
  let s := { s with
    started := x.bit 0 65
    sup := { s.sup with f4 := x.bit 0 80, estopHeld := x.bit 0 82, mbrk := x.bit 0 83 }
    ypl := { s.ypl with next := none, adopted := some x, devF5 := x.bit 0 81, devShut := x.bit 0 84 } }
  let s := forFin 2 s fun s c => s.modChop c fun y => { y with state := x.f 0 (89 + 2 * c.val) (88 + 2 * c.val) }
  let (s, div) := s.confMach.foldl (fun (s, d) m => let (s, e) := (s.machAdopt x m).trkAdopt x m b; (s, d || e)) (s, false)
  let s := forFin 8 s fun s w => if s.setConf w then s.setAdopt x w b else s
  let s := s.hoAdopt x b
  let same := s.ypl.digest == BitVec.ofNat 32 (x.f 14 63 32)
  let s := { s with ypl := { s.ypl with digBad := if same then none else some (s.ypl.digBad.getD b),
                                        shadowRun := if div then 0 else s.ypl.shadowRun + 1 } }
  if div then s.rcount regYplCount 0 7 0 1 else s

/-- BATON_ADOPTION (R286): at the first FP boundary at least 40 ns after the baton's reception. It is issued before FP_BOUNDARY of the
same instant. -/
def execBatonAdoption (s : State) : Host.Outcome State Fault Refusal :=
  match s.ypl.next with
  | some x =>
    if s.shadow then
      let b := max s.time (s.fpAfter x.at_)
      .next ((s.adv b).adopt x b)
    else .next { s with ypl := { s.ypl with next := none } }
  | none => .next s

/-- DIVERGENCE (R289). -/
def execDivergence (m : Fin 2) (s : State) : Host.Outcome State Fault Refusal :=
  if s.ypl.divDue[m] then
    let e := s.ypl.divLast[m]
    let s := { s with ypl := { s.ypl with diverged := true, divDue := s.ypl.divDue.set m false } }
    .next (s.raise 7 5 s.posIdx 0 (0xB4 + at_ m.val 8 + at_ (uns e 16) 16) s.time)
  else .next s

/-! ### Shadow running at boundaries -/

/-- The baton that ought to have arrived for boundary `b`: that of the last B_j whose latest arrival is 40 ns old (R282, R286). -/
def State.expectedIdx (s : State) (b : Time) : Option Nat :=
  let k := b / s.fp
  let last : Time := if s.ypl.lanes == 3 then 880 else 1240
  let j := if last ≤ s.fp then k - 1 else k - 2
  if k < 2 || (s.fp < us1 && j % 2 == 1) then none else some j

/-- Account for the baton expected by boundary `b` (Table 11.6, condition 1). -/
def State.expectFp (s : State) (b : Time) : State :=
  if s.shadow then
    match s.expectedIdx b with
    | some j =>
      let has := fun (o : Option BatonSt) => match o with | some x => x.f 0 63 0 == j | none => false
      let got := has s.ypl.next || has s.ypl.adopted
      let s := { s with ypl := { s.ypl with expect := (s.ypl.expect <<< 1) ||| (if got then 1 else 0),
                                            shadowRun := if got then s.ypl.shadowRun else 0 } }
      if got then s else s.rcount regYplCount 0 15 8 1
    | none => s
  else s

/-- The slow period whose machine-cell values the baton of B_j carries: complete M periods after its boundary (R28, R285). -/
def State.valuesSp (s : State) (tj : Time) : Time :=
  let k := tj / s.sp * s.sp
  if k + s.mOut * s.fp ≤ tj then k else k - s.sp

/-- What machine m loads at SP boundary `b` from the latest adopted baton (R286): the blend is rebuilt from its offset and its age; a bank that
changed clamps the estimates (R100). The mode stays through a deceleration, whose end restores it. -/
def State.mcLoad (s : State) (m : Fin 2) (b : Time) : State :=
  match s.ypl.adopted with
  | some x =>
    let k := m.val
    let st : Nat → Bool := fun i => x.bit (5 + k) (64 + i)
    let stf : Nat → Nat → Nat := fun hi lo => x.f (5 + k) (64 + hi) (64 + lo)
    let age := sec s.sp * natR (x.f (5 + k) 111 96)
    let len := s.mc m mBLEND
    let ofs := x.num (3 + k) 96
    let blend : Option (Time × Rat × Rat) := if st 29 && decide (age < len) then
        some (s.valuesSp (s.batonTime x) - x.f (5 + k) 111 96 * s.sp, rnd (ofs * len / (len - age)), len) else none
    let cause := x.f (1 + k) 77 75
    let r := x.num (1 + k) 96
    let ran := s.batonTime x
    let swapped := st 30 != s.mach[m].loop.bank
    let s := s.modMach m fun y =>
      { y with
        decel := { y.decel with active := cause != 0, cause := cause, held := x.bit (1 + k) 78, ref := if cause = 0 then 0 else r,
                                dirRev := x.bit (1 + k) 73, revPend := x.bit (1 + k) 74 }
        src := { y.src with
          speed := if cause = 0 then st 0 else y.src.speed, src := stf 4 2, fallback := st 28, fbCause := stf 27 25,
          fbAction := s.srcCfg m 17 16, fbTarget := if st 28 && !y.src.fallback then r else y.src.fbTarget,
          hostSp := BitVec.ofNat 32 (x.f 13 (64 * k + 31) (64 * k)), hostAux := BitVec.ofNat 32 (x.f 13 (64 * k + 63) (64 * k + 32)),
          wdTime := x.f (5 + k) 127 112 * ms1 + (b - ran), wdMark := b }
        loop := { y.loop with
          r := if cause = 0 then r else y.loop.r, iSpd := x.num (3 + k) 0, iVu := x.num (3 + k) 32, iVl := x.num (3 + k) 64,
          blendOfs := ofs, blend := blend, d := x.num (5 + k) 0, iRef := x.num (5 + k) 32, winner := stf 10 8, nH := stf 15 12,
          td := st 16, sat := BitVec.ofNat 3 (stf 22 20), mechOk := st 23, against := st 24, bank := st 30, swap := st 31 } }
    if swapped then (s.setsOf m).foldl (fun s w => s.clampSet w b) s else s
  | none => s

/-- Machine cells of a device in shadow at SP boundary `b`, and k_ov. -/
def State.shadowSp (s : State) (b : Time) : State :=
  match s.ypl.adopted with
  | some x =>
    if s.shadow then
      let s := { s with sup := { s.sup with kOv := Vector.ofFn fun (l : Fin 2) => mkRat (x.f 14 (16 * l.val + 15) (16 * l.val)) 32768 } }
      s.confMach.foldl (fun s m => s.mcLoad m b) s
    else s
  | none => s

end Sys2Proof.Machine
end

