-- ==== Sys2Proof/Machine/Pair.lean ====
section
/-! DEFINITION. Pair.lean: the redundant pair (chapter 11): frames, Pacer alignment, relay, collisions, planned hand-over, PAIR_REJOIN. -/
namespace Sys2Proof.Machine

/-- A PAIR event that concerns this device's position (R303). -/
def State.pairEvt (s : State) (detail : Nat) (t : Time) : State := s.raise 7 5 s.posIdx 0 detail t

/-! ### Claims (R293, R295) -/

/-- FP index of the last baton adopted. -/
def State.adoptedIdx (s : State) : Nat := match s.ypl.adopted with | some x => x.f 0 63 0 | none => 0

/-- Steps 1 to 3 of R293: CLAIM rises at `t2`, the epoch is `e`, RELAY CLAIM is sent, the role is `role`. -/
def State.claimNow (s : State) (role : Role) (e : Word) (t2 : Time) : State :=
  let y := s.ypl
  let s := { s with ypl := { y with roleWas := y.role, epochWas := y.epoch } }
  let s := (s.newEpoch e)
  let s := { s with ypl := { s.ypl with role := role, claim := true, claimAt := some t2, claimFell := none, blocked := false, fit := false } }
  s.sendFrame 7 [BitVec.ofNat 128 (1 + at_ s.adoptedIdx 64)]

/-- The second FP boundary after an instant. -/
def State.secondFp (s : State) (t : Time) : Time := nextMult s.fp (t + 1) + s.fp

/-- A standby that becomes the owner goes on with the holds it has adopted as its own (R286). -/
def State.takeDev (s : State) : State :=
  { s with sup := { s.sup with f5 := s.sup.f5 || s.ypl.devF5 }, thm := { s.thm with shutHeld := s.thm.shutHeld || s.ypl.devShut },
           ypl := { s.ypl with devF5 := false, devShut := false } }

/-- A relay (R293): CLAIM rises within 200 ns of the declaration, by a free value. -/
def State.relay (s : State) (t : Time) : State :=
  let t2 := t + s.free.toNat % 401
  let s := s.freeNext.claimNow .solo (s.ypl.epoch + 1) t2
  let s := { s with ypl := { s.ypl with own := false, ownAt := some (s.secondFp t2) } }
  s.takeDev.localSafe t2

/-- A standby declares its partner lost (R292): cause 1 timeout, 2 YIELD frame, 3 partner role. The event concerns the partner's
position. -/
def State.declareLost (s : State) (cause : Nat) (t : Time) : State :=
  let fit := s.fitNow
  let s := { s with ypl := { s.ypl with hoAt := none, hoPrep := false } }
  let s := s.raise 7 5 (1 - s.posIdx) 0 (0xB1 + at_ cause 8 + at_ (b2n !fit) 10) t
  if fit then s.relay t else s.leaveDrive .unjoined t

/-- An ACTIVE device has lost its partner (Table 11.2): SOLO; a hand-over in preparation is refused (R297). -/
def State.activeToSolo (s : State) : State :=
  let s := if s.ypl.hoOut then s.dropHandover stRefusedState 7 else s
  { s with ypl := { s.ypl with role := .solo } }

/-! ### Frames (R280, R288) -/

def fType (h : Quad) : Nat := bitsN h.toNat 3 0
def fRole (h : Quad) : Nat := bitsN h.toNat 6 4
def fLen (h : Quad) : Nat := bitsN h.toNat 12 8
def fEpoch (h : Quad) : Word := h.extractLsb' 32 32

/-- KIND of a REQUEST, REPLY or RELAY. -/
def fKind (f : List Quad) : Nat := bitsN (f.getD 1 0).toNat 7 0

/-- LEN as Table 11.4 has it. -/
def lenOk (type len : Nat) : Bool :=
  match type with
  | 1 => len == 16
  | 2 => len == 0
  | 3 => decide (1 ≤ len) && decide (len ≤ 16)
  | 4 => decide (1 ≤ len) && decide (len ≤ 16)
  | 5 => len == 2
  | 6 => decide (1 ≤ len) && decide (len ≤ 16)
  | 7 => len == 1
  | _ => false

/-- The checks of R280 but the epoch's. -/
def State.frameGood (s : State) (f : List Quad) : Bool :=
  match f with
  | h :: p =>
    crc32 (leBytes h.toNat 12 ++ quadBytes p) == h.extractLsb' 96 32 && h.getLsbD 7 != s.posB && fLen h == p.length &&
      lenOk (fType h) (fLen h)
  | [] => false

/-- A sender's role is ACTIVE or SOLO. -/
def ownerCode (r : Nat) : Bool := r == 2 || r == 4

/-- The first row of R288: an older epoch, and not a frame that any epoch may carry. -/
def State.frameStale (s : State) (f : List Quad) : Bool :=
  match f with
  | h :: _ =>
    let k := fKind f
    let any := fType h == 6 || ((fType h == 3 || fType h == 4) && (k == 1 || k == 3))
    newerEpoch s.ypl.epoch (fEpoch h) && !any
  | [] => false

/-- The device in a collision's back-off has withdrawn its claim: frames are judged by the role before it (R295). -/
def State.rxRole (s : State) : Role := if s.ypl.claimFell.isSome then s.ypl.roleWas else s.ypl.role

/-- An accepted frame: what it shows, its epoch, and what its sender's role means (R276, R288, R292, Table 11.2). -/
def State.frameTaken (s : State) (h : Quad) : State :=
  let e := fEpoch h
  let r := fRole h
  let s := { s with ypl := { s.ypl with seen := true, pRole := BitVec.ofNat 3 r, pPos := h.getLsbD 7, pUnfit := h.getLsbD 13,
                                        pFseq := h.extractLsb' 16 16, pEpoch := e, lastRx := s.time } }
  let newer := ownerCode r && newerEpoch e s.ypl.epoch
  match s.rxRole with
  | .standby =>
    let s := if newer then s.newEpoch e else s
    if !ownerCode r && s.ypl.claimFell.isNone then s.declareLost 3 s.time else s
  | .unjoined => if newer then s.newEpoch e else s
  | .lockout => s
  | .active =>
    if newer then s.depose 1 s.time
    else if r != 1 then s.activeToSolo
    else if s.ypl.hoOut && s.ypl.hoAt.isSome && s.ypl.pUnfit then s.dropHandover stRefusedState 7
    else s
  | .solo =>
    if newer then s.depose 1 s.time
    else if r == 1 && s.ypl.pJoining then
      ({ s with ypl := { s.ypl with role := .active, pJoining := false } }).pairEvt (0xB0 + at_ 2 8) s.time
    else s

/-- The device receives frames: PAIR_EN = 1, a lane is up, no reset is asserted (R275, R278). -/
def State.rxOn (s : State) : Bool := s.pairEn && s.ypl.lanes != 0 && s.pcr.asserted.isNone && s.pcr.state != 3

/-- The frame is of type `type` and, where the type has kinds, of kind `kind`. -/
def frameIs (f : List Quad) (type kind : Nat) : Bool :=
  match f with
  | h :: _ => fType h == type && (kind == 0 || fKind f == kind)
  | [] => false

/-- A frame discarded is counted (R280, R288). -/
def State.frameCount (s : State) (f : List Quad) : State :=
  if !s.frameGood f then s.rcount regYplCount 0 23 16 1
  else if s.frameStale f then s.rcount regYplCount 0 31 24 1
  else s

/-- The end of reception of a frame at `t`; `body` is what an accepted frame of this type and kind does. -/
def State.rx (s : State) (f : List Quad) (type kind : Nat) (t : Time) (body : State → State) : Host.Outcome State Fault Refusal :=
  let s := s.adv t
  if !s.rxOn || !frameIs f type kind then .next s
  else if s.frameGood f && !s.frameStale f then .next (body (s.frameTaken (f.getD 0 0)))
  else .next (s.frameCount f)

/-- BATON (R280, R286): it waits for its adoption. -/
def execBaton (frame : List Quad) (t : Time) (s : State) : Host.Outcome State Fault Refusal :=
  s.rx frame 1 0 t fun s =>
    if s.shadow then { s with ypl := { s.ypl with next := some ⟨frame.drop 1, s.time⟩ } } else s

/-- HEARTBEAT (R280). -/
def execHeartbeat (frame : List Quad) (t : Time) (s : State) : Host.Outcome State Fault Refusal := s.rx frame 2 0 t fun s => s

/-- FRAME_DISCARD (R279, R280, R288): a frame that breaks the pattern of R279 is dropped, one that fails a check is counted too. -/
def execFrameDiscard (frame : List Quad) (wellFramed : Bool) (t : Time) (s : State) : Host.Outcome State Fault Refusal :=
  let s := s.adv t
  if !s.rxOn || !wellFramed then .next s else .next (s.frameCount frame)

/-- RELAY_CLAIM (R293, R288): a newer epoch of the claiming partner deposes an owner. -/
def execRelayClaim (frame : List Quad) (t : Time) (s : State) : Host.Outcome State Fault Refusal := s.rx frame 7 1 t fun s => s

/-- RELAY_YIELD (R292). -/
def execRelayYield (frame : List Quad) (t : Time) (s : State) : Host.Outcome State Fault Refusal :=
  s.rx frame 7 2 t fun s => if s.ypl.role == .standby then s.declareLost 2 s.time else s

/-- A one-quad REPLY. -/
def State.reply (s : State) (kind reason : Nat) : State := s.sendSlow 4 [BitVec.ofNat 128 (kind + at_ reason 8)]

/-- REQUEST_JOIN (R299): the partner is joining; the request is answered. -/
def execRequestJoin (frame : List Quad) (t : Time) (s : State) : Host.Outcome State Fault Refusal :=
  s.rx frame 3 1 t fun s =>
    let s := if ownerCode s.ypl.pRole.toNat || s.ypl.pRole == 1 then s else { s with ypl := { s.ypl with pJoining := true } }
    s.reply 1 0

/-- REQUEST_HANDOVER (R298): a fit standby prepares for B_h and accepts. The refusal codes in the REPLY are the model's: DESIGN CHOICE
(log 35). -/
def execRequestHandover (frame : List Quad) (t : Time) (s : State) : Host.Outcome State Fault Refusal :=
  s.rx frame 3 2 t fun s =>
    if s.ypl.role != .standby then s.reply 2 1
    else if !s.fitNow then s.reply 2 2
    else
      let bh := bitsN (frame.getD 1 0).toNat 127 64 * s.fp
      ({ s with ypl := { s.ypl with hoAt := some bh, hoOut := false, hoPrep := false } }).reply 2 0

/-- REQUEST_ATTEST_NONCE (R417, R420): a report for the partner is queued; a newer request replaces one that waits. -/
def execRequestAttestNonce (frame : List Quad) (t : Time) (s : State) : Host.Outcome State Fault Refusal :=
  s.rx frame 3 3 t fun s =>
    let n : BitVec 256 := BitVec.ofNat 256 ((frame.getD 2 0).toNat + at_ (frame.getD 3 0).toNat 128)
    let q := s.msr.queue
    let busy := q.take 1
    let q' := if (q.drop 1).any fun a => a.who == 2 then busy ++ (q.drop 1).map fun a => if a.who == 2 then ⟨2, n⟩ else a
      else q ++ [⟨2, n⟩]
    { s with msr := { s.msr with queue := q' } }

/-- REPLY (R280, R297): an accepting answer to a hand-over request. -/
def execReply (frame : List Quad) (t : Time) (s : State) : Host.Outcome State Fault Refusal :=
  s.rx frame 4 0 t fun s =>
    if fKind frame == 2 && bitsN (frame.getD 1 0).toNat 15 8 == 0 && s.ypl.hoOut && s.ypl.hoAt.isSome then
      { s with ypl := { s.ypl with hoReply := true } }
    else s

/-- ATTEST_FRAME (R420): one fragment of the partner's report. -/
def execAttestFrame (frame : List Quad) (t : Time) (s : State) : Host.Outcome State Fault Refusal :=
  s.rx frame 6 0 t fun s =>
    let q := (frame.getD 1 0).toNat
    let x := (bitsN q 7 0, bitsN q 15 8, frame.drop 2)
    { s with ypl := { s.ypl with frags := s.ypl.frags.filter (fun y => y.1 != x.1) ++ [x] } }

/-! ### What is sent on its own (R281, R283) -/

/-- HEARTBEAT_SEND: 500 ns after the start of the last frame; none after a yield (R238). -/
def execHeartbeatSend (t : Time) (s : State) : Host.Outcome State Fault Refusal :=
  let s := s.adv t
  if s.maySend && !s.sup.hbStop && decide (s.ypl.lastTx + 1000 ≤ s.time) then .next (s.sendFrame 2 []) else .next s

/-- Joined or joining. -/
def State.inPair (s : State) : Bool :=
  s.ypl.role == .standby || s.ypl.role == .active || (s.ypl.role == .solo && s.ypl.pJoining) || s.lopAny 0x49

/-- SYNC_SEND: every 10 µs. -/
def execSyncSend (t : Time) (s : State) : Host.Outcome State Fault Refusal :=
  let s := s.adv t
  if s.maySend && s.inPair && decide (s.ypl.lastSync + 10 * us1 ≤ s.time) then
    let q := BitVec.ofNat 128 (s.pacTime % 2 ^ 64 + at_ s.ypl.syncRx.toNat 64)
    let s := s.sendFrame 5 [q, BitVec.ofNat 128 s.ypl.syncTx.toNat]
    .next { s with ypl := { s.ypl with lastSync := s.time } }
  else .next s

/-! ### Pacer alignment (R283, R284) -/

/-- The device follows the partner's Pacer: it is no owner, and while both are joining it is position B. -/
def State.follower (s : State) : Bool :=
  !s.owner && (ownerCode s.ypl.pRole.toNat || s.ypl.role == .standby || s.posB) && s.inPair

/-- An instant after a step of PAC_TIME by `d`. -/
def shiftT (d : Int) (t : Time) : Time := ((t : Int) + d).toNat

def ChanSt.shift (c : ChanSt) (d : Int) : ChanSt :=
  { c with reqAt := shiftT d c.reqAt, lastOn := shiftT d c.lastOn, lastOff := shiftT d c.lastOff, mark := shiftT d c.mark, chgAt := shiftT d c.chgAt }

def SrcSt.shift (x : SrcSt) (d : Int) : SrcSt :=
  { x with wdMark := shiftT d x.wdMark, pspEdge := shiftT d x.pspEdge, upAt := shiftT d x.upAt,
           aspNew := x.aspNew.map fun (t, v) => (shiftT d t, v), pspNew := x.pspNew.map fun (t, v) => (shiftT d t, v) }

def PairSt.shift (p : PairSt) (d : Int) : PairSt :=
  { p with onAt := shiftT d p.onAt, memE := { p.memE with last := shiftT d p.memE.last }, memO := { p.memO with last := shiftT d p.memO.last },
           checkDue := p.checkDue.map (shiftT d), checkAt := p.checkAt.map (shiftT d), hist := p.hist.map fun h => { h with t := shiftT d h.t } }

/-- The instants that Acquisition counts from; the housekeeping schedule, whose instants are multiples of Pacer time, starts anew (R196). -/
def AcqSt.shift (a : AcqSt) (d : Int) (t : Time) : AcqSt :=
  let k := shiftT d
  { a with pairs := a.pairs.map fun p => p.shift d
           link0 := a.link0.map fun h => { h with t := k h.t }
           link1 := a.link1.map fun h => { h with t := k h.t }
           clampAt := a.clampAt.map fun (c, u) => (c, k u)
           bankClamp := a.bankClamp.map fun (c, u) => (c, k u)
           urgents := a.urgents.map fun u => { u with at_ := k u.at_, ready := k u.ready }
           gridAt := k a.gridAt, runAt := k a.runAt, busy := a.busy.map fun (n, u) => (n, k u)
           hkAt := Vector.replicate 22 t, refAt := a.refAt.map k }

/-- The step of R23: PAC_TIME and the instants from which running times are counted move together; boundaries are counted anew. -/
def State.stepPac (s : State) (d : Int) : State :=
  let t := shiftT d s.time
  let k := fun (x : Time) => shiftT d x
  let y := s.ypl
  let s := forFin 48 s fun s n => s.modChan n fun c => c.shift d
  let s := forFin 2 s fun s m => s.modMach m fun x => { x with src := x.src.shift d }
  let s := { s with
    time := t
    lastFp := t / s.fp * s.fp
    lastSp := t / s.sp * s.sp
    lastHr := t / hkRound * hkRound
    ypl := { y with lastRx := k y.lastRx, lastTx := k y.lastTx, lastSync := k y.lastSync, corrAt := k y.corrAt, digBad := y.digBad.map k,
                    stepped := true }
    chops := s.chops.map fun (c : ChopSt) => { c with ch := c.ch.shift d, lowAt := k c.lowAt }
    acq := s.acq.shift d t
    sup := { s.sup with ov1At := s.sup.ov1At.map fun (o : Option Time) => o.map k
                        glk := s.sup.glk.map fun (g : GlkSt) => { g with lastAt := k g.lastAt, discards := g.discards.map k } }
    thm := { s.thm with readAt := k s.thm.readAt, lastRound := k s.thm.lastRound }
    ecc := { s.ecc with fixes := s.ecc.fixes.map fun (t, n) => (k t, n) }
    otp := { s.otp with scanAt := k s.otp.scanAt }
    svc := { s.svc with wdAt := k s.svc.wdAt, safes := s.svc.safes.map fun (u, x) => (k u, x) }
    pcr := { s.pcr with warnAt := s.pcr.warnAt.map k, runAt := s.pcr.runAt.map k, transitEnd := k s.pcr.transitEnd }
    host := { s.host with lops := s.host.lops.map fun (l : Lop) => { l with since := k l.since, suspAt := k l.suspAt }
                          rings := s.host.rings.map fun (r : RingSt) => { r with sigAt := r.sigAt.map k }
                          waiting := s.host.waiting.map fun (c : Waiting) => { c with at_ := k c.at_, due := k c.due } } }
  s.rsetF regPacStatus 0 2 2 1

/-- Phase of a PAIR_REJOIN that runs; 0 none. -/
def State.rejoinPhase (s : State) : Nat := match s.running 0x49 with | some k => s.host.lops[k].phase | none => 0

/-- SYNC (R283, R284): receipt is stamped outside CTL (R33); the follower measures its offset, and steps once in phase 4. -/
def execSync (frame : List Quad) (t : Time) (s : State) : Host.Outcome State Fault Refusal :=
  s.rx frame 5 0 t fun s =>
    let tx := bitsN (frame.getD 1 0).toNat 63 0
    let a2 := bitsN (frame.getD 1 0).toNat 127 64
    let b2 := bitsN (frame.getD 2 0).toNat 63 0
    let b1 := ticksOf (s.stamp s.time)
    let s := s.freeNext
    let s := { s with ypl := { s.ypl with syncTx := BitVec.ofNat 64 tx, syncRx := BitVec.ofNat 64 b1 } }
    if s.follower && b2 != 0 then
      let off : Int := (((b1 : Int) - tx) + ((b2 : Int) - a2)) * 5 / 2
      let ok := decide (off.natAbs ≤ 10)
      let delay : Int := (((a2 : Int) - tx) - ((b2 : Int) - b1)) * 5 / 2
      let s := { s with ypl := { s.ypl with offset := off, left := off, delay := delay, good := if ok then min 8 (s.ypl.good + 1) else 0,
                                            bad := if ok then 0 else min 8 (s.ypl.bad + 1) } }
      if s.rejoinPhase == 4 && !s.ypl.stepped then { s.stepPac (-off) with ypl := { (s.stepPac (-off)).ypl with left := 0 } } else s
    else s

/-- PACER_CORRECTION (R283): one tick, at most once per 10 µs, never within 100 ns of an FP boundary. -/
def execPacerCorrection (t : Time) (s : State) : Host.Outcome State Fault Refusal :=
  let s := s.adv t
  let y := s.ypl
  let clear := decide (200 ≤ s.time % s.fp) && decide (s.time % s.fp + 200 ≤ s.fp)
  if s.follower && (y.stepped || y.aligned) && y.left != 0 && decide (y.corrAt + 10 * us1 ≤ s.time) && clear then
    let up := decide (y.left < 0)
    .next { s with time := if up then s.time + 5 else s.time - 5,
                   ypl := { y with corrAt := s.time, corrs := (y.corrs + 1) % 65536, left := if up then y.left + 5 else y.left - 5 } }
  else .next s

/-- ALIGNMENT_ACQUIRED (R284). -/
def execAlignmentAcquired (s : State) : Host.Outcome State Fault Refusal :=
  if 8 ≤ s.ypl.good ∧ ¬ s.ypl.aligned then .next { s with ypl := { s.ypl with aligned := true } } else .next s

/-- ALIGN_LOST (R284). -/
def execAlignLost (s : State) : Host.Outcome State Fault Refusal :=
  if 8 ≤ s.ypl.bad ∧ s.ypl.aligned then .next (({ s with ypl := { s.ypl with aligned := false } }).pairEvt 0xB9 s.time) else .next s

/-! ### Lanes (R278, R279) -/

/-- LANE_BLOCK_LOCK: a lane that has not failed is up. -/
def execLaneBlockLock (lane : Fin 2) (t : Time) (s : State) : Host.Outcome State Fault Refusal :=
  let s := s.adv t
  if s.pairEn && s.pcr.asserted.isNone && !s.ypl.laneBad.getLsbD lane then
    .next { s with ypl := { s.ypl with lanes := s.ypl.lanes ||| (1#2 <<< lane.val) } }
  else .next s

/-- LANE_FAIL: the link goes on with the other lane; HEALTH. -/
def execLaneFail (lane : Fin 2) (t : Time) (s : State) : Host.Outcome State Fault Refusal :=
  let s := s.adv t
  if s.ypl.lanes.getLsbD lane then
    let s := { s with ypl := { s.ypl with lanes := s.ypl.lanes &&& ~~~ (1#2 <<< lane.val), laneBad := s.ypl.laneBad ||| (1#2 <<< lane.val) } }
    .next (s.health 4 0x0C lane.val 0 s.time)
  else .next s

/-! ### Loss, relay, collisions (R292 to R295) -/

/-- PARTNER_LOST: LOSS_T has passed since the last accepted frame. -/
def execPartnerLost (t : Time) (s : State) : Host.Outcome State Fault Refusal :=
  let s := s.adv t
  if s.pairEn && s.ypl.seen && decide (s.ypl.lastRx + 200 * s.rf regYplCfg 0 12 8 ≤ s.time) then
    match s.ypl.role with
    | .standby => .next (s.declareLost 1 s.time)
    | .active => .next s.activeToSolo
    | _ => .next s
  else .next s

/-- A set of the new owner: DECAY from t2, then its shadow state (R294). -/
def State.setTakes (s : State) (w : Fin 8) (t2 t : Time) : State :=
  s.modSet w fun x => if x.driving then { x with cell := { x.cell with seq := [(t, x.cell.cur), (t2, .decay)] } } else x

/-- What R293 and R362 write at the take-over: YPL_TAKEOVER_SEQ, then the 17 recovery quads. A device that has adopted no baton since it
became STANDBY writes them with VALID 0: DEDUCED (log 160). -/
def State.takeoverSeqs (s : State) (t : Time) : State :=
  let f := fun (k hi lo : Nat) => match s.ypl.adopted with | some x => x.f k hi lo | none => 0
  let ok := b2n s.ypl.adopted.isSome
  let s := forFin 16 s fun s n =>
    s.rset regYplTakeoverSeq n (BitVec.ofNat 32 (f (11 + n.val / 8) (16 * (n.val % 8) + 15) (16 * (n.val % 8)) + at_ ok 16))
  let s := forFin 16 s fun s n =>
    let w := s.rget regYplTakeoverSeq n
    s.recoveryQuad (0xC6 + at_ n.val 8 + at_ (bits w 16 16) 13 + at_ (bits w 15 0) 16) t
  let now := ticksOf t
  let tf := now - (now + 2 ^ 32 - f 14 95 64) % 2 ^ 32
  s.recoveryQuad (0xC7 + at_ (f 14 99 96) 8 + at_ (f 14 100 100) 13 + at_ (f 14 127 112) 16) (5 * tf)

/-- OWN rises at `t` (R293, R294): the shadow drives. -/
def State.takeOver (s : State) (t : Time) : State :=
  let t2 := s.ypl.claimAt.getD t
  let s := { s with ypl := { s.ypl with own := true, ownAt := none } }
  let s := forFin 8 s fun s w => s.setTakes w t2 t
  let s := forFin 48 s fun s n => s.modChan n fun c => { c with lastOff := t2 + 200, lastOn := 0, freed := true }
  let s := forFin 2 s fun s m => s.modMach m fun x =>
    { x with loop := { x.loop with out := none, mcRun := 0, winRun := 0 }, src := { x.src with wdMark := t } }
  let s := s.pairEvt (0xB2 + at_ ((t / s.fp - s.adoptedIdx) % 65536) 16) t
  s.takeoverSeqs t

/-- TAKEOVER (R293): at the second FP boundary after CLAIM rose, with YIELD_IN low. It is issued before FP_BOUNDARY of the same
instant. -/
def execTakeover (s : State) : Host.Outcome State Fault Refusal :=
  match s.ypl.ownAt with
  | some b =>
    let t := max s.time b
    let s := s.adv b
    if s.ypl.claim && !s.ypl.yieldIn then .next (s.takeOver t) else .next s
  | none => .next s

/-- CLAIM_BLOCKED (R293). -/
def execClaimBlocked (t : Time) (s : State) : Host.Outcome State Fault Refusal :=
  let s := s.adv t
  match s.ypl.claimAt with
  | some c =>
    if s.ypl.claim && s.ypl.yieldIn && s.ypl.ownAt.isSome && !s.ypl.blocked && decide (c + 10 * us1 ≤ s.time) then
      .next (({ s with ypl := { s.ypl with blocked := true } }).pairEvt 0xBA s.time)
    else .next s
  | none => .next s

/-- A collision: both yield in hardware and withdraw their epochs (R295). -/
def State.collide (s : State) (t : Time) : State :=
  let y := s.ypl
  let s := s.newEpoch y.epochWas
  let s := { s with ypl := { s.ypl with claim := false, own := false, ownAt := none, claimFell := some t } }
  (s.releaseAll t).pairEvt (0xB7 + at_ (b2n !s.posB) 8) t

/-- YIELD_IN_RISE (R228, R273, R295): seen, pins released, OWN and CLAIM low; a collision, a deposition, or neither: in the exchange at B_h, in
back-off, and in a device that does not own. A device with PAIR_EN = 0 ignores it (R275). Its events are stamped exactly, within the tick of
R33: DESIGN CHOICE, unsafe (log 156). -/
def execYieldInRise (t : Time) (s : State) : Host.Outcome State Fault Refusal :=
  let s := s.adv t
  let s := s.rset regCmpFltSeen 0 (s.rget regCmpFltSeen 0 ||| 0x200)
  let s := { s with ypl := { s.ypl with yieldIn := true }, lts := { s.lts with stYield := s.lts.stYield || (s.pairEn && s.selfBlock == some 2) } }
  let s := if s.pairEn && s.selfBlock == some 2 then { s.releaseAll s.time with edges := [] } else s
  if !s.pairEn || s.ypl.claimFell.isSome || !s.owner then .next s
  else
    let s := { s with ypl := { s.ypl with own := false, claim := false } }
    let near := match s.ypl.claimAt with | some c => decide (c ≤ s.time) && decide (s.time ≤ c + 400) | none => false
    let swap := match s.ypl.hoAt with | some b => s.ypl.hoOut && s.ypl.hoReply && decide (b ≤ s.time + 20) | none => false
    if near then .next (s.collide s.time)
    else if swap then .next (s.releaseAll s.time)
    else .next (s.depose 0 s.time)

/-- YIELD_IN_FALL (R293): a claim whose boundary has passed takes over; an owner's OWN may rise. -/
def execYieldInFall (t : Time) (s : State) : Host.Outcome State Fault Refusal :=
  let s := s.adv t
  let s := { s with ypl := { s.ypl with yieldIn := false } }
  if s.owner && s.ypl.claim && s.ypl.claimFell.isNone then
    match s.ypl.ownAt with
    | some b => if b ≤ s.time then .next (s.takeOver s.time).retrip else .next s
    | none => .next ({ s with ypl := { s.ypl with own := true } }).retrip
  else .next s

/-- COLLISION_RECLAIM (R295): position A, 2 µs after its CLAIM fell, if YIELD_IN is low, continues its claim, with the epoch of R276 for
a claim from the role before it. -/
def execCollisionReclaim (t : Time) (s : State) : Host.Outcome State Fault Refusal :=
  let s := s.adv t
  match s.ypl.claimFell with
  | some f =>
    if !s.posB && !s.ypl.yieldIn && decide (f + 2 * us1 ≤ s.time) then
      let y := s.ypl
      let s := s.claimNow y.role (if y.roleWas == .standby then y.epoch + 1 else s.ownerEpoch) s.time
      .next { s with ypl := { s.ypl with roleWas := y.roleWas, ownAt := some (s.secondFp s.time) } }
    else .next s
  | none => .next s

/-- COLLISION_BACKOFF_END (R295): position B, 20 µs after, takes back its former role; a former STANDBY that has accepted no frame since
becomes UNJOINED. -/
def execCollisionBackoffEnd (t : Time) (s : State) : Host.Outcome State Fault Refusal :=
  let s := s.adv t
  match s.ypl.claimFell with
  | some f =>
    if s.posB && decide (f + 20 * us1 ≤ s.time) then
      let was := s.ypl.roleWas
      if was == .standby && decide (f < s.ypl.lastRx) then
        .next { s with ypl := { s.ypl with role := .standby, claimAt := none, claimFell := none } }
      else .next (s.leaveDrive (if was == .standby then .unjoined else was) s.time)
    else .next s
  | none => .next s

/-- FITNESS (R291): each change of a standby's fitness. -/
def execFitness (s : State) : Host.Outcome State Fault Refusal :=
  let fit := s.fitNow
  if s.ypl.role == .standby && fit != s.ypl.fit then
    let s := { s with ypl := { s.ypl with fit := fit } }
    .next (s.pairEvt (0xB5 + at_ (b2n fit) 8 + at_ s.unfitBy 9) s.time)
  else .next s

/-! ### Planned hand-over (R297, R298) -/

/-- PAIR_HANDOVER: reasons 1 to 5, then B_h is the first SP boundary at least 20 µs later. -/
def execPairHandover (q : CmdQ) (s : State) : Host.Outcome State Fault Refusal :=
  s.runCmd q 0x48 (q.arg0 == 0 && q.arg1 == 0) fun s c =>
    let t := fun (m : Fin 2) => s.mach[m].trk.state
    let starting := s.confMach.any fun m => t m == .listen || t m == .probe || t m == .step || t m == .ascObserve || t m == .lost
    if s.ypl.role != .active then s.finish c stRefusedState 1
    else if s.ypl.pUnfit then s.finish c stRefusedState 2
    else if s.ypl.hoAt.isSome then s.finish c stRefusedState 3
    else if starting || s.groups.toList.any (fun g => g.direct) then s.finish c stRefusedState 4
    else if s.sup.f4 || s.sup.f5 || s.thm.shutRun || s.thm.seqDue || s.pcr.stopping || s.pcr.stopDue then s.finish c stRefusedState 5
    else
      let bh := nextMult s.sp (s.time + 20 * us1)
      let s := s.await { c with due := bh }
      let s := { s with ypl := { s.ypl with hoAt := some bh, hoOut := true, hoReply := false } }
      s.sendSlow 3 [BitVec.ofNat 128 (2 + at_ (bh / s.fp) 64)]

/-- HANDOVER_REPLY_DEADLINE: reason 6 at B_h − 5 µs. -/
def execHandoverReplyDeadline (s : State) : Host.Outcome State Fault Refusal :=
  match s.ypl.hoAt with
  | some b =>
    if s.ypl.hoOut && !s.ypl.hoReply then .next ((s.adv (b - 5 * us1)).dropHandover stRefusedState 6) else .next s
  | none => .next s

/-- HANDOVER_CLAIM_RELEASE: at B_h − 200 ns the owner lowers CLAIM and goes on driving. -/
def execHandoverClaimRelease (s : State) : Host.Outcome State Fault Refusal :=
  match s.ypl.hoAt with
  | some b =>
    if s.ypl.hoOut && s.ypl.hoReply then
      let s := s.adv (b - 400)
      .next { s with ypl := { s.ypl with claim := false } }
    else .next s
  | none => .next s

/-- The exchange at B_h. -/
def State.exchange (s : State) (b : Time) : State :=
  let out := s.ypl.hoOut
  let c := s.oldest 0x48
  let s := s.newEpoch (s.ypl.epoch + 1)
  let s := { s with ypl := { s.ypl with role := if out then .standby else .active, claim := !out, own := !out && !s.ypl.yieldIn,
                                        claimAt := none, ownAt := if !out && s.ypl.yieldIn then some b else none, fit := false,
                                        pRole := if out then 2 else 1, pUnfit := false,
                                        hoAt := none, hoOut := false, hoReply := false, hoPrep := false, next := none,
                                        expect := 0xFFFF, digBad := none } }
  let s := if out then (s.releaseAll b).roleAborts else s.takeDev.localSafe b
  let s := match out, c with
    | true, some c => s.finishW c stOk s.ypl.epoch.toNat
    | _, _ => s
  s.pairEvt (0xB6 + at_ (b2n !out) 8) b

/-- HANDOVER_DONE (R298): the outgoing device with an accepted request, or the standby that has prepared. It is issued before FP_BOUNDARY
of the same instant. -/
def execHandoverDone (s : State) : Host.Outcome State Fault Refusal :=
  match s.ypl.hoAt with
  | some b =>
    let ok := if s.ypl.hoOut then s.ypl.role == .active && s.ypl.hoReply && !s.ypl.claim else s.ypl.role == .standby && s.ypl.hoPrep
    if ok then .next ((s.adv b).exchange (max s.time b)) else .next s
  | none => .next s

/-! ### PAIR_REJOIN (R299 to R301) -/

/-- FW_POLICY, SOLO_PERMIT and LC_MATCH of OTP region 5. -/
def State.pairPolicy (s : State) : Nat × Bool × Bool :=
  match s.otp.regions[5].load with
  | 1 => let w := s.shadowW 320; (bits w 1 0, w.getLsbD 2, w.getLsbD 3)
  | 2 => (0, false, true)
  | _ => (0, true, true)

/-- Listed digests, as byte strings; an all-zero digest is unused. -/
def State.listed (s : State) : List (List Byte) :=
  ((List.range 4).map fun k => wordBytes ((List.range 12).map fun i => s.shadowW (321 + 12 * k + i))).filter fun d => d.any (· != 0)

/-- The partner's report, once its four fragments are there (R420). -/
def State.partnerReport (s : State) : Option (List Byte) :=
  let part := fun (i : Nat) => (s.ypl.frags.find? fun x => x.1 == i && x.2.1 == 4).map fun x => x.2.2
  match part 0, part 1, part 2, part 3 with
  | some a, some b, some c, some d =>
    if a.length = 15 ∧ b.length = 15 ∧ c.length = 15 ∧ d.length = 13 then some (quadBytes (a ++ b ++ c ++ d)) else none
  | _, _, _, _ => none

/-- The check of R300: 0 passes, else its reason. The signature is not checked. -/
def State.checkReport (s : State) : Nat :=
  match s.partnerReport with
  | none => 3
  | some r =>
    let part := fun (a n : Nat) => (r.drop a).take n
    let (fw, _, lc) := s.pairPolicy
    let dig := part 0x50 48
    let same := dig == digestBytes s.msr.digest
    if part 0x30 32 != leBytes s.ypl.nonce.toNat 32 then 3
    else if lc && ofLe (part 0x0C 4) % 8 != s.otp.lc % 8 then 2
    else if fw == 2 || same || (fw == 1 && s.listed.contains dig) then 0
    else 1

/-- The report has arrived whole, or a fragment shows that it never will. -/
def State.reportIn (s : State) : Bool :=
  s.partnerReport.isSome || s.ypl.frags.any fun x => x.2.1 != 4 || decide (3 < x.1)

/-- Begin a phase. -/
def State.rejoinEnter (s : State) (k : Fin 8) (p : Nat) : State :=
  let s := s.modLop k fun l => { l with phase := p, since := s.time }
  match p with
  | 1 =>
    let s := { s with ypl := { s.ypl with laneBad := 0, frags := [], refuse := 0, stepped := false } }
    s.sendSlow 3 [1]
  | 2 =>
    let n := (Config.freeWide s.freeCtr).setWidth 256
    let s := s.freeNext
    let s := { s with ypl := { s.ypl with nonce := n, frags := [] } }
    s.sendSlow 3 [3, n.extractLsb' 0 128, n.extractLsb' 128 128]
  | 3 => s.sendSlow 3 [1]
  | 4 => { s with ypl := { s.ypl with stepped := false, aligned := false, good := 0, bad := 0 } }
  | 5 => { s with ypl := { s.ypl with expect := 0xFFFF, shadowRun := 0, digBad := none, next := none, adopted := none,
                                      divRun := Vector.replicate 2 0 } }
  | _ => s

/-- RESUME (R348): the operation continues under its own rules; one past its 100 ms limit starts again (R203, R301). -/
def execResume (q : CmdQ) (s : State) : Host.Outcome State Fault Refusal :=
  s.runCmd q 0x03 (handleOk q) fun s c =>
    let h := bits c.arg0 15 0
    match s.lopOf h with
    | none => s.finish c stRefusedState 1
    | some k =>
      let l := s.host.lops[k]
      if l.state = 2 then
        let again := l.stale || ((l.opc == 0x20 || l.opc == 0x49) && decide (l.suspAt + 100 * ms1 < s.time))
        let s := s.modLop k fun l =>
          { l with state := 1, since := s.time, stale := false, phase := if again then 0 else l.phase, res := if again then [] else l.res }
        let s := s.finish c stOk h
        if l.opc == 0x30 then s.burnResume
        else if l.opc == 0x20 then s.closeAll
        else if l.opc == 0x49 then s.rejoinEnter k (if again then 1 else l.phase)
        else if l.opc == 0x40 then s.blockEnter k
        else s
      else s.finish c stRefusedState 1

/-- PAIR_REJOIN (R299). The heartbeats that a yield has stopped begin again with it: DESIGN CHOICE, unsafe (log 140). -/
def execPairRejoin (q : CmdQ) (s : State) : Host.Outcome State Fault Refusal :=
  s.runCmd q 0x49 (bits q.arg0 31 1 == 0 && q.arg1 == 0) fun s c =>
    if (s.ypl.role != .unjoined && s.ypl.role != .lockout) || !s.pairEn || s.lopAny 0x49 ||
        s.linkTested 0 || s.linkTested 1 then s.finish c stRefusedState 0
    else
      let s := s.lopStart c
      match s.running 0x49 with
      | some k =>
        let s := { s with sup := { s.sup with hbStop := false } }
        s.rejoinEnter k 1
      | none => s

/-- RESULT of a completed join. -/
def State.joinResult (s : State) : Nat := s.ypl.role.code + at_ s.ypl.epoch.toNat 16

/-- JOINED, and the final OK; DIVERGED clears (R289). -/
def State.joined (s : State) (k : Fin 8) : State :=
  let s := { s with ypl := { s.ypl with diverged := false } }
  let s := s.pairEvt (0xB0 + at_ s.ypl.role.code 8) s.time
  s.lopEnd k stOk s.joinResult

/-- A join fails: the role stays, the shadow of phase 5 ends; reason 0 for a TIMEOUT. -/
def State.rejoinFail (s : State) (k : Fin 8) (st : BitVec 8) (reason : Nat) : State :=
  let s := if s.host.lops[k].phase = 5 then s.shadowOff else s
  let s := { s with ypl := { s.ypl with refuse := reason } }
  let s := if reason = 0 then s else s.pairEvt (0xB8 + at_ reason 8) s.time
  s.lopEnd k st reason

/-- The next phase, unless the operation pauses or ends here. -/
def State.rejoinNext (s : State) (k : Fin 8) (p : Nat) : State :=
  let s := s.modLop k fun l => { l with phase := p + 1 }
  let (s, go) := s.lopPause k p 0
  if go then s.rejoinEnter k (p + 1) else s

/-- A claim within a join (R299): steps 1 to 3 of R293, OWN at once with YIELD_IN low (R272). -/
def State.joinClaim (s : State) (role : Role) (k : Fin 8) : State :=
  let s := s.claimNow role s.ownerEpoch s.time
  let s := { s with ypl := { s.ypl with own := !s.ypl.yieldIn, ownAt := none } }
  ((s.localSafe s.time).retrip).joined k

/-- The end of phase 3 with an owning partner: a device in LOCKOUT adopts the newer epoch (R276). -/
def State.lockoutEpoch (s : State) : State :=
  if s.ypl.role == .lockout then
    s.newEpoch (if newerEpoch s.ypl.pEpoch s.ypl.epoch then s.ypl.pEpoch else s.ypl.epoch)
  else s

/-- REJOIN_PHASE_END (Table 11.8). DIVERGED, which only the join's end clears, does not hold up phase 5. DEDUCED (log 36). -/
def execRejoinPhaseEnd (t : Time) (s : State) : Host.Outcome State Fault Refusal :=
  let s := s.adv t
  match s.running 0x49 with
  | none => .next s
  | some k =>
    let l := s.host.lops[k]
    match l.phase with
    | 1 => if s.ypl.lanes == 3 && s.ypl.seen && decide (l.since ≤ s.ypl.lastRx) then .next (s.rejoinNext k 1) else .next s
    | 2 =>
      if s.reportIn then
        match s.checkReport with
        | 0 => .next (s.rejoinNext k 2)
        | r => .next (s.rejoinFail k stVerifyFail r)
      else .next s
    | 3 =>
      if ownerCode s.ypl.pRole.toNat then .next (s.lockoutEpoch.rejoinNext k 3)
      else if s.ypl.pJoining then
        if s.posB then .next (s.rejoinNext k 3) else .next (s.joinClaim .active k)
      else .next s
    | 4 => if s.ypl.stepped && s.ypl.aligned then .next (s.rejoinNext k 4) else .next s
    | 5 =>
      let u := { s with ypl := { s.ypl with diverged := false } }
      if s.ypl.digBad.isNone && decide (256 ≤ s.ypl.shadowRun) && u.unfitBy == 0 then
        .next (({ u with ypl := { u.ypl with role := .standby, fit := false, divDue := Vector.replicate 2 false } }).joined k)
      else .next s
    | _ => .next s

/-- Limits of Table 11.8. -/
def rejoinLimit (p : Nat) : Time :=
  match p with
  | 2 => 100 * ms1
  | 5 => s1
  | _ => 10 * ms1

/-- REJOIN_PHASE_TIMEOUT (Table 11.8). -/
def execRejoinPhaseTimeout (s : State) : Host.Outcome State Fault Refusal :=
  match s.running 0x49 with
  | none => .next s
  | some k =>
    let l := s.host.lops[k]
    let s := s.adv (l.since + rejoinLimit l.phase)
    let (_, solo, _) := s.pairPolicy
    match l.phase with
    | 1 => if l.arg0.getLsbD 0 && !s.ypl.yieldIn && solo then .next (s.joinClaim .solo k) else .next (s.rejoinFail k stTimeout 0)
    | 2 => .next (s.rejoinFail k stVerifyFail (max 1 s.checkReport))
    | 5 => if s.ypl.digBad.isSome then .next (s.rejoinFail k stVerifyFail 4) else .next (s.rejoinFail k stTimeout 0)
    | _ => .next (s.rejoinFail k stTimeout 0)

end Sys2Proof.Machine
end

