-- ==== Sys2Proof/Machine/Rings.lean ====
section
/-! DEFINITION. Rings.lean: the rings as the host works them (chapters 12 and 13): doorbells, enabling, disabling, reset, ring errors,
moderation, and what holds transfers back. -/
namespace Sys2Proof.Machine

/-- A ring error (R351 to R353): the ring stops; RING_STOPPED. -/
def State.ringStop (s : State) (i : Fin 48) (cause : Nat) (t : Time) : State :=
  let s := s.modRing i fun r => { r with stopped := true, cause := cause }
  s.recoveryQuad (0xC1 + at_ i.val 8 + at_ cause 14) t

/-- CAUSE of a failed transfer (Table 13.4). -/
def dmaCode : DmaCause → Nat
  | .dma => 1
  | .poisoned => 2
  | .timeout => 3

/-- A transfer of CQn fails: it is reported through advanced error reporting, and CQn stops (R307, R351). -/
def State.ringError (s : State) (n : Fin 16) (cause : DmaCause) : State :=
  ({ s with host := { s.host with aer := s.host.aer ||| (1#4 <<< dmaCode cause) } }).ringStop (cqIdx n) (dmaCode cause) s.time

/-! ### Doorbells (R313, R316) -/

/-- The doorbell write carries an index of the ring, by at most `room`. -/
def State.bellOk (s : State) (i : Fin 48) (v : Word) (from_ room : Nat) : Bool :=
  let n := s.ringSize i
  let x := bits v 15 0
  decide (x < n) && decide ((x + n - from_ % n) % n ≤ room)

/-- A doorbell is heard: the ring is enabled and not stopped, bits [31:16] are 0, and the device takes doorbells. A write with another
value in the bits that must be 0 is discarded. DESIGN CHOICE (log 39). -/
def State.bellOn (s : State) (i : Fin 48) (v : Word) : Bool :=
  s.ringEn i && !s.host.rings[i].stopped && bits v 31 16 == 0 && s.pcr.state != 3 && s.pcr.asserted.isNone

/-- CQ_TAIL_DOORBELL (R316): the tail, or an overflow; a ring that is being disabled flushes what is posted (R356). -/
def execCqTailDoorbell (n : Fin 16) (v : Word) (t : Time) (s : State) : Host.Outcome State Fault Refusal :=
  let s := s.adv t
  let i := cqIdx n
  if !s.bellOn i v then .next s
  else if s.bellOk i v s.host.rings[i].tail (s.ringFree i) then .next ((s.modRing i fun r => { r with tail := bits v 15 0 }).closeTry n)
  else .next (s.ringStop i 4 s.time)

/-- HEAD_DOORBELL of ring 16 + i (R316): the head, or an overflow; an overflow of DQn stops CQn too. -/
def execHeadDoorbell (i : Fin 32) (v : Word) (t : Time) (s : State) : Host.Outcome State Fault Refusal :=
  let s := s.adv t
  let k : Fin 48 := ⟨16 + i.val, by omega⟩
  if !s.bellOn k v then .next s
  else if s.bellOk k v s.host.rings[k].head (s.ringUsed k) then
    .next (s.modRing k fun r => { r with head := bits v 15 0 }).pump
  else
    let s := if i.val < 16 then s.modRing (Fin.ofNat 48 i.val) fun r => { r with stopped := true, cause := 4 } else s
    .next (s.ringStop k 4 s.time)

/-! ### Failed transfers (R307, R351) -/

/-- COMMAND_FETCH_FAIL: the fetch of the entry at the head of CQn fails; the entries before it have begun (log 159). -/
def execCommandFetchFail (n : Fin 16) (cause : DmaCause) (t : Time) (s : State) : Host.Outcome State Fault Refusal :=
  let s := s.adv t
  let i := cqIdx n
  if s.ringEn i && !s.host.rings[i].stopped && decide (0 < s.ringUsed i) && s.busOk && s.pcr.asserted.isNone then
    .next (s.ringError n cause)
  else .next s

/-- The running operations of CQn that read host memory; an OTP_PROGRAM fetches all its data before any burn (R399). -/
def State.dmaLops (s : State) (n : Fin 16) : List (Fin 8) :=
  (List.finRange 8).filter fun k =>
    let l := s.host.lops[k]
    l.ring == n && (l.state == 1 || l.state == 3) && (l.opc == 0x0A || (l.opc == 0x30 && s.otp.burn.any fun b => b.done == 0 && b.rounds == 0))

/-- Host requests stand in the order of the ATTEST commands that wait: drop the k-th. -/
def dropAtt : List AttReq → Nat → List AttReq
  | [], _ => []
  | r :: l, k =>
    if r.who ≠ 0 then r :: dropAtt l k
    else match k with
      | 0 => l
      | k + 1 => r :: dropAtt l k

/-- DMA_ERROR: a data read of a command of CQn fails: ATTEST's nonce, or the data of a running operation, which ends as a cancel leaves it.
The row names no command: where several of CQn read, a free value says which (log 163). -/
def execDmaError (n : Fin 16) (cause : DmaCause) (t : Time) (s : State) : Host.Outcome State Fault Refusal :=
  let s := s.adv t
  let att := s.host.waiting.filter fun c => c.opc == 0x38 && c.ring == n
  let all : List (Sum Waiting (Fin 8)) := att.map Sum.inl ++ (s.dmaLops n).map Sum.inr
  if !s.busOk then .next s
  else
    match all[s.free.toNat % max 1 all.length]? with
    | some (.inl c) =>
      let k := ((s.host.waiting.filter fun c => c.opc == 0x38).takeWhile fun d => d != c).length
      let s := s.freeNext
      let s := { s with msr := { s.msr with queue := dropAtt s.msr.queue k } }
      .next ((s.finishW c stDmaError 0).ringError n cause)
    | some (.inr k) => .next ((s.freeNext.lopQuit k stDmaError s.host.lops[k].quit).ringError n cause)
    | none => .next s

/-! ### Enabling, disabling, reset (R312, R354 to R356) -/

/-- WOKE and a load's MEASURED carry the instant at which the first event ring is enabled after them (Table 1.6). -/
def restamp (t : Time) : Held → Held
  | .event e => if e.time = 0 ∧ e.cls = 0x0A ∧ (bits e.detail 9 0 = 0xF0 ∨ bits e.detail 7 0 = 0x15) then .event { e with time := t }
                else .event e
  | h => h

/-- What is due to the first event ring enabled after a reset: RESET_REPORT and the records of lost operations, then CAL_LOST and
REJOIN_LOST (R350, R450). RESET_REPORT triggers the Silo as any event does (R377). -/
def State.firstEq (s : State) (r : Fin 4) (t : Time) : State :=
  let report : Evt := ⟨0x0A, 0x14, 8, 0, BitVec.ofNat 32 (0x16 + at_ s.pcr.last 8 + at_ s.pcr.borRail.toNat 12), t⟩
  let told := s.host.reportDue
  let own : List Held := (if told then [Held.mark r report] else []) ++
    s.host.opLost.map fun (o, h, _) => Held.mark r ⟨0x0E, 0x0D, 8, 0, BitVec.ofNat 32 (0xC8 + at_ o.toNat 8 + at_ h 16), t⟩
  let cal := s.host.calLost
  let rej := s.host.rejoinLost
  let s := { s with host := { s.host with held := own ++ s.host.held.map (restamp t), reportDue := false, opLost := [], calLost := false, rejoinLost := false } }
  let s := if told then s.siloSees report else s
  let s := if cal then s.raise 5 8 1 0 0x77 t else s
  let s := if rej then s.pairEvt 0xBB t else s
  s.drain

/-- The configuration bits of RNG_CFG that only a disabled ring takes. -/
def cfgMask : Word := 0x7FF0

/-- Write BASE's companions of a disabled ring: LOG2 under R43, VEC, IRQ_EN. -/
def State.ringCfg (s : State) (i : Fin 48) (v : Word) : State :=
  let old := s.rget regRngCfg i
  let k := bits v 8 4
  let bad := decide (k < 4) || decide (16 < k)
  let v := if bad then setBits v 8 4 (bits old 8 4) else v
  let s := s.rset regRngCfg i ((old &&& ~~~ cfgMask) ||| (v &&& cfgMask))
  if bad && bits v 8 4 != k then s.writeReject else s

/-- A write that leaves EN = 1 as it is: other fields keep their values (R312). -/
def State.ringFixed (s : State) (i : Fin 48) (v : Word) : State :=
  if (s.rget regRngCfg i ^^^ v) &&& cfgMask != 0 then s.writeReject else s

/-- RING_ENABLE: a write of RNG_CFG with EN = 1. -/
def State.ringEnable (s : State) (i : Fin 48) (v : Word) (t : Time) : State :=
  if s.ringEn i then s.ringFixed i v
  else
    let s := (s.ringCfg i v).rsetF regRngCfg i 0 0 1
    let s := s.modRing i fun r => { r with head := 0, tail := 0, phase := true, sig := 0, sigAt := none, closing := false, fetched := 0 }
    let s := if h : 32 ≤ i.val ∧ i.val < 36 then s.firstEq ⟨i.val - 32, by omega⟩ t else s
    s.pump

/-- RING_DISABLE: a write of RNG_CFG with EN = 0. -/
def State.ringDisable (s : State) (i : Fin 48) (v : Word) : State :=
  if !s.ringEn i then s.ringCfg i v
  else
    let n : Fin 16 := Fin.ofNat 16 i.val
    let s' := s.ringFixed i v
    if i.val < 16 then
      if !s.ringEn (dqIdx n) || s.host.rings[dqIdx n].stopped then s.writeReject
      else (s'.modRing i fun r => { r with closing := true }).closeTry n
    else if i.val < 32 then
      if s.ringEn (cqIdx n) || s.lopsOf n != 0 then s.writeReject else s'.rsetF regRngCfg i 0 0 0
    else s'.rsetF regRngCfg i 0 0 0

/-- A ring as its reset leaves it. -/
def State.ringClear (s : State) (i : Fin 48) : State :=
  (s.modRing i fun r => { r with head := 0, tail := 0, phase := true, stopped := false, cause := 0, closing := false, sig := 0,
                                 sigAt := none, fetched := 0 }).rsetF regRngCfg i 0 0 0

/-- Held completions in order of SEQ. -/
def insertCpl (c : Cpl) : List Cpl → List Cpl
  | [] => [c]
  | d :: l => if c.seq ≤ d.seq then c :: d :: l else d :: insertCpl c l

/-- A fence of a ring that is reset ends; its completion is among the lost ones. DEDUCED (log 37). -/
def State.endFence (s : State) (n : Fin 16) : State :=
  match s.host.waiting.find? (fun c => c.opc == 0x01 && c.ring == n) with
  | some c =>
    let s := { s with host := { s.host with fences := s.host.fences.filter fun f => f.ring != n,
                                            waiting := s.host.waiting.erase c } }
    s.finish c stAborted 0
  | none => s

/-- The reset of a command pair and its RECOVERY record. -/
def State.pairReset (s : State) (n : Fin 16) (t : Time) : State :=
  let s := s.endFence n
  let lost := (s.host.cpls.filter fun c => c.ring == n).foldr insertCpl []
  let last := match s.host.rings[cqIdx n].began with | some k => k | none => (s.rget regRngSeq n).toNat + 2 ^ 32 - 1
  let s := { s with host := { s.host with cpls := s.host.cpls.filter fun c => c.ring != n } }
  let s := (s.ringClear (cqIdx n)).ringClear (dqIdx n)
  let s := s.rset regRngSeq n (BitVec.ofNat 32 (last + 1))
  let s := s.recordQuad n (0xC2 + at_ n.val 8 + at_ lost.length 16) t
  let s := s.recordQuad n (0xC3 + at_ (last % 2 ^ 24) 8) t
  lost.foldl (fun s c => s.recordQuad n (0xC4 + at_ c.status.toNat 8 + at_ (c.seq % 65536) 16) t) s

/-- RING_RESET: a write of RNG_CFG with RESET = 1. -/
def State.ringResetW (s : State) (i : Fin 48) (t : Time) : State :=
  if !s.host.rings[i].stopped then s.writeReject
  else if i.val < 32 then s.pairReset (Fin.ofNat 16 i.val) t
  else (s.ringClear i).recoveryQuad (0xC2 + at_ i.val 8) t

/-- A write of RNG_CFG. -/
def State.ringWrite (s : State) (i : Fin 48) (v : Word) (t : Time) : State :=
  if v.getLsbD 31 then s.ringResetW i t
  else if v.getLsbD 0 then s.ringEnable i v t
  else s.ringDisable i v

def execRingEnable (i : Fin 48) (v : Word) (t : Time) (s : State) : Host.Outcome State Fault Refusal :=
  let s := s.adv t
  if s.regsOn && v.getLsbD 0 && !v.getLsbD 31 then .next (s.ringEnable i v s.time) else .next s

def execRingDisable (i : Fin 48) (v : Word) (t : Time) (s : State) : Host.Outcome State Fault Refusal :=
  let s := s.adv t
  if s.regsOn && !v.getLsbD 0 && !v.getLsbD 31 then .next (s.ringDisable i v) else .next s

def execRingReset (i : Fin 48) (v : Word) (t : Time) (s : State) : Host.Outcome State Fault Refusal :=
  let s := s.adv t
  if s.regsOn && v.getLsbD 31 then .next (s.ringResetW i s.time) else .next s

/-! ### Moderation and transfers (R306, R330, R357, R441) -/

/-- MODERATION_TIMER: TIME has passed since the first unannounced entry. -/
def execModerationTimer (i : Fin 48) (t : Time) (s : State) : Host.Outcome State Fault Refusal :=
  let s := s.adv t
  let us := s.rf regRngMod i 31 16
  match s.host.rings[i].sigAt with
  | some a => if us ≠ 0 ∧ s.rb regRngCfg i 14 ∧ a + us1 * us ≤ s.time ∧ s.busOk then .next (s.ringSignal i) else .next s
  | none => .next s

/-- A change of what `busOk` asks: when transfers stop, every entry posted to a command ring may have been fetched (R357); when they resume,
what waits goes on. -/
def State.busSet (s : State) (bme d3hot link : Bool) : State :=
  let s' : State := { s with host := { s.host with bme := bme, d3hot := d3hot, linkUp := link } }
  let s' := if s.busOk && !s'.busOk then forFin 16 s' fun s n => s.modRing (cqIdx n) fun r => { r with fetched := s.ringUsed (cqIdx n) } else s'
  s'.pump

/-- PCIE_POWER_STATE: D3hot stops transfers, D0 resumes them and releases WAKE_N (R306, R446). -/
def execPciePowerState (d3hot : Bool) (t : Time) (s : State) : Host.Outcome State Fault Refusal :=
  let s := s.adv t
  let s := { s with pcr := { s.pcr with wakeN := s.pcr.wakeN && d3hot } }
  .next (s.busSet s.host.bme d3hot s.host.linkUp)

/-- BUS_MASTER_ENABLE (R357). -/
def execBusMasterEnable (on : Bool) (t : Time) (s : State) : Host.Outcome State Fault Refusal :=
  let s := s.adv t
  .next (s.busSet on s.host.d3hot s.host.linkUp)

/-- LINK_DOWN (R441): rings wait, the engine runs on. -/
def execLinkDown (t : Time) (s : State) : Host.Outcome State Fault Refusal :=
  let s := s.adv t
  .next (s.busSet s.host.bme s.host.d3hot false)

end Sys2Proof.Machine
end

