-- ==== Sys2Proof/Machine/Measure.lean ====
section
/-! DEFINITION. Measure.lean: loading, measuring and starting the firmware, attestation (chapter 16, R331, R332), and the management-core
reset with its restart (R350, R358, R421, R440). -/
namespace Sys2Proof.Machine

/-! ### Measuring an image (R407 to R413) -/

/-- LEN meets the rule of GLB_BOOT_LEN. -/
def imageLenOk (n : Nat) : Bool := decide (4 ≤ n) && decide (n ≤ 2097152) && n % 4 == 0

/-- The signature status and the key index of an image (R410, Table 16.1). -/
def sigStatus (img : List Byte) : Nat × Nat :=
  if img.length < 116 then (0, 0)
  else
    let body := img.take (img.length - 112)
    let blk := img.drop (img.length - 112)
    if ofLe (blk.take 4) ≠ 0x4749534B then (0, 0)
    else
      let k := ofLe ((blk.drop 4).take 4)
      if h : k < 4 then
        let r := ofBe ((blk.drop 8).take 48)
        let v := ofBe ((blk.drop 56).take 48)
        (if ecdsaVerify (Config.vendorKeyX ⟨k, h⟩) (Config.vendorKeyY ⟨k, h⟩) r v (sha384 body) then 1 else 2, k)
      else (2, k % 4)

/-- The expected digest of region 6, where it is held (R411). -/
def State.expected (s : State) : Option (List Byte) :=
  let l := wordBytes ((List.range 12).map fun i => s.shadowW (385 + i))
  if s.otp.regions[6].load = 1 ∧ l.any (· != 0) then some l else none

/-- EXPECT of a digest: 0 absent, 1 match, 2 mismatch. -/
def State.expectOf (s : State) (d : BitVec 384) : Nat :=
  match s.expected with
  | some l => if l == digestBytes d then 1 else 2
  | none => 0

/-- BOOT_SRC names another source than BOOT_SEL (R407). -/
def State.srcMismatch (s : State) : Bool :=
  let v := bits (s.shadowW 384) 1 0
  s.otp.regions[6].load == 1 && ((v == 1 && s.bootSel) || (v == 2 && !s.bootSel))

/-- MSR_LOG_INFO of an entry. -/
def MeasE.info (e : MeasE) : Nat :=
  at_ e.number 16 + at_ 1 15 + at_ (b2n e.changed) 10 + at_ e.keyIdx 8 + at_ e.sig 6 + at_ (b2n e.host) 4 + b2n e.mgr

/-- A time that RESET_REPORT's companions carry: the instant, or, with no event ring enabled, 0 until the first one is
(Table 1.6). -/
def State.lateStamp (s : State) (t : Time) : Time := if s.anyEq then t else 0

/-- Measure the image in place: the digest, its log entry and MEASURED (R409 to R413, R422). -/
def State.measure (s : State) (mgr : Bool) (t : Time) : State :=
  let m := s.msr
  let d := sha384 m.image
  let (sig, key) := sigStatus m.image
  let first := match m.log with | e :: _ => e.digest | [] => d
  let ch := mgr && d != first
  let n := if mgr then min (2 ^ 32 - 1) (m.count + 1) else 0
  let e : MeasE := ⟨d, t, m.image.length, n % 65536, ch, key, sig, m.srcHost, mgr⟩
  let log := if !mgr then [e] else if m.log.length < 8 then m.log ++ [e] else m.log.set (1 + (n - 1) % 7) e
  let ex := s.expectOf d
  let s := { s with msr := { m with measured := true, len := m.image.length, digest := d, sig := sig, expect := ex, changed := ch,
                                    count := n, log := log } }
  s.raise 0x0A 8 0x0B 0 (0xF0 + at_ (b2n mgr) 8 + at_ sig 10 + at_ ex 12 + at_ (b2n ch) 14 + at_ (b2n s.srcMismatch) 15)
    (if mgr then t else s.lateStamp t)

/-! ### Loading (R331, R332, R408) -/

/-- The word of image memory at an index; 0 where nothing has been written since the reset. DESIGN CHOICE, unsafe (log 40). -/
def State.bar4W (s : State) (i : Nat) : Word := (alGet s.msr.bar4 i).getD 0

/-- BOOT_GO: a write of GLB_BOOT.GO. While READY = 0 the ROM awaits no image and the write has no effect. -/
def State.bootGo (s : State) (t : Time) : State :=
  if !s.msr.ready then s
  else
    let n := s.rf regGlbBootLen 0 21 0
    if !imageLenOk n then s.rset regGlbBoot 0 (s.rget regGlbBoot 0 ||| 8)
    else
      let img := wordBytes ((List.range (n / 4)).map s.bar4W)
      ({ s with msr := { s.msr with ready := false, srcHost := true, image := img } }).measure false t

def execBootGo (t : Time) (s : State) : Host.Outcome State Fault Refusal :=
  let s := s.adv t
  .next (if s.regsOn then s.bootGo s.time else s)

/-- FIRMWARE_WINDOW_WRITE (R332): a word of BAR4, by its word index. -/
def execFirmwareWindowWrite (off : BitVec 19) (v : Word) (t : Time) (s : State) : Host.Outcome State Fault Refusal :=
  let s := s.adv t
  if s.regsOn && s.msr.ready then .next { s with msr := { s.msr with bar4 := alPut 0 s.msr.bar4 off.toNat v } } else .next s

/-- The image that a double read of the flash gives, if it is accepted (R408). -/
def flashImage (a b : List Byte) : Option (List Byte) :=
  let n := ofLe ((a.drop 4).take 4)
  if ofLe (a.take 4) = 0x4B540001 ∧ imageLenOk n ∧ 16 + n ≤ a.length ∧ a.take (16 + n) = b.take (16 + n) then
    some ((a.drop 16).take n)
  else none

/-- The boot ROM reads the flash: strapped so, the shadow loaded, no image yet, no boot failure. -/
def State.bootReads (s : State) : Bool :=
  !s.bootSel && s.otp.loaded && !s.msr.measured && !s.msr.bootFail && !s.msr.running && s.pcr.asserted.isNone && s.pcr.state != 3

/-- QSPI_IMAGE_READ (R408): a double read ends; the third failure is a boot failure. -/
def execQspiImageRead (first second : List (BitVec 8)) (t : Time) (s : State) : Host.Outcome State Fault Refusal :=
  let s := s.adv t
  if !s.bootReads then .next s
  else
    match flashImage first second with
    | some img => .next (({ s with msr := { s.msr with srcHost := false, image := img } }).measure false s.time)
    | none => .next { s with msr := { s.msr with tries := s.msr.tries + 1, bootFail := decide (2 ≤ s.msr.tries) } }

/-- FIRMWARE_RUNNING (R331): the measured firmware takes commands. -/
def execFirmwareRunning (t : Time) (s : State) : Host.Outcome State Fault Refusal :=
  let s := s.adv t
  if s.msr.measured && !s.msr.running && !s.msr.mgr && s.pcr.asserted.isNone && s.pcr.state != 3 then
    .next { s with msr := { s.msr with running := true } }
  else .next s

/-! ### Attestation (R414 to R421) -/

/-- KEY_STATE (R414). -/
def State.keyState (s : State) : Nat := if !s.msr.keyHave then 0 else if s.otp.rl.getLsbD 3 then 1 else 2

/-- A log entry of the report. -/
def MeasE.bytes (e : MeasE) : List Byte :=
  digestBytes e.digest ++ leBytes (ticksOf e.time % 2 ^ 64) 8 ++ leBytes e.info 4 ++ leBytes e.len 4

/-- Bytes 0x000 to 0x33F of a report (Table 16.2). -/
def State.reportBody (s : State) (r : AttReq) : List Byte :=
  let m := s.msr
  let st := s.otp.lc % 8 + at_ (b2n s.otp.lcBad) 3 + at_ s.ypl.role.code 4 + at_ (b2n s.posB) 7 + at_ s.keyState 8 + at_ m.expect 10 +
    at_ (b2n s.srcMismatch) 12 + at_ (b2n m.changed) 13 + at_ m.log.length 16 + at_ r.who 24
  let log := m.log.flatMap MeasE.bytes
  leBytes 1 4 ++ leBytes 928 4 ++ leBytes 0x01B04208 4 ++ leBytes st 4 ++ wordBytes [s.serialW 0, s.serialW 1] ++
    leBytes s.ypl.epoch.toNat 4 ++ leBytes m.count 4 ++ leBytes (s.pacTime % 2 ^ 64) 8 ++ leBytes 0 8 ++ leBytes r.nonce.toNat 32 ++
    digestBytes m.digest ++ digestBytes m.otpDigest ++ (s.expected.getD (leBytes 0 48)) ++ beBytes m.keyX 48 ++ beBytes m.keyY 48 ++
    log ++ leBytes 0 (512 - log.length)

/-- A whole report: its body and the signature, 0 under NO_KEY. -/
def State.attReport (s : State) (r : AttReq) : List Byte :=
  let b := s.reportBody r
  let (x, y) := if s.msr.keyHave then ecdsaSign s.msr.keyD (sha384 b) else (0, 0)
  b ++ beBytes x 48 ++ beBytes y 48

/-- ATTEST (R418): the request joins the queue of the signing engine; it is not committed before its report is written. Its nonce
is fetched as it begins (R357; log 159). -/
def execAttest (q : CmdQ) (nonce : BitVec 256) (s : State) : Host.Outcome State Fault Refusal :=
  let ok := bits q.arg0 31 16 == 0 && decide (928 ≤ bits q.arg0 15 0) && q.arg1.toNat % 16 == 0
  if s.waitsData q ok (s.pwr == 3) then .next s
  else s.runCmd q 0x38 ok fun s c =>
    if s.pwr == 3 then s.finish c stRefusedState 0
    else ({ s with msr := { s.msr with queue := s.msr.queue ++ [AttReq.mk 0 nonce] } }).await c

/-- The four fragments of a report for the partner (R420). -/
def State.sendReport (s : State) (qs : List Quad) : State :=
  (List.range 4).foldl (fun s i =>
    s.sendSlow 6 (BitVec.ofNat 128 (i + at_ 4 8) :: (qs.drop (15 * i)).take 15)) s

/-- Write quads to host memory from an address on. -/
def State.hostWriteQuads (s : State) (addr : Nat) : List Quad → State
  | [] => s
  | q :: qs => (s.hostWriteQuad addr q).hostWriteQuads (addr + 16) qs

/-- ATTEST_REPORT_DONE (R417 to R420): the report of the oldest request is signed and delivered; one for the service port sets
SVC_IRQ.ATTEST (R338). -/
def execAttestReportDone (t : Time) (s : State) : Host.Outcome State Fault Refusal :=
  let s := s.adv t
  match s.msr.queue with
  | [] => .next s
  | r :: rest =>
    if !s.msr.running || s.msr.mgr || s.pcr.asserted.isSome || s.pcr.state == 3 || (r.who == 0 && !s.busOk) then .next s
    else
      let bytes := s.attReport r
      let s := { s with msr := { s.msr with queue := rest, reports := (s.msr.reports + 1) % 65536 } }
      match r.who with
      | 0 =>
        match s.oldest 0x38 with
        | some c => .next ((s.hostWriteQuads c.arg1.toNat (bytesQuads bytes)).finishW c stOk 928)
        | none => .next s
      | 1 => .next ({ s with msr := { s.msr with window := bytes, svcBusy := false, svcReady := true } }.rsetF regSvcIrq 0 4 4 1)
      | _ => .next (s.sendReport (bytesQuads bytes))

/-- A write of SVC_ATTEST.GO; false: rejected (R337). -/
def State.svcAttest (s : State) : State × Bool :=
  if s.msr.svcBusy then (s, false)
  else
    let n := BitVec.ofNat 256 (ofLe (wordBytes s.svc.nonce.toList))
    ({ s with msr := { s.msr with svcBusy := true, svcReady := false, queue := s.msr.queue ++ [AttReq.mk 1 n] } }, true)

/-! ### Management-core reset (R350, R358, R421, R440) -/

/-- Marks, among a long operation's `ending` codes, one that ran when MGR struck and ends ABORTED after the restart. -/
abbrev lopLostRun : Nat := 0x24
/-- Marks, among the waiting commands, one that MGR ends ABORTED after the restart. -/
abbrev opcLost : BitVec 8 := 0xFF

/-- A burn that MGR abandons: a pulse in progress completes (R400); its command ends after the restart. -/
def State.mgrBurn (s : State) : State :=
  match s.otp.burn with
  | some b =>
    if b.started && s.burnLive b then s.modBurn fun x => { x with cut := 2 }
    else { s with otp := { s.otp with burn := none, lastOutcome := if b.kind = 2 then 9 else s.otp.lastOutcome } }
  | none => s

/-- Long operations at MGR: a running one stops, left as a cancel leaves it; CAL_LOST and REJOIN_LOST become due (R203, R301, R350). -/
def State.mgrLops (s : State) : State :=
  forFin 8 s fun s k =>
    let l := s.host.lops[k]
    if l.state = 0 then s
    else
      let s := s.lopCleanup k
      let s := { s with host := { s.host with calLost := s.host.calLost || l.opc == 0x20,
                                              rejoinLost := s.host.rejoinLost || l.opc == 0x49 } }
      if l.state = 2 then s else s.modLop k fun l => { l with state := 2, ending := lopLostRun }

/-- Commands begun and not committed have no effect (R358). -/
def State.mgrWaiting (s : State) : State :=
  let s := if s.host.waiting.any fun c => c.opc == 0x48 && !c.committed then s.endHandover else s
  let h := s.host
  { s with
    host := { h with waiting := h.waiting.map fun (c : Waiting) => if c.committed then c else { c with opc := opcLost }
                     fences := [] }
    acq := { s.acq with urgents := s.acq.urgents.filter fun u => !u.host } }

/-- MGR is asserted (R440, R358): recorded, counted; the rest of the device runs on. -/
def State.mgrAssert (s : State) (lock : Bool) : State :=
  let s := s.rset regPcrResetCause 0 (s.rget regPcrResetCause 0 ||| 0x20)
  let s := { s with pcr := { s.pcr with mgrLock := lock, mgrCnt := min 255 (s.pcr.mgrCnt + 1) } }
  if s.pcr.asserted.isSome || s.msr.mgr then s
  else
    let m := s.msr
    let s := { s with msr := { m with mgr := true, running := false, queue := [], svcBusy := false,
                                      svcReady := m.svcReady && !m.svcBusy } }
    s.mgrBurn.mgrLops.mgrWaiting

/-- MGMT_WATCHDOG_EXPIRY (R440): the running firmware has not fed the watchdog. -/
def execMgmtWatchdogExpiry (t : Time) (s : State) : Host.Outcome State Fault Refusal :=
  let s := s.adv t
  .next (if s.msr.running && s.pcr.state != 3 then s.mgrAssert false else s)

/-- LOCKSTEP_MISMATCH (R440): corrected, a degradation; else MGR. -/
def execLockstepMismatch (correctable : Bool) (t : Time) (s : State) : Host.Outcome State Fault Refusal :=
  let s := s.adv t
  if s.pcr.asserted.isSome || s.pcr.state == 3 then .next s
  else if correctable then .next (s.health 6 0x10 0 0 s.time)
  else .next (s.mgrAssert true)

/-- Every command that MGR found uncommitted completes ABORTED, RESULT [3:0] = 14. -/
def State.mgrAborts (s : State) : State :=
  (s.host.waiting.filter fun c => c.opc == opcLost).foldl (fun s c => s.finishW c stAborted 14) s

/-- Every long operation that MGR lost gets its final completion: ABORTED, or SUSPENDED with the form of Table 13.2. -/
def State.mgrFinals (s : State) : State :=
  forFin 8 s fun s k =>
    let l := s.host.lops[k]
    if l.state = 0 then s
    else if l.ending = lopLostRun then s.lopEnd k stAborted l.quit
    else s.lopEnd k stSuspended (s.handle k + at_ l.pauses 16)

/-- What is due once event rings are set up is raised now if one is. -/
def State.mgrLost (s : State) (t : Time) : State :=
  if !s.anyEq then s
  else
    let cal := s.host.calLost
    let rej := s.host.rejoinLost
    let s := { s with host := { s.host with calLost := false, rejoinLost := false } }
    let s := if cal then s.raise 5 8 1 0 0x77 t else s
    if rej then s.pairEvt 0xBB t else s

/-- Frames that waited for the management cores go out. -/
def State.flushTx (s : State) : State :=
  s.ypl.txq.foldl (fun s x => s.sendFrame x.1 x.2) { s with ypl := { s.ypl with txq := [] } }

/-- A word whose pulse MGR let complete, with no verify since, is INCOMPLETE (R400). -/
def State.mgrCut (s : State) : State :=
  match s.otp.burn with
  | some b => if b.cut = 2 then s.mgrBurnEnd b false s.time else s
  | none => s

/-- MGR_RESUMED (R358): the image in place is measured again and restarts; lost work is answered; MGR_RESUMED is written. -/
def execMgrResumed (t : Time) (s : State) : Host.Outcome State Fault Refusal :=
  let s := s.adv t
  if !s.msr.mgr || s.pcr.state == 3 then .next s
  else
    let n := (s.host.waiting.filter fun c => c.opc == opcLost).length
    let k := (s.host.lops.toList.filter fun l => l.state != 0).length
    let s := { s with msr := { s.msr with mgr := false }, pcr := { s.pcr with last := 5 } }
    let s := s.mgrCut
    let s := (if s.msr.measured then s.measure true s.time else s).mgrAborts.mgrFinals
    let s := (s.recoveryQuad (0xC5 + at_ (n % 256) 8 + at_ k 16) s.time).mgrLost s.time
    .next { s.flushTx with msr := { s.flushTx.msr with running := s.flushTx.msr.measured } }

end Sys2Proof.Machine
end

