-- ==== Sys2Proof/Machine/Power.lean ====
section
/-! DEFINITION. Power.lean: supply warnings and the supply stop, clocks, resets and power states (chapter 17). -/
namespace Sys2Proof.Machine

/-! ### Registers and survival classes (R447, R448, Table 17.11) -/

/-- The register word at an offset: its array, element and word. -/
def findReg (off : Nat) : Option (RegDesc × Nat × Nat) :=
  (regTable.find? fun d =>
    decide (d.base ≤ off) && decide (off < d.base + d.count * d.stride) && decide ((off - d.base) % d.stride < 4 * d.words)).map
    fun d => (d, (off - d.base) / d.stride, (off - d.base) % d.stride / 4)

/-- Which classes a loss keeps: B, C, F; `aon`: the always-on C registers alone (DEEP without RETAIN); `wd`: the settings of a
service watchdog that runs on (R336). -/
structure Keep where
  b   : Bool
  c   : Bool
  f   : Bool
  aon : Bool
  wd  : Bool
  deriving DecidableEq, Repr

/-- A factor register of class F (ACQ_CAL_OFS, ACQ_CAL_GAIN, ACQ_CAL_SKEW). -/
def factorReg (d : RegDesc) : Bool := d.base == regAcqCalOfs.base || d.base == regAcqCalGain.base || d.base == regAcqCalSkew.base
/-- A register of the always-on domain kept through DEEP whatever RETAIN. -/
def aonReg (d : RegDesc) : Bool :=
  d.base == regPcrSupplyCfg.base || d.base == regPcrRetain.base || d.base == regPcrPwrCtl.base || d.base == regPcrWakeTimer.base
/-- Pages of class D: RNG and MSX. -/
def ringPage (d : RegDesc) : Bool := decide (0x2000 ≤ d.base) && decide (d.base < 0x4000)

/-- The stored bits of a register that are kept. -/
def RegDesc.kept (d : RegDesc) (k : Keep) : Nat :=
  if ringPage d then 0
  else if d.base == regYplTakeoverSeq.base then (if k.b then 0xFFFFFFFF else 0)
  else
    let set := (d.rw ||| d.rwl) &&& (2 ^ (32 * d.words) - 1 - ((d.sticky ||| d.live) &&& (d.rw ||| d.rwl)))
    (if k.b then d.sticky else 0) |||
    (if (if factorReg d then k.f else k.c || (k.aon && aonReg d) || (k.wd && d.base == regSvcWdCfg.base)) then set else 0)

/-- The stored registers after a loss, in canonical form. -/
def keepRegs (k : Keep) (l : List (Nat × Word)) : List (Nat × Word) :=
  l.filterMap fun (off, w) =>
    match findReg off with
    | some (d, i, p) =>
      let m := maskPart (d.kept k) p
      let v := (d.resetAt i p &&& ~~~m) ||| (w &&& m)
      if v = d.resetAt i p then none else some (off, v)
    | none => none

/-! ### State lost and kept -/

/-- Trims (class A), broken sensors (R259) and held alarms of the thermal unit; `alarms`: on leaving DEEP every alarm remains held (R262). -/
def ThmSt.lost (x : ThmSt) (trims alarms : Bool) : ThmSt :=
  { ThmSt.reset with
    sens := if trims then x.sens.map fun (y : SensorSt) => { SensorSt.reset with n0 := y.n0, t0 := y.t0, k := y.k, broken := y.broken, cause := y.cause } else ThmSt.reset.sens
    zones := if alarms then x.zones.map fun (z : ZoneSt) => { ZoneSt.reset with tw1 := z.tw1, tsd := z.tsd } else ThmSt.reset.zones }

/-- Class F members of Acquisition; a tracked value that stays at its limit is not reported again (R206). -/
def AcqSt.lost (x : AcqSt) (f : Bool) : AcqSt :=
  if f then
    { AcqSt.reset with
      calValid := x.calValid
      restored := x.restored
      pairs := x.pairs.map fun (p : PairSt) =>
        { PairSt.reset with ofsD := p.ofsD, skewD := p.skewD, failE := p.failE, failO := p.failO, cause := p.cause,
                            boundO := p.boundO, boundS := p.boundS } }
  else AcqSt.reset

/-- OTP (class A): the fuses and the shadow of the locks (R393) stay whatever happens; the shadow stays unless it is to be reloaded, and with it what the Gleaner counts from
(R404). -/
def OtpSt.lost (x : OtpSt) (shadow b : Bool) : OtpSt :=
  let y : OtpSt :=
    if shadow then
      { OtpSt.reset with
        loaded := x.loaded
        regions := x.regions.map fun (r : RegionSt) => { RegionSt.reset with load := r.load, forced := r.forced }
        wl := x.wl
        rl := x.rl
        lc := x.lc
        lcBad := x.lcBad
        shadow := x.shadow
        scanAt := x.scanAt
        scanBands := x.scanBands
        scanDue := x.scanDue }
    else { OtpSt.reset with wl := x.wl, rl := x.rl }
  { y with norm := x.norm, marg := x.marg, log := if b then x.log else [] }

/-- Measurement: the key and the OTP digest with the shadow; image, log and running firmware where the ROM loads no image (R412). -/
def MsrSt.lost (x : MsrSt) (shadow image : Bool) : MsrSt :=
  let y : MsrSt := if image then { x with queue := [], window := [], svcBusy := false, svcReady := false, reports := 0 } else MsrSt.reset
  if shadow then { y with keyHave := x.keyHave, keyD := x.keyD, keyX := x.keyX, keyY := x.keyY, otpDigest := x.otpDigest }
  else { y with keyHave := false, keyD := 0, keyX := 0, keyY := 0, otpDigest := 0 }

/-- Supervision: the history (class B) and the F5 latch (class C), which asserts MBRK_REQ for as long as it is held (Table 9.1). -/
def SupSt.lost (x : SupSt) (b c : Bool) : SupSt :=
  { SupSt.reset with
    f5 := c && x.f5
    mbrk := c && x.f5
    hist := if b then x.hist else []
    histLost := if b then x.histLost else 0 }

/-- The pair: the epoch is class B; the partner's CLAIM is a level on a pin. -/
def YplSt.lost (x : YplSt) (b : Bool) : YplSt :=
  { YplSt.reset with epoch := if b then x.epoch else 0, epochOk := b && x.epochOk, yieldIn := x.yieldIn }

/-- Long operations that a reset loses: their records and REJOIN_LOST (R350); CAL_LOST follows a reset of any kind (R203). -/
def HostSt.lost (x : HostSt) (b : Bool) (t : Time) : HostSt :=
  let live := (List.finRange 8).filter fun k => x.lops[k].state != 0
  let new := (live.filter fun k => x.lops[k].opc != 0x20 && x.lops[k].opc != 0x49).map fun k =>
    (x.lops[k].opc, k.val + at_ x.lops[k].gen 3, t)
  { HostSt.reset with
    mem := x.mem
    msgs := x.msgs
    linkUp := x.linkUp
    linkGen := x.linkGen
    aer := if b then x.aer else 0
    opLost := if b then (x.opLost ++ new).take 8 else []
    calLost := x.calLost || live.any fun k => x.lops[k].opc == 0x20
    rejoinLost := x.rejoinLost || live.any fun k => x.lops[k].opc == 0x49
    reportDue := x.reportDue }

/-- A service watchdog that runs on keeps its state; the nonce is class C. -/
def SvcSt.lost (x : SvcSt) (wd c : Bool) : SvcSt :=
  let y : SvcSt := if wd then { SvcSt.reset with wdOn := x.wdOn, wdAt := x.wdAt, kicked := x.kicked, wdi := x.wdi, expect := x.expect,
                                                 cleared := x.cleared, due := x.due } else SvcSt.reset
  if c then { y with nonce := x.nonce } else y

/-- Live nodes of a set cell, and of a machine cell with its host nodes, survive with class F (R373, Tables 4.3 and 5.5). -/
def SetSt.lost (x : SetSt) (f : Bool) : SetSt :=
  let c := x.cell
  if f then
    { SetSt.reset with
      cell := { CellSt.reset with iDec := c.iDec, iProj := c.iProj, iRef := c.iRef, resid := c.resid, lEst := c.lEst, rEst := c.rEst, h := c.h,
                                  fsw := c.fsw, ePair := c.ePair, state := c.state } }
  else SetSt.reset

def MachSt.lost (x : MachSt) (f : Bool) : MachSt :=
  let l := x.loop
  if f then
    { MachSt.reset with
      src := { SrcSt.reset with hostSp := x.src.hostSp, hostAux := x.src.hostAux }
      loop := { LoopSt.reset with target := l.target, r := l.r, fLim := l.fLim, pTq := l.pTq, pSpd := l.pSpd, pVdc := l.pVdc, pThm := l.pThm,
                                  pPwr := l.pPwr, d := l.d, ff := l.ff, iSpd := l.iSpd, iVu := l.iVu, iVl := l.iVl, blendOfs := l.blendOfs,
                                  iRef := l.iRef, winner := l.winner, nH := l.nH, mechAng := l.mechAng } }
  else MachSt.reset

/-- Every pin is released, then everything that the classes do not keep is lost. Time, waiting commands, host memory, fuses and pin levels
are no part of it. -/
def State.strip (s : State) (k : Keep) (shadow image alarms : Bool) (t : Time) : State :=
  { State.reset with
    time := s.time
    freeCtr := s.freeCtr
    pending := s.pending
    fpSteps := if k.c then s.fpSteps else 200
    fpNewAt := if k.c then s.fpNewAt else none
    lastFp := s.lastFp
    lastSp := s.lastSp
    lastHr := s.lastHr
    regs := keepRegs k s.regs
    nodes := if k.f then s.nodes else []
    ecc := if k.f then { EccSt.reset with poison := s.ecc.poison } else EccSt.reset
    mach := s.mach.map fun (x : MachSt) => x.lost k.f
    sets := s.sets.map fun (x : SetSt) => x.lost k.f
    winOut := s.winOut
    flt := s.flt
    estop := s.estop
    acq := s.acq.lost k.f
    sup := s.sup.lost k.b k.c
    thm := s.thm.lost shadow alarms
    host := s.host.lost k.b t
    otp := s.otp.lost shadow k.b
    msr := s.msr.lost shadow image
    pcr := s.pcr
    lts := { LtsSt.reset with tap := s.lts.tap, boundary := s.lts.boundary }
    ypl := s.ypl.lost k.b
    svc := s.svc.lost k.wd k.c }

/-- What a reset or DEEP loses; where the shadow stays loaded, die thresholds back at their reset values keep to its ceilings (R263). -/
def State.lose (s : State) (k : Keep) (shadow image alarms : Bool) (t : Time) : State :=
  let s := s.strip k shadow image alarms t
  if shadow && s.otp.loaded then s.lowerLevels else s

/-! ### Resets (R436 to R439, R441) -/

/-- What reset `kind` keeps: 0 POR, 1 BOR, 2 PIN, 3 SOFT, 4 FLR (Table 17.10). -/
def keepOf (kind : Nat) : Keep :=
  { b := kind != 0, c := kind == 4, f := decide (3 ≤ kind), aon := false, wd := decide (3 ≤ kind) }

/-- A kind is seen (R438). -/
def State.seenReset (s : State) (kind : Nat) : State :=
  s.rset regPcrResetCause 0 (s.rget regPcrResetCause 0 ||| (1#32 <<< kind))

/-- Supplies, clocks and power state through reset `kind`. -/
def PcrSt.lost (x : PcrSt) (kind : Nat) : PcrSt :=
  { x with
    stopRaised := false
    stopping := false
    stopHeld := false
    stopDue := false
    stopTmax := false
    settled := x.settled && decide (2 ≤ kind)
    dipCnt := if kind = 0 then 0 else x.dipCnt
    clkFault := x.clkFault && kind == 4
    mgtCyc := 0
    ctlCyc := 0
    state := 0
    transit := false
    target := 0
    lastWake := 0
    retained := false
    wakeN := false
    mgrLock := x.mgrLock && kind != 0
    mgrCnt := if kind = 0 then 0 else x.mgrCnt
    last := if kind = 0 then 0 else x.last
    borRail := if kind = 0 then 0 else x.borRail
    asserted := some kind }

/-- A reset other than MGR is asserted: a stronger or equal one in force leaves it only its record (R438). A pending reversal is discarded
with its event (R68), every channel is released, and what its column of Table 17.10 loses is lost at once. -/
def State.assertReset (s : State) (kind : Nat) (t : Time) : State :=
  if (match s.pcr.asserted with | some k => decide (k ≤ kind) | none => false) then s.seenReset kind
  else
    let s := forFin 2 (s.burnCut t) fun s m => s.discardRev m t
    let s := s.lose (keepOf kind) (decide (3 ≤ kind)) (kind == 4) false t
    let s := { s with pcr := s.pcr.lost kind, host := { s.host with reportDue := true } }
    (if kind = 0 then s else s.seenReset kind)

/-- POR (R431). -/
def execPor (t : Time) (s : State) : Host.Outcome State Fault Refusal :=
  let s := s.adv t
  .next (({ s with pcr := { s.pcr with borSeen := s.pcr.borSeen ||| s.pcr.warn } }).assertReset 0 s.time)

/-- BOR (R431): the rails at their reset level are recorded. -/
def execBor (rails : BitVec 4) (t : Time) (s : State) : Host.Outcome State Fault Refusal :=
  let s := s.adv t
  let s := { s with pcr := { s.pcr with borRail := rails, borSeen := s.pcr.borSeen ||| rails, settled := false } }
  .next (s.assertReset 1 s.time)

/-- PIN_RESET. -/
def execPinReset (t : Time) (s : State) : Host.Outcome State Fault Refusal :=
  let s := s.adv t
  .next (s.assertReset 2 s.time)

/-- SOFT_RESET: a write of GLB_RESET.KEY from PCI Express or from the management cores (R439). -/
def State.softWrite (s : State) (port : Port) (key : BitVec 16) (t : Time) : State :=
  if port == .svc then s
  else if key = 0x5352 then s.assertReset 3 t
  else s.writeReject

def execSoftReset (port : Port) (key : BitVec 16) (t : Time) (s : State) : Host.Outcome State Fault Refusal :=
  let s := s.adv t
  .next (if s.regsOn then s.softWrite port key s.time else s)

/-- DEEP ends at `t`: PAC_TIME resumes in whole ticks, boundaries are counted anew, the PLLs lock, the windows are OUT (R22, R223, R446). -/
def State.leaveDeep (s : State) (t : Time) : State :=
  let t := (max s.time t + 4) / 5 * 5
  { s with
    time := t
    lastFp := t / s.fp * s.fp
    lastSp := t / s.sp * s.sp
    lastHr := t / hkRound * hkRound
    winOut := 0xFFFFF
    pcr := { s.pcr with pll0 := true, pll1 := true } }

/-- FLR (R308, R441): PERST_N low also takes the link down. One that ends DEEP leaves PAC_TIME counting on, STEPPED (R22). -/
def execFlr (kind : FlrKind) (t : Time) (s : State) : Host.Outcome State Fault Refusal :=
  let deep := decide (s.pcr.state = 3)
  let s := if deep then s.leaveDeep t else s.adv t
  let s := s.assertReset 4 s.time
  let s := if deep then s.rsetF regPacStatus 0 2 2 1 else s
  .next (match kind with
    | .perst => { s with host := { s.host with linkUp := false } }
    | _ => s)

/-- PAC_TIME starts at 0: boundaries are counted anew, and what still runs counts from here (R22). -/
def State.timeZero (s : State) : State :=
  { s with
    time := 0
    lastFp := 0
    lastSp := 0
    lastHr := 0
    thm := { s.thm with lastRound := 0 }
    otp := { s.otp with scanAt := 0 }
    svc := { s.svc with wdAt := 0 }
    pcr := { s.pcr with warnAt := Vector.replicate 4 0 } }

/-- Grid conversion returns now, and with it the housekeeping schedule if `sched` (R191, R196, R197). -/
def State.convBack (s : State) (sched : Bool) : State :=
  { s with acq := { s.acq with gridAt := s.time, runAt := s.time, hkAt := if sched then Vector.replicate 22 s.time else s.acq.hkAt } }

/-- RESET_RELEASE (R437, Table 17.6): the reset in force is released. Its time, PAC_TIME's last before it starts at 0, orders it; PLLs are
locked from here. A level still low on ESTOP_N acts anew, and warnings still asserted are timed anew. DEDUCED, safe (log 41). -/
def execResetRelease (straps : BitVec 6) (t : Time) (s : State) : Host.Outcome State Fault Refusal :=
  match s.pcr.asserted with
  | none => .next s
  | some kind =>
    let s := s.adv t
    let s := { s with pcr := { s.pcr with asserted := none, last := kind } }
    let s := if kind ≤ 2 then { s with pcr := { s.pcr with straps := straps &&& 0x37 } } else s
    let s := if kind ≤ 3 then
        { s.timeZero with winOut := 0xFFFFF, pcr := { s.timeZero.pcr with xtal := true, pll0 := true, pll1 := true } }
      else s
    let s := s.convBack true
    let s := if kind == 3 && s.otp.loaded then s.bootStart else s
    let s := { s with pcr := { s.pcr with runAt := if s.pcr.warn = 0 then none else some s.time } }
    let s := if s.estop then s.estopHit s.time else s
    .next (s.soloAlone s.time)

/-- RAILS_SETTLED (R424). -/
def execRailsSettled (t : Time) (s : State) : Host.Outcome State Fault Refusal :=
  let s := s.adv t
  match s.pcr.asserted with
  | some 0 => .next s
  | some 1 => .next s
  | _ => .next { s with pcr := { s.pcr with settled := true } }

/-! ### Supply warnings and the supply stop (R426 to R430) -/

/-- WARN_SET: rail `rail` of Table 17.1. During a reset the event queue is lost, and only the level is kept. -/
def execWarnSet (rail : Fin 4) (t : Time) (s : State) : Host.Outcome State Fault Refusal :=
  let s := s.adv t
  let bit : BitVec 4 := 1#4 <<< rail.val
  if s.pcr.warn &&& bit != 0 then .next s
  else
    let p := s.pcr
    let s := { s with pcr := { p with warn := p.warn ||| bit, warnAt := p.warnAt.set rail s.time, borSeen := p.borSeen &&& ~~~bit,
                                      runAt := some (p.runAt.getD s.time) } }
    if s.pcr.asserted.isSome then .next s
    else .next ((s.raise 4 8 0x14 0 (0x10 + at_ rail.val 8) s.time).burnSupply s.time)

/-- WARN_CLEAR (R428): a dip is recorded unless the rail's reset monitor had asserted. -/
def execWarnClear (rail : Fin 4) (t : Time) (s : State) : Host.Outcome State Fault Refusal :=
  let s := s.adv t
  let bit : BitVec 4 := 1#4 <<< rail.val
  if s.pcr.warn &&& bit = 0 then .next s
  else
    let p := s.pcr
    let w := p.warn &&& ~~~bit
    let s := { s with pcr := { p with warn := w, runAt := if w = 0 then none else p.runAt, stopRaised := p.stopRaised && w != 0 } }
    if p.borSeen &&& bit != 0 then .next s
    else
      let s := { s with pcr := { s.pcr with dipCnt := min 65535 (p.dipCnt + 1) } }
      let s := s.rset regPcrDip 0 (s.rget regPcrDip 0 ||| (1#32 <<< rail.val))
      let dur := min 65535 ((s.time - p.warnAt[rail]) / us1)
      if s.pcr.asserted.isSome then .next s else .next (s.raise 4 8 0x14 0 (0x11 + at_ rail.val 8 + at_ dur 16) s.time)

/-- The asserted rail that warned first. -/
def PcrSt.firstWarn (p : PcrSt) : Nat :=
  let l := (List.finRange 4).filter fun (r : Fin 4) => p.warn.getLsbD r.val
  let best := l.foldl (fun (b : Option (Fin 4)) (r : Fin 4) =>
    match b with
    | some x => if p.warnAt[r] < p.warnAt[x] then some r else b
    | none => some r) none
  best.elim 0 (·.val)

/-- What a supply stop does beyond SUPPLY_STOP and MBRK_REQ, by role and state (R429, R430). -/
def State.stopBegin (s : State) (t : Time) : State :=
  if s.thmSeq || s.sup.f5 || s.pcr.stopping || s.pcr.stopHeld || s.ypl.role == .standby then s
  else if s.yields then s.yield238 false t
  else if s.pcr.state != 0 then { s with pcr := { s.pcr with stopHeld := true }, sup := { s.sup with f4 := true } }
  else { s with pcr := { s.pcr with stopping := true, stopDue := true, stopTmax := false, stopAt := s.fpAfter t } }

/-- SUPPLY_STOP (R429): a warning has lasted tWARN_HOLD. -/
def execSupplyStop (s : State) : Host.Outcome State Fault Refusal :=
  match s.pcr.runAt with
  | none => .next s
  | some t0 =>
    if s.pcr.stopRaised || s.pcr.asserted.isSome then .next s
    else
      let t := max s.time (t0 + us1 * s.rf regPcrSupplyCfg 0 15 0)
      let s := s.adv t
      let s := { s with pcr := { s.pcr with stopRaised := true } }
      let s := (s.raise 1 8 0x14 5 (0x12 + at_ s.pcr.firstWarn 8) t).mbrk true
      .next (s.stopBegin t)

/-- Steps 1 and 3 of the supply stop, at the first FP boundary at least 40 ns after it begins. -/
def State.stopStep (s : State) (b : Time) : State :=
  if s.pcr.stopDue && decide (s.pcr.stopAt ≤ b) then
    let s := { s with pcr := { s.pcr with stopDue := false } }
    (s.confMach.foldl (fun s m => s.stopOrSafe m (!s.rb regPcrSupplyCfg 0 16) 4 0x12 b) s).abortTests
  else s

/-- Machine m still decelerates for the supply stop: one that a thermal shutdown has taken over has that cause's limit (R508). -/
def State.stopsFor (s : State) (m : Fin 2) : Bool :=
  let x := s.mach[m]
  x.sup.safe.isNone && ((x.decel.active && x.decel.cause == 4) || x.decel.startDue == some 4)

/-- STOP_TMAX_EXPIRY (R429, step 2; R508). -/
def execStopTmaxExpiry (s : State) : Host.Outcome State Fault Refusal :=
  if s.pcr.stopping && !s.pcr.stopDue && s.confMach.any s.stopsFor then
    let t := max s.time (s.pcr.stopAt + 100 * ms1 * s.rf regPcrSupplyCfg 0 31 24)
    let s := s.adv t
    let s := { s with pcr := { s.pcr with stopTmax := true } }
    .next (s.confMach.foldl (fun s m => if s.stopsFor m then s.machSafe m 0 0x12 false t else s) s)
  else .next s

/-- STOP_DONE (R429, step 4): it follows every completion and event. -/
def execStopDone (t : Time) (s : State) : Host.Outcome State Fault Refusal :=
  let s := s.adv t
  if s.pcr.stopping && !s.pcr.stopDue && (s.confMach.all fun m => s.mach[m].sup.safe.isSome) && s.begunDone then
    let s := { s with pcr := { s.pcr with stopping := false, stopHeld := true }, sup := { s.sup with f4 := true } }
    .next (s.raise 4 8 0x14 0 (0x13 + at_ (b2n s.pcr.stopTmax) 8) s.time)
  else .next s

/-! ### Clocks (R434) -/

/-- A clock fault: latched, raised, with its F5 reaction. `count`: the MGT count of R35. -/
def State.clockFault (s : State) (count : Bool) (t : Time) : State :=
  (({ s with pcr := { s.pcr with clkFault := true } }).raise 1 4 0 6 (0x96 + at_ (b2n count) 8) t).reactF5 0x96 t

/-- CLOCK_FAULT: a lock is lost, or the crystal stops being valid; PLL1 is off in DOZE and DEEP, PLL0 in DEEP (R433). -/
def execClockFault (src : ClkSrc) (t : Time) (s : State) : Host.Outcome State Fault Refusal :=
  let s := s.adv t
  let p := s.pcr
  if p.asserted.isSome then .next s
  else
    match src with
    | .xtal => .next (({ s with pcr := { p with xtal := false } }).clockFault false s.time)
    | .pll0 => if p.state = 3 then .next s else .next (({ s with pcr := { p with pll0 := false } }).clockFault false s.time)
    | .pll1 => if 2 ≤ p.state then .next s else .next (({ s with pcr := { p with pll1 := false } }).clockFault false s.time)

/-! ### Power states (R442 to R446) -/

/-- Some running or suspended operation of an opcode, or any. -/
def State.lopHeld (s : State) (f : BitVec 8 → Bool) : Bool := s.host.lops.toList.any fun l => l.state != 0 && f l.opc

/-- The first condition of Table 17.8 that holds for a target other than RUN; 0: none. -/
def State.powerRefusal (s : State) (target : Nat) : Nat :=
  if s.ypl.role == .active || s.ypl.role == .standby then 1
  else if (List.finRange 2).any (fun m => s.mach[m].trk.state != .idle || s.mach[m].sup.safe == some .asc || s.mach[m].decel.active) ||
      (List.finRange 8).any (fun w => s.sets[w].safe == some .asc || s.groups[w].direct) then 2
  else if s.lopHeld fun o => o == 0x20 || o == 0x40 || o == 0x41 then 3
  else if 2 ≤ target ∧ s.otpBusy then 4
  else if target = 3 ∧ (s.lopHeld (fun _ => true) || (List.finRange 16).any fun c => s.silo[c].state != 0 && s.silo[c].state != 4) then 5
  else if target = 3 ∧ s.sup.f5 then 6
  else 0

/-- POWER_STATE (R443). An accepted change to DEEP opens its transition window at once (R445). -/
def execPowerState (q : CmdQ) (s : State) : Host.Outcome State Fault Refusal :=
  s.runCmd q 0x50 (bits q.arg0 31 2 == 0 && q.arg1 == 0) fun s c =>
    let n := bits q.arg0 1 0
    if n = s.pwr then s.finish c stOk n
    else
      let r := if n = 0 then 0 else s.powerRefusal n
      if r != 0 then s.finish c stRefusedState r
      else
        let s := if n = 3 then { s with pcr := { s.pcr with transit := true, target := 3 } } else s
        s.awaitAt c (s.fpAfter s.time) n

/-- A state towards which the change only switches off takes effect at its boundary; one that must wake takes effect once it is complete.
DESIGN CHOICE, safe (log 42). -/
def State.powerTo (s : State) (n : Nat) (t : Time) : State :=
  let old := s.pcr.state
  let s := if n = 1 ∨ n = 2 then s.closeAll else s
  let s := if n = 2 then { s with pcr := { s.pcr with pll1 := false } } else s
  let s := if old < n then { (s.releaseAll t) with pcr := { s.pcr with state := n } } else s
  { s with pcr := { s.pcr with transit := true, target := n, transitEnd := t } }

/-- A change is complete: the state holds, POWER_CHANGED, and the command completes. -/
def State.powerEnd (s : State) (n : Nat) (t : Time) : State :=
  let wd := s.pcr.state != 0 && n == 0
  let s := if n < s.pcr.state then s.convBack (decide (2 ≤ s.pcr.state)) else s
  let s := { s with pcr := { s.pcr with state := n, transit := false, pll1 := s.pcr.pll1 || n != 2 } }
  let s := if wd then forFin 2 s fun s m => s.modMach m fun x => { x with src := { x.src with wdTime := 0, wdMark := t } } else s
  let s := s.raise 0x0A 8 0x14 0 (0x14 + at_ n 8) t
  match s.host.waiting.find? fun c => c.opc == 0x50 && c.aux == n && decide (c.due ≤ t) with
  | some c => s.finishW c stOk n
  | none => s

/-- POWER_CHANGED (R444): the change acts at its boundary. RUN to HOLD is complete there; DEEP completes before the entry. -/
def execPowerChanged (s : State) : Host.Outcome State Fault Refusal :=
  match s.host.waiting.find? fun c => c.opc == 0x50 && !(s.pcr.transit && s.pcr.target != 3 && decide (c.due ≤ s.pcr.transitEnd)) with
  | none => .next s
  | some c =>
    let t := max s.time c.due
    let s := s.adv t
    let n := c.aux
    if n = 3 then
      .next (({ s with pcr := { s.pcr with transit := true, target := 3, transitEnd := t } }).finishW c stOk 3)
    else if n = s.pcr.state then .next (({ s with pcr := { s.pcr with transit := false } }).finishW c stOk n)
    else
      let old := s.pcr.state
      let s := s.powerTo n t
      if old = 0 ∧ n = 1 then .next (s.powerEnd n t) else .next s

/-- POWER_TRANSIT_DONE (R444): the wake or stop time has passed; trips that are asserted act where rows 1 to 5 of Table 6.1 end (R224). -/
def execPowerTransitDone (t : Time) (s : State) : Host.Outcome State Fault Refusal :=
  let s := s.adv t
  if s.pcr.transit && s.pcr.target != 3 && s.pcr.asserted.isNone then .next (s.powerEnd s.pcr.target s.time).retrip else .next s

/-- What DEEP keeps: C and F with RETAIN (Table 17.10); the always-on registers whatever it says. -/
def deepKeep (retain : Bool) : Keep := { b := true, c := retain, f := retain, aon := true, wd := true }

/-- DEEP_ENTRY (R445): everything prepared is written, open quads too (R213); then rings and live state are lost, and the role stays. -/
def execDeepEntry (t : Time) (s : State) : Host.Outcome State Fault Refusal :=
  let s := s.adv t
  if !(s.pcr.transit && s.pcr.target == 3 && s.pcr.asserted.isNone) || s.host.waiting.any fun c => c.opc == 0x50 then .next s
  else
    let s := s.closeAll.pump
    let y := s.ypl
    let m := s.msr
    let h := s.host
    let keep := s.rb regPcrRetain 0 0
    let s := s.lose (deepKeep keep) true true true s.time
    .next { s with
      msr := { m with queue := m.queue.filter fun a => a.who != 0 }
      pcr := { s.pcr with state := 3, transit := false, target := 0, deepAt := s.time, pll0 := false, pll1 := false, stopping := false,
                          stopDue := false, stopHeld := false, mgtCyc := 0, ctlCyc := 0, clkFault := s.pcr.clkFault && keep }
      host := { s.host with opLost := h.opLost, calLost := h.calLost, rejoinLost := h.rejoinLost, d3hot := h.d3hot, bme := h.bme }
      ypl := { s.ypl with role := y.role, claim := y.claim, own := y.own, nonce := y.nonce } }

/-- A wake ends DEEP: the device is in HOLD; PAC_TIME resumes in whole ticks, STEPPED; windows OUT; WOKE (R22, R223, R446). Source 1 host,
2 service port, 3 timer. `t` is the resumed PAC_TIME as the always-on domain measures it: DESIGN CHOICE, safe (log 43). -/
def State.wakeUp (s : State) (src : Nat) (t : Time) : State :=
  let keep := s.rb regPcrRetain 0 0
  let s := s.leaveDeep t
  let s := { s with
    svc := { s.svc with wdAt := s.time, kicked := false, wdi := false, err := src == 2 }
    pcr := { s.pcr with state := 1, transit := false, lastWake := src, retained := keep,
                        wakeN := src != 1 && s.host.d3hot } }
  let s := (s.rsetF regPacStatus 0 2 2 1).convBack true
  s.raise 0x0A 8 0x14 0 (0x15 + at_ src 8 + at_ (b2n keep) 11) (s.lateStamp s.time)

/-- WAKE: a write of PCR_PWR_CTL.WAKE = 1. -/
def execWake (t : Time) (s : State) : Host.Outcome State Fault Refusal :=
  if s.pcr.state = 3 ∧ s.pcr.asserted.isNone then .next (s.wakeUp 1 t) else .next s

/-- WAKE_TIMER_EXPIRY: TIMER ms after the entry. -/
def execWakeTimerExpiry (t : Time) (s : State) : Host.Outcome State Fault Refusal :=
  let ms := (s.rget regPcrWakeTimer 0).toNat
  if s.pcr.state = 3 ∧ s.pcr.asserted.isNone ∧ ms ≠ 0 then .next (s.wakeUp 3 (max t (s.pcr.deepAt + ms1 * ms))) else .next s

end Sys2Proof.Machine
end

