-- ==== Sys2Proof/Machine/Rounds.lean ====
section
/-! DEFINITION. Rounds.lean: the three boundaries of the Pacer (R19): FP_BOUNDARY, SP_BOUNDARY, HOUSEKEEPING_ROUND. -/
namespace Sys2Proof.Machine

/-- CTL runs: no reset other than MGR is asserted, and the device is not in DEEP (Table 17.7). -/
def State.ctlRuns (s : State) : Bool := s.pcr.asserted.isNone && s.pcr.state != 3

/-- FP_BOUNDARY (R18, R26): the next FP boundary. At an SP boundary the Silo works once SP_BOUNDARY has run the machine cells (R375). The period that ends is closed, the set cells compute, the edges of the new period
are loaded; an owner sends its baton; stops that wait for a boundary take their first step. -/
def State.fpBoundary (s : State) (b : Time) : State :=
  let s := ((s.adv b).takeFp b).expectFp b
  let s := ((s.fpEnd b).fpBegin b).thmStep b
  let s := (s.stopStep b).batonSend b
  if b = s.nextSp then s else s.siloFp b

def execFpBoundary (s : State) : Host.Outcome State Fault Refusal :=
  .next (if s.ctlRuns then s.fpBoundary s.nextFp else s)

/-- SP_BOUNDARY (R143): the next SP boundary; machine cells of an owner run, those of a standby load the baton (R286). -/
def State.spBoundary (s : State) (b : Time) : State :=
  let s := ({ s.adv b with lastSp := b }).spWork b
  let s := s.shadowSp b
  let s := (if s.lastFp = b then s.siloFp b else s).siloTaps true b
  { s with late := s.late.filter fun x => decide (b < x.at_ + lead40) }

def execSpBoundary (s : State) : Host.Outcome State Fault Refusal :=
  .next (if s.ctlRuns then s.spBoundary s.nextSp else s)

/-! ### The configuration digest (R290) -/

/-- The class C bits of word `part` of a register (Table 17.11), without the pages and factors that belong elsewhere. -/
def RegDesc.classC (d : RegDesc) (part : Nat) : Word :=
  if ringPage d || factorReg d || (decide (0x13000 ≤ d.base) && decide (d.base < 0x14000)) then 0
  else (maskPart (d.rw ||| d.rwl) part) &&& ~~~ (maskPart (d.sticky ||| d.live) part)

/-- Every word of every register with class C fields: offset and content. -/
def State.classCWords (s : State) : List (Nat × Word) :=
  regTable.flatMap fun d => (List.range d.count).flatMap fun i => (List.range d.words).filterMap fun p =>
    let m := d.classC p
    if m = 0 then none else some (d.off i p, s.rgetP d i p &&& m)

/-- Insert by rising offset. -/
def insertOff (x : Nat × Word) : List (Nat × Word) → List (Nat × Word)
  | [] => [x]
  | y :: l => if x.1 ≤ y.1 then x :: y :: l else y :: insertOff x l

/-- The coefficient slots of Tables 5.3 and 4.2 in both banks of both machines, ascending. -/
def coefSlots : List Nat :=
  (List.range 4).flatMap fun k =>
    let base := 0x18000 + 0x400 * k
    ((List.range 0x1C).map fun o => base + o) ++
      (List.range 4).flatMap fun p => (List.range 0x16).map fun o => base + 0x200 + 0x40 * p + o

/-- CRC-32 over the three parts: register words, coefficient slots, then shape, cogging and friction tables, each in ascending order.
DEDUCED (log 44). -/
def State.cfgDigest (s : State) : Word :=
  let regs := (s.classCWords.foldr insertOff []).map (·.2)
  let nodes := fun (a n : Nat) => (List.range n).map fun i => s.nodeW (a + i)
  crc32 (wordBytes (regs ++ coefSlots.map s.nodeW ++ nodes 0x14000 0x4000 ++ nodes 0 0x10000 ++ nodes 0x10000 0x4000))

/-! ### HOUSEKEEPING_ROUND -/

/-- A count is more than 8% from its nominal value (R35). -/
def countBad (n nominal : Nat) : Bool := decide (100 * n < 92 * nominal) || decide (108 * nominal < 100 * n)

/-- Raise one persisting cause of GLB_HEALTH again (R38, R40). -/
def State.healthAgain (s : State) (bit block : Nat) (insts : List (Nat × Nat)) (t : Time) : State :=
  insts.foldl (fun s (i, extra) => s.health bit block i extra t) s

/-- Causes that persist under a cleared bit: pairs, sensors, OTP words and regions, lanes, gate links, node RAM. -/
def State.healthRound (s : State) (t : Time) : State :=
  let h := s.rget regGlbHealth 0
  let go := fun (s : State) (bit block : Nat) (l : List (Nat × Nat)) => if h.getLsbD bit then s else s.healthAgain bit block l t
  let s := go s 0 0x01 (((List.finRange 16).filter fun p => s.acq.pairs[p].failE || s.acq.pairs[p].failO).map fun p =>
    (p.val, s.acq.pairs[p].cause))
  let s := go s 1 0x09 (((List.finRange 16).filter fun i => s.thm.sens[i].broken).map fun i => (i.val, 0))
  let s := go s 2 0x0A (s.otp.weakSeen.map fun a => (a, a / 256))
  let s := go s 3 0x0A (((List.finRange 16).filter fun (r : Fin 16) => s.otp.regions[r].bad).map fun r => (r.val, 0))
  let s := go s 4 0x0C (((List.finRange 2).filter fun k => s.ypl.laneBad.getLsbD k.val).map fun k => (k.val, 0))
  let s := go s 5 0x07 (((List.finRange 8).filter fun g => s.glkErr g && s.sup.glk[g].errRaised).map fun g => (g.val, 0))
  go s 7 0x11 (if s.eccMany then [(0, 0)] else [])

/-- HOUSEKEEPING_ROUND (R35, R40, R242, R254, R290): `mgt` and `ctl` are the counts of the round that ends. -/
def State.hrRound (s : State) (mgt ctl : Nat) (b : Time) : State :=
  let s := { s.adv b with lastHr := b, pcr := { s.pcr with mgtCyc := mgt, ctlCyc := ctl } }
  let m := countBad mgt 245760
  let c := countBad ctl 409600
  let s := if m || c then s.rset regGlbStatus 0 (s.rget regGlbStatus 0 ||| 8) else s
  let s := if c then s.clockFault false b else s
  let s := if m then s.clockFault true b else s
  let s := s.healthRound b
  let s := (s.wearAll).memberRound b
  let s := if (b / hkRound) % 1000 = 0 then forFin 8 s fun s w => s.modSet w fun x => { x with trips := 0, tripHit := false } else s
  let s := forFin 8 s fun s g => s.modGlk g fun x =>
    { x with discards := x.discards.filter fun u => decide (b < u + 60 * s1), errRaised := x.errRaised && s.glkErr g }
  if s.pairEn then { s with ypl := { s.ypl with digest := s.cfgDigest } } else s

def execHousekeepingRound (mgt ctl : BitVec 19) (s : State) : Host.Outcome State Fault Refusal :=
  .next (if s.ctlRuns then s.hrRound mgt.toNat ctl.toNat s.nextHr else s)

end Sys2Proof.Machine
end

