-- ==== Sys2Proof/Machine/LinkTest.lean ====
section
/-! DEFINITION. LinkTest.lean: LINK_TEST and its checkers, the PCI Express loopback, SELF_TEST and the test access port
(chapter 18). -/
namespace Sys2Proof.Machine

/-! ### Links (R451 to R456) -/

/-- The slot of the LINK_TEST that runs on a link. -/
def State.linkSlot (s : State) (link : Fin 13) : Option (Fin 8) :=
  (List.finRange 8).find? fun k =>
    let l := s.host.lops[k]
    (l.state == 1 || l.state == 3) && l.opc == 0x41 && bits l.arg0 4 0 == link.val

/-- A test is using the link (LTS_CFG.BUSY). -/
def State.linkBusy (s : State) (link : Fin 13) : Bool :=
  s.linkTested link.val || (link == 10 && s.lts.loopEnd.isSome)

/-- Bits that a link carries in a time: 6.25 Gbaud on a Yeper lane, 25 Mbit/s on a gate link, both lanes of PCI Express at the rate it
has trained to. The service port and QSPI count their own (R456). -/
def State.linkBits (s : State) (link : Fin 13) (d : Time) : Nat :=
  if link.val < 2 then d * 25 / 8
  else if link.val < 10 then d / 80
  else if link.val = 10 then
    match s.host.linkGen with
    | 1 => d * 5 / 2
    | 2 => d * 5
    | _ => d * 8
  else 0

/-- Count what the locked checker has compared up to `t`, with `errs` bits in error. -/
def State.linkCount (s : State) (link : Fin 13) (errs : Nat) (t : Time) : State :=
  s.modLink link fun (l : LinkSt) =>
    if l.locked then
      { l with bits := (l.bits + s.linkBits link (t - l.lockAt)) % 2 ^ 64, lockAt := t, errors := satAdd l.errors errs (2 ^ 32 - 1) }
    else l

/-- The checker of a link works: its test runs, not in far loopback; link 10 while the loopback test runs. ECHO and READBACK have no
checker of their own. -/
def State.checkerOn (s : State) (link : Fin 13) : Bool :=
  if link.val < 10 then (match s.linkSlot link with | some k => !s.host.lops[k].arg0.getLsbD 8 | none => false)
  else link == 10 && s.lts.loopEnd.isSome

/-- CHECKER_LOCKED (R453): after 64 consecutive correct bits; whether within the first 1 ms of running time (R455). -/
def execCheckerLocked (link : Fin 13) (t : Time) (s : State) : Host.Outcome State Fault Refusal :=
  let s := s.adv t
  if s.checkerOn link && !s.lts.links[link].locked then
    let first := match s.linkSlot link with
      | some k => s.host.lops[k].phase == 0 && decide (s.time ≤ s.host.lops[k].since + ms1)
      | none => true
    .next (s.modLink link fun (l : LinkSt) => { l with locked := true, lockAt := s.time, everLock := l.everLock || first })
  else .next s

/-- CHECKER_LOCK_LOST (R453): `errs` bits in error since the checker locked or last reported. -/
def execCheckerLockLost (link : Fin 13) (errs : Nat) (t : Time) (s : State) : Host.Outcome State Fault Refusal :=
  let s := s.adv t
  if s.checkerOn link && s.lts.links[link].locked then
    .next ((s.linkCount link errs s.time).modLink link fun (l : LinkSt) => { l with locked := false, losses := min 255 (l.losses + 1) })
  else .next s

/-- The operands of LINK_TEST (R454). -/
def linkArgs (q : CmdQ) : Bool :=
  let k := bits q.arg0 4 0
  let p := bits q.arg0 7 5
  let d := q.arg1.toNat
  bits q.arg0 31 9 == 0 && decide (k ≤ 12) && k != 10 &&
  (if k < 2 then decide (p ≤ 3) else if k < 10 then p == 4 else p == 5 && !q.arg0.getLsbD 8) &&
  (if k = 12 then d == 0 else decide (1 ≤ d) && decide (d ≤ 3600000))

/-- The link is in service (Table 18.1). -/
def State.inService (s : State) (k : Nat) : Bool :=
  if k < 2 then !s.pairEn || (s.ypl.role != .unjoined && s.ypl.role != .lockout) || s.lopAny 0x49
  else if k < 10 then (s.started && s.setConf (Fin.ofNat 8 (k - 2))) || s.sup.glk[Fin.ofNat 8 (k - 2)].cmdBusy
  else if k = 11 then s.rb regSvcWdCfg 0 0 || s.msr.svcBusy
  else if k = 12 then !s.msr.running
  else true

/-- LINK_TEST (R454): the link's counters are cleared as it starts. -/
def execLinkTest (q : CmdQ) (s : State) : Host.Outcome State Fault Refusal :=
  s.runCmd q 0x41 (linkArgs q) fun s c =>
    let k := bits c.arg0 4 0
    if s.inService k then s.finish c stRefusedState 1
    else if s.linkTested k then s.finish c stRefusedState 2
    else if s.pwr != 0 then s.finish c stRefusedState 3
    else if s.freeSlot.isNone then s.lopStart c
    else (s.modLink (Fin.ofNat 13 k) fun _ => LinkSt.reset).lopStart c

/-- RESULT of a test, from the link's counters (R455). The microcontroller is the checker of an ECHO test, which reports no lock. DEDUCED
(log 45). -/
def State.linkResult (s : State) (link : Fin 13) : Nat :=
  let l := s.lts.links[link]
  l.errors + at_ l.losses 32 + at_ (b2n l.locked) 40 + at_ (b2n (link != 11 && !l.everLock)) 41

/-- The counters of a READBACK test (R456): `words` words differed; the header was invalid; the digest matched, compared only where the image
came from QSPI. The bits counted are a free value where the header's LEN is not known. -/
def State.readback (s : State) (words : Nat) (hdrBad digestOk : Bool) : State :=
  let ok := !s.msr.srcHost && digestOk
  let n := if hdrBad then 128 else if ok then 128 + 8 * s.msr.len else s.free.toNat
  let s := if hdrBad || ok then s else s.freeNext
  s.modLink 12 fun (l : LinkSt) => { l with bits := n, errors := min (2 ^ 32 - 1) (32 * words), locked := ok, everLock := !hdrBad }

/-- The final completion of a test. -/
def State.linkEnd (s : State) (k : Fin 8) (link : Fin 13) : State :=
  let r := if s.host.lops[k].arg0.getLsbD 8 then 0 else s.linkResult link
  let l := s.lts.links[link]
  let ok := r = 0 ∨ (l.errors = 0 ∧ l.losses = 0 ∧ (r >>> 41) % 2 = 0)
  (s.modLink link fun (l : LinkSt) => { l with locked := false }).lopEnd k (if ok then stOk else stVerifyFail) r

/-- LINK_TEST_DONE (R455): the running time has ended; or, where a cancel, a suspend or an abort is asked for, the next of the pause points
that lie every 1 ms of running time. -/
def execLinkTestDone (link : Fin 13) (errs : Nat) (hdrBad digestOk : Bool) (t : Time) (s : State) :
    Host.Outcome State Fault Refusal :=
  match s.linkSlot link with
  | none => .next (s.adv t)
  | some k =>
    let l := s.host.lops[k]
    let dur := l.arg1.toNat
    let n := l.phase + max 1 ((t - l.since + ms1 - 1) / ms1)
    let stop := l.ending != 0 && (link == 12 || decide (n < dur))
    let at' := if stop then l.since + (n - l.phase) * ms1 else if link = 12 then t else l.since + (dur - l.phase) * ms1
    if t < at' ∧ !stop then .next (s.adv t)
    else
      let s := s.adv at'
      let s := if link = 12 then (if stop then s else s.readback errs hdrBad digestOk) else s.linkCount link errs at'
      if stop then
        let r := if l.arg0.getLsbD 8 then 0 else s.linkResult link
        let s := s.modLop k fun (l : Lop) => { l with phase := n }
        let (s, _) := s.lopPause k n r
        .next (s.modLink link fun (l : LinkSt) => { l with locked := false })
      else .next (s.linkEnd k link)

/-! ### PCI Express (R457) -/

/-- A write of LTS_PCIE_CTL.GO. -/
def State.pcieGo (s : State) : State :=
  if (List.finRange 48).any (fun i => s.ringEn i) || s.host.lops.toList.any (fun l => l.state != 0) || s.lts.loopEnd.isSome then s.writeReject
  else
    let s := s.modLink 10 fun _ => LinkSt.reset
    { s with lts := { s.lts with loopEnd := some (s.time + ms1 * s.rf regLtsPcieCtl 0 31 16) }, host := { s.host with linkUp := false } }

/-- PCIE_LOOPBACK_GO. -/
def execPcieLoopbackGo (t : Time) (s : State) : Host.Outcome State Fault Refusal := s.onRegs t State.pcieGo

/-- PCIE_LOOPBACK_DONE: the link returns to L0. -/
def execPcieLoopbackDone (errs : Nat) (s : State) : Host.Outcome State Fault Refusal :=
  match s.lts.loopEnd with
  | none => .next s
  | some t =>
    let s := (s.adv t).linkCount 10 errs t
    let s := s.modLink 10 fun (l : LinkSt) => { l with locked := false }
    .next { s with lts := { s.lts with loopEnd := none }, host := { s.host with linkUp := true } }.pump

/-! ### SELF_TEST (R459 to R461) -/

/-- The first block of a mask from `p` on. -/
def blockFrom (mask p : Nat) : Option Nat := [0, 1, 2].find? fun b => decide (p ≤ b) && (mask >>> b) % 2 == 1

/-- SELF_TEST. -/
def execSelfTest (q : CmdQ) (s : State) : Host.Outcome State Fault Refusal :=
  s.runCmd q 0x40 (bits q.arg0 31 3 == 0 && bits q.arg0 2 0 != 0 && q.arg1 == 0) fun s c =>
    if s.pwr != 0 then s.finish c stRefusedState 1
    else if s.ypl.role == .active || s.ypl.role == .standby || s.drivesAny then s.finish c stRefusedState 2
    else if s.lopAny 0x20 || s.lopAny 0x40 then s.finish c stRefusedState 3
    else if c.arg0.getLsbD 2 && (s.yieldHigh || s.chopSup 0 || s.chopSup 1) then s.finish c stRefusedState 4
    else
      match s.freeSlot with
      | none => s.lopStart c
      | some k =>
        let s := s.lopStart c
        (s.modLop k fun (l : Lop) => { l with phase := (blockFrom (bits c.arg0 2 0) 0).getD 0, res := [0] }).blockEnter k

/-- A converter fails: the mean of its zero or of its REF lies too far off. -/
def State.convFails (s : State) (x : Fin 44 × Int × Int) : Bool :=
  let lim : Int := if s.acq.calValid then 32 else 256
  decide (lim < x.2.1.natAbs) || decide (lim < (x.2.2 - 4096).natAbs)

/-- An enabled window: its two crossing codes against the converted input, in DAC steps, and whether the input moved by more than
32 LSB. -/
def State.winFails (s : State) (x : Fin 20 × Int × Int × Bool) : Bool :=
  s.rb regCmpWinCfg x.1 31 && !x.2.2.2 && (decide (4 < x.2.1.natAbs) || decide (4 < x.2.2.1.natAbs))

/-- A channel fails: an edge more than 3 ns off its schedule, or a guarded request not held for LGUARD. -/
def chanFails (x : Fin 50 × Int × Bool) : Bool := decide (3 < x.2.1.natAbs) || !x.2.2

/-- The least of a list; 0 for none. -/
def least (l : List Nat) : Nat := match l with | [] => 0 | a :: l => l.foldl min a

/-- SELF_TEST_BLOCK_DONE (R460, R461): the measured values of the block under way. Grid conversions begin anew after the converter block; a
window left OUT acts while the groups are still in trip mode HIZ; the channels go back to their rows. -/
def execSelfTestBlockDone (conv : List (Fin 44 × Int × Int)) (win : List (Fin 20 × Int × Int × Bool))
    (chan : List (Fin 50 × Int × Bool)) (t : Time) (s : State) : Host.Outcome State Fault Refusal :=
  let s := s.adv t
  match s.running 0x40 with
  | none => .next s
  | some k =>
    let l := s.host.lops[k]
    let p := l.phase
    let bad := if p = 0 then (conv.filter s.convFails).map (·.1.val) else if p = 1 then (win.filter s.winFails).map (·.1.val)
      else (chan.filter chanFails).map (·.1.val)
    let fails := !bad.isEmpty || (p == 2 && s.lts.stYield)
    let moved := p == 1 && win.any fun x => s.rb regCmpWinCfg x.1 31 && x.2.2.2
    let r := l.res.headD 0 + 2 ^ p + (if fails then at_ 1 (3 + p) else 0) +
      at_ (least bad) (if p = 0 then 8 else if p = 1 then 14 else 19) + at_ (b2n moved) 26
    let s := if p = 0 then s.gridStart
      else if p = 1 then
        State.retrip { s with winOut := s.winOut ||| BitVec.ofNat 20 ((List.range 20).foldl (fun a n => a + at_ (b2n (s.rb regCmpWinCfg n 31)) n) 0) }
      else if p = 2 then { s with lts := { s.lts with stYield := false } } else s
    match blockFrom (bits l.arg0 2 0) (p + 1) with
    | none =>
      let s := s.lopEnd k (if bitsN r 5 3 = 0 then stOk else stVerifyFail) r
      .next (if p = 2 then s.testEnd else s)
    | some b =>
      let s := s.modLop k fun (l : Lop) => { l with phase := b, res := [r] }
      let (s, go) := s.lopPause k (l.pauses + 1) r
      .next (if go then s.blockEnter k else s)

/-! ### The test access port (R462, R463) -/

/-- The boundary cells own the balls: EXTEST, HIGHZ or CLAMP is in force. -/
def LtsSt.owns (x : LtsSt) : Bool := decide (3 ≤ x.tap)

/-- The identification register (Table 18.3). -/
def tapId : Word := 0xB42089E3

/-- The data register that the instruction in force selects: identification, boundary, or bypass, which reads 0. -/
def State.tapData (s : State) : Word :=
  match s.lts.tap with
  | 0 => tapId
  | 2 => s.lts.boundary
  | 3 => s.lts.boundary
  | _ => 0

/-- Levels of the OWN and CLAIM pins: low while the boundary cells own them and during the pulse-generator block (R460, R463). -/
def State.ownPin (s : State) : Bool := s.ypl.own && !s.lts.owns && s.selfBlock != some 2
def State.claimPin (s : State) : Bool := s.ypl.claim && !s.lts.owns && s.selfBlock != some 2

/-- An instruction comes into force. Leaving EXTEST, HIGHZ or CLAMP performs a SOFT reset. -/
def State.tapLoad (s : State) (code : Nat) (t : Time) : State :=
  let left := s.lts.owns && s.lts.tap != code
  let s := { s with lts := { s.lts with tap := code } }
  if left then s.assertReset 3 t else s

/-- EXTEST: the boundary cells own the balls. -/
def execExtest (t : Time) (s : State) : Host.Outcome State Fault Refusal :=
  let s := s.adv t
  .next (s.tapLoad 3 s.time)

/-- IDCODE. -/
def execIdcode (t : Time) (s : State) : Host.Outcome State Fault Refusal :=
  let s := s.adv t
  .next (s.tapLoad 0 s.time)

/-- SAMPLE/PRELOAD: the boundary register takes the levels sampled, or what is shifted in. Its cells are not the spec's to list; a word
stands for them. -/
def execSamplePreload (_preload : Bool) (v : BitVec 32) (t : Time) (s : State) : Host.Outcome State Fault Refusal :=
  let s := s.adv t
  let s := s.tapLoad 2 s.time
  .next { s with lts := { s.lts with boundary := v } }

/-- HIGHZ: the balls are released. -/
def execHighz (t : Time) (s : State) : Host.Outcome State Fault Refusal :=
  let s := s.adv t
  .next (s.tapLoad 4 s.time)

/-- CLAMP: the balls are held from the boundary register. -/
def execClamp (t : Time) (s : State) : Host.Outcome State Fault Refusal :=
  let s := s.adv t
  .next (s.tapLoad 5 s.time)

/-- BYPASS. -/
def execBypass (t : Time) (s : State) : Host.Outcome State Fault Refusal :=
  let s := s.adv t
  .next (s.tapLoad 1 s.time)

/-- VENDOR_TEST_INSTRUCTION: codes 0x80 to 0xFE act as BYPASS while debug is closed; while it is open the spec gives them no effect. -/
def execVendorTestInstruction (code : BitVec 8) (t : Time) (s : State) : Host.Outcome State Fault Refusal :=
  let s := s.adv t
  if s.debugOpen then .refused (.vendorTest code) else .next (s.tapLoad 1 s.time)

/-- TAP_INSTRUCTION_EXIT: EXTEST, HIGHZ or CLAMP is left, for Test-Logic-Reset. -/
def execTapInstructionExit (t : Time) (s : State) : Host.Outcome State Fault Refusal :=
  let s := s.adv t
  .next (if s.lts.owns then s.tapLoad 0 s.time else s)

end Sys2Proof.Machine
end

