-- ==== Sys2Proof/Machine/Regs.lean ====
section
/-! DEFINITION. Regs.lean: reads and writes of BAR0 (R8 to R13, R309, R310, R500 to R507): the value every register reads, and what a write to
one does beyond storing its fields. -/
namespace Sys2Proof.Machine

/-! ### Read-only fields, page by page -/

/-- A mask of the indices below `n` for which `p` holds. -/
def maskBits (n : Nat) (p : Nat → Bool) : Nat := (List.range n).foldl (fun a k => a + at_ (b2n (p k)) k) 0

/-- PAC and GLB (chapters 1, 12). ALIGNED is 0 in SOLO and UNJOINED. -/
def State.liveGlb (s : State) (base : Nat) : Nat :=
  match base with
  | 0x000 => 0x01B04208
  | 0x008 => (s.serialW 0).toNat + at_ (s.serialW 1).toNat 32
  | 0x010 => s.pcr.straps.toNat
  | 0x014 => at_ (b2n s.started) 1 + at_ (b2n (s.rget regGlbHealth 0 != 0)) 2
  | 0x030 => at_ (b2n s.msr.ready) 1 + at_ (b2n s.msr.running) 2
  | 0x108 => s.pacTime
  | 0x110 => s.time / s.fp
  | 0x118 => b2n s.pacValid + at_ (b2n (s.ypl.aligned && s.ypl.role != .solo && s.ypl.role != .unjoined)) 1
  | _ => 0

/-- PCR (chapter 17). -/
def State.livePcr (s : State) (base : Nat) : Nat :=
  let p := s.pcr
  match base with
  | 0x1000 => p.warn.toNat + at_ (b2n p.settled) 4 + at_ (b2n p.stopping) 5 + at_ (b2n p.stopHeld) 6
  | 0x1008 => at_ p.dipCnt 8
  | 0x100C => at_ p.last 8 + at_ (b2n p.mgrLock) 12 + at_ p.borRail.toNat 16 + at_ p.mgrCnt 24
  | 0x1010 => b2n p.xtal + at_ (b2n p.pll0) 1 + at_ (b2n p.pll1) 2 + at_ (b2n p.clkFault) 3
  | 0x1014 => p.mgtCyc
  | 0x1018 => p.ctlCyc
  | 0x1028 => p.state + at_ (b2n p.transit) 2 + at_ p.lastWake 4 + at_ (b2n p.retained) 7
  | _ => 0

/-- RNG (chapters 12, 13). A free slot reads 0; an operation that a management-core reset has lost is ending. -/
def State.liveRng (s : State) (base i : Nat) : Nat :=
  let k : Fin 48 := Fin.ofNat 48 i
  let r := s.host.rings[k]
  match base with
  | 0x200C => r.head
  | 0x2010 => r.tail
  | 0x2014 => b2n r.stopped + at_ r.cause 1 + at_ (b2n r.phase) 4 + at_ (b2n (s.ringFree k == 0)) 5
  | 0x2608 => min 256 (heldEvents s.host.held)
  | 0x2700 =>
    let j : Fin 8 := Fin.ofNat 8 i
    let l := s.host.lops[j]
    if l.state = 0 then 0
    else (if l.ending = 0 then l.state else 3) + at_ l.ring.val 4 + at_ l.opc.toNat 8 + at_ (s.handle j) 16 + at_ l.seq 32
  | _ => 0

/-- A latest-result register (R216); 0 before the first sample. -/
def State.liveLatest (s : State) (c : Nat) : Nat :=
  match alGet s.acq.latest c with
  | some l => uns l.s.code 16 + at_ l.s.flags.toNat 16 + at_ l.seq 24 + at_ (ticksOf l.s.t % 2 ^ 32) 32
  | none => 0

/-- ACQ (chapter 7). -/
def State.liveAcq (s : State) (base i : Nat) : Nat :=
  let a := s.acq
  let p := a.pairs[Fin.ofNat 16 i]
  match base with
  | 0x4004 => b2n a.calValid + at_ (b2n (s.lopRuns 0x20)) 1 + at_ (b2n (s.lopAny 0x20 && !s.lopRuns 0x20)) 2 + at_ (b2n a.restored) 3
  | 0x4008 => s.calTag.toNat
  | 0x400C => a.calFirst + at_ a.calFailPhase 10
  | 0x4018 => s.budget + at_ (natOf s.used) 16
  | 0x4340 => uns p.skewD 12 + at_ (uns p.ofsD 16) 16
  | 0x4380 => b2n (p.failE != p.failO) + at_ (b2n p.failE) 1 + at_ (b2n p.failO) 2 + at_ (b2n p.diverging) 3 + at_ p.cause 4
  | 0x4580 => a.streams[Fin.ofNat 32 i].seq % 256
  | 0x4800 => s.liveLatest i
  | 0x4A00 => s.liveLatest (0x40 + i)
  | _ => 0

/-- CMP (chapter 8). -/
def State.liveCmp (s : State) (base : Nat) : Nat :=
  match base with
  | 0x8100 => maskBits 20 fun n => s.winOut.getLsbD n && s.rb regCmpWinCfg n 31
  | 0x8108 => s.flt.toNat + at_ (b2n s.estop) 8 + at_ (b2n s.ypl.yieldIn) 9
  | _ => 0

/-- MODE of a group: released, engine, direct, ASC pattern. It reads 0 in the pulse-generator block of SELF_TEST, for which it has no code:
DESIGN CHOICE, unsafe (log 142). -/
def OutRow.mode : OutRow → Nat
  | .released => 0
  | .asc => 3
  | .direct => 2
  | .drive => 1
  | .off => 0
  | .test => 0

/-- A channel's status. GUARD_HELD and MIN_HELD tell which of the two still holds a pending change (R161, R165). -/
def State.chanStat (s : State) (n : Fin 48) : Nat :=
  let c := s.chans[n]
  let waits := c.pend && c.lvl != .rel
  let g := waits && c.req && (match s.guardFrom n with | none => true | some a => decide (s.time < a))
  let m := waits && decide (s.time < if c.req then s.minOnFrom n else s.minOffFrom n)
  b2n (c.lvl == .high) + at_ (b2n (c.lvl == .rel)) 1 + at_ (b2n c.pend) 2 + at_ (b2n (c.pend && c.req)) 3 + at_ (b2n g) 4 + at_ (b2n m) 5

/-- PGN (chapter 6). -/
def State.livePgn (s : State) (base i : Nat) : Nat :=
  let g : Fin 8 := Fin.ofNat 8 i
  let x := s.groups[g]
  let d := s.direct
  let c := s.chops[Fin.ofNat 2 i]
  match base with
  | 0x9004 => s.directMask + at_ (b2n s.outEn) 8 + at_ (b2n (s.owner && !s.yieldHigh)) 9
  | 0x901C => b2n d.pending.isSome + at_ (b2n d.queued.isSome) 1 + at_ (b2n d.pNew) 2 + at_ (b2n d.eNew) 3 +
      at_ (if d.next.isSome then d.period else 0) 12
  | 0x9120 => (s.rowOf g).mode + at_ (b2n (s.tripHiz g)) 2 + at_ (b2n x.recovery) 3 + at_ (b2n x.hiz) 4 + at_ (b2n (s.rowOf g == .asc)) 6 +
      at_ (b2n x.cutNow) 7 + at_ (min 255 x.cutRun) 8 + at_ x.src 16
  | 0x9400 => s.chanStat (Fin.ofNat 48 i)
  | 0x9808 => b2n (c.ch.lvl == .high) + at_ (b2n (c.ch.lvl == .rel)) 1 + at_ (b2n c.cutNow) 2 + at_ (b2n c.latch) 3 + at_ (min 255 c.run) 8
  | _ => 0

/-- COM (chapters 2, 3). -/
def State.liveCom (s : State) (base i : Nat) : Nat :=
  let w : Fin 8 := Fin.ofNat 8 i
  let m : Fin 2 := Fin.ofNat 2 i
  let x := s.sets[w]
  let y := s.mach[m]
  match base with
  | 0xB080 =>
    (match x.sector with | some k => k.val + at_ (floatLeg k).val 4 | none => 7 + at_ 3 4) + at_ (b2n x.chopLow) 6 + at_ (b2n x.td) 7 +
      at_ (b2n x.x.blanking) 8 + at_ (b2n x.x.armed) 9 + at_ (b2n (x.driving && s.rotOf w)) 10 + at_ x.adv 16
  | 0xB240 => y.trk.angle.toNat
  | 0xB244 => (toF32 y.trk.f).toNat
  | 0xB248 => y.trk.state.code + at_ (b2n (s.hallValid m)) 8 + at_ (b2n (s.encValid m)) 9 + at_ (b2n y.sens.encIdx) 10 +
      at_ y.trk.lastStart 12 + at_ (min 255 (y.trk.recov.filter fun a => decide (s.time < a + 10 * s1)).length) 16
  | _ => 0

/-- ENG (chapters 2, 4, 5). -/
def State.liveEng (s : State) (base i : Nat) : Nat :=
  let w : Fin 8 := Fin.ofNat 8 i
  let m : Fin 2 := Fin.ofNat 2 i
  let c := s.sets[w].cell
  let d := s.mach[m].decel
  match base with
  | 0xC010 => c.state.code + at_ (b2n c.gen) 3 + at_ (b2n c.vlim) 4 + at_ (b2n c.minHold) 5 + at_ (b2n (c.h == s.sc w cHMIN)) 6 +
      at_ (b2n (c.h == s.sc w cHMAX)) 7 + at_ (b2n c.lBound) 8 + at_ (b2n c.rBound) 9 + at_ (b2n c.short) 10 + at_ (min 3 c.ovrRun) 12
  | 0xD000 => s.mcStat m
  | 0xDC0C => b2n d.dirRev + at_ (b2n d.revPend) 1 + at_ (b2n d.active) 2 + at_ (b2n d.held) 3 + at_ d.cause 4
  | _ => 0

/-- A fault-history entry as SUP_HIST gives it. -/
def HistE.word (h : HistE) : Nat :=
  bits h.detail 7 0 + at_ h.index 8 + at_ h.level 16 + at_ h.cls 20 + at_ 1 23 + at_ (min 255 h.repeat_) 24 + at_ h.detail.toNat 32 +
    at_ (ticksOf h.time % 2 ^ 64) 64

/-- ASC is held under AUTO with no set that can be observed (R235). -/
def State.ascBlind (s : State) (m : Fin 2) : Bool :=
  s.mach[m].sup.safe == some .asc && s.mach[m].sup.safeAuto && (s.setsOf m).all fun w => !s.observable w

/-- SUP (chapter 9). -/
def State.liveSup (s : State) (base i : Nat) : Nat :=
  let m : Fin 2 := Fin.ofNat 2 i
  let x := s.mach[m].sup
  match base with
  | 0xE000 => at_ (b2n x.ascNow) 8 + at_ (b2n x.safe.isSome) 9 + at_ (b2n (x.safe == some .asc)) 10 + at_ (b2n (s.ascBlind m)) 11
  | 0xE008 => s.sup.hist.length + at_ s.sup.histLost 8 + at_ s.faultMask 16 + at_ s.safeMask 26 + at_ (b2n s.sup.mbrk) 28 +
      at_ (b2n s.sup.estopHeld) 29 + at_ (b2n s.sup.f4) 30 + at_ (b2n (s.sup.f5 || s.ypl.devF5)) 31
  | 0xE088 => s.chops[m].state
  | 0xE100 => match s.sup.hist[i]? with | some h => h.word | none => 0
  | _ => 0

/-- Words of 48 bytes of a digest, byte 4·j in [7:0]. -/
def digestWord (d : BitVec 384) (j : Nat) : Nat := ofLe (((digestBytes d).drop (4 * j)).take 4)

/-- The fingerprint of the attestation key; 0 without one. -/
def State.keyFp (s : State) (j : Nat) : Nat :=
  if s.msr.keyHave then digestWord (sha384 (beBytes s.msr.keyX 48 ++ beBytes s.msr.keyY 48)) j else 0

/-- TRC (chapter 14). -/
def State.liveTrc (s : State) (base i : Nat) : Nat :=
  let c : Fin 16 := Fin.ofNat 16 i
  let x := s.silo[c]
  match base with
  | 0xF004 => maskBits 16 (fun c => s.silo[Fin.ofNat 16 c].live) + at_ (maskBits 16 fun c => s.silo[Fin.ofNat 16 c].state == 4) 16
  | 0xF010 =>
    let mine := fun (c : Nat) => (s.trcQ (Fin.ofNat 16 c)).val == i
    maskBits 16 (fun c => s.silo[Fin.ofNat 16 c].live && mine c) +
      at_ (min 65535 ((List.range 16).foldl (fun a c => if mine c then a + s.silo[Fin.ofNat 16 c].outq.length else a) 0)) 16
  | 0xF020 => natOf s.trcUsed
  | 0xF120 => x.state + at_ (b2n x.trig.isSome) 3 + at_ (b2n x.preShort) 4 +
      at_ (min 65535 ((x.recs.length + s.perQuad c - 1) / s.perQuad c + x.outq.length)) 16
  | 0xF128 => ticksOf x.tTime
  | _ => 0

/-- THM (chapter 10). -/
def State.liveThm (s : State) (base i : Nat) : Nat :=
  let z : Fin 8 := Fin.ofNat 8 i
  let y := s.thm.sens[Fin.ofNat 16 i]
  match base with
  | 0x10030 => s.hotZone.val + at_ (b2n s.tw1Alarm) 5 + at_ (b2n s.tsdAlarm) 6 + at_ (b2n s.thm.thw) 7 + at_ (b2n s.thm.shutRun) 8 +
      at_ (b2n (s.thm.shutHeld || s.ypl.devShut)) 9 + at_ (b2n (s.thm.exitMet && s.thmSeq)) 10 + at_ (b2n s.otpWin) 11
  | 0x10040 => uns s.thm.zones[z].temp 16 + at_ (s.zoneBroken z) 16 + at_ (b2n s.thm.zones[z].tw1) 18 + at_ (b2n s.thm.zones[z].tsd) 19
  | 0x10080 => uns y.temp 16 + at_ (b2n y.broken) 16 + at_ y.cause 17
  | _ => 0

/-- OTP_STAT.OP: 1 OTP_PROGRAM, 2 register program, 3 OTP_LOCK, 4 OTP_MARGIN_SCAN, 5 LIFECYCLE_ADVANCE. -/
def State.otpOp (s : State) : Nat :=
  match s.otp.burn with
  | some b => b.kind
  | none => if s.lopAny 0x30 then 1 else if s.lopAny 0x32 then 4 else 0

/-- An OTP operation is suspended. -/
def State.otpHeld (s : State) : Bool := s.host.lops.toList.any fun l => l.state == 2 && (l.opc == 0x30 || l.opc == 0x32)

/-- OTP (chapter 15). A Gleaner scan takes no time of its own in the model, so GLEANING reads 0. -/
def State.liveOtp (s : State) (base i : Nat) : Nat :=
  let o := s.otp
  let r : Fin 16 := Fin.ofNat 16 i
  let g := o.regions[r]
  match base with
  | 0x11000 => b2n o.loaded + at_ (b2n s.otpRuns) 1 + at_ s.otpOp 2 + at_ (b2n s.otpHeld) 5 + at_ o.lc 7 + at_ (b2n s.debugOpen) 10 +
      at_ (b2n o.lcBad) 11
  | 0x1100C => o.check.toNat
  | 0x11014 => o.lastOutcome + at_ o.lastRounds 8 + at_ (b2n o.lastWeak) 16
  | 0x11018 => o.wl.toNat + at_ o.rl.toNat 16
  | 0x1101C => o.scans % 65536
  | 0x11040 => g.load + at_ g.now 2 + at_ (b2n g.weak) 4 + at_ (b2n (s.otpWl r)) 5 + at_ (b2n (s.otpRl r)) 6 + at_ (b2n g.forced) 7 +
      at_ (min 255 g.weakCnt) 8
  | 0x11080 =>
    match o.log[i]? with
    | some e => e.word + at_ e.kind 10 + at_ 1 12 + at_ (ticksOf e.time % 2 ^ 32) 32
    | none => 0
  | _ => 0

/-- MSR (chapter 16). The request that the signing engine works on no longer waits. -/
def State.liveMsr (s : State) (base i : Nat) : Nat :=
  let m := s.msr
  match base with
  | 0x12000 => b2n m.measured + at_ (b2n m.srcHost) 1 + at_ m.sig 2 + at_ (b2n m.bootFail) 4 + at_ (b2n s.srcMismatch) 5 + at_ m.expect 6 +
      at_ (b2n m.changed) 8 + at_ s.keyState 9 + at_ (b2n !m.queue.isEmpty) 11
  | 0x12004 => m.len
  | 0x12008 => min (2 ^ 32 - 1) m.count
  | 0x1200C => min 3 (m.queue.length - 1) + at_ (m.reports % 65536) 16
  | 0x12010 => s.keyFp i
  | 0x12040 => digestWord m.digest i
  | 0x12080 => digestWord m.otpDigest i
  | 0x120C0 => match m.log[i]? with | some e => e.info | none => 0
  | 0x12100 => match m.log[i]? with | some e => ticksOf e.time | none => 0
  | _ => 0

/-- YPL (chapter 11). -/
def State.liveYpl (s : State) (base i : Nat) : Nat :=
  let y := s.ypl
  match base with
  | 0x13004 => y.role.code + at_ (b2n s.ownPin) 4 + at_ (b2n s.claimPin) 5 + at_ (b2n y.yieldIn) 6 + at_ (b2n s.fitNow) 7 +
      at_ (y.lanes &&& ~~~ y.laneBad).toNat 8 +
      at_ (b2n (decide (((List.range 16).filter fun k => !y.expect.getLsbD k).length ≤ 2))) 10 +
      at_ (b2n y.hoAt.isSome) 11 + at_ (b2n y.diverged) 12 + at_ (b2n y.epochOk) 13 + at_ y.refuse 16
  | 0x13008 => y.epoch.toNat
  | 0x1300C => y.pRole.toNat + at_ (b2n y.pPos) 3 + at_ (b2n y.pUnfit) 4 +
      at_ (b2n (y.seen && decide (s.time ≤ y.lastRx + 200 * s.rf regYplCfg 0 12 8))) 5 + at_ y.pFseq.toNat 16
  | 0x13014 => uns y.offset 16 + at_ (y.corrs % 65536) 16
  | 0x13040 => (s.rget regYplTakeoverSeq i).toNat
  | _ => 0

/-- GLK (chapter 9): LOST after 12 µs without an accepted frame. -/
def State.liveGlk (s : State) (base i : Nat) : Nat :=
  let x := s.sup.glk[Fin.ofNat 8 i]
  let lost := decide (x.lastAt + 12 * us1 ≤ s.time)
  match base with
  | 0x14020 => b2n (x.seqSeen && !lost) + at_ (b2n lost) 1 + at_ (b2n x.cmdBusy) 2 + at_ x.lastSeq 4
  | 0x14080 => x.tlm.toNat
  | _ => 0

/-- LTS (chapter 21). -/
def State.liveLts (s : State) (base i : Nat) : Nat :=
  let k : Fin 13 := Fin.ofNat 13 i
  let l := s.lts.links[k]
  match base with
  | 0x15000 => at_ (b2n l.locked) 1 + at_ (b2n (s.linkBusy k)) 3 + at_ l.losses 8
  | 0x15040 => l.bits + (if l.locked then s.linkBits k (s.time - l.lockAt) else 0)
  | 0x150C0 => l.errors
  | 0x15100 => at_ (b2n s.lts.loopEnd.isSome) 1
  | 0x15104 => maskBits 13 fun k => s.linkBusy (Fin.ofNat 13 k)
  | _ => 0

/-- SVC (chapter 12). -/
def State.liveSvc (s : State) (base i : Nat) : Nat :=
  match base with
  | 0x16000 => at_ (b2n s.svc.wdOn) 2 + at_ (b2n ((List.finRange 2).any fun m => s.mach[m].sup.holdSvc)) 3
  | 0x16018 => at_ (b2n s.msr.svcBusy) 1 + at_ (b2n s.msr.svcReady) 2 + at_ (s.msr.window.length / 16) 4
  | 0x16040 => s.svc.nonce[Fin.ofNat 8 i].toNat
  | _ => 0

/-- A base address register pair (Table 12.2): its size in bytes, 0 where it reads 0 and requests no space. All are 64-bit, non-prefetchable. -/
structure BarDesc where
  bytes        : Nat
  wide         : Bool
  prefetchable : Bool
  deriving DecidableEq, Repr

/-- The PCI Express function as configuration space presents it (Tables 12.1 and 12.2). -/
structure PciId where
  vendor      : BitVec 16
  device      : BitVec 16
  revision    : BitVec 8
  classCode   : BitVec 24
  subVendor   : BitVec 16
  subSystem   : BitVec 16
  noSoftReset : Bool
  d3hot       : Bool
  vectors     : Nat
  payload     : Nat
  readRequest : Nat
  flr         : Bool
  aer         : BitVec 4
  bar0        : BarDesc
  bar2        : BarDesc
  bar4        : BarDesc
  deriving DecidableEq, Repr

/-- What configuration space shows (R1, R304, R305, R307): the subsystem IDs come from OTP region 8 while that is valid; BAR4 is there with
BOOT_SEL = 1. -/
def State.pciId (s : State) : PciId :=
  let w := if s.otp.regions[8].load = 1 then s.shadowW 512 else 0x42081F3A
  let bar := fun (n : Nat) => ({ bytes := n, wide := n != 0, prefetchable := false } : BarDesc)
  { vendor := 0x1F3A, device := 0x4208, revision := 0xB0, classCode := 0x118000, subVendor := w.setWidth 16, subSystem := w.extractLsb' 16 16,
    noSoftReset := true, d3hot := s.host.d3hot, vectors := 32, payload := 256, readRequest := 512, flr := true, aer := s.host.aer,
    bar0 := bar (256 * 1024), bar2 := bar (64 * 1024), bar4 := bar (if s.bootSel then 2 * 1024 * 1024 else 0) }

/-- The read-only fields of a register, as one number. -/
def State.live (s : State) (base i : Nat) : Nat :=
  match base / 0x1000 with
  | 0x0 => s.liveGlb base
  | 0x1 => s.livePcr base
  | 0x2 => s.liveRng base i
  | 0x3 => if base = 0x3800 then s.host.pba.toNat else 0
  | 0x4 => s.liveAcq base i
  | 0x8 => s.liveCmp base
  | 0x9 => s.livePgn base i
  | 0xB => s.liveCom base i
  | 0xC => s.liveEng base i
  | 0xD => s.liveEng base i
  | 0xE => s.liveSup base i
  | 0xF => s.liveTrc base i
  | 0x10 => s.liveThm base i
  | 0x11 => s.liveOtp base i
  | 0x12 => s.liveMsr base i
  | 0x13 => s.liveYpl base i
  | 0x14 => s.liveGlk base i
  | 0x15 => s.liveLts base i
  | 0x16 => s.liveSvc base i
  | _ => 0

/-- RNG_SEQ of a ring that is no command ring reads 0. -/
def noSeq (d : RegDesc) (i : Nat) : Bool := d.base == regRngSeq.base && decide (16 ≤ i)

/-- The value of a register. -/
def State.regVal (s : State) (d : RegDesc) (i : Nat) : Nat :=
  let mask := d.rw ||| d.rwl ||| d.st
  let stored := (List.range d.words).foldl (fun a p => a + at_ (s.rgetP d i p).toNat (32 * p)) 0
  if noSeq d i then 0 else ((stored &&& mask) ||| s.live d.base i) % 2 ^ (32 * d.words)

/-- The word at an offset of BAR0; an offset that holds no register reads 0 (R11). -/
def State.readWord (s : State) (off : Nat) : Word :=
  match findReg off with
  | some (d, i, p) => BitVec.ofNat 32 (s.regVal d i >>> (32 * p))
  | none => 0

/-- A read through a BAR: BAR0 holds the registers; the doorbells of BAR2 and the firmware window of BAR4 read 0 (R316, R332). -/
def State.barRead (s : State) (bar off : Nat) : Word := if bar = 0 then s.readWord off else 0

/-! ### Accesses by part (R309, R310, R503) -/

/-- The offset lies inside the span of an array of Table 21.4, the reserved channel codes of ACQ_LATEST among them (R504). -/
def inSpan (off : Nat) : Bool :=
  (decide (0x4990 ≤ off) && decide (off < 0x4A00)) ||
  regTable.any fun d => decide (d.base ≤ off) && decide (off < d.base + (d.count - 1) * d.stride + 4 * d.words)

/-- The offset lies in a page that has production-test registers, holds none of Table 21.4's (R500, R501) and is no gap of an array, which
holds no register (R504). -/
def mayTest (off : Nat) : Bool :=
  decide (off < 0x18000) && off / 0x1000 != 0xF && off / 0x1000 != 0x12 && (findReg off).isNone && !inSpan off

/-- The offset holds a production-test register. Which offsets do is free (log 144); the others hold no register (R11). -/
def prodTest (off : Nat) : Bool := mayTest off && Config.testReg off

/-- A port reaches the offset: PCI Express only with its link up; in DEEP the PCR page alone, from PCI Express alone (R445). -/
def State.reaches (s : State) (port : Port) (off : Nat) : Bool :=
  s.pcr.asserted.isNone && (port != .pcie || s.host.linkUp) && (s.pcr.state != 3 || (port == .pcie && off / 0x1000 == 1))

/-- Bytes of one access in parts. -/
def portBytes : Port → Nat
  | .svc => 2
  | _ => 4

def State.latch (s : State) : Port → Option (Nat × Nat)
  | .pcie => s.host.latchP
  | .svc => s.host.latchS
  | .mgt => s.host.latchM

def State.setLatch (s : State) (port : Port) (l : Option (Nat × Nat)) : State :=
  match port with
  | .pcie => { s with host := { s.host with latchP := l } }
  | .svc => { s with host := { s.host with latchS := l } }
  | .mgt => { s with host := { s.host with latchM := l } }

def State.setRead (s : State) (port : Port) (w : Word) : State :=
  match port with
  | .pcie => { s with host := { s.host with readP := w } }
  | .svc => { s with host := { s.host with readS := w } }
  | .mgt => { s with host := { s.host with readM := w } }

/-- The bit of a port in GLB_TORN. -/
def portTorn : Port → Nat
  | .pcie => 0
  | .svc => 1
  | .mgt => 2

/-- Part of a number. -/
def partOf (v k bytes : Nat) : Word := BitVec.ofNat 32 ((v >>> (8 * k)) % 2 ^ (8 * bytes))

/-- The register at an offset: its description, element, first offset, and the byte of it that the offset names. -/
def regFind (off : Nat) : Option (RegDesc × Nat × Nat × Nat) :=
  (findReg (off / 4 * 4)).map fun (d, i, _) => (d, i, d.off i 0, off - d.off i 0)

/-- Reads in parts go through the latch: a register wider than the access, but for MSX_PBA, whose access is PCI Express's own. -/
def latched (d : RegDesc) (port : Port) : Bool := decide (portBytes port < 4 * d.words) && d.base != regMsxPba.base

/-- A read of the lowest part of a register, or of a register no wider than the access: it arms the latch. -/
def State.readLow (s : State) (port : Port) (d : RegDesc) (i base k : Nat) : State :=
  let v := s.regVal d i
  let s := if latched d port then s.setLatch port (some (base, v)) else s
  s.setRead port (partOf v k (portBytes port))

/-- A read of a higher part: the latched part, and the latch disarms after the highest; without a latch the live value, and the port's bit
in GLB_TORN. -/
def State.readHigh (s : State) (port : Port) (d : RegDesc) (i base k : Nat) : State :=
  match s.latch port with
  | some (b, v) =>
    if b = base then
      let s := s.setRead port (partOf v k (portBytes port))
      if k + portBytes port = 4 * d.words then s.setLatch port none else s
    else (s.rsetF regGlbTorn 0 (portTorn port) (portTorn port) 1).setRead port (partOf (s.regVal d i) k (portBytes port))
  | none => (s.rsetF regGlbTorn 0 (portTorn port) (portTorn port) 1).setRead port (partOf (s.regVal d i) k (portBytes port))

/-- A read by one port: an offset without a register reads 0, and one of production test is the vendor's while debug is open. -/
def State.portRead (s : State) (port : Port) (off : Nat) : State :=
  match regFind off with
  | some (d, i, base, k) => if k = 0 ∨ !latched d port then s.readLow port d i base k else s.readHigh port d i base k
  | none => s.setRead port 0

/-- The offset that a read of a port means: PCI Express returns the whole aligned word whatever the byte enables (R309). -/
def readOff (port : Port) (o : Nat) : Nat := if port = .pcie then o / 4 * 4 else o

/-- LOW_PART_READ (R309, R310, R503): a read of the lowest part, or of a register that one access reads whole. -/
def execLowPartRead (port : Port) (off : BitVec 18) (t : Time) (s : State) : Host.Outcome State Fault Refusal :=
  let s := s.adv t
  let o := readOff port off.toNat
  if o % portBytes port != 0 || !s.reaches port o then .next s
  else if s.debugOpen && prodTest (o / 4 * 4) then .refused (.productionTest o)
  else
    match regFind o with
    | some (d, i, base, k) => if k = 0 ∨ !latched d port then .next (s.readLow port d i base k) else .next s
    | none => .next (s.setRead port 0)

/-- HIGH_PART_READ (R310, R503): a read of a higher part. -/
def execHighPartRead (port : Port) (off : BitVec 18) (t : Time) (s : State) : Host.Outcome State Fault Refusal :=
  let s := s.adv t
  let o := readOff port off.toNat
  if o % portBytes port != 0 || !s.reaches port o then .next s
  else
    match regFind o with
    | some (d, i, base, k) => if k ≠ 0 ∧ latched d port then .next (s.readHigh port d i base k) else .next s
    | none => .next s

/-! ### Writes -/

/-- A threshold of Table 10.1 in its place among the five: within its ceiling, rising strictly, TW1 at least 40 °C (R263). -/
def State.thmBad (s : State) (k v : Nat) : Bool :=
  let l := fun (j : Nat) => if j = k then v else s.rf regThmLvl j 7 0
  decide (s.thmCeil k < v) || decide (l 0 < 40) || !([0, 1, 2, 3].all fun j => decide (l j < l (j + 1)))

/-- A rule that ties the fields of one register, on the values a write would leave, is broken (R43); HYST and THR of a Silo channel are
judged as binary32 where FMT says so (DEDUCED, log 46). -/
def State.tieBroken (s : State) (base i : Nat) (v : Word) : Bool :=
  match base with
  | 0xB200 => decide (bits v 15 8 < bits v 7 0)
  | 0xD010 => decide (bits v 31 16 ≤ bits v 15 0) || decide (1800 < bits v 31 16)
  | 0x034 => bits v 1 0 != 0
  | 0x10010 => s.thmBad i (bits v 7 0)
  | 0xF110 => !s.rb regTrcTrig i 24 && (f32 v).isNone
  | 0xF114 => !s.rb regTrcTrig i 24 && (match f32 v with | some x => decide (x < 0) | none => true)
  | _ => false

/-- A write of one word that keeps the whole register where a tying rule breaks. -/
def State.writeTied (s : State) (d : RegDesc) (i p : Nat) (v : Word) : State :=
  let old := s.rgetP d i p
  let (x, _) := d.written s.idleWindow p old v
  if x != old && s.tieBroken d.base i x then s.writeReject else s.writeWord d i p v

/-- A write of MSI-X table word `i`: an entry that is no longer masked sends what is pending (R329). -/
def State.writeMsx (s : State) (i : Nat) (v : Word) : State :=
  let s := s.rset regMsxEntry i (if i % 4 = 3 then v &&& 1 else if i % 4 = 0 then v &&& 0xFFFFFFFC else v)
  if i % 4 = 3 then s.msixPump else s

/-- A write of PAC_FP_CFG: the new FP takes effect at its first multiple after the write. -/
def State.writeFp (s : State) (d : RegDesc) (v : Word) : State :=
  let s := s.writeWord d 0 0 v
  let n := s.rf regPacFpCfg 0 10 0
  if n = s.fpSteps then { s with fpNewAt := none } else { s with fpNewAt := some (nextMult (n * 10) (s.time + 1)) }

/-- A write of a staged register of direct mode, with its flag (R177): a write rejected whole is none. -/
def State.writeStaged (s : State) (d : RegDesc) (i : Nat) (v : Word) (edge : Bool) : State :=
  let (x, rej) := d.written true 0 (s.rget d i) v
  let s' := s.writeWord d i 0 v
  if rej && x == s.rget d i then s'
  else if edge then { s' with direct := { s'.direct with eNew := true } }
  else { s' with direct := { s'.direct with pNew := true } }

/-- A write of ACQ_IS_MAP: a disabled input closes its quads (R213), an enabled one is converted from here on (R191). -/
def State.writeMap (s : State) (d : RegDesc) (i : Nat) (v : Word) : State :=
  let s' := s.writeWord d i 0 v
  if s.rb d i 7 && !s'.rb d i 7 then s'.closeChan i
  else if !s.rb d i 7 && s'.rb d i 7 then s'.modPair (Fin.ofNat 16 i) fun p => { p with onAt := s.time }
  else s'

/-- A write of a register of a Silo channel's configuration: discarded while the channel is armed or delivering (R383). -/
def State.writeTrc (s : State) (d : RegDesc) (i : Nat) (v : Word) : State :=
  let x := s.silo[Fin.ofNat 16 i]
  if x.live || x.rearm then s.writeReject else s.writeTied d i 0 v

/-- A write of SVC_WD_CFG (R336): EN starts the windows and fixes the settings. -/
def State.writeWdCfg (s : State) (v : Word) (t : Time) : State :=
  if s.rb regSvcWdCfg 0 0 then s
  else
    let s := s.writeWord regSvcWdCfg 0 0 v
    if s.rb regSvcWdCfg 0 0 then
      { s with svc := { s.svc with wdOn := true, wdAt := t, kicked := false, wdi := false, expect := 0x5A, cleared := false } }
    else s

/-- OTP_CMD: 1 and 2 read, 3 programs (R401, R402). -/
def State.writeOtpCmd (s : State) (v : Word) : State :=
  match bits v 1 0 with
  | 1 => s.otpCmdRead false
  | 2 => s.otpCmdRead true
  | 3 => s.otpCmdProgram
  | _ => if s.otpRuns then s.writeReject else s

/-- A write of LTS_PCIE_CTL: its fields, then GO. -/
def State.writePcieCtl (s : State) (d : RegDesc) (v : Word) : State :=
  let u := s.writeWord d 0 0 v
  if v.getLsbD 0 then (if u.pcieGo.lts.loopEnd.isSome && s.lts.loopEnd.isNone then u.pcieGo else s.writeReject) else u

/-- A write of word `p` of element `i` of a register, from PCI Express or the management path. -/
def State.writeReg (s : State) (port : Port) (d : RegDesc) (i p : Nat) (v : Word) (t : Time) : State :=
  match d.base with
  | 0x030 =>
    let s := s.writeWord d 0 0 v
    if v.getLsbD 0 then s.bootGo t else s
  | 0x038 => s.softWrite port (v.setWidth 16) t
  | 0x100 => s.writeFp d v
  | 0x1024 =>
    let s := s.writeWord d 0 0 v
    if v.getLsbD 0 && s.pcr.state == 3 then s.wakeUp 1 t else s
  | 0x2000 => if s.ringEn (Fin.ofNat 48 i) then s.writeReject else s.writeWord d i p v
  | 0x2008 => s.ringWrite (Fin.ofNat 48 i) v t
  | 0x201C => if 16 ≤ i then s else if s.ringEn (Fin.ofNat 48 i) then s.writeReject else s.writeWord d i 0 v
  | 0x3000 => s.writeMsx i v
  | 0x4008 => s.writeCalTag v
  | 0x4040 => s.writeMap d i v
  | 0x4100 => s.writeFactor d i v
  | 0x4200 => s.writeFactor d i v
  | 0x4300 => (s.writeFactor d i v).reBound
  | 0x4400 => if i = 1 ∨ i = 12 then s else s.writeHk (Fin.ofNat 22 i) v
  | 0x4500 => s.writeSlot (Fin.ofNat 32 i) v
  | 0x8000 => s.writeWindow (Fin.ofNat 20 i) v
  | 0x9010 => s.writeStaged d i v false
  | 0x9014 => s.writeStaged d i v false
  | 0x9600 => s.writeStaged d i v true
  | 0x9700 => s.writeStaged d i v true
  | 0x9100 => (s.writeTied d i p v).retrip
  | 0x8080 => (s.writeTied d i p v).retrip
  | 0x9018 => if v.getLsbD 0 then s.commitNow else s
  | 0xF100 => s.writeTrc d i v
  | 0xF104 => s.writeTrc d i v
  | 0xF108 => s.writeTrc d i v
  | 0xF10C => s.writeTrc d i v
  | 0xF110 => s.writeTrc d i v
  | 0xF114 => s.writeTrc d i v
  | 0xF118 => s.writeTrc d i v
  | 0xF11C => s.writeTrc d i v
  | 0x10010 => if i = 4 then s else s.writeTied d i 0 v
  | 0x11004 => if s.otpRuns then s.writeReject else s.writeWord d i 0 v
  | 0x11008 => if s.otpRuns then s.writeReject else s.writeWord d i 0 v
  | 0x11010 => s.writeOtpCmd v
  | 0x14040 => s.writeGlkCmd (Fin.ofNat 8 i) v
  | 0x15100 => s.writePcieCtl d v
  | 0x1600C => s.writeWdCfg v t
  | 0x16010 => s.writeReject
  | 0x16014 => s.writeReject
  | 0x16018 => s.writeReject
  | 0x16040 => s
  | _ => s.writeTied d i p v

/-- A write of the word at an offset; where no register lies it has no effect (R11). -/
def State.writeOff (s : State) (port : Port) (off : Nat) (v : Word) (t : Time) : State :=
  match findReg off with
  | some (d, i, p) => s.writeReg port d i p v t
  | none => s

/-- REGISTER_WRITE (R8, R9, R11, R309): an aligned write of 4 bytes, or of 8 (`wide`), with all byte enables (`full`); any other is
discarded and sets WRITE_REJECT. The service port writes by its own frames. -/
def execRegisterWrite (port : Port) (off : BitVec 18) (v : BitVec 64) (wide full : Bool) (t : Time) (s : State) :
    Host.Outcome State Fault Refusal :=
  let s := s.adv t
  let o := off.toNat
  if port == .svc || !s.reaches port o then .next s
  else if !full || o % (if wide then 8 else 4) != 0 then .next s.writeReject
  else if s.debugOpen && (prodTest o || (wide && prodTest (o + 4))) then .refused (.productionTest o)
  else
    let s := s.writeOff port o (v.extractLsb' 0 32) s.time
    .next (if wide then s.writeOff port (o + 4) (v.extractLsb' 32 32) s.time else s)

/-- HEALTH_CLEAR (R40): ones clear their bits of GLB_HEALTH. -/
def execHealthClear (v : Word) (t : Time) (s : State) : Host.Outcome State Fault Refusal :=
  s.onRegs t fun s => s.writeWord regGlbHealth 0 0 v

/-- SERVICE_N is low while a GLB_HEALTH bit is set (R39). -/
def State.serviceN (s : State) : Bool := s.rget regGlbHealth 0 == 0

end Sys2Proof.Machine
end

