-- ==== Sys2Proof/Machine/Service.lean ====
section
/-! DEFINITION. Service.lean: the service port, its frames, its keyed registers and its watchdog (R333 to R338, R456). -/
namespace Sys2Proof.Machine

/-! ### Frames -/

/-- SVC_IRQ_N is asserted (R338). -/
def State.svcIrq (s : State) : Bool := s.rget regSvcIrq 0 &&& s.rget regSvcIrqEn 0 != 0

/-- The MISO word of a frame (Table 12.12). -/
def State.misoWord (s : State) : Word :=
  BitVec.ofNat 32 (s.svc.miso.toNat + at_ (b2n (s.rb regGlbTorn 0 1)) 25 + at_ (b2n s.svcIrq) 26 + at_ (b2n s.svc.err) 27 + at_ 0xA 28)

/-- What a frame leaves for the next one; a rejected frame sets SVC_STAT.ERR. -/
def State.frameEnd (s : State) (err : Bool) (data : BitVec 16) : State :=
  let s := if err then s.rsetF regSvcStat 0 0 0 1 else s
  { s with svc := { s.svc with err := err, miso := data } }

/-- A frame begins: `none` where the device does not execute it, with the state it leaves. In DEEP an all-zero frame is returned, and a wake
may follow (R445, R446); under a link test the frame is echoed (R456). `mosi` is the low half of its MOSI word. -/
def State.frameStart (s : State) (mosi : BitVec 16) (t : Time) : State × Bool :=
  if s.pcr.asserted.isSome then (s.adv t, false)
  else if s.pcr.state = 3 then
    let s := { s with svc := { s.svc with out := 0, miso := 0 } }
    if s.rb regPcrPwrCtl 0 2 then ((s.wakeUp 2 t).frameEnd true 0, false) else (s, false)
  else
    let s := s.adv t
    if s.linkTested 11 then
      if (s.linkSlot 11).isSome then
        let s := s.modLink 11 fun (l : LinkSt) => { l with bits := (l.bits + 32) % 2 ^ 64 }
        ({ s with svc := { s.svc with out := BitVec.ofNat 32 (s.svc.miso.toNat + at_ 0xA 28), miso := mosi, err := false } }, false)
      else ({ s with svc := { s.svc with out := 0, miso := 0, err := false } }, false)
    else ({ s with svc := { s.svc with out := s.misoWord } }, true)

/-- BAR0 page of a page of the service window (Table 12.13). -/
def svcPage : Nat → Nat
  | 0 => 0x16000
  | 1 => 0x00000
  | 2 => 0x0E000
  | 3 => 0x10000
  | 4 => 0x04000
  | 5 => 0x0B000
  | 6 => 0x0D000
  | _ => 0x13000

/-- Half-word of the attestation report at a byte offset; 0 past its end. -/
def State.reportHalf (s : State) (o : Nat) : BitVec 16 := BitVec.ofNat 16 (ofLe ((s.msr.window.drop o).take 2))

/-- SERVICE_READ_FRAME (R333, R334): its data goes into the next frame. -/
def execServiceReadFrame (index : BitVec 15) (data : BitVec 16) (t : Time) (s : State) : Host.Outcome State Fault Refusal :=
  let (s, go) := s.frameStart data t
  let o := 2 * index.toNat
  let off := svcPage (o / 0x1000) + o % 0x1000
  if !go then .next s
  else if 0x8000 ≤ o then .next (s.frameEnd false (s.reportHalf (o - 0x8000)))
  else if s.debugOpen && prodTest (off / 4 * 4) then .refused (.productionTest off)
  else
    let s := s.portRead .svc off
    .next (s.frameEnd false (s.host.readS.setWidth 16))

/-! ### Writes of the port (R334 to R337) -/

/-- A write of SVC_SAFE: KEY, STATE and MASK as SAFE_STATE takes them; false: rejected (R335). -/
def State.svcSafe (s : State) (v : Word) (t : Time) : State × Bool :=
  if bits v 15 8 != 0xC3 || bits v 3 2 == 3 || s.badMask (bits v 1 0) then (s, false)
  else (s.askSafe (maskOf (s.maskMach (bits v 1 0))) (bits v 3 2) t, true)

/-- Windows of the watchdog that have ended by `t`: a satisfied one is followed by the next; any other is an expiry (R336). -/
def State.rollWd (s : State) (t : Time) : State :=
  let w := s.svc
  let n := (t - w.wdAt) / (ms1 * s.rf regSvcWdCfg 0 15 8)
  if !w.wdOn || n = 0 then s
  else if w.kicked && (w.wdi || !s.rb regSvcWdCfg 0 1) && n == 1 then
    { s with svc := { w with wdAt := w.wdAt + ms1 * s.rf regSvcWdCfg 0 15 8, kicked := false, wdi := false } }
  else { s with svc := { w with due := true } }

/-- The value that follows an expected one. -/
def nextKick (e : BitVec 8) : BitVec 8 := if e = 0x5A then 0xA5 else 0x5A

/-- A kick (R336): the value expected satisfies the present window, any other is an expiry; after an expiry, a 0x5A that follows a FAULT_CLEAR
starts the watchdog, and satisfies its first window (DEDUCED, log 47). -/
def State.svcKick (s : State) (v : BitVec 8) (t : Time) : State :=
  let s := s.rollWd t
  let w := s.svc
  if w.due then s
  else if w.wdOn then
    if v = w.expect then { s with svc := { w with kicked := true, expect := nextKick v } }
    else { s with svc := { w with due := true } }
  else if s.rb regSvcWdCfg 0 0 && w.cleared && v = 0x5A then
    { s with svc := { w with wdOn := true, wdAt := t, kicked := true, wdi := false, expect := 0xA5, cleared := false } }
  else s

/-- A write of the low half-word of an SVC register by the port; false: rejected. -/
def State.svcWrite (s : State) (o : Nat) (v : Word) (t : Time) : State × Bool :=
  match o with
  | 0x00 => (s.writeWord regSvcStat 0 0 v, true)
  | 0x04 => (s.writeWord regSvcIrq 0 0 v, true)
  | 0x08 => (s.writeWord regSvcIrqEn 0 0 v, true)
  | 0x0C => (s.writeWdCfg v t, true)
  | 0x10 => (s.svcKick (v.setWidth 8) t, true)
  | 0x14 => s.svcSafe v t
  | 0x18 => if v.getLsbD 0 then s.svcAttest else (s, true)
  | _ => (s, false)

/-- A half-word of SVC_NONCE (R334). -/
def State.svcNonce (s : State) (h : Nat) (v : BitVec 16) : State :=
  let i : Fin 8 := Fin.ofNat 8 (h / 2)
  let old := s.svc.nonce[i]
  { s with svc := { s.svc with nonce := s.svc.nonce.set i (setBits old (16 * (h % 2) + 15) (16 * (h % 2)) v.toNat) } }

/-- A write frame at byte offset `o` of the service window (R333, R334). -/
def State.writeFrame (s : State) (o : Nat) (v : BitVec 16) (t : Time) : State :=
  let (s, go) := s.frameStart v t
  if !go then s
  else if 0x40 ≤ o ∧ o < 0x60 then (s.svcNonce ((o - 0x40) / 2) v).frameEnd false 0
  else
    let (s, ok) := s.svcWrite o (v.setWidth 32) s.time
    s.frameEnd (!ok) 0

/-- SERVICE_WRITE_FRAME (R333, R334). -/
def execServiceWriteFrame (index : BitVec 15) (data : BitVec 16) (t : Time) (s : State) : Host.Outcome State Fault Refusal :=
  .next (s.writeFrame (2 * index.toNat) data t)

/-- SERVICE_FRAME_ERROR (R333): a frame of another length than 32 clocks is discarded and sets ERR; an ECHO test counts one error. In DEEP it is
no complete frame, and wakes nothing. -/
def execServiceFrameError (clocks : Nat) (t : Time) (s : State) : Host.Outcome State Fault Refusal :=
  let s := s.adv t
  if clocks = 32 ∨ !s.regsOn then .next s
  else if (s.linkSlot 11).isSome then .next (s.modLink 11 fun (l : LinkSt) => { l with errors := satAdd l.errors 1 (2 ^ 32 - 1) })
  else if s.linkTested 11 then .next s
  else .next (s.frameEnd true 0)

/-- SVC_SAFE (R335): a write frame to it. -/
def execSvcSafe (v : BitVec 16) (t : Time) (s : State) : Host.Outcome State Fault Refusal := .next (s.writeFrame 0x14 v t)

/-- SVC_WD_ENABLE (R336): a write frame to SVC_WD_CFG. -/
def execSvcWdEnable (v : BitVec 16) (t : Time) (s : State) : Host.Outcome State Fault Refusal := .next (s.writeFrame 0x0C v t)

/-- SVC_WD_KICK (R336): a write frame to it. -/
def execSvcWdKick (v : BitVec 16) (t : Time) (s : State) : Host.Outcome State Fault Refusal := .next (s.writeFrame 0x10 v t)

/-- SVC_ATTEST_GO (R337): a write frame to SVC_ATTEST with GO. -/
def execSvcAttestGo (t : Time) (s : State) : Host.Outcome State Fault Refusal := .next (s.writeFrame 0x18 1 t)

/-! ### The watchdog -/

/-- WDI_EDGE (R336): a rising edge on WDI. -/
def execWdiEdge (t : Time) (s : State) : Host.Outcome State Fault Refusal :=
  let s := s.adv t
  if !s.regsOn then .next s
  else
    let s := s.rollWd s.time
    .next (if s.svc.wdOn then { s with svc := { s.svc with wdi := true } } else s)

/-- SERVICE_WATCHDOG_EXPIRY (R336): a window has ended unsatisfied, or a wrong kick has arrived: SAFE_STATE with mask 0 and state 0, and the
watchdog stops. -/
def execServiceWatchdogExpiry (t : Time) (s : State) : Host.Outcome State Fault Refusal :=
  let s := s.adv t
  if !s.regsOn then .next s
  else
    let s := s.rollWd s.time
    if !s.svc.due then .next s
    else
      let s := { s with svc := { s.svc with due := false, wdOn := false, kicked := false, wdi := false, expect := 0x5A, cleared := false } }
      let s := (s.rsetF regSvcStat 0 1 1 1).rsetF regSvcIrq 0 3 3 1
      .next (s.askSafe (maskOf s.confMach) 0 s.time)

end Sys2Proof.Machine
end

