-- ==== Sys2Proof/Machine/Dispatch.lean ====
section
/-! DEFINITION. Dispatch.lean: one arm per command, each one direct call of its meaning. -/
namespace Sys2Proof.Machine

def exec (i : Instr) (s : State) : Host.Outcome State Fault Refusal :=
  match i with
  | .nop q => Sys2Proof.Machine.execNop q s
  | .badOpcode q opc => Sys2Proof.Machine.execBadOpcode q opc s
  | .fence q => Sys2Proof.Machine.execFence q s
  | .suspend q => Sys2Proof.Machine.execSuspend q s
  | .resume q => Sys2Proof.Machine.execResume q s
  | .cancel q => Sys2Proof.Machine.execCancel q s
  | .nodeRead q => Sys2Proof.Machine.execNodeRead q s
  | .nodeWrite q => Sys2Proof.Machine.execNodeWrite q s
  | .nodeBlockLoad q => Sys2Proof.Machine.execNodeBlockLoad q s
  | .nodeBlockStore q => Sys2Proof.Machine.execNodeBlockStore q s
  | .blockChunkDone slot data t => Sys2Proof.Machine.execBlockChunkDone slot data t s
  | .bankSwap q => Sys2Proof.Machine.execBankSwap q s
  | .bankSwapped => Sys2Proof.Machine.execBankSwapped s
  | .setpoint q => Sys2Proof.Machine.execSetpoint q s
  | .modeSelect q => Sys2Proof.Machine.execModeSelect q s
  | .modeSelectJudged => Sys2Proof.Machine.execModeSelectJudged s
  | .driveStart q => Sys2Proof.Machine.execDriveStart q s
  | .driveStartActs => Sys2Proof.Machine.execDriveStartActs s
  | .driveStop q => Sys2Proof.Machine.execDriveStop q s
  | .driveStopActs => Sys2Proof.Machine.execDriveStopActs s
  | .reverse q => Sys2Proof.Machine.execReverse q s
  | .reverseJudged => Sys2Proof.Machine.execReverseJudged s
  | .safeState q => Sys2Proof.Machine.execSafeState q s
  | .safeApplied => Sys2Proof.Machine.execSafeApplied s
  | .faultClear q => Sys2Proof.Machine.execFaultClear q s
  | .faultCleared => Sys2Proof.Machine.execFaultCleared s
  | .pgDirect q => Sys2Proof.Machine.execPgDirect q s
  | .directEnter => Sys2Proof.Machine.execDirectEnter s
  | .directLeave => Sys2Proof.Machine.execDirectLeave s
  | .directBoundary => Sys2Proof.Machine.execDirectBoundary s
  | .commit t => Sys2Proof.Machine.execCommit t s
  | .adcCalibrate q => Sys2Proof.Machine.execAdcCalibrate q s
  | .calPhaseEnd vals t => Sys2Proof.Machine.execCalPhaseEnd vals t s
  | .resumeLimitExpiry slot t => Sys2Proof.Machine.execResumeLimitExpiry slot t s
  | .adcUrgent q => Sys2Proof.Machine.execAdcUrgent q s
  | .traceArm q => Sys2Proof.Machine.execTraceArm q s
  | .traceArmed => Sys2Proof.Machine.execTraceArmed s
  | .traceStop q => Sys2Proof.Machine.execTraceStop q s
  | .stopped => Sys2Proof.Machine.execStopped s
  | .otpProgram q data => Sys2Proof.Machine.execOtpProgram q data s
  | .otpBurnRound normal margin t => Sys2Proof.Machine.execOtpBurnRound normal margin t s
  | .otpLock q => Sys2Proof.Machine.execOtpLock q s
  | .otpMarginScan q => Sys2Proof.Machine.execOtpMarginScan q s
  | .scanRegionDone t => Sys2Proof.Machine.execScanRegionDone t s
  | .lifecycleAdvance q => Sys2Proof.Machine.execLifecycleAdvance q s
  | .otpCmdRead t => Sys2Proof.Machine.execOtpCmdRead t s
  | .otpCmdMargin t => Sys2Proof.Machine.execOtpCmdMargin t s
  | .otpCmdProgram t => Sys2Proof.Machine.execOtpCmdProgram t s
  | .gleanerScanDue t => Sys2Proof.Machine.execGleanerScanDue t s
  | .attest q nonce => Sys2Proof.Machine.execAttest q nonce s
  | .attestReportDone t => Sys2Proof.Machine.execAttestReportDone t s
  | .selfTest q => Sys2Proof.Machine.execSelfTest q s
  | .selfTestBlockDone conv win chan t => Sys2Proof.Machine.execSelfTestBlockDone conv win chan t s
  | .linkTest q => Sys2Proof.Machine.execLinkTest q s
  | .linkTestDone link errs hdrBad digestOk t => Sys2Proof.Machine.execLinkTestDone link errs hdrBad digestOk t s
  | .checkerLocked link t => Sys2Proof.Machine.execCheckerLocked link t s
  | .checkerLockLost link errs t => Sys2Proof.Machine.execCheckerLockLost link errs t s
  | .pcieLoopbackGo t => Sys2Proof.Machine.execPcieLoopbackGo t s
  | .pcieLoopbackDone errs => Sys2Proof.Machine.execPcieLoopbackDone errs s
  | .pairHandover q => Sys2Proof.Machine.execPairHandover q s
  | .handoverReplyDeadline => Sys2Proof.Machine.execHandoverReplyDeadline s
  | .handoverClaimRelease => Sys2Proof.Machine.execHandoverClaimRelease s
  | .handoverDone => Sys2Proof.Machine.execHandoverDone s
  | .pairRejoin q => Sys2Proof.Machine.execPairRejoin q s
  | .rejoinPhaseEnd t => Sys2Proof.Machine.execRejoinPhaseEnd t s
  | .rejoinPhaseTimeout => Sys2Proof.Machine.execRejoinPhaseTimeout s
  | .powerState q => Sys2Proof.Machine.execPowerState q s
  | .powerChanged => Sys2Proof.Machine.execPowerChanged s
  | .powerTransitDone t => Sys2Proof.Machine.execPowerTransitDone t s
  | .deepEntry t => Sys2Proof.Machine.execDeepEntry t s
  | .wake t => Sys2Proof.Machine.execWake t s
  | .wakeTimerExpiry t => Sys2Proof.Machine.execWakeTimerExpiry t s
  | .cqTailDoorbell n v t => Sys2Proof.Machine.execCqTailDoorbell n v t s
  | .headDoorbell n v t => Sys2Proof.Machine.execHeadDoorbell n v t s
  | .commandFetchFail n cause t => Sys2Proof.Machine.execCommandFetchFail n cause t s
  | .ringEnable n v t => Sys2Proof.Machine.execRingEnable n v t s
  | .ringDisable n v t => Sys2Proof.Machine.execRingDisable n v t s
  | .ringReset n v t => Sys2Proof.Machine.execRingReset n v t s
  | .eventDrain t => Sys2Proof.Machine.execEventDrain t s
  | .fenceMark n t => Sys2Proof.Machine.execFenceMark n t s
  | .moderationTimer n t => Sys2Proof.Machine.execModerationTimer n t s
  | .pciePowerState d3hot t => Sys2Proof.Machine.execPciePowerState d3hot t s
  | .linkSpeedChange gen t => Sys2Proof.Machine.execLinkSpeedChange gen t s
  | .linkDown t => Sys2Proof.Machine.execLinkDown t s
  | .streamSlotWrite slot v t => Sys2Proof.Machine.execStreamSlotWrite slot v t s
  | .lowPartRead port off t => Sys2Proof.Machine.execLowPartRead port off t s
  | .highPartRead port off t => Sys2Proof.Machine.execHighPartRead port off t s
  | .registerWrite port off v wide full t => Sys2Proof.Machine.execRegisterWrite port off v wide full t s
  | .healthClear v t => Sys2Proof.Machine.execHealthClear v t s
  | .calTagWrite v t => Sys2Proof.Machine.execCalTagWrite v t s
  | .calFactorWrite f v t => Sys2Proof.Machine.execCalFactorWrite f v t s
  | .windowConfigWrite n v t => Sys2Proof.Machine.execWindowConfigWrite n v t s
  | .glkCmdGo g v t => Sys2Proof.Machine.execGlkCmdGo g v t s
  | .cmdFail g => Sys2Proof.Machine.execCmdFail g s
  | .bootGo t => Sys2Proof.Machine.execBootGo t s
  | .firmwareWindowWrite off v t => Sys2Proof.Machine.execFirmwareWindowWrite off v t s
  | .qspiImageRead first second t => Sys2Proof.Machine.execQspiImageRead first second t s
  | .firmwareRunning t => Sys2Proof.Machine.execFirmwareRunning t s
  | .serviceReadFrame index data t => Sys2Proof.Machine.execServiceReadFrame index data t s
  | .serviceWriteFrame index data t => Sys2Proof.Machine.execServiceWriteFrame index data t s
  | .serviceFrameError clocks t => Sys2Proof.Machine.execServiceFrameError clocks t s
  | .svcSafe v t => Sys2Proof.Machine.execSvcSafe v t s
  | .svcWdEnable v t => Sys2Proof.Machine.execSvcWdEnable v t s
  | .svcWdKick v t => Sys2Proof.Machine.execSvcWdKick v t s
  | .wdiEdge t => Sys2Proof.Machine.execWdiEdge t s
  | .serviceWatchdogExpiry t => Sys2Proof.Machine.execServiceWatchdogExpiry t s
  | .svcAttestGo t => Sys2Proof.Machine.execSvcAttestGo t s
  | .por t => Sys2Proof.Machine.execPor t s
  | .bor rails t => Sys2Proof.Machine.execBor rails t s
  | .pinReset t => Sys2Proof.Machine.execPinReset t s
  | .softReset port key t => Sys2Proof.Machine.execSoftReset port key t s
  | .flr kind t => Sys2Proof.Machine.execFlr kind t s
  | .resetRelease straps t => Sys2Proof.Machine.execResetRelease straps t s
  | .otpShadowLoad t => Sys2Proof.Machine.execOtpShadowLoad t s
  | .railsSettled t => Sys2Proof.Machine.execRailsSettled t s
  | .mgmtWatchdogExpiry t => Sys2Proof.Machine.execMgmtWatchdogExpiry t s
  | .lockstepMismatch correctable t => Sys2Proof.Machine.execLockstepMismatch correctable t s
  | .mgrResumed t => Sys2Proof.Machine.execMgrResumed t s
  | .warnSet rail t => Sys2Proof.Machine.execWarnSet rail t s
  | .warnClear rail t => Sys2Proof.Machine.execWarnClear rail t s
  | .supplyStop => Sys2Proof.Machine.execSupplyStop s
  | .stopTmaxExpiry => Sys2Proof.Machine.execStopTmaxExpiry s
  | .stopDone t => Sys2Proof.Machine.execStopDone t s
  | .clockFault src t => Sys2Proof.Machine.execClockFault src t s
  | .fpBoundary => Sys2Proof.Machine.execFpBoundary s
  | .engOverrun w => Sys2Proof.Machine.execEngOverrun w s
  | .spBoundary => Sys2Proof.Machine.execSpBoundary s
  | .mcOverrun m => Sys2Proof.Machine.execMcOverrun m s
  | .housekeepingRound mgt ctl => Sys2Proof.Machine.execHousekeepingRound mgt ctl s
  | .scheduledEdge => Sys2Proof.Machine.execScheduledEdge s
  | .pendingChangeApplied ch => Sys2Proof.Machine.execPendingChangeApplied ch s
  | .commutation w => Sys2Proof.Machine.execCommutation w s
  | .tdDecayEnd w t => Sys2Proof.Machine.execTdDecayEnd w t s
  | .sampleResult c raw beyond2 track => Sys2Proof.Machine.execSampleResult c raw beyond2 track s
  | .floatingPhaseSample w raw track => Sys2Proof.Machine.execFloatingPhaseSample w raw track s
  | .missed w t => Sys2Proof.Machine.execMissed w t s
  | .listenConversion w uPrev uNext v wPrev wNext track => Sys2Proof.Machine.execListenConversion w uPrev uNext v wPrev wNext track s
  | .catchListenExpiry m => Sys2Proof.Machine.execCatchListenExpiry m s
  | .probePulseEnd m t => Sys2Proof.Machine.execProbePulseEnd m t s
  | .probeSlotEnd m t => Sys2Proof.Machine.execProbeSlotEnd m t s
  | .startFail m => Sys2Proof.Machine.execStartFail m s
  | .locked m => Sys2Proof.Machine.execLocked m s
  | .rotorLost m => Sys2Proof.Machine.execRotorLost m s
  | .lowRestart m => Sys2Proof.Machine.execLowRestart m s
  | .lostDecayDone m t => Sys2Proof.Machine.execLostDecayDone m t s
  | .ascSettleEnd m => Sys2Proof.Machine.execAscSettleEnd m s
  | .ascWindowEnd w => Sys2Proof.Machine.execAscWindowEnd w s
  | .reacquired m => Sys2Proof.Machine.execReacquired m s
  | .hallEdge m levels t => Sys2Proof.Machine.execHallEdge m levels t s
  | .hallFault m => Sys2Proof.Machine.execHallFault m s
  | .encoderEdge m up t => Sys2Proof.Machine.execEncoderEdge m up t s
  | .encZEdge m t => Sys2Proof.Machine.execEncZEdge m t s
  | .encFault m => Sys2Proof.Machine.execEncFault m s
  | .pspMeasurement m period high t => Sys2Proof.Machine.execPspMeasurement m period high t s
  | .setpointInput m psp => Sys2Proof.Machine.execSetpointInput m psp s
  | .setpointMismatch m => Sys2Proof.Machine.execSetpointMismatch m s
  | .hostWatchdogExpiry m => Sys2Proof.Machine.execHostWatchdogExpiry m s
  | .winnerChanged m => Sys2Proof.Machine.execWinnerChanged m s
  | .adaptWindowClose w => Sys2Proof.Machine.execAdaptWindowClose w s
  | .decelHoldLong m => Sys2Proof.Machine.execDecelHoldLong m s
  | .dcOvAsc m => Sys2Proof.Machine.execDcOvAsc m s
  | .vdcUv x => Sys2Proof.Machine.execVdcUv x s
  | .chopperCheckConversion c raw track => Sys2Proof.Machine.execChopperCheckConversion c raw track s
  | .chopperOpen c => Sys2Proof.Machine.execChopperOpen c s
  | .chopperShort c => Sys2Proof.Machine.execChopperShort c s
  | .windowOut n e => Sys2Proof.Machine.execWindowOut n e s
  | .windowIn n e => Sys2Proof.Machine.execWindowIn n e s
  | .tripEscalated g => Sys2Proof.Machine.execTripEscalated g s
  | .chpEscalated c => Sys2Proof.Machine.execChpEscalated c s
  | .tripRate w => Sys2Proof.Machine.execTripRate w s
  | .fltNLow g stays t => Sys2Proof.Machine.execFltNLow g stays t s
  | .estop stays t => Sys2Proof.Machine.execEstop stays t s
  | .yieldInRise t => Sys2Proof.Machine.execYieldInRise t s
  | .collisionReclaim t => Sys2Proof.Machine.execCollisionReclaim t s
  | .collisionBackoffEnd t => Sys2Proof.Machine.execCollisionBackoffEnd t s
  | .plausibility w => Sys2Proof.Machine.execPlausibility w s
  | .plStarved w => Sys2Proof.Machine.execPlStarved w s
  | .followingError m => Sys2Proof.Machine.execFollowingError m s
  | .telemetryFrame g frame midOk t => Sys2Proof.Machine.execTelemetryFrame g frame midOk t s
  | .gateMismatch sw => Sys2Proof.Machine.execGateMismatch sw s
  | .modTsd l => Sys2Proof.Machine.execModTsd l s
  | .glkLost g t => Sys2Proof.Machine.execGlkLost g t s
  | .glkError g => Sys2Proof.Machine.execGlkError g s
  | .gateLinkFrameSend g t => Sys2Proof.Machine.execGateLinkFrameSend g t s
  | .thermalReading counts => Sys2Proof.Machine.execThermalReading counts s
  | .tw1Set z => Sys2Proof.Machine.execTw1Set z s
  | .tw1Clear z => Sys2Proof.Machine.execTw1Clear z s
  | .tsd z => Sys2Proof.Machine.execTsd z s
  | .tsdAlarmRelease z => Sys2Proof.Machine.execTsdAlarmRelease z s
  | .tsdTmaxExpiry => Sys2Proof.Machine.execTsdTmaxExpiry s
  | .shutdownDone t => Sys2Proof.Machine.execShutdownDone t s
  | .exitMet => Sys2Proof.Machine.execExitMet s
  | .trackUpdate p => Sys2Proof.Machine.execTrackUpdate p s
  | .pairDivergeRun p => Sys2Proof.Machine.execPairDivergeRun p s
  | .referenceCheck p even odd => Sys2Proof.Machine.execReferenceCheck p even odd s
  | .memberFailure p odd stuck t => Sys2Proof.Machine.execMemberFailure p odd stuck t s
  | .housekeepingConversion chan raw track => Sys2Proof.Machine.execHousekeepingConversion chan raw track s
  | .traceTrigger c => Sys2Proof.Machine.execTraceTrigger c s
  | .traceWindowComplete c => Sys2Proof.Machine.execTraceWindowComplete c s
  | .traceQuadDelivery q => Sys2Proof.Machine.execTraceQuadDelivery q s
  | .traceDone c => Sys2Proof.Machine.execTraceDone c s
  | .nodeScrub id uncorrectable t => Sys2Proof.Machine.execNodeScrub id uncorrectable t s
  | .heartbeatSend t => Sys2Proof.Machine.execHeartbeatSend t s
  | .syncSend t => Sys2Proof.Machine.execSyncSend t s
  | .baton frame t => Sys2Proof.Machine.execBaton frame t s
  | .batonAdoption => Sys2Proof.Machine.execBatonAdoption s
  | .divergence m => Sys2Proof.Machine.execDivergence m s
  | .heartbeat frame t => Sys2Proof.Machine.execHeartbeat frame t s
  | .sync frame t => Sys2Proof.Machine.execSync frame t s
  | .pacerCorrection t => Sys2Proof.Machine.execPacerCorrection t s
  | .alignmentAcquired => Sys2Proof.Machine.execAlignmentAcquired s
  | .alignLost => Sys2Proof.Machine.execAlignLost s
  | .requestJoin frame t => Sys2Proof.Machine.execRequestJoin frame t s
  | .requestHandover frame t => Sys2Proof.Machine.execRequestHandover frame t s
  | .requestAttestNonce frame t => Sys2Proof.Machine.execRequestAttestNonce frame t s
  | .reply frame t => Sys2Proof.Machine.execReply frame t s
  | .attestFrame frame t => Sys2Proof.Machine.execAttestFrame frame t s
  | .relayClaim frame t => Sys2Proof.Machine.execRelayClaim frame t s
  | .relayYield frame t => Sys2Proof.Machine.execRelayYield frame t s
  | .frameDiscard frame wellFramed t => Sys2Proof.Machine.execFrameDiscard frame wellFramed t s
  | .partnerLost t => Sys2Proof.Machine.execPartnerLost t s
  | .takeover => Sys2Proof.Machine.execTakeover s
  | .claimBlocked t => Sys2Proof.Machine.execClaimBlocked t s
  | .laneFail lane t => Sys2Proof.Machine.execLaneFail lane t s
  | .fitness => Sys2Proof.Machine.execFitness s
  | .extest t => Sys2Proof.Machine.execExtest t s
  | .idcode t => Sys2Proof.Machine.execIdcode t s
  | .samplePreload preload v t => Sys2Proof.Machine.execSamplePreload preload v t s
  | .highz t => Sys2Proof.Machine.execHighz t s
  | .clamp t => Sys2Proof.Machine.execClamp t s
  | .bypass t => Sys2Proof.Machine.execBypass t s
  | .vendorTestInstruction code t => Sys2Proof.Machine.execVendorTestInstruction code t s
  | .tapInstructionExit t => Sys2Proof.Machine.execTapInstructionExit t s
  | .yieldInFall t => Sys2Proof.Machine.execYieldInFall t s
  | .dmaError n cause t => Sys2Proof.Machine.execDmaError n cause t s
  | .busMasterEnable on t => Sys2Proof.Machine.execBusMasterEnable on t s
  | .laneBlockLock lane t => Sys2Proof.Machine.execLaneBlockLock lane t s

end Sys2Proof.Machine
end

