-- ==== Sys2Proof/Machine/Pins.lean ====
section
/-! DEFINITION. Pins.lean: what the digital output balls carry, as a function of the state (Table 19.8, R39, R154, R228, R272, R273, R338,
R446, R463, R476, R477). -/
namespace Sys2Proof.Machine

/-- What a ball carries. -/
inductive Ball where
  /-- driven low -/
  | low
  /-- driven high -/
  | high
  /-- released: high impedance with its weak pull, or an open-drain output off -/
  | off
  /-- owned by the boundary cells, which hold what a tester preloaded (R463) -/
  | cell
  deriving DecidableEq, Repr

/-- A level driven actively. -/
def drive (b : Bool) : Ball := if b then .high else .low

/-- What a ball carries while EXTEST, HIGHZ or CLAMP is in force, else `b`. -/
def State.under (s : State) (b : Ball) : Ball := if s.lts.tap = 4 then .off else if s.lts.owns then .cell else b

/-- SWn (R154); YIELD_IN high holds it released (R273). -/
def State.pinSw (s : State) (n : Fin 48) : Ball :=
  s.under (if s.yieldHigh then .off else match s.chans[n].lvl with | .high => .high | .low => .low | .rel => .off)

/-- CHPc (R154). -/
def State.pinChp (s : State) (c : Fin 2) : Ball :=
  s.under (if s.yieldHigh then .off else match s.chops[c].ch.lvl with | .high => .high | .low => .low | .rel => .off)

/-- OWN and CLAIM: low in every reset but MGR, and while a test instruction owns the balls or the pulse-generator block of SELF_TEST runs
(R272, R460, R463). YIELD_IN high holds OWN low, and lowers the CLAIM of an owner when it rises; a claim made while it is high shows on the pin
(R273, R293): DEDUCED (log 76). -/
def State.pinOwn (s : State) : Ball := drive (s.ownPin && s.owner && !s.yieldHigh && s.pcr.asserted.isNone)
def State.pinClaim (s : State) : Ball := drive (s.claimPin && s.pcr.asserted.isNone)

/-- READY (R476). -/
def State.pinReady (s : State) : Ball :=
  s.under (drive (s.msr.running && !s.msr.mgr && s.pcr.settled && !s.sup.f5 && s.pcr.asserted.isNone))

/-- MBRK_REQ (R477). -/
def State.pinMbrk (s : State) : Ball := s.under (if s.pcr.asserted.isSome then .off else drive s.sup.mbrk)

/-- SVC_IRQ_N, open drain (R338). -/
def State.pinSvcIrqN (s : State) : Ball := s.under (if s.pcr.asserted.isNone && s.svcIrq then .low else .off)

/-- SERVICE_N, open drain (R39): low while a GLB_HEALTH bit is set, except in POR. -/
def State.pinServiceN (s : State) : Ball := s.under (if !s.serviceN && s.pcr.asserted != some 0 then .low else .off)

/-- WAKE_N, open drain (R446). -/
def State.pinWakeN (s : State) : Ball := s.under (if s.pcr.wakeN then .low else .off)

end Sys2Proof.Machine
end

