-- ==== Sys2Proof/Safety.lean ====
section
/-! DEFINITION. Safety.lean: what counts as a safe state: no leg with both switches on, bounded records, and every sparse store in its
canonical form. -/
namespace Sys2Proof.Machine

/-- Both switches of leg `l` are commanded on: what the leg guard forbids (R161). -/
def State.legShoot (s : State) (l : Fin 24) : Prop :=
  (s.chans[2 * l.val]).lvl = .high ∧ (s.chans[2 * l.val + 1]).lvl = .high

/-- No leg has both of its switches on (R161). -/
def State.legsSafe (s : State) : Prop := ∀ l : Fin 24, ¬ s.legShoot l

/-- Node RAM is in canonical form: IDs rise, and no node is listed at its initial value (R364, R373). -/
def State.nodesWf (s : State) : Prop := alRising s.nodes = true ∧ ∀ p ∈ s.nodes, p.2 ≠ nodeInit p.1

/-- Image memory is in canonical form: word indices rise, and no word is listed at 0 (R332; log 40). -/
def State.imageWf (s : State) : Prop := alRising s.msr.bar4 = true ∧ ∀ p ∈ s.msr.bar4, p.2 ≠ 0

/-- The fuse array is in canonical form, as a normal read and as a margin read give it: addresses rise, and no blank word is listed. -/
def State.fusesWf (s : State) : Prop :=
  (alRising s.otp.norm = true ∧ ∀ p ∈ s.otp.norm, p.2 ≠ 0) ∧ alRising s.otp.marg = true ∧ ∀ p ∈ s.otp.marg, p.2 ≠ 0

/-- Stored register words and host-memory words stand in rising order. -/
def State.regsWf (s : State) : Prop := alRising s.regs = true
def State.memWf (s : State) : Prop := alRising s.host.mem = true

/-- The fault history has at most 16 entries (R256), the holding queue at most 256 events (R328). -/
def State.histWf (s : State) : Prop := s.sup.hist.length ≤ 16
def State.heldWf (s : State) : Prop := heldEvents s.host.held ≤ 256

/-- Everything the model's invariants say of a state. -/
structure State.Inv (s : State) : Prop where
  legs  : s.legsSafe
  nodes : s.nodesWf
  image : s.imageWf
  regs  : s.regsWf
  mem   : s.memWf
  hist  : s.histWf
  held  : s.heldWf
  fuses : s.fusesWf

end Sys2Proof.Machine
end

