-- ==== Sys2Proof/WellFormed.lean ====
section
/-! DEFINITION. WellFormed.lean: the shape a command's operands must have that their types do not already give. -/
namespace Sys2Proof

/-- A Yeper frame is a header quad and at most 16 payload quads (R280). -/
def Instr.frameOk (f : List Quad) : Bool := decide (1 ≤ f.length) && decide (f.length ≤ 17)

/-- The words OTP_PROGRAM fetches are as many as ARG0 [15:10] + 1 names (R399). -/
def Instr.otpDataOk (q : CmdQ) (data : List Word) : Bool :=
  decide (data.length = (q.arg0.extractLsb' 10 6).toNat + 1)

/-- The opcodes of Table 12.6. -/
def Instr.defined : List (BitVec 8) :=
  [0x00, 0x01, 0x02, 0x03, 0x04, 0x08, 0x09, 0x0A, 0x0B, 0x0C, 0x10, 0x11, 0x12, 0x13, 0x14, 0x15, 0x16, 0x18, 0x20, 0x21, 0x28, 0x29,
   0x30, 0x31, 0x32, 0x33, 0x38, 0x40, 0x41, 0x48, 0x49, 0x50]

/-- The OPC of a host command (Table 12.6); none for a happening. -/
def Instr.opcode : Instr → Option (BitVec 8)
  | .badOpcode _ opc => some opc
  | .nop _ => some 0x00
  | .fence _ => some 0x01
  | .suspend _ => some 0x02
  | .resume _ => some 0x03
  | .cancel _ => some 0x04
  | .nodeRead _ => some 0x08
  | .nodeWrite _ => some 0x09
  | .nodeBlockLoad _ => some 0x0A
  | .nodeBlockStore _ => some 0x0B
  | .bankSwap _ => some 0x0C
  | .setpoint _ => some 0x10
  | .modeSelect _ => some 0x11
  | .driveStart _ => some 0x12
  | .driveStop _ => some 0x13
  | .reverse _ => some 0x14
  | .safeState _ => some 0x15
  | .faultClear _ => some 0x16
  | .pgDirect _ => some 0x18
  | .adcCalibrate _ => some 0x20
  | .adcUrgent _ => some 0x21
  | .traceArm _ => some 0x28
  | .traceStop _ => some 0x29
  | .otpProgram _ _ => some 0x30
  | .otpLock _ => some 0x31
  | .otpMarginScan _ => some 0x32
  | .lifecycleAdvance _ => some 0x33
  | .attest _ _ => some 0x38
  | .selfTest _ => some 0x40
  | .linkTest _ => some 0x41
  | .pairHandover _ => some 0x48
  | .pairRejoin _ => some 0x49
  | .powerState _ => some 0x50
  | _ => none

/-- A link with a checker of its own: the lanes, the gate links and PCI Express (Table 18.1). -/
def Instr.hasChecker (link : Fin 13) : Bool := decide (link.val ≤ 10)

/-- A command is well formed. -/
def Instr.wf : Instr → Bool
  | .badOpcode _ opc => !Instr.defined.contains opc
  | .checkerLocked link _ => Instr.hasChecker link
  | .checkerLockLost link _ _ => Instr.hasChecker link
  | .linkTestDone link _ _ _ _ => link != 10
  | .lowPartRead port off _ => decide (off.toNat % (if port = .svc then 2 else 4) = 0)
  | .highPartRead port off _ => decide (off.toNat % (if port = .svc then 2 else 4) = 0)
  | .otpProgram q data => Instr.otpDataOk q data
  | .blockChunkDone _ data _ => decide (data.length ≤ 1024)
  | .thermalReading counts => decide (counts.length = 16)
  | .serviceFrameError clocks _ => decide (clocks ≠ 32)
  | .pspMeasurement _ period high _ => decide (0 < period) && decide (high ≤ period)
  | .vendorTestInstruction code _ => decide (0x80 ≤ code.toNat) && decide (code.toNat ≤ 0xFE)
  | .baton f _ => Instr.frameOk f
  | .heartbeat f _ => Instr.frameOk f
  | .sync f _ => Instr.frameOk f
  | .requestJoin f _ => Instr.frameOk f
  | .requestHandover f _ => Instr.frameOk f
  | .requestAttestNonce f _ => Instr.frameOk f
  | .reply f _ => Instr.frameOk f
  | .attestFrame f _ => Instr.frameOk f
  | .relayClaim f _ => Instr.frameOk f
  | .relayYield f _ => Instr.frameOk f
  | _ => true

end Sys2Proof
end

