-- ==== Sys2Proof/Certificates/Slice0/Obligations.lean ====
section
/-! DEFINITION. Obligations.lean: the statements for the provers, after the few definitions that they share. -/

namespace Sys2Proof.Claims
open Sys2Proof Sys2Proof.Machine

/-- A host command's quad begins and passes the checks of its own bits: its ring may take it, EXPECT_ROLE is a value and agrees with
the role in force, and the reserved bits are 0 (R315, R318, R321, R345). -/
def Begins (s : State) (q : CmdQ) : Prop :=
  s.canBegin q.ring = true ∧ q.role ≠ 3 ∧ s.roleMatches q.role = true ∧ q.rsv9 = false ∧ q.rsv12 = 0

/-- The state once the command is taken from its ring: the head and RNG_SEQ have moved on. -/
abbrev taken (s : State) (q : CmdQ) : State := s.takeCmd q.ring

/-- The state once the command is taken and completed with a status and a RESULT. -/
abbrev done (s : State) (q : CmdQ) (opc st : BitVec 8) (result : Nat) : State := (s.takeCmd q.ring).finish (s.ctx q opc) st result

/-- The state once the command is taken, past its commit point, and waits for the boundary at `due`. -/
abbrev waits (s : State) (q : CmdQ) (opc : BitVec 8) (due : Time) (aux : Nat) : State :=
  (s.takeCmd q.ring).awaitAt (s.ctx q opc) due aux

/-- Everything but the stored registers, the rings, held completions and events, messages, host memory, the fault history, the RECOVERY marks and the Silo's triggers is as it
was: all that a completion or an event may change. -/
def QuietChange (s t : State) : Prop :=
  t = { s with
    regs := t.regs
    host := { s.host with rings := t.host.rings, cpls := t.host.cpls, mem := t.host.mem, msgs := t.host.msgs, pba := t.host.pba,
                          held := t.host.held }
    sup := { s.sup with hist := t.sup.hist, histLost := t.sup.histLost }
    groups := t.groups
    silo := t.silo }

/-- Every host command of Table 12.6 with its opcode, for a quad and the data that OTP_PROGRAM and ATTEST read. -/
def hostCommands (q : CmdQ) (data : List Word) (nonce : BitVec 256) : List (Instr × BitVec 8) :=
  [(.nop q, 0x00), (.fence q, 0x01), (.suspend q, 0x02), (.resume q, 0x03), (.cancel q, 0x04), (.nodeRead q, 0x08),
   (.nodeWrite q, 0x09), (.nodeBlockLoad q, 0x0A), (.nodeBlockStore q, 0x0B), (.bankSwap q, 0x0C), (.setpoint q, 0x10),
   (.modeSelect q, 0x11), (.driveStart q, 0x12), (.driveStop q, 0x13), (.reverse q, 0x14), (.safeState q, 0x15),
   (.faultClear q, 0x16), (.pgDirect q, 0x18), (.adcCalibrate q, 0x20), (.adcUrgent q, 0x21), (.traceArm q, 0x28),
   (.traceStop q, 0x29), (.otpLock q, 0x31), (.otpMarginScan q, 0x32), (.lifecycleAdvance q, 0x33), (.selfTest q, 0x40),
   (.linkTest q, 0x41), (.pairHandover q, 0x48), (.pairRejoin q, 0x49), (.powerState q, 0x50), (.otpProgram q data, 0x30),
   (.attest q nonce, 0x38)]

end Sys2Proof.Claims

open Sys2Proof Sys2Proof.Machine Sys2Proof.Claims

/-- For every command c, every queue p and every state s, a step of s with c in front of p is exec of c on s with the queue p. The model's choice of log 1: with no command waiting a step leaves the state as it is. [00_scope, 95_what_each_step_holds] -/
def Obligations.StepRunsFront : Prop :=
  (∀ (c : Instr) (p : List Instr) (s : State), step { s with pending := c :: p } = exec c { s with pending := p }) ∧
  (∀ s : State, s.pending = [] → step s = .next s)

/-- From every state of the invariant in which no leg has both switches on, whatever command is in front, a step that answers a next state leaves no leg with both switches on. [R161, R162, R163] -/
def Obligations.StepKeepsLegs : Prop :=
  ∀ (s t : State), s.Inv → step s = .next t → t.legsSafe

/-- From every state of the invariant a step keeps node RAM, the firmware image memory, the fuse array, the stored registers and the written host words in their canonical forms. [R364, R373, R385] -/
def Obligations.StepKeepsStores : Prop :=
  ∀ (s t : State), s.Inv → step s = .next t → t.nodesWf ∧ t.imageWf ∧ t.fusesWf ∧ t.regsWf ∧ t.memWf

/-- From every state of the invariant a step leaves at most 16 fault-history entries and at most 256 held events. [R256, R328] -/
def Obligations.StepKeepsRecords : Prop :=
  ∀ (s t : State), s.Inv → step s = .next t → t.sup.hist.length ≤ 16 ∧ heldEvents t.host.held ≤ 256

/-- The state after reset meets the invariant that every step keeps. [R373, R436] -/
def Obligations.ResetInv : Prop :=
  State.reset.Inv

/-- When exec answers a next state, the queue of waiting commands is what it was. [95_what_each_step_holds] -/
def Obligations.ExecLeavesQueue : Prop :=
  ∀ (c : Instr) (s t : State), exec c s = .next t → t.pending = s.pending

/-- Whatever command is in front, unless it is OTP_BURN_ROUND a step leaves every fuse as both reads give it. [R385, R398] -/
def Obligations.FusesOnlyBurn : Prop :=
  ∀ (c : Instr) (p : List Instr) (s t : State), (∀ n m u, c ≠ .otpBurnRound n m u) → step { s with pending := c :: p } = .next t →
      t.otp.norm = s.otp.norm ∧ t.otp.marg = s.otp.marg

/-- NOP without arguments completes OK with PAC_TIME [31:0]; a quad whose opcode Table 12.6 does not hold completes BAD_OPCODE, whatever its other bits. [R318, R321, Table 12.6] -/
def Obligations.NopAndBadOpcode : Prop :=
  (∀ (s : State) (q : CmdQ), Begins s q → q.arg0 = 0 → q.arg1 = 0 →
    exec (.nop q) s = .next (done s q 0x00 stOk (s.pacTime % 2 ^ 32))) ∧
  (∀ (s : State) (q : CmdQ) (opc : BitVec 8), s.canBegin q.ring = true → Instr.defined.contains opc = false →
    exec (.badOpcode q opc) s = .next (done s q opc stBadOpcode 0))

/-- For every host command: EXPECT_ROLE 0b00 matches every role, 0b01 ACTIVE and SOLO, 0b10 STANDBY, against the role in force. A command whose EXPECT_ROLE does not match completes ROLE_STALE with the role in force in RESULT [2:0] and the epoch in [47:16], and changes nothing but what a completion may. EXPECT_ROLE 0b11 gives BAD_OPERAND before that, a reserved bit of the quad after it. [R345] -/
def Obligations.CommandOrderOfChecks : Prop :=
  (∀ (s : State) (e : BitVec 2), e ≠ 3 →
    (s.roleMatches e = true ↔ e = 0 ∨ (e = 1 ∧ (s.ypl.role = .active ∨ s.ypl.role = .solo)) ∨ (e = 2 ∧ s.ypl.role = .standby))) ∧
  ∀ (s : State) (q : CmdQ) (data : List Word) (nonce : BitVec 256) (c : Instr) (opc : BitVec 8),
    (c, opc) ∈ hostCommands q data nonce → s.canBegin q.ring = true →
    (q.role = 3 → exec c s = .next (done s q opc stBadOperand 0)) ∧
    (q.role ≠ 3 → s.roleMatches q.role = false →
      exec c s = .next (done s q opc stRoleStale (s.ypl.role.code + at_ s.ypl.epoch.toNat 16)) ∧
      QuietChange (taken s q) (done s q opc stRoleStale (s.ypl.role.code + at_ s.ypl.epoch.toNat 16))) ∧
    (q.role ≠ 3 → s.roleMatches q.role = true → (q.rsv9 = true ∨ q.rsv12 ≠ 0) → exec c s = .next (done s q opc stBadOperand 0))

/-- While DQn is disabled, or has fewer than 2 + L free entries, with L the long operations of CQn running or suspended, no host command of CQn begins: the state stays as it is, and this is no error. [R315] -/
def Obligations.CommandWaitsForRoom : Prop :=
  ∀ (s : State) (q : CmdQ) (data : List Word) (nonce : BitVec 256) (c : Instr) (opc : BitVec 8),
    (c, opc) ∈ hostCommands q data nonce ∨ c = .badOpcode q opc →
    s.ringEn (dqIdx q.ring) = false ∨ s.ringFree (dqIdx q.ring) < 2 + s.lopsOf q.ring →
    exec c s = .next s

/-- Bits above ARG0 [16:0], ARG1 or an ID of 0x1_A800 or above give BAD_OPERAND; in DEEP the command is REFUSED_STATE; otherwise a node that is not poisoned completes OK with its value, in every role and the other power states. A set-cell or machine-cell live node reads the cell's value at its latest boundary; a table or bank node reads the word last written. [R366, R372, R101] -/
def Obligations.NodeReadRule : Prop :=
  (∀ (s : State) (q : CmdQ), Begins s q →
    (bits q.arg0 31 17 ≠ 0 ∨ q.arg1 ≠ 0 ∨ 0x1A800 ≤ bits q.arg0 16 0 → exec (.nodeRead q) s = .next (done s q 0x08 stBadOperand 0)) ∧
    (bits q.arg0 31 17 = 0 → q.arg1 = 0 → bits q.arg0 16 0 < 0x1A800 →
      (s.pwr = 3 → exec (.nodeRead q) s = .next (done s q 0x08 stRefusedState 0)) ∧
      (s.pwr ≠ 3 → s.poisoned (bits q.arg0 16 0) = true →
        exec (.nodeRead q) s = .next (done s q 0x08 stVerifyFail (bits q.arg0 16 0))) ∧
      (s.pwr ≠ 3 → s.poisoned (bits q.arg0 16 0) = false →
        exec (.nodeRead q) s = .next (done s q 0x08 stOk ((taken s q).nodeRead (bits q.arg0 16 0)).toNat)))) ∧
  (∀ (s : State) (w : Fin 8), s.nodeRead (0x19000 + 0x40 * w.val + 0x02) = toF32 s.sets[w].cell.iRef ∧
    s.nodeRead (0x19000 + 0x40 * w.val + 0x06) = toF32 s.sets[w].cell.h) ∧
  (∀ (s : State) (m : Fin 2), s.nodeRead (0x19200 + 0x40 * m.val + 0x01) = toF32 s.mach[m].loop.r ∧
    s.nodeRead (0x19200 + 0x40 * m.val + 0x0E) = toF32 s.mach[m].loop.iRef) ∧
  (∀ (s : State) (id : Nat) (v : Word), s.nodesWf → id < 0x19000 → (s.nodeWrite id v).nodeRead id = v)

/-- Bits above ARG0 [16:0], bits above ARG1 [31:0], a node that is not writable or a value outside its limits give BAD_OPERAND; a protected bank, a ledger node outside its window, a host node on a device that does not own, or DEEP give REFUSED_STATE; otherwise the word lands and the command completes OK. Landing a word in a table, bank or ledger node leaves every other node's stored word as it was, and leaves the registers, memory words, channels, fuses and rings alone. [R364, R365, R367, R368, R369] -/
def Obligations.NodeWriteRule : Prop :=
  (∀ (s : State) (q : CmdQ), Begins s q →
    (bits q.arg0 31 17 ≠ 0 ∨ q.arg1.extractLsb' 32 32 ≠ 0 ∨ nodeKind (bits q.arg0 16 0) = none ∨
        (∃ k, nodeKind (bits q.arg0 16 0) = some k ∧ k.ok (q.arg1.extractLsb' 0 32) = false) →
      exec (.nodeWrite q) s = .next (done s q 0x09 stBadOperand 0)) ∧
    (∀ k, bits q.arg0 31 17 = 0 → q.arg1.extractLsb' 32 32 = 0 → nodeKind (bits q.arg0 16 0) = some k →
      k.ok (q.arg1.extractLsb' 0 32) = true →
      ((taken s q).nodeRefused (bits q.arg0 16 0) = true → exec (.nodeWrite q) s = .next (done s q 0x09 stRefusedState 0)) ∧
      ((taken s q).nodeRefused (bits q.arg0 16 0) = false →
        exec (.nodeWrite q) s =
          .next (((taken s q).nodeWrite (bits q.arg0 16 0) (q.arg1.extractLsb' 0 32)).finish (s.ctx q 0x09) stOk 0)))) ∧
  (∀ (s : State) (id : Nat) (v : Word), s.nodesWf → nodeRow id ≠ 5 →
    (∀ j, j ≠ id → (s.nodeWrite id v).nodeW j = s.nodeW j) ∧ (s.nodeWrite id v).nodeW id = v ∧
    (s.nodeWrite id v).regs = s.regs ∧ (s.nodeWrite id v).host = s.host ∧ (s.nodeWrite id v).chans = s.chans ∧
    (s.nodeWrite id v).otp = s.otp ∧ (s.nodeWrite id v).mach = s.mach ∧ (s.nodeWrite id v).sets = s.sets ∧ (s.nodeWrite id v).ypl = s.ypl)

/-- Completing a command changes only stored registers, rings, held completions, messages and host memory; raising an event also the fault history, the RECOVERY marks and the Silo's triggers. Everything else of the state is as before: engines, channels, roles, OTP, node RAM, waiting commands, long operations, fences. [R319, R328, R256, Table 6.2, R377] -/
def Obligations.CompletionFrame : Prop :=
  (∀ (s : State) (c : Waiting) (st : BitVec 8) (r : Nat), QuietChange s (s.finish c st r)) ∧
  (∀ (s : State) (cls level index fclass detail : Nat) (t : Time), QuietChange s (s.raise cls level index fclass detail t)) ∧
  (∀ (s : State) (bit block inst extra : Nat) (t : Time), QuietChange s (s.health bit block inst extra t))

/-- When no completion is held, DQn can take one and waits for no RECOVERY record of a reset, and its interrupt is off, finishing a command writes one quad at BASE + 16·tail of DQn and no other word of host memory, advances the tail and turns the phase at the wrap. The quad holds STATUS in [7:0], RING in [12:8], TAG in [31:16], SEQ in [63:32], the epoch's low 16 bits in [79:64] and RESULT in [127:80], and PHASE is added in [15]. [R5, R313, R314, R319, Table 12.5] -/
def Obligations.CompletionWritten : Prop :=
  (∀ (s : State) (c : Waiting) (st : BitVec 8) (r : Nat), s.host.cpls = [] → s.canPut (dqIdx c.ring) = true → s.recordHeld c.ring = false →
    s.rb regRngCfg (dqIdx c.ring).val 14 = false →
    let i := dqIdx c.ring
    let a := s.ringBase i + 16 * s.host.rings[i].tail
    let q0 := cplQuad s.ypl.epoch ⟨c.ring, st, c.tag, c.seq, c.irq, BitVec.ofNat 48 r⟩
    let q := if s.host.rings[i].phase then q0 ||| 0x8000#128 else q0
    (∀ x, alGet (s.finish c st r).host.mem x =
      if x = a + 12 then some (q.extractLsb' 96 32) else if x = a + 8 then some (q.extractLsb' 64 32)
      else if x = a + 4 then some (q.extractLsb' 32 32) else if x = a then some (q.extractLsb' 0 32) else alGet s.host.mem x) ∧
    (s.finish c st r).host.rings[i].tail = (s.host.rings[i].tail + 1) % s.ringSize i ∧
    (s.finish c st r).host.rings[i].phase =
      (if (s.host.rings[i].tail + 1) % s.ringSize i = 0 then !s.host.rings[i].phase else s.host.rings[i].phase) ∧
    (s.finish c st r).host.cpls = []) ∧
  (∀ (e : Word) (c : Cpl), (cplQuad e c).extractLsb' 0 8 = c.status ∧ (cplQuad e c).extractLsb' 8 7 = BitVec.ofNat 7 c.ring.val ∧
    (cplQuad e c).extractLsb' 15 1 = 0 ∧ (cplQuad e c).extractLsb' 16 16 = c.tag ∧ (cplQuad e c).extractLsb' 32 32 = BitVec.ofNat 32 c.seq ∧
    (cplQuad e c).extractLsb' 64 16 = e.extractLsb' 0 16 ∧ (cplQuad e c).extractLsb' 80 48 = c.result)

/-- With slot k the lowest free one, starting an operation leaves slot k running it under the next generation, every other slot as it was, and completes the command ACCEPTED with the handle; with no free slot it completes REFUSED_STATE with reason 15. Generations run from 1 to 8,191 and start again at 1, and the handle holds the slot in [2:0] and the generation in [15:3]. [R322, R347] -/
def Obligations.LongOperationStarts : Prop :=
  (∀ (s : State) (c : Waiting) (k : Fin 8), s.freeSlot = some k →
    (s.lopStart c).host.lops[k] = ({ state := 1, gen := nextGen s.host.lops[k].gen, opc := c.opc, ring := c.ring, tag := c.tag, irq := c.irq, seq := c.seq, arg0 := c.arg0, arg1 := c.arg1, phase := 0, pauses := 0, since := s.time, suspAt := 0, stale := false, ending := 0, res := [], quit := 0 } : Lop) ∧
    (∀ j, j ≠ k → (s.lopStart c).host.lops[j] = s.host.lops[j]) ∧
    (∃ u : State, s.lopStart c = u.finish c stAccepted ((s.lopStart c).handle k)) ∧ QuietChange ({ s with host := { s.host with lops := (s.lopStart c).host.lops } } : State) (s.lopStart c)) ∧
  (∀ (s : State) (c : Waiting), s.freeSlot = none → s.lopStart c = s.finish c stRefusedState 15) ∧
  (∀ g, nextGen 8191 = 1 ∧ (g < 8191 → nextGen g = g + 1)) ∧
  (∀ (s : State) (k : Fin 8), s.handle k % 8 = k.val ∧ s.handle k / 8 = s.host.lops[k].gen)

/-- A handle that names no operation refuses SUSPEND, RESUME and CANCEL with reason 1. SUSPEND of a running operation waits and asks it to pause; CANCEL of a suspended one ends it CANCELLED and completes OK; RESUME of a suspended one runs it again and completes OK with the handle. A calibration or a rejoin suspended for 100 ms will start anew. [R348, R349, R203, R301] -/
def Obligations.LongOperationCommandsComplete : Prop :=
  (∀ (s : State) (q : CmdQ) (opc : BitVec 8) (c : Instr), (c, opc) ∈ [(Instr.suspend q, 0x02#8), (.resume q, 0x03#8), (.cancel q, 0x04#8)] →
    Begins s q → handleOk q = true → s.lopOf (bits q.arg0 15 0) = none → exec c s = .next (done s q opc stRefusedState 1)) ∧
  (∀ (s : State) (q : CmdQ) (k : Fin 8), Begins s q → handleOk q = true → s.lopOf (bits q.arg0 15 0) = some k →
    (s.host.lops[k].state ≠ 2 → s.host.lops[k].ending = 0 →
      exec (.suspend q) s = .next (((taken s q).await { s.ctx q 0x02 with aux := bits q.arg0 15 0 }).modLop k fun l => { l with state := 3, ending := 2 })) ∧
    (s.host.lops[k].state = 2 →
      exec (.cancel q) s = .next (((taken s q).lopQuit k stCancelled s.host.lops[k].quit).finish (s.ctx q 0x04) stOk 0)) ∧
    (s.host.lops[k].state = 2 → s.host.lops[k].opc = 0x0A → ∃ u : State, exec (.resume q) s = .next (u.finish (s.ctx q 0x03) stOk (bits q.arg0 15 0)) ∧
      u.host.lops[k].state = 1 ∧ u.host.lops[k].opc = 0x0A)) ∧
  (∀ (s : State) (slot : Fin 8) (t : Time), s.host.lops[slot].state = 2 → s.host.lops[slot].opc = 0x20 ∨ s.host.lops[slot].opc = 0x49 →
    s.host.lops[slot].suspAt + 100 * ms1 ≤ max s.time t →
    exec (.resumeLimitExpiry slot t) s = .next ((s.adv t).modLop slot fun l => { l with stale := true }))

/-- A fence that names an event ring not enabled or stopped completes REFUSED_STATE with reason 1, else one with a suspended long operation of its ring with reason 2; otherwise it is recorded with its ring, T_f, mask, marks still to write, its ring's long operations and SEQ, and waits. While a command of a ring waits none of that ring begins. FENCE_MARK of a fence not yet marked at T_f + 20 µs or later, with no earlier fence on a shared ring unmarked, puts one mark per named ring behind what stands before it and before the rest, then writes what the rings take; before that it writes nothing; of a marked fence it goes on with the trace marks. EVENT_DRAIN writes what the rings take and completes what is due. A fence completes OK with T_f modulo 2^40, and its ring is free of it, once its marks are written, no operation of it is left, no completion of its ring is held and its ring is not stopped; fences of which none is so stay as they are. [R341, R342, R343, R328, R352] -/
def Obligations.FenceHolds : Prop :=
  (∀ (s : State) (q : CmdQ), Begins s q → bits q.arg0 31 5 = 0 → q.arg1 = 0 →
    let u := taken s q
    let named := (List.finRange 4).any fun r => (BitVec.ofNat 4 (bits q.arg0 3 0)).getLsbD r && (!u.ringEn (eqIdx r) || u.host.rings[eqIdx r].stopped)
    let own := (List.finRange 8).filter fun k => u.host.lops[k].state != 0 && u.host.lops[k].ring == q.ring
    (named = true → exec (.fence q) s = .next (done s q 0x01 stRefusedState 1)) ∧
    (named = false → (∃ k ∈ own, u.host.lops[k].state = 2) → exec (.fence q) s = .next (done s q 0x01 stRefusedState 2)) ∧
    (named = false → (∀ k ∈ own, u.host.lops[k].state ≠ 2) →
      let f : FenceSt := { ring := q.ring, tf := u.stamp u.time, mask := BitVec.ofNat 4 (bits q.arg0 3 0), trace := q.arg0.getLsbD 4, marked := bits q.arg0 4 0 == 0, traceLeft := if q.arg0.getLsbD 4 then BitVec.ofNat 4 ((List.finRange 4).foldl (fun a r => if u.ringEn (tqIdx r) then a + 2 ^ r.val else a) 0) else 0, lops := own.map u.handle, seq := (s.ctx q 0x01).seq }
      let v := u.freeNext.await (s.ctx q 0x01)
      exec (.fence q) s = .next ({ v with host := { v.host with fences := v.host.fences ++ [f] } } : State).fenceTry)) ∧
  (∀ (s : State) (n : Fin 16) (c : Waiting), c ∈ s.host.waiting → c.ring = n → s.canBegin n = false) ∧
  (∀ (s : State) (n : Fin 16) (f : FenceSt) (t : Time), s.host.fences.find? (fun f => f.ring == n) = some f →
    let u := s.adv t
    let early := s.host.fences.any (fun g => !g.marked && decide (g.tf < f.tf) && ((g.mask &&& f.mask) != 0 || (g.trace && f.trace)))
    (f.marked = true → exec (.fenceMark n t) s = .next ((u.traceMarks n).drain.fenceTry)) ∧
    (f.marked = false → max s.time t < f.tf + 20 * us1 ∨ early = true → exec (.fenceMark n t) s = .next u) ∧
    (f.marked = false → f.tf + 20 * us1 ≤ max s.time t → early = false →
      let marks := ((List.finRange 4).filter fun (r : Fin 4) => f.mask.getLsbD r).map fun (r : Fin 4) => Held.mark r ⟨0x0F, 0x0D, 8, 0, f.detail, f.tf⟩
      let v : State := { u with host := { u.host with held := s.host.held.filter (fun h => beforeMark f (u.heldRings h) h) ++ marks ++ s.host.held.filter (fun h => !beforeMark f (u.heldRings h) h), fences := s.host.fences.map fun g => if g.ring == n then { g with marked := true } else g } }
      exec (.fenceMark n t) s = .next ((v.drain.traceMarks n).fenceTry))) ∧
  (∀ (s : State) (t : Time), exec (.eventDrain t) s = .next ((s.adv t).drain.fenceTry)) ∧
  (∀ (s : State), let due : FenceSt → Bool := fun f => s.fenceWritten f && f.lops.all (fun h => (s.lopOf h).isNone) &&
      !(s.host.cpls.any fun c => c.ring == f.ring) && !s.host.rings[cqIdx f.ring].stopped
    ((∀ f ∈ s.host.fences, due f = false) → s.fenceTry = s) ∧
    (∀ (l : List FenceSt) (f : FenceSt) (c : Waiting), s.host.fences = l ++ [f] → (∀ g ∈ l, due g = false) → due f = true →
      s.host.waiting.find? (fun c => c.opc == 0x01 && c.ring == f.ring) = some c →
      let v : State := { s with host := { s.host with fences := s.host.fences.filter (fun g => g.ring != f.ring), fenceOk := fenceKept ⟨s.time, f.tf, f.ring, f.seq⟩ s.host.fenceOk } }
      s.fenceTry = v.finishW c stOk (ticksOf f.tf % 2 ^ 40)))

/-- On a device that does not own, DRIVE_START (outside RETIRED), DRIVE_STOP and REVERSE complete REFUSED_STATE (DRIVE_START with reason 1). On the owner, with no thermal hold, DRIVE_START under no supply warning and with no refusal reason passes its commit point and waits for the next SP boundary at least 40 ns on, with the machines it names; REVERSE waits for the same boundary and is not committed before it is judged there; DRIVE_STOP waits for the FP boundary. A thermal hold gives REFUSED_TEMP and a supply warning REFUSED_SUPPLY. [R302, R324, R325, R326, R64, R340] -/
def Obligations.DriveCommandsWait : Prop :=
  (∀ (s : State) (q : CmdQ), Begins s q → bits q.arg0 31 2 = 0 → q.arg1 = 0 → s.otp.lc ≠ 4 →
    let u := taken s q
    (u.notOwner = true → exec (.driveStart q) s = .next (done s q 0x12 stRefusedState 1)) ∧
    (u.notOwner = false → u.thmHeld = true → exec (.driveStart q) s = .next (done s q 0x12 stRefusedTemp 0)) ∧
    (u.notOwner = false → u.thmHeld = false → s.pcr.warn ≠ 0 → exec (.driveStart q) s = .next (done s q 0x12 stRefusedSupply 0)) ∧
    (u.notOwner = false → u.thmHeld = false → s.pcr.warn = 0 → u.startReason (u.namedMach (bits q.arg0 1 0)) = 0 →
      exec (.driveStart q) s = .next (waits s q 0x12 (u.spAfter u.time) (maskOf (u.namedMach (bits q.arg0 1 0))))) ∧
    (u.notOwner = false → u.thmHeld = false → s.pcr.warn = 0 → u.startReason (u.namedMach (bits q.arg0 1 0)) ≠ 0 →
      exec (.driveStart q) s = .next (done s q 0x12 stRefusedState (u.startReason (u.namedMach (bits q.arg0 1 0)))))) ∧
  (∀ (s : State) (q : CmdQ), Begins s q → bits q.arg0 31 3 = 0 → q.arg1 = 0 →
    let u := taken s q
    (u.notOwner = true → exec (.driveStop q) s = .next (done s q 0x13 stRefusedState 0)) ∧
    (u.notOwner = false → exec (.driveStop q) s = .next (waits s q 0x13 (u.fpAfter u.time) (maskOf (u.namedMach (bits q.arg0 1 0)))))) ∧
  (∀ (s : State) (q : CmdQ) (m : Fin 2), Begins s q → bits q.arg0 31 3 = 0 → q.arg1 = 0 → m = (if q.arg0.getLsbD 0 then 1 else 0) →
    s.machEn m = true →
    let u := taken s q
    (u.notOwner = true → exec (.reverse q) s = .next (done s q 0x14 stRefusedState 0)) ∧
    (u.notOwner = false → u.thmHeld = true → exec (.reverse q) s = .next (done s q 0x14 stRefusedTemp 0)) ∧
    (u.notOwner = false → u.thmHeld = false → exec (.reverse q) s = .next (u.awaitJudge (s.ctx q 0x14) (u.spAfter u.time) m.val)))

/-- SAFE_STATE executes in every role and waits for the FP boundary at least 40 ns on. FAULT_CLEAR is refused on a device that does not own or while an F5 fault is held, REFUSED_TEMP while a thermal sequence runs or its exit is unmet, REFUSED_SUPPLY while a controlled stop runs, and waits otherwise. MODE_SELECT and BANK_SWAP wait for the SP boundary, MODE_SELECT uncommitted until it is judged there; BANK_SWAP shows its machines as pending from its acceptance. [R236, R257, R302, R146, R150, R340, R368] -/
def Obligations.SupervisorCommandsWait : Prop :=
  (∀ (s : State) (q : CmdQ), Begins s q → bits q.arg0 31 4 = 0 → q.arg1 = 0 → bits q.arg0 3 2 ≠ 3 → s.badMask (bits q.arg0 1 0) = false →
    exec (.safeState q) s = .next (waits s q 0x15 ((taken s q).fpAfter s.time) (maskOf ((taken s q).maskMach (bits q.arg0 1 0))))) ∧
  (∀ (s : State) (q : CmdQ), Begins s q → bits q.arg0 31 1 = 0 → q.arg1 = 0 →
    (s.notOwner = true ∨ s.sup.f5 = true → exec (.faultClear q) s = .next (done s q 0x16 stRefusedState 0)) ∧
    (s.notOwner = false → s.sup.f5 = false → (s.thm.shutRun = true ∨ s.thm.shutHeld = true ∧ s.thm.exitMet = false) →
      exec (.faultClear q) s = .next (done s q 0x16 stRefusedTemp 0)) ∧
    (s.notOwner = false → s.sup.f5 = false → s.thm.shutRun = false → (s.thm.shutHeld = false ∨ s.thm.exitMet = true) →
      (s.pcr.stopping = true → exec (.faultClear q) s = .next (done s q 0x16 stRefusedSupply 0)) ∧
      (s.pcr.stopping = false → exec (.faultClear q) s = .next (waits s q 0x16 ((taken s q).fpAfter s.time) 0)))) ∧
  (∀ (s : State) (q : CmdQ) (m : Fin 2), Begins s q → bits q.arg0 31 5 = 0 → q.arg0.getLsbD 4 = false → q.arg1 = 0 →
    m = (if q.arg0.getLsbD 0 then 1 else 0) → s.machEn m = true →
    (s.notOwner = true → exec (.modeSelect q) s = .next (done s q 0x11 stRefusedState 0)) ∧
    (s.notOwner = false → (taken s q).thmHeld = true → exec (.modeSelect q) s = .next (done s q 0x11 stRefusedTemp 0)) ∧
    (s.notOwner = false → (taken s q).thmHeld = false → exec (.modeSelect q) s = .next ((taken s q).awaitJudge (s.ctx q 0x11) ((taken s q).spAfter s.time) m.val))) ∧
  (∀ (s : State) (q : CmdQ), Begins s q → bits q.arg0 31 2 = 0 → q.arg1 = 0 → bits q.arg0 1 0 ≠ 0 → s.badMask (bits q.arg0 1 0) = false →
    let u := taken s q
    let l := u.maskMach (bits q.arg0 1 0)
    (s.notOwner = true → exec (.bankSwap q) s = .next (done s q 0x0C stRefusedState 0)) ∧
    (s.notOwner = false → (l.any fun m => u.mach[m].loop.swap || u.loading m) = true → exec (.bankSwap q) s = .next (done s q 0x0C stRefusedState 0)) ∧
    (s.notOwner = false → (l.any fun m => u.mach[m].loop.swap || u.loading m) = false → u.thmHeld = true →
      exec (.bankSwap q) s = .next (done s q 0x0C stRefusedTemp 0)) ∧
    (s.notOwner = false → (l.any fun m => u.mach[m].loop.swap || u.loading m) = false → u.thmHeld = false →
      let v := l.foldl (fun s m => s.modMach m fun x => { x with loop := { x.loop with swap := true } }) u
      exec (.bankSwap q) s = .next (v.awaitAt (s.ctx q 0x0C) (v.spAfter v.time) (bits q.arg0 1 0))))

/-- A new demand is stored for the machine and feeds its host watchdog unless KEEP is set, which feeds the watchdog alone; the completion is OK and its RESULT says in [0] that the machine follows another source and in [1] that it is in fall-back. On a device that does not own the command is REFUSED_STATE; a value that is not finite, or a negative auxiliary value, is BAD_OPERAND unless KEEP is set. [R126, R127, R128, R302] -/
def Obligations.SetpointRule : Prop :=
  ∀ (s : State) (q : CmdQ) (m : Fin 2), Begins s q → bits q.arg0 31 2 = 0 → m = (if q.arg0.getLsbD 0 then 1 else 0) → s.machEn m = true →
    (q.arg0.getLsbD 1 = false → (f32 (q.arg1.extractLsb' 0 32) = none ∨ f32 (q.arg1.extractLsb' 32 32) = none ∨
        ∃ v, f32 (q.arg1.extractLsb' 32 32) = some v ∧ v < 0) → exec (.setpoint q) s = .next (done s q 0x10 stBadOperand 0)) ∧
    (s.notOwner = true → q.arg0.getLsbD 1 = true → exec (.setpoint q) s = .next (done s q 0x10 stRefusedState 0)) ∧
    (s.notOwner = false → q.arg0.getLsbD 1 = true →
      let u := (taken s q).wdFeed m
      exec (.setpoint q) s = .next (u.finish (s.ctx q 0x10) stOk
        (b2n (u.mach[m].src.fallback || u.mach[m].src.src != 0) + at_ (b2n u.mach[m].src.fallback) 1))) ∧
    (s.notOwner = false → q.arg0.getLsbD 1 = false → (∃ a b, f32 (q.arg1.extractLsb' 0 32) = some a ∧ f32 (q.arg1.extractLsb' 32 32) = some b ∧ 0 ≤ b) →
      let u := ((taken s q).setHost m (q.arg1.extractLsb' 0 32) (q.arg1.extractLsb' 32 32)).wdFeed m
      exec (.setpoint q) s = .next (u.finish (s.ctx q 0x10) stOk
        (b2n (u.mach[m].src.fallback || u.mach[m].src.src != 0) + at_ (b2n u.mach[m].src.fallback) 1)))

/-- The oldest waiting command of its opcode acts no earlier than its boundary: DRIVE_START feeds both watchdogs where the device was not started, sets STARTED, starts each machine it names and completes OK with the mask; DRIVE_STOP stops each machine it names and completes OK with the machines that decelerate; REVERSE and MODE_SELECT are judged and complete with the status and RESULT of their judgement, after the swaps of its boundary and, while the device runs, after its machine's sources. [R324, R325, R326, R64, R66, R150, R151] -/
def Obligations.DriveCommandsAct : Prop :=
  ∀ (s : State) (c : Waiting),
    (s.oldest 0x12 = some c →
      let b := max s.time c.due
      let v := if s.started then s.adv b else forFin 2 (s.adv b) fun s m => s.wdFeed m
      let u := (List.finRange 2).foldl (fun s m => if (c.aux >>> m.val) % 2 = 1 then s.startMach m b else s) { v with started := true }
      exec .driveStartActs s = .next (u.finishW c stOk c.aux)) ∧
    (s.oldest 0x13 = some c →
      let t := max s.time c.due
      let u := (List.finRange 2).foldl (fun s m => if (c.aux >>> m.val) % 2 = 1 then s.stopMach m (c.arg0.getLsbD 2) t else s) (s.adv t)
      exec .driveStopActs s = .next (u.finishW c stOk u.decelMask)) ∧
    (∀ m : Fin 2, m = (if c.arg0.getLsbD 0 then 1 else 0) → s.oldest 0x14 = some c →
      let b := max s.time c.due
      let u := (s.adv b).swapsDue b
      let v := if u.started && u.pcr.state == 0 then u.judgeSources m b else u
      let j := v.judgeRev m (c.arg0.getLsbD 1) (c.arg0.getLsbD 2) b
      exec .reverseJudged s = .next (j.1.finishW c j.2.1 j.2.2)) ∧
    (∀ m : Fin 2, m = (if c.arg0.getLsbD 0 then 1 else 0) → s.oldest 0x11 = some c →
      let b := max s.time c.due
      let u := (s.adv b).swapsDue b
      let v := if u.started && u.pcr.state == 0 then u.judgeSources m b else u
      let j := v.judgeMode m (c.arg0.getLsbD 1) (bits c.arg0 3 2) b
      exec .modeSelectJudged s = .next (j.1.finishW c j.2.1 j.2.2))

/-- SAFE_STATE with no other reaction due takes its machines to the safe state asked for and completes OK with the machines in ASC; FAULT_CLEAR clears latches, chopper states, sets, holds and gate-link errors in that order, raises FAULT_CLEARED and completes OK with what is still faulted; BANK_SWAP whose incoming coefficients are valid makes them active and completes OK with the active banks; POWER_STATE to DEEP opens the transition window, completing OK. [R236, R257, R146, R149, R443, R445] -/
def Obligations.SupervisorCommandsAct : Prop :=
  ∀ (s : State) (c : Waiting),
    (s.oldest 0x15 = some c → s.sup.reqs = [] → s.svc.safes = [] →
      let t := max s.time c.due
      let u := (((s.adv t).applyReqs t).applySafes t).safeCmd c.aux (bits c.arg0 3 2) false t
      exec .safeApplied s = .next (u.finishW c stOk u.inAsc)) ∧
    (s.oldest 0x16 = some c → c.arg0.getLsbD 0 = false →
      let t := max s.time c.due
      let v := ((((s.adv t).clearLatches.clearChoppers).rejoinSets).endHolds).clearGlk
      let u := { v with svc := { v.svc with cleared := true } }.raise 0x0A 4 0 0 0x97 t
      exec .faultCleared s = .next (u.finishW c stOk
        (u.faultMask + at_ u.safeMask 8 + at_ (b2n u.sup.estopHeld) 10 + at_ (b2n u.sup.mbrk) 11))) ∧
    (s.oldest 0x16 = some c → c.arg0.getLsbD 0 = true → ∃ v : State, v.sup.hist = [] ∧ v.sup.histLost = 0 ∧
      let u := { v with svc := { v.svc with cleared := true } }.raise 0x0A 4 0 0 0x97 (max s.time c.due)
      exec .faultCleared s = .next (u.finishW c stOk
        (u.faultMask + at_ u.safeMask 8 + at_ (b2n u.sup.estopHeld) 10 + at_ (b2n u.sup.mbrk) 11 + at_ 1 12))) ∧
    (s.oldest 0x0C = some c →
      let b := max s.time c.due
      let v := s.adv b
      let l := s.maskMach c.aux
      ((l.all fun m => v.setCoefOk m (1 - v.bankOf m) && v.machCoefOk m (1 - v.bankOf m)) = true →
        let u := l.foldl (fun s m => s.swapMach m b) v
        exec .bankSwapped s = .next (u.finishW c stOk (u.bankOf 0 + 2 * u.bankOf 1))) ∧
      ((l.all fun m => v.setCoefOk m (1 - v.bankOf m) && v.machCoefOk m (1 - v.bankOf m)) = false →
        exec .bankSwapped s =
          .next ((l.foldl (fun s m => s.modMach m fun x => { x with loop := { x.loop with swap := false } }) v).finishW c stRefusedState 0))) ∧
    ((s.host.waiting.find? fun c => c.opc == 0x50 && !(s.pcr.transit && s.pcr.target != 3 && decide (c.due ≤ s.pcr.transitEnd))) = some c →
      c.aux = 3 → exec .powerChanged s =
        .next ({ (s.adv (max s.time c.due)) with pcr := { s.pcr with transit := true, target := 3, transitEnd := max s.time c.due } }.finishW c stOk 3))

/-- A PG_DIRECT that enters direct mode is refused unless the device is started and in RUN, every group named is OFF and not latched and the staged set is usable or the timebase runs; otherwise it waits. Leaving with no timebase completes OK at once. Entry starts the timebase and puts the groups in direct mode, leaving takes them out; both complete OK with the groups in direct mode. COMMIT and DIRECT_BOUNDARY run on the commits staged. [R173, R174, R175, R176, R177, R178] -/
def Obligations.DirectModeRule : Prop :=
  (∀ (s : State) (q : CmdQ), Begins s q → bits q.arg0 31 9 = 0 → q.arg1 = 0 → (groupsIn (bits q.arg0 7 0)).isEmpty = false →
    (groupsIn (bits q.arg0 7 0)).all s.setConf = true →
    let u := taken s q
    (s.notOwner = true → exec (.pgDirect q) s = .next (done s q 0x18 stRefusedState 0)) ∧
    (s.notOwner = false → q.arg0.getLsbD 8 = true →
      (u.started = true → u.pwr = 0 → (groupsIn (bits q.arg0 7 0)).all (fun g => u.rowOf g == .off && !u.groups[g].hiz) = true →
        (u.directMask ≠ 0 ∨ u.stagedOk = true) → exec (.pgDirect q) s = .next (waits s q 0x18 (u.dirDue u.time) 1)) ∧
      ((u.started = false ∨ u.pwr ≠ 0 ∨ (groupsIn (bits q.arg0 7 0)).all (fun g => u.rowOf g == .off && !u.groups[g].hiz) = false ∨
        u.directMask = 0 ∧ u.stagedOk = false) → exec (.pgDirect q) s = .next (done s q 0x18 stRefusedState 0))) ∧
    (s.notOwner = false → q.arg0.getLsbD 8 = false → s.direct.next = none → exec (.pgDirect q) s = .next (done s q 0x18 stOk u.directMask)) ∧
    (s.notOwner = false → q.arg0.getLsbD 8 = false → s.direct.next ≠ none → exec (.pgDirect q) s = .next (waits s q 0x18 (u.dirDue u.time) 0))) ∧
  (∀ (s : State) (c : Waiting) (b : Time), s.oldestDirect 1 = some c → s.dirAct c.due = some b →
    let t := max s.time b
    let u := ((groupsIn (bits c.arg0 7 0)).foldl (fun s g => s.dirJoin g t) ((s.adv t).dirStart b)).retrip
    let v := u.raise 0x0A 8 3 0 (0x64 + at_ u.directMask 8) t
    exec .directEnter s = .next (v.finishW c stOk v.directMask)) ∧
  (∀ (s : State) (c : Waiting) (b : Time), s.oldestDirect 0 = some c → s.dirAct c.due = some b →
    let t := max s.time b
    let u := ((groupsIn (bits c.arg0 7 0)).foldl (fun s g => s.dirDrop g t) (s.adv t)).dirStop
    let v := u.raise 0x0A 8 3 0 (0x65 + at_ u.directMask 8) t
    exec .directLeave s = .next (v.finishW c stOk v.directMask)) ∧
  (∀ (s : State) (t : Time), s.regsOn = true → exec (.commit t) s = .next (s.adv t).commitNow) ∧
  (∀ (s : State) (b : Time), s.direct.next = some b → s.direct.pending = none → ∃ u, exec .directBoundary s = .next u ∧
    u.direct.cur = b ∧ u.direct.next = some (b + 2 * s.direct.period) ∧ u.edges = s.edges ++ (s.adv (max s.time b)).dirEdges b ∧
    u.time = max s.time b ∧ u.chans = s.chans)

/-- STREAM_SLOT_WRITE, CAL_TAG_WRITE, CAL_FACTOR_WRITE, WINDOW_CONFIG_WRITE, GLK_CMD_GO, OTP_CMD_READ, OTP_CMD_MARGIN, OTP_CMD_PROGRAM, COMMIT, HEALTH_CLEAR and PCIE_LOOPBACK_GO run their register's effect at their instant; while a reset is asserted or the device is in DEEP they leave everything but the time as it is. [R205, R214, R217, R248, R401, R402, R457, R40, R177] -/
def Obligations.WriteRowsReachTheirUnit : Prop :=
  ∀ (s : State) (t : Time) (v : Word) (i : Fin 32) (n : Fin 20) (a : Fin 44) (p : Fin 16) (g : Fin 8),
    (s.regsOn = true →
      exec (.streamSlotWrite i v t) s = .next ((s.adv t).writeSlot i v) ∧
      exec (.calTagWrite v t) s = .next ((s.adv t).writeCalTag v) ∧
      exec (.calFactorWrite (.ofs a) v t) s = .next ((s.adv t).writeFactor regAcqCalOfs a v) ∧
      exec (.calFactorWrite (.gain a) v t) s = .next ((s.adv t).writeFactor regAcqCalGain a v) ∧
      exec (.calFactorWrite (.skew p) v t) s = .next ((s.adv t).writeFactor regAcqCalSkew p v).reBound ∧
      exec (.windowConfigWrite n v t) s = .next ((s.adv t).writeWindow n v) ∧
      exec (.glkCmdGo g v t) s = .next ((s.adv t).writeGlkCmd g v) ∧
      exec (.otpCmdRead t) s = .next ((s.adv t).otpCmdRead false) ∧
      exec (.otpCmdMargin t) s = .next ((s.adv t).otpCmdRead true) ∧
      exec (.otpCmdProgram t) s = .next (s.adv t).otpCmdProgram ∧
      exec (.healthClear v t) s = .next ((s.adv t).writeWord regGlbHealth 0 0 v) ∧
      exec (.pcieLoopbackGo t) s = .next (s.adv t).pcieGo) ∧
    (s.regsOn = false → ∀ c ∈ [Instr.streamSlotWrite i v t, .calTagWrite v t, .calFactorWrite (.ofs a) v t, .calFactorWrite (.gain a) v t,
        .calFactorWrite (.skew p) v t, .windowConfigWrite n v t, .glkCmdGo g v t, .otpCmdRead t, .otpCmdMargin t, .otpCmdProgram t, .healthClear v t,
        .pcieLoopbackGo t, .commit t], exec c s = .next (s.adv t))

/-- HEALTH_CLEAR clears exactly the bits [7:0] of GLB_HEALTH that it writes as 1 and leaves every other stored word, node, channel and host structure as it was. [R40, R8, Table 0.2] -/
def Obligations.HealthClearRule : Prop :=
  ∀ (s : State) (v : Word) (t : Time), s.regsWf → s.regsOn = true → ∃ u, exec (.healthClear v t) s = .next u ∧
    u.rget regGlbHealth 0 = s.rget regGlbHealth 0 &&& ~~~(v &&& 0xFF#32) ∧
    (∀ off, off ≠ regGlbHealth.off 0 0 → alGet u.regs off = alGet s.regs off) ∧ u = { s with time := max s.time t, regs := u.regs }

/-- ADC_CALIBRATE on an owner in RUN with no drive running, no calibration, no self-test and no chopper supervised (and, for offset-only, a valid calibration) closes the open quads and starts; each phase end counts the phase and keeps its results until the last phase applies them. ADC_URGENT that the converter admits queues one request behind those that have arrived and waits for it. [R199, R201, R202, R203] -/
def Obligations.CalibrationRule : Prop :=
  (∀ (s : State) (q : CmdQ) (k : Fin 8), Begins s q → bits q.arg0 31 1 = 0 → q.arg1 = 0 →
    let u := taken s q
    u.notOwner = false → u.pwr = 0 → u.drivesAny = false → u.lopRuns 0x20 = false → u.lopRuns 0x40 = false →
    (u.started && (u.chopSup 0 || u.chopSup 1)) = false → (q.arg0.getLsbD 0 && !u.acq.calValid) = false → u.freeSlot = some k →
    exec (.adcCalibrate q) s = .next ((u.closeAll).lopStart (s.ctx q 0x20))) ∧
  (∀ (s : State) (k : Fin 8) (vals : List (Fin 44 × Int)) (t : Time), s.running 0x20 = some k → s.host.lops[k].phase = 0 → s.host.lops[k].arg0.getLsbD 0 = false →
    ∃ u : State, exec (.calPhaseEnd vals t) s = .next (if (u.lopPause k 1 0).2 then (u.lopPause k 1 0).1 else (u.lopPause k 1 0).1.gridStart) ∧
      u.time = max s.time (max t (s.host.lops[k].since + calTime 0)) ∧
      u.host.lops[k].phase = 1 ∧ u.host.lops[k].res = s.host.lops[k].res ++ vals.map fun v => calPack 0 v.1.val v.2) ∧
  (∀ (s : State) (q : CmdQ), Begins s q → bits q.arg0 31 8 = 0 → q.arg1 = 0 → 0x40 ≤ bits q.arg0 7 0 → bits q.arg0 7 0 ≤ 0x55 →
    let u := taken s q
    let n := convOf (bits q.arg0 7 0)
    u.pwr < 2 → u.lopRuns 0x20 = false → (u.acq.urgents.filter fun x => x.host && x.conv == n).length < 2 →
    (u.acq.urgents.filter fun x => x.conv == n).length < 4 →
    exec (.adcUrgent q) s = .next ((u.askUrgent n (bits q.arg0 7 0) true u.time).await { s.ctx q 0x21 with aux := bits q.arg0 7 0 }) ∧
    (u.askUrgent n (bits q.arg0 7 0) true u.time).acq.urgents = (u.acq.urgents.filter fun x => decide (x.at_ ≤ u.time)) ++
      [⟨n, bits q.arg0 7 0, true, u.time, if u.sleeps n && !u.convBusy n u.time && u.acq.urgents.all (fun x => x.conv != n || decide (u.time < x.at_)) then u.time + 2 * us1 else u.time⟩] ++ u.acq.urgents.filter fun x => !decide (x.at_ ≤ u.time))

/-- A fast or link result clamps its input where it lies beyond twice full scale, is scaled, flagged, streamed and kept as the newest of its input if its instant is one of the grid, does nothing else if it is not, and wakes the set cells that waited for it; a scheduled housekeeping result that is due, on a converter that is free and has no urgent request, is delivered and moves its schedule on; a conversion that a host asked for answers the request, in order of arrival, and the one of OTP_VPP that a burn's pre-check asked for is judged by it; a chopper check's result judges the open check; a floating-phase result of a driving set at an instant of its schedule is judged as a crossing sample. [R185, R191, R193, R196, R198, R199, R210, R57, R60, R244, R398] -/
def Obligations.SamplesArrive : Prop :=
  (∀ (s : State) (c : Fin 34) (raw : Int) (b : Bool) (t : Time), let u := s.adv t
    exec (.sampleResult c raw b t) s = .next (u.sampleIn c raw b t).cellsWake ∧
    (c.val < 32 → u.takesInstant (Fin.ofNat 16 (c.val / 2)) (c.val % 2 == 1) t = false → u.sampleIn c raw false t = u) ∧
    (c.val < 32 → u.takesInstant (Fin.ofNat 16 (c.val / 2)) (c.val % 2 == 1) t = true → ∃ x : Sample, x.t = t ∧
      ((u.sampleIn c raw false t).acq.pairs[(Fin.ofNat 16 (c.val / 2) : Fin 16)]).hist = (x :: (u.acq.pairs[(Fin.ofNat 16 (c.val / 2) : Fin 16)]).hist).take 16) ∧
    (c.val = 32 → u.gridOn = true → u.onGrid 200 t = true → u.acq.gridAt ≤ t → u.awake 40 u.acq.runAt t = true →
      ∃ x : Sample, (u.sampleIn c raw false t).acq.link0 = (x :: u.acq.link0).take 16 ∧ x.t = t)) ∧
  (∀ (s : State) (chan : BitVec 8) (i : Fin 22) (raw : Int) (t : Time), let u := s.adv t
    chan.toNat = 0x40 + i.val → u.pcr.state < 2 → u.calRuns = false → u.pcr.asserted = none → u.convFree (convOf chan.toNat) t = true →
    u.urgentAt (convOf chan.toNat) t = none → u.urgentHeld (convOf chan.toNat) t = false →
    (u.hkTakes i t = true → exec (.housekeepingConversion chan raw t) s = .next ((u.hkServed i).hkResult chan.toNat raw (u.hkSlot i) true).1) ∧
    (u.hkTakes i t = false → exec (.housekeepingConversion chan raw t) s = .next u)) ∧
  (∀ (s : State) (chan : BitVec 8) (r : Urgent) (raw : Int) (t : Time), let u := s.adv t
    0x40 ≤ chan.toNat → chan.toNat ≤ 0x55 → u.pcr.state < 2 → u.calRuns = false → u.pcr.asserted = none → u.convFree (convOf chan.toNat) t = true →
    u.urgentAt (convOf chan.toNat) t = some r → r.chan = chan.toNat →
    let v := u.hkResult chan.toNat raw t false
    (r.host = true → exec (.housekeepingConversion chan raw t) s = .next (v.1.answerUrgent r v.2)) ∧
    (r.host = false → chan = 0x49 → exec (.housekeepingConversion chan raw t) s = .next (v.1.dropUrgent r).burnVpp)) ∧
  (∀ (s : State) (r : Urgent) (raw : Int) (t : Time), let u := s.adv t
    u.urgentAt 42 t = some r → r.host = false → r.chan = 0x40 → u.pcr.state < 2 → u.pcr.asserted = none → u.convFree 42 t = true → u.calRuns = false →
    let v := (u.dropUrgent r).hkSample 0x40 raw t
    exec (.chopperCheckConversion 0 raw t) s = .next ((v.1.aspFeed 0x40 v.2).openCheck 0 v.2)) ∧
  (∀ (s : State) (w : Fin 8) (sec : Fin 6) (raw : Int) (t : Time), let u := s.adv t
    u.sets[w].sector = some sec → u.cellRuns w = true → u.gridOn = true → u.convFree (32 + w.val) t = true → u.urgentHeld (32 + w.val) t = false → u.zcFrom w t = some t →
    let r := u.vcSample w (floatLeg sec).val raw t
    (r.2.flags &&& flREC != 0) = false →
    exec (.floatingPhaseSample w raw t) s = .next (r.1.crossSample w t (intR r.2.code * f32v (r.1.rget regComVphGain w)) (r.1.vdcOf (machOf w) t)
      (r.2.flags &&& flOVR != 0)))

/-- A member of a mapped pair with three results of a round missing on the running grid, or stuck while the other member moves, is taken out of its pair, and with fewer missing or not stuck it stays; a run of DIV_COUNT diverging samples sets the reference check at the next boundary; a check that finds both members good ends the divergence and reports it; a window of 8,192 residuals adapts OFS_D and SKEW_D. [R200, R206, R207, R208] -/
def Obligations.PairMembersRule : Prop :=
  (∀ (s : State) (p : Fin 16) (odd : Bool) (t : Time), (if odd then s.acq.pairs[p].failO else s.acq.pairs[p].failE) = false →
    s.rb regAcqIsMap p 7 = true → (s.adv t).gridOn = true →
    (3 ≤ (s.adv t).missing p odd (max s.time t) → exec (.memberFailure p odd false t) s = .next ((s.adv t).failMember p odd 2 (max s.time t))) ∧
    ((s.adv t).missing p odd (max s.time t) < 3 → exec (.memberFailure p odd false t) s = .next (s.adv t)) ∧
    ((if odd then s.acq.pairs[p].failE else s.acq.pairs[p].failO) = false →
      ((s.acq.pairs[p].member odd).stuck = true → exec (.memberFailure p odd true t) s = .next ((s.adv t).failMember p odd 3 (max s.time t))) ∧
      ((s.acq.pairs[p].member odd).stuck = false → exec (.memberFailure p odd true t) s = .next (s.adv t)))) ∧
  (∀ (s : State) (p : Fin 16), s.rf regAcqCtl 0 19 16 ≤ s.acq.pairs[p].run → s.acq.pairs[p].checkDue = none →
    exec (.pairDivergeRun p) s = .next (s.modPair p fun y => { y with checkDue := some (s.fpNext s.time) })) ∧
  (∀ (s : State) (p : Fin 16) (b : Time) (e o : Int), s.acq.pairs[p].checkDue = some b →
    let v := s.adv ((s.refSlots b).getLastD b + 250)
    v.gridOn = true → v.pairSingle p = false → v.rb regAcqIsMap p 7 = true →
    absR (intR ((v.code14 (2 * p.val) 0 e).1 - 4096)) ≤ 16 → absR (intR ((v.code14 (2 * p.val + 1) s.acq.pairs[p].ofsD o).1 - 4096)) ≤ 16 →
    exec (.referenceCheck p e o) s = .next (((v.rcount regAcqPairStat p 15 8 1).modPair p fun y =>
      { y with checkDue := none, checkAt := some b, run := 0, diverging := false }).raise 5 8 1 0 (0x71 + at_ p.val 8) v.time)) ∧
  (∀ (s : State) (p : Fin 16), s.acq.pairs[p].n = 8192 → ∃ u, exec (.trackUpdate p) s = .next u ∧ u.acq.pairs[p].n = 0 ∧ u.acq.pairs[p].sr = 0 ∧
    u.acq.pairs[p].ofsD = (boundI (s.acq.pairs[p].ofsD + roundR (4 * s.acq.pairs[p].sr / 8192)) 1024).1 ∧ u.chans = s.chans)

/-- TRACE_ARM with a mask that no refusal names, and TRACE_STOP, wait for the FP boundary and act there on every channel of their mask, completing OK. A trigger seen while armed starts the post-trigger part and raises TRACE_TRIGGER; a complete window is dumped; an emptied channel is done, raises TRACE_DONE and, with AUTO, arms again; a channel that was stopped becomes idle. [R377, R378, R379, R382, R383, R384] -/
def Obligations.TraceChannelRule : Prop :=
  (∀ (s : State) (q : CmdQ), Begins s q → bits q.arg0 31 16 = 0 → q.arg1 = 0 →
    (bits q.arg0 15 0 ≠ 0 → (taken s q).armRefusal (bits q.arg0 15 0) = none →
      exec (.traceArm q) s = .next (waits s q 0x28 ((taken s q).fpAfter s.time) (bits q.arg0 15 0))) ∧
    (∀ k ch, bits q.arg0 15 0 ≠ 0 → (taken s q).armRefusal (bits q.arg0 15 0) = some (k, ch) →
      exec (.traceArm q) s = .next (done s q 0x28 stRefusedState (k + at_ ch.val 16))) ∧
    exec (.traceStop q) s = .next (waits s q 0x29 ((taken s q).fpAfter s.time) (bits q.arg0 15 0))) ∧
  (∀ (s : State) (w : Waiting),
    (s.oldest 0x28 = some w → exec .traceArmed s =
      .next ((forFin 16 (s.adv w.due) fun s c => if Nat.testBit w.aux c.val then s.siloArm c w.due else s).finishW w stOk 0)) ∧
    (s.oldest 0x29 = some w → exec .stopped s =
      .next ((forFin 16 (s.adv w.due) fun s c => if Nat.testBit w.aux c.val then s.siloStop c w.due else s).finishW w stOk 0))) ∧
  (∀ (s : State) (c : Fin 16) (t : Time) (ft : Bool) (l : List (Time × Bool)), s.silo[c].trigDue = (t, ft) :: l → s.silo[c].state = 1 →
    ∃ u : State, exec (.traceTrigger c) s = .next (u.siloEvent c 0xD0 (at_ (b2n ft) 12) t) ∧ u.silo[c].state = 2 ∧ u.silo[c].trig = some t ∧
      u.silo[c].trigDue = [] ∧ ∀ j, j ≠ c → u.silo[j] = s.silo[j]) ∧
  (∀ (s : State) (c : Fin 16), s.silo[c].state = 2 → s.trcPost c ≤ s.silo[c].postHeld →
    exec (.traceWindowComplete c) s = .next (s.siloDump c (s.trcPost c) false)) ∧
  (∀ (s : State) (q : Fin 4), exec (.traceQuadDelivery q) s = .next ((s.tqRing q).allTraceMarks.fenceTry)) ∧
  (∀ (s : State) (c : Fin 16), s.silo[c].state = 3 → s.silo[c].outq = [] →
    (s.silo[c].stopped = true → exec (.traceDone c) s = .next (s.modSilo c fun x => { x with state := 0, stopped := false })) ∧
    (s.silo[c].stopped = false → exec (.traceDone c) s =
      .next ((s.modSilo c fun x => { x with state := 4, rearm := s.rb regTrcCfg c 29 }).siloEvent c 0xD1 (at_ (s.silo[c].quads % 65536) 16) s.time)))

/-- A block that meets R370 starts a long operation unless its nodes refuse the load or the device is in DEEP. A chunk of a load whose values all pass is written, and one with a bad value ends the load VERIFY_FAIL with the node in RESULT; the last chunk of a store without poisoned words ends it OK. A single-bit error found in node RAM is counted; an uncorrectable one poisons the word and raises FAULT. [R370, R371, R372] -/
def Obligations.BlockTransferRule : Prop :=
  (∀ (s : State) (q : CmdQ), Begins s q → blockOk q.arg0 q.arg1 = true →
    let u := taken s q
    (rowLoadable (nodeRow (blockOf q.arg0).1) = true → u.nodeRefused (blockOf q.arg0).1 = true →
      exec (.nodeBlockLoad q) s = .next (done s q 0x0A stRefusedState 0)) ∧
    (rowLoadable (nodeRow (blockOf q.arg0).1) = true → u.nodeRefused (blockOf q.arg0).1 = false →
      exec (.nodeBlockLoad q) s = .next (u.lopStart (s.ctx q 0x0A))) ∧
    (u.pwr = 3 → exec (.nodeBlockStore q) s = .next (done s q 0x0B stRefusedState 0)) ∧
    (u.pwr ≠ 3 → exec (.nodeBlockStore q) s = .next (u.lopStart (s.ctx q 0x0B)))) ∧
  (∀ (s : State) (k : Fin 8) (data : List Word) (t : Time),
    let v := s.adv t
    let l := v.host.lops[k]
    let f := (blockOf l.arg0).1 + 1024 * l.phase
    let n := min 1024 ((blockOf l.arg0).2 - 1024 * l.phase)
    let more := decide (1024 * l.phase + n < (blockOf l.arg0).2)
    (l.state = 1 → l.opc = 0x0A → v.busOk = true → ∀ id, firstBad f data n = some id →
      exec (.blockChunkDone k data t) s = .next (v.lopEnd k stVerifyFail id)) ∧
    (l.state = 1 → l.opc = 0x0A → v.busOk = true → firstBad f data n = none →
      exec (.blockChunkDone k data t) s = .next ((v.loadChunk f data n).blockNext k more stOk 0)) ∧
    (l.state = 1 → l.opc = 0x0B → v.busOk = true → l.res = [] → ((List.range n).filter fun i => v.poisoned (f + i)) = [] →
      exec (.blockChunkDone k data t) s = .next (((v.storeChunk (l.arg1.toNat + 4 * (1024 * l.phase)) f n).modLop k fun x => { x with res := [] }).blockNext k more stOk 0))) ∧
  (∀ (s : State) (id : BitVec 17) (t : Time), id.toNat < 0x1A800 →
    (s.poisoned id.toNat = false → ∃ u : State, exec (.nodeScrub id true t) s = .next (u.raise 1 8 6 2 (0x95 + at_ id.toNat 8) u.time) ∧
      u = { s.adv t with ecc := { s.ecc with poison := insertNat id.toNat s.ecc.poison } }) ∧
    (∃ u : State, exec (.nodeScrub id false t) s = .next u ∧
      u.ecc.fixes = (max s.time t, id.toNat) :: s.ecc.fixes.filter (fun x => decide (max s.time t < x.1 + 60 * s1)) ∧ u.ecc.poison = s.ecc.poison ∧ u.nodes = s.nodes))

/-- OTP_PROGRAM is refused in order LIFECYCLE, LOCKED, busy or power, temperature; then its data are fetched (while transfers are stopped it waits: the model's choice, log 159) and its first word's pre-check asks for OTP_VPP, which refuses it REFUSED_SUPPLY or starts the long operation and its words. OTP_LOCK and LIFECYCLE_ADVANCE, their conditions met, wait and burn their three raw words (with the seal of region 2 from BLANK). A scan starts unless an OTP operation runs. A pulse that meets every bit ends its word; one that leaves a bit unmet counts a round, and the eighth such round ends the word FAILED and raises OTP_FAILED. A region scanned last ends the scan OK. The Gleaner scans when due and counts its scan. [R394, R395, R396, R397, R398, R399, R403, R404] -/
def Obligations.OtpCommands : Prop :=
  (∀ (s : State) (q : CmdQ) (data : List Word), Begins s q → bits q.arg0 31 16 = 0 → q.arg1.toNat % 4 = 0 →
    let a := bits q.arg0 9 0
    let r := a / 64
    (a + (bits q.arg0 15 10 + 1) - 1) / 64 = r → r ≠ 2 → r ≠ 15 →
    let u := taken s q
    (u.lcProgram r = false → exec (.otpProgram q data) s = .next (done s q 0x30 stLifecycle 0)) ∧
    (u.lcProgram r = true → u.otpWl r = true → exec (.otpProgram q data) s = .next (done s q 0x30 stLocked 0)) ∧
    (u.lcProgram r = true → u.otpWl r = false → u.otpBusy = true ∨ 2 ≤ u.pwr → exec (.otpProgram q data) s = .next (done s q 0x30 stRefusedState 0)) ∧
    (u.lcProgram r = true → u.otpWl r = false → u.otpBusy = false → u.pwr < 2 →
      (u.otpWin = false → exec (.otpProgram q data) s = .next (done s q 0x30 stRefusedTemp 0)) ∧
      (u.otpWin = true → s.busOk = true → exec (.otpProgram q data) s =
        .next ((u.await (s.ctx q 0x30)).burnStart 1 (data.zipIdx.map fun (d, i) => (a + i, otpCodeword (a + i) d)) 8 r 0 false)) ∧
      (u.otpWin = true → s.busOk = false → exec (.otpProgram q data) s = .next s))) ∧
  (∀ (s : State) (b : BurnSt) (a : Nat) (v : BitVec 39) (rest : List (Nat × BitVec 39)), s.otp.burn = some b → b.words = (a, v) :: rest → b.pre = true →
    (s.vppOk = false → s.burnVpp = s.burnEnd b stRefusedSupply 3) ∧
    (s.vppOk = true → b.kind = 1 → b.slot = 8 → ∀ c k, s.oldest 0x30 = some c → s.freeSlot = some k →
      let u := (({ s with host := { s.host with waiting := s.host.waiting.erase c } } : State).lopStart c).closeTry c.ring
      let b1 := { b with pre := false, slot := k.val }
      s.burnVpp = ({ u with otp := { u.otp with burn := some b1 } } : State).burnRead b1 a v rest) ∧
    (s.vppOk = true → b.kind ≠ 1 ∨ b.slot ≠ 8 →
      s.burnVpp = ({ s with otp := { s.otp with burn := some { b with pre := false } } } : State).burnRead { b with pre := false } a v rest)) ∧
  (∀ (s : State) (q : CmdQ), Begins s q → bits q.arg0 31 9 = 0 → bits q.arg0 7 6 = 0 → q.arg1 = 0 → q.arg0.getLsbD 4 = true → q.arg0.getLsbD 5 = false →
    let r := bits q.arg0 3 0
    let u := taken s q
    u.otp.lc ≠ 0 → u.otp.lc ≠ 4 → u.otp.lcBad = false → u.otpWl 15 = false → u.otpBusy = false → u.pwr < 2 → u.otpWin = true →
    r = 15 ∨ u.otpStatus r false = 1 →
    exec (.otpLock q) s = .next ((u.await (s.ctx q 0x31)).burnStart 3 ([960, 961, 962].map fun a => (a, 1#39 <<< r)) 0 r 1 false)) ∧
  (∀ (s : State) (q : CmdQ), Begins s q → bits q.arg0 31 16 = 0 → q.arg1 = 0 →
    let u := taken s q
    (u.otpBusy = true → exec (.otpMarginScan q) s = .next (done s q 0x32 stRefusedState 0)) ∧
    (u.otpBusy = false → exec (.otpMarginScan q) s = .next (u.lopStart (s.ctx q 0x32)))) ∧
  (∀ (s : State) (q : CmdQ), Begins s q → bits q.arg0 31 3 = 0 → q.arg1 = 0 → bits q.arg0 2 0 = 1 →
    let u := taken s q
    (u.otp.lc = 4 ∨ u.otp.lc = 2 → exec (.lifecycleAdvance q) s = .next (done s q 0x33 stLifecycle 0)) ∧
    (u.otp.lc = 0 → u.otp.lcBad = false → u.otpBusy = false → u.pwr < 2 → u.otpWin = true →
      exec (.lifecycleAdvance q) s = .next ((u.await (s.ctx q 0x33)).burnStart 5 [(128, 1#39), (129, 1#39), (130, 1#39), (191, otpCodeword 191 (u.otpSeal 2))] 0 2 1 false))) ∧
  (∀ (s : State) (b : BurnSt) (a : Nat) (tgt : BitVec 39) (rest : List (Nat × BitVec 39)) (x y : BitVec 39) (t : Time),
    s.otp.burn = some b → b.words = (a, tgt) :: rest → b.started = true → b.kind = 3 → b.cut = 0 →
    let v := { (s.adv t).otpStore a (otpAfter (s.otpNorm a) (x ||| y) tgt) (otpAfter (s.otpMarg a) y tgt) with otp := { ((s.adv t).otpStore a (otpAfter (s.otpNorm a) (x ||| y) tgt) (otpAfter (s.otpMarg a) y tgt)).otp with lastRounds := s.otp.lastRounds } }
    (v.burnMet a tgt = true → exec (.otpBurnRound x y t) s = .next (v.burnNext { b with rounds := b.rounds + 1 } a rest)) ∧
    (v.burnMet a tgt = false → b.rounds + 1 < 8 → exec (.otpBurnRound x y t) s = .next (v.modBurn fun x => { x with rounds := b.rounds + 1 })) ∧
    (v.burnMet a tgt = false → 8 ≤ b.rounds + 1 → exec (.otpBurnRound x y t) s =
      .next (((v.otpFinding a 3 v.time).raise 8 8 0x0A 0 (0xE2 + at_ a 8) v.time).burnEnd { b with rounds := b.rounds + 1 } stVerifyFail 2))) ∧
  (∀ (s : State) (k : Fin 8) (r : Fin 16) (t : Time), (s.adv t).running 0x32 = some k →
    let v := s.adv t
    let l := scanRegions (bits v.host.lops[k].arg0 15 0)
    let n := v.host.lops[k].phase
    l[n]? = some r → n + 1 = l.length →
    let w := (v.otpJudge r true v.time).modLop k fun x => { x with phase := n + 1 }
    exec (.scanRegionDone t) s = .next (w.lopEnd k stOk (w.scanResult (l.take (n + 1))))) ∧
  (∀ (s : State) (t : Time),
    let v := (s.adv t).scanNote
    (s.otp.loaded = true → (s.adv t).gleanDue = true ∨ s.otp.scanDue = true → v.otp.scanDue = true) ∧
    (v.otp.loaded = true → v.otpBusy = false → v.pwr ≠ 3 → v.pcr.asserted = none → v.otp.scanDue = true →
    ∃ u : State, exec (.gleanerScanDue t) s = .next u ∧ u.otp.scans = ((v.otpJudgeAll true v.time).otp.scans + 1) % 65536 ∧ u.otp.scanAt = (v.otpJudgeAll true v.time).time ∧ u.otp.scanDue = false))

/-- Measuring an image in place always makes its SHA-384 the digest held, sets MEASURED and the length, and logs it. BOOT_GO with READY and a legal length measures the words of the window as a host image; with an illegal length it only sets BAD_LEN. A window write stores its word while READY. A double read of the flash that agrees is measured, a failed one is counted, and the third is a boot failure. Measured firmware comes to run. The shadow is loaded once. [R331, R332, R389, R407, R408, R409, R412, R413] -/
def Obligations.FirmwareIsMeasured : Prop :=
  (∀ (s : State) (mgr : Bool) (t : Time),
    (s.measure mgr t).msr.measured = true ∧ (s.measure mgr t).msr.digest = sha384 s.msr.image ∧ (s.measure mgr t).msr.len = s.msr.image.length ∧
    (s.measure mgr t).msr.image = s.msr.image ∧
    (mgr = false → ∃ e : MeasE, (s.measure mgr t).msr.log = [e] ∧ e.digest = sha384 s.msr.image ∧ e.mgr = false)) ∧
  (∀ (s : State) (t : Time), (s.adv t).regsOn = true → s.msr.ready = true →
    let n := s.rf regGlbBootLen 0 21 0
    (imageLenOk n = false → exec (.bootGo t) s = .next ((s.adv t).rset regGlbBoot 0 (s.rget regGlbBoot 0 ||| 8))) ∧
    (imageLenOk n = true → exec (.bootGo t) s = .next (({ s.adv t with msr := { s.msr with ready := false, srcHost := true, image := wordBytes ((List.range (n / 4)).map s.bar4W) } }).measure false (s.adv t).time))) ∧
  (∀ (s : State) (off : BitVec 19) (v : Word) (t : Time), (s.adv t).regsOn = true → s.msr.ready = true →
    exec (.firmwareWindowWrite off v t) s = .next { s.adv t with msr := { s.msr with bar4 := alPut 0 s.msr.bar4 off.toNat v } }) ∧
  (∀ (s : State) (a b : List (BitVec 8)) (t : Time), (s.adv t).bootReads = true →
    (∀ img, flashImage a b = some img →
      exec (.qspiImageRead a b t) s = .next (({ s.adv t with msr := { s.msr with srcHost := false, image := img } }).measure false (s.adv t).time)) ∧
    (flashImage a b = none →
      exec (.qspiImageRead a b t) s = .next { s.adv t with msr := { s.msr with tries := s.msr.tries + 1, bootFail := decide (2 ≤ s.msr.tries) } })) ∧
  (∀ (s : State) (t : Time), s.msr.measured = true → s.msr.running = false → s.msr.mgr = false → s.pcr.asserted = none → s.pcr.state ≠ 3 →
    exec (.firmwareRunning t) s = .next { s.adv t with msr := { s.msr with running := true } }) ∧
  (∀ (s : State) (t : Time), s.otp.loaded = false → s.pcr.asserted = none →
    let a := ({ s.adv t with otp := { s.otp with lc := 0, lcBad := false, weakSeen := [], loaded := true, scanAt := max s.time t, scanBands := [] } } : State)
    let b := a.otpJudgeAll false a.time
    let c := { b with otp := { b.otp with shadow := (List.finRange 16).flatMap b.shadowOf } }
    exec (.otpShadowLoad t) s = .next (({ c with thm := { c.thm with sens := c.sensTrims } } : State).lowerLevels.loadKeys.bootStart.soloAlone c.time))

/-- ATTEST, its nonce fetched (while transfers are stopped it waits: the model's choice, log 159), joins the signing queue and waits, or is refused in DEEP. The oldest request's report is written to host memory and completes OK with 928, is shown in the service window with SVC_IRQ.ATTEST set, or is sent to the partner; each counts. An unfed watchdog of running firmware and an uncorrectable lockstep mismatch perform MGR, a corrected one is a health degradation. After MGR a word whose pulse it let complete without a verify is ended (INCOMPLETE), the image is measured again, lost work is answered, and firmware runs if measured. [R358, R415, R417, R418, R420, R440, R441] -/
def Obligations.ManagementCoreRule : Prop :=
  (∀ (s : State) (q : CmdQ) (nonce : BitVec 256), Begins s q → bits q.arg0 31 16 = 0 → 928 ≤ bits q.arg0 15 0 → q.arg1.toNat % 16 = 0 →
    ((taken s q).pwr = 3 → exec (.attest q nonce) s = .next (done s q 0x38 stRefusedState 0)) ∧
    ((taken s q).pwr ≠ 3 → s.busOk = false → exec (.attest q nonce) s = .next s) ∧
    ((taken s q).pwr ≠ 3 → s.busOk = true → exec (.attest q nonce) s =
      .next (({ taken s q with msr := { s.msr with queue := s.msr.queue ++ [⟨0, nonce⟩] } } : State).await (s.ctx q 0x38)))) ∧
  (∀ (s : State) (r : AttReq) (rest : List AttReq) (t : Time), s.msr.queue = r :: rest → s.msr.running = true → s.msr.mgr = false →
    s.pcr.asserted = none → s.pcr.state ≠ 3 →
    let v := s.adv t
    let w := { v with msr := { v.msr with queue := rest, reports := (v.msr.reports + 1) % 65536 } }
    (∀ c, r.who = 0 → s.busOk = true → s.oldest 0x38 = some c →
      exec (.attestReportDone t) s = .next ((w.hostWriteQuads c.arg1.toNat (bytesQuads (v.attReport r))).finishW c stOk 928)) ∧
    (r.who = 1 → exec (.attestReportDone t) s = .next (({ w with msr := { w.msr with window := v.attReport r, svcBusy := false, svcReady := true } } : State).rsetF regSvcIrq 0 4 4 1)) ∧
    (r.who = 2 → exec (.attestReportDone t) s = .next (w.sendReport (bytesQuads (v.attReport r))))) ∧
  (∀ (s : State) (t : Time), s.pcr.state ≠ 3 →
    (s.msr.running = true → exec (.mgmtWatchdogExpiry t) s = .next ((s.adv t).mgrAssert false)) ∧
    (s.pcr.asserted = none → exec (.lockstepMismatch false t) s = .next ((s.adv t).mgrAssert true)) ∧
    (s.pcr.asserted = none → exec (.lockstepMismatch true t) s = .next ((s.adv t).health 6 0x10 0 0 (s.adv t).time))) ∧
  (∀ (s : State) (t : Time), s.msr.mgr = true → s.msr.measured = true → s.pcr.state ≠ 3 →
    let v := s.adv t
    let n := (v.host.waiting.filter fun c => c.opc == opcLost).length
    let k := (v.host.lops.toList.filter fun l => l.state != 0).length
    let m : State := { v with msr := { v.msr with mgr := false }, pcr := { v.pcr with last := 5 } }
    let p := m.mgrCut
    let a := (p.measure true p.time).mgrAborts.mgrFinals
    let b := ((a.recoveryQuad (0xC5 + at_ (n % 256) 8 + at_ k 16) a.time).mgrLost a.time).flushTx
    exec (.mgrResumed t) s = .next { b with msr := { b.msr with running := b.msr.measured } })

/-- A doorbell of an enabled ring that is not stopped, whose index lies within the ring and moves it by no more than the room, sets the tail or the head; no other ring's indices change at a tail write, unless the ring is being disabled, when the new entries are flushed as the posted ones are. Any other index stops the ring with cause overflow, and an overflow of DQn stops CQn too. [R313, R316, R351] -/
def Obligations.DoorbellRule : Prop :=
  (∀ (s : State) (n : Fin 16) (v : Word) (t : Time), (s.adv t).bellOn (cqIdx n) v = true →
    let u := s.adv t
    (u.bellOk (cqIdx n) v s.host.rings[cqIdx n].tail (u.ringFree (cqIdx n)) = true →
      exec (.cqTailDoorbell n v t) s = .next ((u.modRing (cqIdx n) fun r => { r with tail := bits v 15 0 }).closeTry n)) ∧
    (u.bellOk (cqIdx n) v s.host.rings[cqIdx n].tail (u.ringFree (cqIdx n)) = true → s.host.rings[cqIdx n].closing = false → ∃ w : State, exec (.cqTailDoorbell n v t) s = .next w ∧
      w.host.rings[cqIdx n] = { s.host.rings[cqIdx n] with tail := bits v 15 0 } ∧ ∀ j, j ≠ cqIdx n → w.host.rings[j] = s.host.rings[j]) ∧
    (u.bellOk (cqIdx n) v s.host.rings[cqIdx n].tail (u.ringFree (cqIdx n)) = false → exec (.cqTailDoorbell n v t) s = .next (u.ringStop (cqIdx n) 4 u.time))) ∧
  (∀ (s : State) (i : Fin 32) (k : Fin 48) (v : Word) (t : Time), k.val = 16 + i.val → (s.adv t).bellOn k v = true →
    let u := s.adv t
    (u.bellOk k v s.host.rings[k].head (u.ringUsed k) = true →
      exec (.headDoorbell i v t) s = .next ((u.modRing k fun r => { r with head := bits v 15 0 }).pump)) ∧
    (u.bellOk k v s.host.rings[k].head (u.ringUsed k) = false → 16 ≤ i.val → exec (.headDoorbell i v t) s = .next (u.ringStop k 4 u.time)) ∧
    (u.bellOk k v s.host.rings[k].head (u.ringUsed k) = false → i.val < 16 → exec (.headDoorbell i v t) s =
      .next ((u.modRing (Fin.ofNat 48 i.val) fun r => { r with stopped := true, cause := 4 }).ringStop k 4 u.time)))

/-- Enabling a disabled ring sets EN and starts it with head and tail 0 and PHASE 1. Enabling with other settings, disabling a completion ring in use and resetting a ring that is not stopped are rejected; an event or other ring is disabled at once and reset to empty. A failed fetch stops its ring; a failed data read of a waiting ATTEST or of a running operation of the ring (of several, one that a free value names: the model's choice, log 163) completes it DMA_ERROR and stops the ring; both errors are noted as the advanced error report's. A moderation time that has passed signals the ring. [R307, R312, R330, R351, R354, R355, R356] -/
def Obligations.RingLifeRule : Prop :=
  (∀ (s : State) (i : Fin 48) (v : Word) (t : Time), (s.adv t).regsOn = true → v.getLsbD 31 = false →
    (v.getLsbD 0 = true → s.ringEn i = true → (s.rget regRngCfg i ^^^ v) &&& cfgMask ≠ 0 → exec (.ringEnable i v t) s = .next (s.adv t).writeReject) ∧
    (v.getLsbD 0 = true → s.ringEn i = false → exec (.ringEnable i v t) s =
      .next (let u := (((s.adv t).ringCfg i v).rsetF regRngCfg i 0 0 1).modRing i fun r =>
               { r with head := 0, tail := 0, phase := true, sig := 0, sigAt := none, closing := false, fetched := 0 }
             (if h : 32 ≤ i.val ∧ i.val < 36 then u.firstEq ⟨i.val - 32, by omega⟩ (s.adv t).time else u).pump)) ∧
    (v.getLsbD 0 = false → s.ringEn i = false → exec (.ringDisable i v t) s = .next ((s.adv t).ringCfg i v)) ∧
    (v.getLsbD 0 = false → s.ringEn i = true → 32 ≤ i.val → exec (.ringDisable i v t) s = .next (((s.adv t).ringFixed i v).rsetF regRngCfg i 0 0 0)) ∧
    (v.getLsbD 0 = false → s.ringEn i = true → 16 ≤ i.val → i.val < 32 → s.ringEn (cqIdx (Fin.ofNat 16 i.val)) = true →
      exec (.ringDisable i v t) s = .next (s.adv t).writeReject)) ∧
  (∀ (s : State) (i : Fin 48) (v : Word) (t : Time), (s.adv t).regsOn = true → v.getLsbD 31 = true →
    (s.host.rings[i].stopped = false → exec (.ringReset i v t) s = .next (s.adv t).writeReject) ∧
    (s.host.rings[i].stopped = true → 32 ≤ i.val →
      exec (.ringReset i v t) s = .next (((s.adv t).ringClear i).recoveryQuad (0xC2 + at_ i.val 8) (s.adv t).time)) ∧
    (s.host.rings[i].stopped = true → i.val < 32 → exec (.ringReset i v t) s = .next ((s.adv t).pairReset (Fin.ofNat 16 i.val) (s.adv t).time))) ∧
  (∀ (s : State) (n : Fin 16) (cause : DmaCause) (t : Time), s.busOk = true →
    (s.ringEn (cqIdx n) = true → s.host.rings[cqIdx n].stopped = false → 0 < s.ringUsed (cqIdx n) → s.pcr.asserted = none →
      exec (.commandFetchFail n cause t) s = .next ((s.adv t).ringError n cause)) ∧
    (let all : List (Sum Waiting (Fin 8)) := (s.host.waiting.filter fun c => c.opc == 0x38 && c.ring == n).map Sum.inl ++ ((s.adv t).dmaLops n).map Sum.inr
     let pick := all[s.free.toNat % max 1 all.length]?
     (all ≠ [] ↔ pick.isSome = true) ∧ (all = [] → exec (.dmaError n cause t) s = .next (s.adv t)) ∧
     (∀ c, pick = some (.inl c) →
       let k := ((s.host.waiting.filter fun c => c.opc == 0x38).takeWhile fun d => d != c).length
       let w := ({ (s.adv t).freeNext with msr := { s.msr with queue := dropAtt s.msr.queue k } } : State).finishW c stDmaError 0
       exec (.dmaError n cause t) s = .next (w.ringError n cause)) ∧
     (∀ k, pick = some (.inr k) →
       exec (.dmaError n cause t) s = .next (((s.adv t).freeNext.lopQuit k stDmaError s.host.lops[k].quit).ringError n cause))) ∧
    s.ringError n cause = ({ s with host := { s.host with aer := s.host.aer ||| (1#4 <<< dmaCode cause) } } : State).ringStop (cqIdx n) (dmaCode cause) s.time) ∧
  (∀ (s : State) (i : Fin 48) (t : Time) (a : Time), s.host.rings[i].sigAt = some a → s.rf regRngMod i 31 16 ≠ 0 → s.rb regRngCfg i 14 = true →
    a + us1 * s.rf regRngMod i 31 16 ≤ max s.time t → s.busOk = true → exec (.moderationTimer i t) s = .next ((s.adv t).ringSignal i))

/-- D3hot, bus mastering, the link's loss and its training set the state of the bus; what waits for transfers then goes on where they may issue; where they stop, every entry posted counts as fetched (the model's choice, log 159) and everything else runs on. D0 releases WAKE_N. Training to a speed whose budget the streams exceed cuts the slots and raises BUDGET; within the budget they stay. [R214, R306, R357, R441, R446] -/
def Obligations.BusRule : Prop :=
  ∀ (s : State) (t : Time),
    (∀ b, exec (.pciePowerState b t) s = .next (({ s.adv t with pcr := { s.pcr with wakeN := s.pcr.wakeN && b } } : State).busSet s.host.bme b s.host.linkUp)) ∧
    (∀ b, exec (.busMasterEnable b t) s = .next ((s.adv t).busSet b s.host.d3hot s.host.linkUp)) ∧
    exec (.linkDown t) s = .next ((s.adv t).busSet s.host.bme s.host.d3hot false) ∧
    (∀ bme d3 link : Bool, let v : State := { s with host := { s.host with bme := bme, d3hot := d3, linkUp := link } }
      (s.busOk = false ∨ v.busOk = true → s.busSet bme d3 link = v.pump) ∧
      (s.busOk = true → v.busOk = false → ∃ w : State, s.busSet bme d3 link = w.pump ∧ w = { v with host := { v.host with rings := w.host.rings } } ∧
        (∀ n : Fin 16, w.host.rings[cqIdx n] = { s.host.rings[cqIdx n] with fetched := s.ringUsed (cqIdx n) }) ∧
        ∀ i : Fin 48, 16 ≤ i.val → w.host.rings[i] = s.host.rings[i])) ∧
    (∀ gen : Fin 3, let u : State := { s.adv t with host := { s.host with linkGen := gen.val + 1, linkUp := true } }
      (u.used ≤ u.budget → exec (.linkSpeedChange gen t) s = .next u.pump) ∧
      ((u.budget : Rat) < u.used → exec (.linkSpeedChange gen t) s =
        .next ((u.cutSlots.rsetF regAcqStat 0 5 5 1).raise 5 8 1 0 0x76 u.time).pump))

/-- A frame of its type that passes the checks and is not stale is taken: its header sets what is known of the partner, then a BATON waits for adoption in a shadow, a REQUEST JOIN marks the partner as joining and is answered, a REQUEST HAND-OVER is answered by kind, an ATTEST NONCE queues a report, an accepting REPLY to the hand-over under way is noted, an ATTEST fragment is kept, a SYNC leaves its times, a RELAY YIELD makes a standby declare its partner lost. A frame that fails a check, or is stale, is only counted. [R280, R283, R286, R288, R292, R297, R298, R299, R417, R420] -/
def Obligations.PairFramesAccepted : Prop :=
  ∀ (s : State) (f : List Quad) (t : Time), (s.adv t).rxOn = true →
    let u := s.adv t
    (u.frameGood f = true → u.frameStale f = false →
      let v := u.frameTaken (f.getD 0 0)
      (frameIs f 1 0 = true → v.shadow = true → exec (.baton f t) s = .next { v with ypl := { v.ypl with next := some ⟨f.drop 1, v.time⟩ } }) ∧
      (frameIs f 1 0 = true → v.shadow = false → exec (.baton f t) s = .next v) ∧
      (frameIs f 2 0 = true → exec (.heartbeat f t) s = .next v) ∧
      (frameIs f 7 1 = true → exec (.relayClaim f t) s = .next v) ∧
      (frameIs f 7 2 = true → v.ypl.role = .standby → exec (.relayYield f t) s = .next (v.declareLost 2 v.time)) ∧
      (frameIs f 3 1 = true → ownerCode v.ypl.pRole.toNat = false → v.ypl.pRole ≠ 1 →
        exec (.requestJoin f t) s = .next (({ v with ypl := { v.ypl with pJoining := true } } : State).reply 1 0)) ∧
      (frameIs f 3 2 = true → v.ypl.role ≠ .standby → exec (.requestHandover f t) s = .next (v.reply 2 1)) ∧
      (frameIs f 3 2 = true → v.ypl.role = .standby → v.fitNow = true → exec (.requestHandover f t) s =
        .next (({ v with ypl := { v.ypl with hoAt := some (bitsN (f.getD 1 0).toNat 127 64 * v.fp), hoOut := false, hoPrep := false } } : State).reply 2 0)) ∧
      (frameIs f 3 3 = true → v.msr.queue = [] → exec (.requestAttestNonce f t) s =
        .next { v with msr := { v.msr with queue := [⟨2, BitVec.ofNat 256 ((f.getD 2 0).toNat + at_ (f.getD 3 0).toNat 128)⟩] } }) ∧
      (frameIs f 4 0 = true → fKind f = 2 → bitsN (f.getD 1 0).toNat 15 8 = 0 → v.ypl.hoOut = true → v.ypl.hoAt ≠ none →
        exec (.reply f t) s = .next { v with ypl := { v.ypl with hoReply := true } }) ∧
      (frameIs f 6 0 = true → exec (.attestFrame f t) s = .next { v with ypl := { v.ypl with frags := v.ypl.frags.filter (fun y => y.1 != bitsN (f.getD 1 0).toNat 7 0) ++ [(bitsN (f.getD 1 0).toNat 7 0, bitsN (f.getD 1 0).toNat 15 8, f.drop 2)] } }) ∧
      (frameIs f 5 0 = true → v.follower = false → ∃ w : State, exec (.sync f t) s = .next w ∧
        w.ypl.syncTx = BitVec.ofNat 64 (bitsN (f.getD 1 0).toNat 63 0) ∧ w.ypl.syncRx = BitVec.ofNat 64 (ticksOf (v.stamp v.time)) ∧ w.ypl.offset = v.ypl.offset)) ∧
    (u.frameGood f = false → exec (.frameDiscard f true t) s = .next (u.rcount regYplCount 0 23 16 1)) ∧
    (u.frameGood f = true → u.frameStale f = true → exec (.frameDiscard f true t) s = .next (u.rcount regYplCount 0 31 24 1))

/-- A heartbeat goes out 500 ns after the last frame, unless a yield has stopped them, and a SYNC every 10 µs with the four times. A shadow adopts its waiting baton at the first FP boundary at least 40 ns after reception. A run of divergent batons sets DIVERGED and raises DIVERGENCE. Eight good offsets align, eight bad ones lose it and raise ALIGN_LOST. A follower corrects its Pacer by one tick at most every 10 µs and never within 100 ns of an FP boundary. A lane that locks is up; one that fails is taken out and reported. [R278, R279, R281, R283, R284, R286, R289] -/
def Obligations.PairSendsAndAdopts : Prop :=
  (∀ (s : State) (t : Time), (s.adv t).maySend = true →
    (s.sup.hbStop = false → s.ypl.lastTx + 1000 ≤ max s.time t → exec (.heartbeatSend t) s = .next ((s.adv t).sendFrame 2 [])) ∧
    (s.sup.hbStop = true → exec (.heartbeatSend t) s = .next (s.adv t)) ∧
    ((s.adv t).inPair = true → s.ypl.lastSync + 10 * us1 ≤ max s.time t →
      let u := (s.adv t).sendFrame 5 [BitVec.ofNat 128 ((s.adv t).pacTime % 2 ^ 64 + at_ s.ypl.syncRx.toNat 64), BitVec.ofNat 128 s.ypl.syncTx.toNat]
      exec (.syncSend t) s = .next { u with ypl := { u.ypl with lastSync := u.time } })) ∧
  (∀ (s : State) (x : BatonSt), s.ypl.next = some x → s.shadow = true →
    exec .batonAdoption s = .next ((s.adv (max s.time (s.fpAfter x.at_))).adopt x (max s.time (s.fpAfter x.at_)))) ∧
  (∀ (s : State) (m : Fin 2), s.ypl.divDue[m] = true →
    let u : State := { s with ypl := { s.ypl with diverged := true, divDue := s.ypl.divDue.set m false } }
    exec (.divergence m) s = .next (u.raise 7 5 u.posIdx 0 (0xB4 + at_ m.val 8 + at_ (uns s.ypl.divLast[m] 16) 16) s.time)) ∧
  (∀ (s : State), (8 ≤ s.ypl.good → s.ypl.aligned = false → exec .alignmentAcquired s = .next { s with ypl := { s.ypl with aligned := true } }) ∧
    (8 ≤ s.ypl.bad → s.ypl.aligned = true → exec .alignLost s = .next (({ s with ypl := { s.ypl with aligned := false } } : State).pairEvt 0xB9 s.time))) ∧
  (∀ (s : State) (t : Time), let u := s.adv t
    u.follower = true → s.ypl.aligned = true → s.ypl.left < 0 → s.ypl.corrAt + 10 * us1 ≤ u.time → 200 ≤ u.time % u.fp → u.time % u.fp + 200 ≤ u.fp →
    exec (.pacerCorrection t) s = .next { u with time := u.time + 5, ypl := { u.ypl with corrAt := u.time, corrs := (s.ypl.corrs + 1) % 65536, left := s.ypl.left + 5 } }) ∧
  (∀ (s : State) (l : Fin 2) (t : Time),
    (s.pairEn = true → s.pcr.asserted = none → s.ypl.laneBad.getLsbD l = false →
      exec (.laneBlockLock l t) s = .next { s.adv t with ypl := { s.ypl with lanes := s.ypl.lanes ||| (1#2 <<< l.val) } }) ∧
    (s.ypl.lanes.getLsbD l = true → exec (.laneFail l t) s = .next (({ s.adv t with ypl := { s.ypl with lanes := s.ypl.lanes &&& ~~~ (1#2 <<< l.val), laneBad := s.ypl.laneBad ||| (1#2 <<< l.val) } } : State).health 4 0x0C l.val 0 (max s.time t))))

/-- A standby that hears nothing for LOSS_T raises PARTNER_LOST with cause 1 and its own fitness, then relays when it is fit and becomes UNJOINED when not; an active device becomes SOLO, refusing a hand-over it has asked for with reason 7; the other roles take no notice. At its boundary a device with CLAIM high and YIELD_IN low takes over, and OWN rises; else nothing happens. With YIELD_IN still high 10 µs after the claim CLAIM_BLOCKED is raised once. YIELD_IN rising is marked in CMP_FLT_SEEN; with the pair in use, an owner that is not in back-off lowers OWN and CLAIM and then: a claim no older than 200 ns is a collision; from 10 ns before B_h of an accepted hand-over the pins are only released; else the owner is deposed. YIELD_IN falling lets OWN of a claiming owner rise, or a claim whose boundary has passed take over. After a collision position A claims again after 2 µs with YIELD_IN low, for a former STANDBY with the next epoch, else with the one after the newer of both; position B gives up after 20 µs and takes its former role, a former STANDBY only with a frame accepted since. A change of a standby's fitness is stored and reported. [R272, R273, R276, R291, R292, R293, R294, R295] -/
def Obligations.RolesRule : Prop :=
  (∀ (s : State) (t : Time), s.pairEn = true → s.ypl.seen = true → s.ypl.lastRx + 200 * s.rf regYplCfg 0 12 8 ≤ max s.time t →
    let u := s.adv t
    (s.ypl.role = .standby →
      let v := ({ u with ypl := { u.ypl with hoAt := none, hoPrep := false } } : State).raise 7 5 (1 - u.posIdx) 0 (0xB1 + at_ 1 8 + at_ (b2n (!u.fitNow)) 10) u.time
      (u.fitNow = true → exec (.partnerLost t) s = .next (v.relay u.time)) ∧
      (u.fitNow = false → exec (.partnerLost t) s = .next (v.leaveDrive .unjoined u.time))) ∧
    (s.ypl.role = .active → s.ypl.hoOut = false → exec (.partnerLost t) s = .next { u with ypl := { u.ypl with role := .solo } }) ∧
    (s.ypl.role = .active → s.ypl.hoOut = true →
      let v := u.dropHandover stRefusedState 7
      exec (.partnerLost t) s = .next { v with ypl := { v.ypl with role := .solo } }) ∧
    (s.ypl.role ≠ .standby → s.ypl.role ≠ .active → exec (.partnerLost t) s = .next u)) ∧
  (∀ (s : State) (b : Time), s.ypl.ownAt = some b →
    (s.ypl.claim = true → s.ypl.yieldIn = false → ∃ w : State, exec .takeover s = .next w ∧ w = (s.adv b).takeOver (max s.time b) ∧ w.ypl.own = true ∧ w.ypl.ownAt = none) ∧
    (s.ypl.claim = false ∨ s.ypl.yieldIn = true → exec .takeover s = .next (s.adv b))) ∧
  (∀ (s : State), s.ypl.ownAt = none → exec .takeover s = .next s) ∧
  (∀ (s : State) (c : Time) (t : Time), s.ypl.claimAt = some c → s.ypl.claim = true → s.ypl.yieldIn = true → s.ypl.ownAt ≠ none → s.ypl.blocked = false →
    c + 10 * us1 ≤ max s.time t →
    let u := s.adv t
    ∃ w : State, exec (.claimBlocked t) s = .next w ∧ w = ({ u with ypl := { u.ypl with blocked := true } } : State).pairEvt 0xBA u.time ∧ w.ypl.blocked = true) ∧
  (∀ (s : State) (t : Time), s.ypl.blocked = true → exec (.claimBlocked t) s = .next (s.adv t)) ∧
  (∀ (s : State) (t : Time),
    let a := (s.adv t).rset regCmpFltSeen 0 ((s.adv t).rget regCmpFltSeen 0 ||| 0x200)
    let r : State := { a with ypl := { a.ypl with yieldIn := true }, lts := { a.lts with stYield := a.lts.stYield || (a.pairEn && a.selfBlock == some 2) } }
    let u := if r.pairEn && r.selfBlock == some 2 then { r.releaseAll r.time with edges := [] } else r
    let v : State := { u with ypl := { u.ypl with own := false, claim := false } }
    let near := ∃ c, u.ypl.claimAt = some c ∧ c ≤ u.time ∧ u.time ≤ c + 400
    let swap := u.ypl.hoOut = true ∧ u.ypl.hoReply = true ∧ ∃ b, u.ypl.hoAt = some b ∧ b ≤ u.time + 20
    (u.owner = false ∨ u.pairEn = false ∨ u.ypl.claimFell ≠ none → exec (.yieldInRise t) s = .next u) ∧
    (u.owner = true → u.pairEn = true → u.ypl.claimFell = none →
      (near → exec (.yieldInRise t) s = .next (v.collide u.time)) ∧
      (¬ near → swap → exec (.yieldInRise t) s = .next (v.releaseAll u.time)) ∧
      (¬ near → ¬ swap → exec (.yieldInRise t) s = .next (v.depose 0 u.time)))) ∧
  (∀ (s : State) (t : Time), let a := s.adv t
    let u : State := { a with ypl := { a.ypl with yieldIn := false } }
    (s.owner = false ∨ s.ypl.claim = false ∨ s.ypl.claimFell ≠ none → exec (.yieldInFall t) s = .next u) ∧
    (s.owner = true → s.ypl.claim = true → s.ypl.claimFell = none →
      (s.ypl.ownAt = none → exec (.yieldInFall t) s = .next ({ u with ypl := { u.ypl with own := true } } : State).retrip) ∧
      (∀ b, s.ypl.ownAt = some b → b ≤ max s.time t → exec (.yieldInFall t) s = .next (u.takeOver u.time).retrip) ∧
      (∀ b, s.ypl.ownAt = some b → max s.time t < b → exec (.yieldInFall t) s = .next u))) ∧
  (∀ (s : State) (f : Time) (t : Time), s.ypl.claimFell = some f →
    (s.posB = false → s.ypl.yieldIn = false → f + 2 * us1 ≤ max s.time t →
      let u := s.adv t
      let v := u.claimNow s.ypl.role (if s.ypl.roleWas = .standby then s.ypl.epoch + 1 else u.ownerEpoch) u.time
      exec (.collisionReclaim t) s = .next { v with ypl := { v.ypl with roleWas := s.ypl.roleWas, ownAt := some (v.secondFp v.time) } }) ∧
    (s.posB = true ∨ s.ypl.yieldIn = true ∨ max s.time t < f + 2 * us1 → exec (.collisionReclaim t) s = .next (s.adv t)) ∧
    (s.posB = true → f + 20 * us1 ≤ max s.time t →
      (s.ypl.roleWas = .standby → f < s.ypl.lastRx →
        exec (.collisionBackoffEnd t) s = .next { s.adv t with ypl := { s.ypl with role := .standby, claimAt := none, claimFell := none } }) ∧
      (s.ypl.roleWas = .standby → s.ypl.lastRx ≤ f → exec (.collisionBackoffEnd t) s = .next ((s.adv t).leaveDrive .unjoined (max s.time t))) ∧
      (s.ypl.roleWas ≠ .standby → exec (.collisionBackoffEnd t) s = .next ((s.adv t).leaveDrive s.ypl.roleWas (max s.time t)))) ∧
    (s.posB = false ∨ max s.time t < f + 20 * us1 → exec (.collisionBackoffEnd t) s = .next (s.adv t))) ∧
  (∀ (s : State), (s.ypl.role = .standby → s.fitNow ≠ s.ypl.fit →
      let u : State := { s with ypl := { s.ypl with fit := s.fitNow } }
      exec .fitness s = .next (u.pairEvt (0xB5 + at_ (b2n s.fitNow) 8 + at_ u.unfitBy 9) s.time)) ∧
    (s.ypl.role ≠ .standby ∨ s.fitNow = s.ypl.fit → exec .fitness s = .next s))

/-- PAIR_HANDOVER is refused with reasons 1 to 5 in order, else waits for B_h, the first SP boundary at least 20 µs on, and asks the partner. At B_h − 5 µs an asked hand-over without a reply is refused with reason 6; at B_h − 200 ns one with a reply lowers CLAIM; at B_h it exchanges roles when the ACTIVE device has the reply and its CLAIM is low, or the STANDBY has prepared; else these do nothing. PAIR_REJOIN outside UNJOINED and LOCKOUT, with PAIR_EN 0, another join or a test of a pair link is refused; else it takes the lowest free slot, lets heartbeats go out again (log 140) and enters phase 1. Phase 1 ends with both lanes and a frame since it began; 2 with the report, by its check; 3 with an owning partner, or a joining one, position A then claiming; 4 stepped and aligned; 5, the device becoming STANDBY, with a digest agreeing, 256 SP in shadow and no ground of unfitness. A phase past its limit: 1 claims SOLO where the command and the policy permit it and YIELD_IN is low, 2 ends VERIFY_FAIL, 5 VERIFY_FAIL with reason 4 after a digest mismatch; the rest end TIMEOUT. [R297, R298, R299, R300, R301, Table 11.8] -/
def Obligations.HandoverAndRejoin : Prop :=
  (∀ (s : State) (q : CmdQ), Begins s q → q.arg0 = 0 → q.arg1 = 0 →
    let u := taken s q
    let starting := u.confMach.any fun m => u.mach[m].trk.state == .listen || u.mach[m].trk.state == .probe || u.mach[m].trk.state == .step || u.mach[m].trk.state == .ascObserve || u.mach[m].trk.state == .lost
    let busy := starting || u.groups.toList.any (fun g => g.direct)
    let leaving := u.sup.f4 || u.sup.f5 || u.thm.shutRun || u.thm.seqDue || u.pcr.stopping || u.pcr.stopDue
    (u.ypl.role ≠ .active → exec (.pairHandover q) s = .next (done s q 0x48 stRefusedState 1)) ∧
    (u.ypl.role = .active → u.ypl.pUnfit = true → exec (.pairHandover q) s = .next (done s q 0x48 stRefusedState 2)) ∧
    (u.ypl.role = .active → u.ypl.pUnfit = false → u.ypl.hoAt ≠ none → exec (.pairHandover q) s = .next (done s q 0x48 stRefusedState 3)) ∧
    (u.ypl.role = .active → u.ypl.pUnfit = false → u.ypl.hoAt = none → busy = true → exec (.pairHandover q) s = .next (done s q 0x48 stRefusedState 4)) ∧
    (u.ypl.role = .active → u.ypl.pUnfit = false → u.ypl.hoAt = none → busy = false → leaving = true → exec (.pairHandover q) s = .next (done s q 0x48 stRefusedState 5)) ∧
    (u.ypl.role = .active → u.ypl.pUnfit = false → u.ypl.hoAt = none → busy = false → leaving = false →
      let bh := nextMult u.sp (u.time + 20 * us1)
      let v := u.await { s.ctx q 0x48 with due := bh }
      exec (.pairHandover q) s = .next (({ v with ypl := { v.ypl with hoAt := some bh, hoOut := true, hoReply := false } } : State).sendSlow 3 [BitVec.ofNat 128 (2 + at_ (bh / v.fp) 64)]))) ∧
  (∀ (s : State), s.ypl.hoAt = none → exec .handoverReplyDeadline s = .next s ∧ exec .handoverClaimRelease s = .next s ∧ exec .handoverDone s = .next s) ∧
  (∀ (s : State) (b : Time), s.ypl.hoAt = some b →
    (s.ypl.hoOut = true ∧ s.ypl.hoReply = false → exec .handoverReplyDeadline s = .next ((s.adv (b - 5 * us1)).dropHandover stRefusedState 6)) ∧
    (s.ypl.hoOut = false ∨ s.ypl.hoReply = true → exec .handoverReplyDeadline s = .next s) ∧
    (s.ypl.hoOut = true ∧ s.ypl.hoReply = true → exec .handoverClaimRelease s = .next { s.adv (b - 400) with ypl := { s.ypl with claim := false } }) ∧
    (s.ypl.hoOut = false ∨ s.ypl.hoReply = false → exec .handoverClaimRelease s = .next s) ∧
    ((s.ypl.hoOut = true ∧ s.ypl.role = .active ∧ s.ypl.hoReply = true ∧ s.ypl.claim = false) ∨ (s.ypl.hoOut = false ∧ s.ypl.role = .standby ∧ s.ypl.hoPrep = true) →
      exec .handoverDone s = .next ((s.adv b).exchange (max s.time b))) ∧
    (¬ ((s.ypl.hoOut = true ∧ s.ypl.role = .active ∧ s.ypl.hoReply = true ∧ s.ypl.claim = false) ∨ (s.ypl.hoOut = false ∧ s.ypl.role = .standby ∧ s.ypl.hoPrep = true)) →
      exec .handoverDone s = .next s)) ∧
  (∀ (s : State) (q : CmdQ), Begins s q → bits q.arg0 31 1 = 0 → q.arg1 = 0 →
    let u := taken s q
    let no := (u.ypl.role != .unjoined && u.ypl.role != .lockout) || !u.pairEn || u.lopAny 0x49 || u.linkTested 0 || u.linkTested 1
    (no = true → exec (.pairRejoin q) s = .next (done s q 0x49 stRefusedState 0)) ∧
    (no = false → ∀ k, u.freeSlot = some k →
      (let v := u.lopStart (s.ctx q 0x49)
       exec (.pairRejoin q) s = .next (({ v with sup := { v.sup with hbStop := false } } : State).rejoinEnter k 1)))) ∧
  (∀ (s : State) (k : Fin 8) (t : Time), s.running 0x49 = some k →
    let u := s.adv t
    (s.host.lops[k].phase = 1 →
      (s.ypl.lanes = 3 ∧ s.ypl.seen = true ∧ s.host.lops[k].since ≤ s.ypl.lastRx → exec (.rejoinPhaseEnd t) s = .next (u.rejoinNext k 1)) ∧
      (¬ (s.ypl.lanes = 3 ∧ s.ypl.seen = true ∧ s.host.lops[k].since ≤ s.ypl.lastRx) → exec (.rejoinPhaseEnd t) s = .next u)) ∧
    (s.host.lops[k].phase = 2 →
      (u.reportIn = false → exec (.rejoinPhaseEnd t) s = .next u) ∧
      (u.reportIn = true → u.checkReport = 0 → exec (.rejoinPhaseEnd t) s = .next (u.rejoinNext k 2)) ∧
      (u.reportIn = true → ∀ r, u.checkReport = r + 1 → exec (.rejoinPhaseEnd t) s = .next (u.rejoinFail k stVerifyFail (r + 1)))) ∧
    (s.host.lops[k].phase = 3 →
      (ownerCode s.ypl.pRole.toNat = true → exec (.rejoinPhaseEnd t) s = .next (u.lockoutEpoch.rejoinNext k 3)) ∧
      (ownerCode s.ypl.pRole.toNat = false → s.ypl.pJoining = true → s.posB = true → exec (.rejoinPhaseEnd t) s = .next (u.rejoinNext k 3)) ∧
      (ownerCode s.ypl.pRole.toNat = false → s.ypl.pJoining = true → s.posB = false → exec (.rejoinPhaseEnd t) s = .next (u.joinClaim .active k)) ∧
      (ownerCode s.ypl.pRole.toNat = false → s.ypl.pJoining = false → exec (.rejoinPhaseEnd t) s = .next u)) ∧
    (s.host.lops[k].phase = 4 →
      (s.ypl.stepped = true ∧ s.ypl.aligned = true → exec (.rejoinPhaseEnd t) s = .next (u.rejoinNext k 4)) ∧
      (s.ypl.stepped = false ∨ s.ypl.aligned = false → exec (.rejoinPhaseEnd t) s = .next u)) ∧
    (s.host.lops[k].phase = 5 →
      let v : State := { u with ypl := { u.ypl with diverged := false } }
      (s.ypl.digBad = none ∧ 256 ≤ s.ypl.shadowRun ∧ v.unfitBy = 0 → exec (.rejoinPhaseEnd t) s =
        .next (({ v with ypl := { v.ypl with role := .standby, fit := false, divDue := Vector.replicate 2 false } } : State).joined k)) ∧
      (¬ (s.ypl.digBad = none ∧ 256 ≤ s.ypl.shadowRun ∧ v.unfitBy = 0) → exec (.rejoinPhaseEnd t) s = .next u))) ∧
  (∀ (s : State) (k : Fin 8), s.running 0x49 = some k →
    let u := s.adv (s.host.lops[k].since + rejoinLimit s.host.lops[k].phase)
    (s.host.lops[k].phase = 1 →
      let solo := s.host.lops[k].arg0.getLsbD 0 && !s.ypl.yieldIn && u.pairPolicy.2.1
      (solo = true → exec .rejoinPhaseTimeout s = .next (u.joinClaim .solo k)) ∧ (solo = false → exec .rejoinPhaseTimeout s = .next (u.rejoinFail k stTimeout 0))) ∧
    (s.host.lops[k].phase = 2 → exec .rejoinPhaseTimeout s = .next (u.rejoinFail k stVerifyFail (max 1 u.checkReport))) ∧
    (s.host.lops[k].phase = 3 ∨ s.host.lops[k].phase = 4 → exec .rejoinPhaseTimeout s = .next (u.rejoinFail k stTimeout 0)) ∧
    (s.host.lops[k].phase = 5 →
      (s.ypl.digBad ≠ none → exec .rejoinPhaseTimeout s = .next (u.rejoinFail k stVerifyFail 4)) ∧
      (s.ypl.digBad = none → exec .rejoinPhaseTimeout s = .next (u.rejoinFail k stTimeout 0)))) ∧
  (∀ (s : State) (t : Time), s.running 0x49 = none → exec (.rejoinPhaseEnd t) s = .next (s.adv t) ∧ exec .rejoinPhaseTimeout s = .next s)

/-- SELF_TEST is refused outside RUN, while a role or drive forbids it, with another calibration or test, or with a safety input in use, in that order, else starts with its first block. A block without failures that is the last ends the test OK with its bits. LINK_TEST of a link in service, or under test, or outside RUN is refused with reasons 1 to 3, else clears the link's counters and starts. A checker locks, and its loss is counted. An ended test completes OK only without errors and losses. The loopback's end brings the link back. [R451, R453, R454, R455, R457, R459, R460, R461] -/
def Obligations.SelfAndLinkTests : Prop :=
  (∀ (s : State) (q : CmdQ), Begins s q → bits q.arg0 31 3 = 0 → bits q.arg0 2 0 ≠ 0 → q.arg1 = 0 →
    let u := taken s q
    let busy := u.ypl.role == .active || u.ypl.role == .standby || u.drivesAny
    let other := u.lopAny 0x20 || u.lopAny 0x40
    let unsafeIn := q.arg0.getLsbD 2 && (u.yieldHigh || u.chopSup 0 || u.chopSup 1)
    (u.pwr ≠ 0 → exec (.selfTest q) s = .next (done s q 0x40 stRefusedState 1)) ∧
    (u.pwr = 0 → busy = true → exec (.selfTest q) s = .next (done s q 0x40 stRefusedState 2)) ∧
    (u.pwr = 0 → busy = false → other = true → exec (.selfTest q) s = .next (done s q 0x40 stRefusedState 3)) ∧
    (u.pwr = 0 → busy = false → other = false → unsafeIn = true → exec (.selfTest q) s = .next (done s q 0x40 stRefusedState 4)) ∧
    (u.pwr = 0 → busy = false → other = false → unsafeIn = false → ∀ k, u.freeSlot = some k → exec (.selfTest q) s =
      .next (((u.lopStart (s.ctx q 0x40)).modLop k fun l => { l with phase := (blockFrom (bits q.arg0 2 0) 0).getD 0, res := [0] }).blockEnter k))) ∧
  (∀ (s : State) (k : Fin 8) (t : Time), (s.adv t).running 0x40 = some k → s.host.lops[k].phase = 0 → s.host.lops[k].res = [0] →
    blockFrom (bits s.host.lops[k].arg0 2 0) 1 = none →
    exec (.selfTestBlockDone [] [] [] t) s = .next ((s.adv t).gridStart.lopEnd k stOk 1)) ∧
  (∀ (s : State) (q : CmdQ), Begins s q → linkArgs q = true →
    let u := taken s q
    let k := bits q.arg0 4 0
    (u.inService k = true → exec (.linkTest q) s = .next (done s q 0x41 stRefusedState 1)) ∧
    (u.inService k = false → u.linkTested k = true → exec (.linkTest q) s = .next (done s q 0x41 stRefusedState 2)) ∧
    (u.inService k = false → u.linkTested k = false → u.pwr ≠ 0 → exec (.linkTest q) s = .next (done s q 0x41 stRefusedState 3)) ∧
    (u.inService k = false → u.linkTested k = false → u.pwr = 0 → u.freeSlot ≠ none →
      exec (.linkTest q) s = .next ((u.modLink (Fin.ofNat 13 k) fun _ => LinkSt.reset).lopStart (s.ctx q 0x41)))) ∧
  (∀ (s : State) (l : Fin 13) (t : Time), (s.adv t).checkerOn l = true →
    (s.lts.links[l].locked = false → ∃ w : State, exec (.checkerLocked l t) s = .next w ∧ w.lts.links[l].locked = true ∧
      w.lts.links[l].lockAt = max s.time t ∧ w.lts.links[l].errors = s.lts.links[l].errors ∧ ∀ j, j ≠ l → w.lts.links[j] = s.lts.links[j]) ∧
    (s.lts.links[l].locked = true → ∀ n, ∃ w : State, exec (.checkerLockLost l n t) s = .next w ∧ w.lts.links[l].locked = false ∧
      w.lts.links[l].losses = min 255 (s.lts.links[l].losses + 1) ∧ w.lts.links[l].errors = satAdd s.lts.links[l].errors n (2 ^ 32 - 1))) ∧
  (∀ (s : State) (l : Fin 13) (k : Fin 8) (n : Nat) (t : Time), l ≠ 12 → s.linkSlot l = some k → s.host.lops[k].ending = 0 →
    let e := s.host.lops[k].since + (s.host.lops[k].arg1.toNat - s.host.lops[k].phase) * ms1
    e ≤ t → exec (.linkTestDone l n false true t) s = .next (((s.adv e).linkCount l n e).linkEnd k l)) ∧
  (∀ (s : State) (n : Nat) (t : Time), s.lts.loopEnd = some t →
    let u := ((s.adv t).linkCount 10 n t).modLink 10 fun l => { l with locked := false }
    exec (.pcieLoopbackDone n) s = .next ({ u with lts := { u.lts with loopEnd := none }, host := { u.host with linkUp := true } } : State).pump)

/-- Loading an instruction leaves the boundary cells' ownership only by a SOFT reset: EXTEST, HIGHZ and CLAMP keep the balls; IDCODE, BYPASS, SAMPLE/PRELOAD, Test-Logic-Reset and a vendor instruction with debug closed leave them. IDCODE selects 0xB42089E3. SAMPLE/PRELOAD puts its word into the boundary register. A vendor instruction with debug open is refused: the spec gives it no effect. [R462, R463, Table 18.3] -/
def Obligations.TapRule : Prop :=
  (∀ (s : State) (t : Time), let u := s.adv t
    exec (.idcode t) s = .next (u.tapLoad 0 u.time) ∧ exec (.bypass t) s = .next (u.tapLoad 1 u.time) ∧ exec (.extest t) s = .next (u.tapLoad 3 u.time) ∧
    exec (.highz t) s = .next (u.tapLoad 4 u.time) ∧ exec (.clamp t) s = .next (u.tapLoad 5 u.time) ∧
    (∀ p v, let w := u.tapLoad 2 u.time
      exec (.samplePreload p v t) s = .next { w with lts := { w.lts with boundary := v } }) ∧
    (∀ c, u.debugOpen = false → exec (.vendorTestInstruction c t) s = .next (u.tapLoad 1 u.time)) ∧
    (∀ c, u.debugOpen = true → exec (.vendorTestInstruction c t) s = .refused (.vendorTest c)) ∧
    (3 ≤ s.lts.tap → exec (.tapInstructionExit t) s = .next (u.tapLoad 0 u.time)) ∧ (s.lts.tap < 3 → exec (.tapInstructionExit t) s = .next u)) ∧
  (∀ (s : State) (c : Nat) (t : Time),
    (s.lts.tap < 3 ∨ s.lts.tap = c → s.tapLoad c t = { s with lts := { s.lts with tap := c } }) ∧
    (3 ≤ s.lts.tap → s.lts.tap ≠ c → s.tapLoad c t = ({ s with lts := { s.lts with tap := c } } : State).assertReset 3 t) ∧
    (s.lts.tap = 0 → s.tapData = 0xB42089E3))

/-- A PCI Express read of an offset whose word holds no register returns 0 and changes nothing else; an aligned write to such an offset changes nothing at all. (An offset of a production-test page is the vendor's while debug is open, and is not meant here.) [R11] -/
def Obligations.NoRegisterThere : Prop :=
  ∀ (s : State) (off : BitVec 18) (v : BitVec 64) (wide : Bool) (t : Time), let u := s.adv t
    (let o := off.toNat / 4 * 4
     u.reaches .pcie o = true → findReg o = none → (u.debugOpen && prodTest o) = false →
     exec (.lowPartRead .pcie off t) s = .next (u.setRead .pcie 0) ∧ (u.setRead .pcie 0).host.readP = 0) ∧
    (u.reaches .pcie off.toNat = true → off.toNat % (if wide then 8 else 4) = 0 → findReg off.toNat = none →
    (u.debugOpen && prodTest off.toNat) = false →
    (wide = false → exec (.registerWrite .pcie off v wide true t) s = .next u) ∧
    (wide = true → findReg (off.toNat + 4) = none → (u.debugOpen && prodTest (off.toNat + 4)) = false →
      exec (.registerWrite .pcie off v wide true t) s = .next u))

/-- A read of the lowest part of a register that its port reads in parts arms the port's latch with the register's value and returns the part (PCI Express reads the word that the offset lies in); a higher part comes from a latch armed for the register, and disarms it at the highest, else it is live and sets the port's bit in GLB_TORN. A write with other byte enables or unaligned is discarded and sets WRITE_REJECT. A write to a register does what the register's rules say. With debug open, an offset that may hold a production-test register is refused or holds none. An expired gate-link command sets CMD_FAIL. [R8, R9, R309, R310, R500, R503, R248] -/
def Obligations.RegisterAccessRule : Prop :=
  (∀ (s : State) (p : Port) (off : BitVec 18) (t : Time) (d : RegDesc) (i base k : Nat), let u := s.adv t
    let o := readOff p off.toNat
    o % portBytes p = 0 → u.reaches p o = true → regFind o = some (d, i, base, k) →
    (u.debugOpen && prodTest (o / 4 * 4)) = false →
    (p = .pcie → o = off.toNat / 4 * 4) ∧ (p ≠ .pcie → o = off.toNat) ∧
    (k = 0 → latched d p = true → exec (.lowPartRead p off t) s = .next ((u.setLatch p (some (base, u.regVal d i))).setRead p (partOf (u.regVal d i) 0 (portBytes p)))) ∧
    (k ≠ 0 → latched d p = true →
      (∀ x, u.latch p = some (base, x) → k + portBytes p ≠ 4 * d.words → exec (.highPartRead p off t) s = .next (u.setRead p (partOf x k (portBytes p)))) ∧
      (∀ x, u.latch p = some (base, x) → k + portBytes p = 4 * d.words →
        exec (.highPartRead p off t) s = .next ((u.setRead p (partOf x k (portBytes p))).setLatch p none)) ∧
      (u.latch p = none → exec (.highPartRead p off t) s =
        .next ((u.rsetF regGlbTorn 0 (portTorn p) (portTorn p) 1).setRead p (partOf (u.regVal d i) k (portBytes p)))))) ∧
  (∀ (s : State) (p : Port) (off : BitVec 18) (v : BitVec 64) (t : Time), let u := s.adv t
    p ≠ .svc → u.reaches p off.toNat = true →
    (∀ wide, exec (.registerWrite p off v wide false t) s = .next u.writeReject) ∧
    (off.toNat % 4 ≠ 0 → exec (.registerWrite p off v false true t) s = .next u.writeReject) ∧
    (off.toNat % 4 = 0 → u.debugOpen = true → mayTest off.toNat = true →
      Config.testReg off.toNat = false ∨ exec (.registerWrite p off v false true t) s = .refused (.productionTest off.toNat)) ∧
    (∀ d i k, off.toNat % 4 = 0 → findReg off.toNat = some (d, i, k) → (u.debugOpen && prodTest off.toNat) = false →
      exec (.registerWrite p off v false true t) s = .next (u.writeReg p d i k (v.extractLsb' 0 32) u.time))) ∧
  (∀ (s : State) (g : Fin 8), s.sup.glk[g].cmdFailDue = true →
    exec (.cmdFail g) s = .next ((s.modGlk g fun x => { x with cmdFailDue := false, cmdBusy := false }).rsetF regGlkStat g 3 3 1))

/-- In a device that is neither in reset nor in DEEP, with no link test on link 11, a read frame returns its half-word in the next frame; a write frame writes its SVC register or nonce half-word; a rejected frame and one of another length set ERR. SVC_SAFE with KEY 0xC3 asks for the safe state, with another KEY it is rejected. SVC_ATTEST.GO queues a request with SVC_NONCE. Enabling starts the watchdog's windows, a kick and an edge on WDI count in the window, and an expiry stops it, sets its flags and asks for the safe state of all machines. With debug open, a half-word that may be a production-test register's is refused or there is none. [R333, R334, R335, R336, R337, R236, R500] -/
def Obligations.ServicePortRule : Prop :=
  (∀ (s : State) (t : Time), s.pcr.asserted = none → s.pcr.state ≠ 3 → s.linkTested 11 = false →
    let a := s.adv t
    let u : State := { a with svc := { a.svc with out := a.misoWord } }
    (∀ (x : BitVec 15) d, let o := 2 * x.toNat
      let off := svcPage (o / 0x1000) + o % 0x1000
      (0x8000 ≤ o → exec (.serviceReadFrame x d t) s = .next (u.frameEnd false (u.reportHalf (o - 0x8000)))) ∧
      (o < 0x8000 → (u.debugOpen && prodTest (off / 4 * 4)) = false →
        exec (.serviceReadFrame x d t) s = .next ((u.portRead .svc off).frameEnd false ((u.portRead .svc off).host.readS.setWidth 16))) ∧
      (o < 0x8000 → u.debugOpen = true → mayTest (off / 4 * 4) = true →
        Config.testReg (off / 4 * 4) = false ∨ exec (.serviceReadFrame x d t) s = .refused (.productionTest off)) ∧
      (0x40 ≤ o → o < 0x60 → exec (.serviceWriteFrame x d t) s = .next ((u.svcNonce ((o - 0x40) / 2) d).frameEnd false 0)) ∧
      (o = 0x04 → exec (.serviceWriteFrame x d t) s = .next ((u.writeWord regSvcIrq 0 0 (d.setWidth 32)).frameEnd false 0)) ∧
      (0x1000 ≤ o → exec (.serviceWriteFrame x d t) s = .next (u.frameEnd true 0))) ∧
    (∀ n, n ≠ 32 → s.regsOn = true → exec (.serviceFrameError n t) s = .next ((s.adv t).frameEnd true 0)) ∧
    (∀ v : BitVec 16, (bits (v.setWidth 32) 15 8 ≠ 0xC3 → exec (.svcSafe v t) s = .next (u.frameEnd true 0)) ∧
      (bits (v.setWidth 32) 15 8 = 0xC3 → bits (v.setWidth 32) 3 2 ≠ 3 → u.badMask (bits (v.setWidth 32) 1 0) = false →
        exec (.svcSafe v t) s = .next ((u.askSafe (maskOf (u.maskMach (bits (v.setWidth 32) 1 0))) (bits (v.setWidth 32) 3 2) u.time).frameEnd false 0)) ∧
      exec (.svcWdEnable v t) s = .next ((u.writeWdCfg (v.setWidth 32) u.time).frameEnd false 0) ∧
      exec (.svcWdKick v t) s = .next ((u.svcKick ((v.setWidth 32).setWidth 8) u.time).frameEnd false 0)) ∧
    (s.msr.svcBusy = false → exec (.svcAttestGo t) s = .next (({ u with msr := { u.msr with svcBusy := true, svcReady := false, queue := u.msr.queue ++ [⟨1, BitVec.ofNat 256 (ofLe (wordBytes u.svc.nonce.toList))⟩] } } : State).frameEnd false 0))) ∧
  (∀ (s : State) (t : Time), s.regsOn = true → let u := (s.adv t).rollWd (s.adv t).time
    (u.svc.wdOn = true → exec (.wdiEdge t) s = .next { u with svc := { u.svc with wdi := true } }) ∧
    (u.svc.due = true →
      let v := (({ u with svc := { u.svc with due := false, wdOn := false, kicked := false, wdi := false, expect := 0x5A, cleared := false } } : State).rsetF
        regSvcStat 0 1 1 1).rsetF regSvcIrq 0 3 3 1
      exec (.serviceWatchdogExpiry t) s = .next (v.askSafe (maskOf v.confMach) 0 v.time)))

/-- Out of reset and with no test instruction owning the balls, SVC_IRQ_N is driven low exactly while some bit of SVC_IRQ is 1 together with its bit in SVC_IRQ_EN, and READY is high exactly while firmware runs, the rails are settled and no F5 fault is held, and low otherwise. From an MGR reset READY is low while the reset lasts and until firmware runs. [R338, R476] -/
def Obligations.PinsRule : Prop :=
  (∀ s : State, s.lts.tap < 3 → s.pcr.asserted = none →
    (s.pinSvcIrqN = .low ↔ ∃ i : Fin 32, (s.rget regSvcIrq 0).getLsbD i = true ∧ (s.rget regSvcIrqEn 0).getLsbD i = true) ∧
    (s.pinReady = .high ↔ s.msr.running = true ∧ s.msr.mgr = false ∧ s.pcr.settled = true ∧ s.sup.f5 = false) ∧
    (s.pinReady = .high ∨ s.pinReady = .low)) ∧
  (∀ (s : State) (lock : Bool), s.lts.tap < 3 → s.pcr.asserted = none → s.msr.mgr = false →
    (s.mgrAssert lock).msr.mgr = true ∧ (s.mgrAssert lock).msr.running = false) ∧
  (∀ s : State, s.lts.tap < 3 → s.msr.mgr = true ∨ s.msr.running = false → s.pinReady = .low)

/-- A reading is taken once a housekeeping round, 50 µs after it starts. Three rounds past TW1 set it and raise TW1_SET, three below it clear it and raise TW1_CLEAR. The first zone at TSD for three rounds raises TSD, requests the brake and, unless a thermal sequence runs or F5 is held, makes the shutdown due at the FP boundary; a further zone only adds its alarm. At its maximum time the shutdown applies the safe state to machines not yet safe; once everything has ended it holds the shutdown with F4 and raises SHUTDOWN_DONE; a met exit is raised as EXIT_MET. [R262, R264, R265, R266, R267, R268] -/
def Obligations.ThermalRule : Prop :=
  (∀ (s : State) (l : List Nat), ¬ (s.thm.read = true ∧ s.thm.lastRound = s.lastHr) → s.pcr.state ≠ 3 → s.pcr.asserted = none →
    exec (.thermalReading l) s = .next ((s.adv (max s.time (s.lastHr + 50 * us1))).thmRound l (max s.time (s.lastHr + 50 * us1)))) ∧
  (∀ (s : State) (z : Fin 8) (x : ZoneSt), s.thm.zones[z] = x →
    (x.tw1 = false → 3 ≤ x.tw1Up →
      exec (.tw1Set z) s = .next ((s.modZone z fun x => { x with tw1 := true }).raise 3 8 9 0 (thmDetail 0xA0 z.val x.temp) s.thm.readAt)) ∧
    (x.tw1 = true → 3 ≤ x.tw1Dn →
      exec (.tw1Clear z) s = .next ((s.modZone z fun x => { x with tw1 := false }).raise 3 8 9 0 (thmDetail 0xA1 z.val x.temp) s.thm.readAt)) ∧
    (x.tsd = true → 3 ≤ x.tsdDn → exec (.tsdAlarmRelease z) s = .next (s.modZone z fun x => { x with tsd := false })) ∧
    (x.tsd = false → 3 ≤ x.tsdUp → s.tsdAlarm = true → exec (.tsd z) s = .next (s.modZone z fun x => { x with tsd := true })) ∧
    (x.tsd = false → 3 ≤ x.tsdUp → s.tsdAlarm = false →
      let v := s.modZone z fun x => { x with tsd := true }
      let u := (v.raise 1 8 9 5 (thmDetail 0xA2 z.val x.temp) v.thm.readAt).mbrk true
      let w : State := { u with thm := { u.thm with exitCnt := 0, exitMet := false, exitDue := false } }
      (u.thmSeq = true ∨ u.sup.f5 = true → exec (.tsd z) s = .next u) ∧
      (u.thmSeq = false → u.sup.f5 = false → w.yields = false →
        exec (.tsd z) s = .next { w with thm := { w.thm with seqDue := true, seqAt := w.fpAfter v.thm.readAt } }))) ∧
  (∀ (s : State), s.thm.shutRun = true → s.thm.yielding = false → (s.confMach.any fun m => s.mach[m].sup.safe.isNone) = true →
    let t := max s.time (s.thm.seqAt + s.tsdTmax)
    let u : State := { s.adv t with thm := { s.thm with tmaxExp := true } }
    exec .tsdTmaxExpiry s = .next (u.confMach.foldl (fun s m => if s.mach[m].sup.safe.isNone then s.machSafe m 0 0xA2 false t else s) u)) ∧
  (∀ (s : State) (t : Time), s.thm.shutRun = true → (s.thm.yielding || s.confMach.all fun m => s.mach[m].sup.safe.isSome) = true → (s.adv t).begunDone = true →
    exec (.shutdownDone t) s = .next (({ s.adv t with thm := { s.thm with shutRun := false, shutHeld := true, yielding := false }, sup := { s.sup with f4 := true } } : State).raise 3 8 9 0 (0xA4 + at_ (b2n s.thm.tmaxExp) 8) (max s.time t))) ∧
  (∀ (s : State), s.thm.exitDue = true → s.thmSeq = true → ∃ d t, exec .exitMet s =
    .next (({ s with thm := { s.thm with exitDue := false, exitMet := true } } : State).raise 3 8 9 0 d t))

/-- A telemetry frame with a wrong CRC, type or sampling, or out of sequence, is discarded and counted; an accepted one is kept and clears LOST. A waiting command is sent with the next sequence number and its CRC; otherwise an idle frame goes out, and the tenth without an answer makes the command's failure due. A confirmed mismatch, a module at its limit for three frames and a link silent for 12 µs while driving are faults of the set, each raised once and stamped with its frame where a frame shows it; an error rate of a link of a configured set at the last housekeeping-round boundary is a health degradation, raised once while it lasts. [R246, R247, R248, R249, R250, R251] -/
def Obligations.GateLinkRule : Prop :=
  (∀ (s : State) (g : Fin 8) (f : BitVec 64) (ok : Bool) (t : Time), s.pcr.asserted = none → s.pcr.state ≠ 3 → s.linkTested (2 + g.val) = false →
    let u := s.adv t
    (ok = false ∨ crc8 (frameBits f 64) ≠ 0 ∨ bitsN f.toNat 3 0 ≠ 1 → exec (.telemetryFrame g f ok t) s = .next (u.glkDiscard g u.time)) ∧
    (ok = true → crc8 (frameBits f 64) = 0 → bitsN f.toNat 3 0 = 1 →
      (s.sup.glk[g].seqSeen = true → bitsN f.toNat 7 4 ≠ (s.sup.glk[g].lastSeq + 1) % 16 →
        exec (.telemetryFrame g f ok t) s = .next ((u.glkDiscard g u.time).modGlk g fun y => { y with lastSeq := bitsN f.toNat 7 4 })) ∧
      (s.sup.glk[g].seqSeen = false → s.glkUsed g = false → ∃ w : State, exec (.telemetryFrame g f ok t) s = .next w ∧ w.sup.glk[g].tlm = f ∧
        w.sup.glk[g].lastSeq = bitsN f.toNat 7 4 ∧ w.sup.glk[g].seqSeen = true ∧ w.sup.glk[g].lost = false ∧ w.sup.glk[g].lastAt = max s.time t))) ∧
  (∀ (s : State) (g : Fin 8) (t : Time) (x : GlkSt), s.sup.glk[g] = x → s.regsOn = true → s.linkTested (2 + g.val) = false →
    (x.cmdWait = true → ∃ w : State, exec (.gateLinkFrameSend g t) s = .next w ∧ w.sup.glk[g].cmdSeq = (x.sent + 1) % 16 ∧
      w.sup.glk[g].cmdWait = false ∧
      w.sup.glk[g].lastSent = withCrc8 (BitVec.ofNat 64 (2 + at_ ((x.sent + 1) % 16) 4 + at_ (s.rf regGlkCmd g 31 24) 8 + at_ (s.rf regGlkCmd g 23 8) 16))) ∧
    (x.cmdWait = false → ∃ w : State, exec (.gateLinkFrameSend g t) s = .next w ∧ w.sup.glk[g].lastSent = withCrc8 3 ∧
      w.sup.glk[g].cmdFailDue = (x.cmdFailDue || (x.cmdBusy && decide (10 ≤ x.cmdFrames + 1))))) ∧
  (∀ (s : State) (n : Fin 48), s.sup.glk[setOf n].gateDue.getLsbD (n.val % 6) = true →
    let k := n.val % 6
    let u := s.modGlk (setOf n) fun x => { x with gateDue := x.gateDue &&& ~~~ (1#6 <<< k), gateRaised := x.gateRaised ||| (1#6 <<< k) }
    exec (.gateMismatch n) s = .next (u.faultSet (setOf n) 0 n 0x92 u.sup.glk[setOf n].lastSt)) ∧
  (∀ (s : State) (l : Fin 24) (g : Fin 8) (k : Fin 3), g = Fin.ofNat 8 (l.val / 3) → k = Fin.ofNat 3 (l.val % 3) → s.glkUsed g = true →
    3 ≤ s.sup.glk[g].tsdCnt[k] → s.sup.glk[g].tsdRaised.getLsbD k.val = false →
    let u := s.modGlk g fun y => { y with tsdRaised := y.tsdRaised ||| (1#3 <<< k.val) }
    exec (.modTsd l) s = .next (u.faultSet g 1 l (0x94 + at_ (s.sup.glk[g].temp[k].getD 0) 8) s.sup.glk[g].lastSt)) ∧
  (∀ (s : State) (g : Fin 8) (t : Time), s.glkUsed g = true → s.sets[g].driving = true → s.sup.glk[g].lostRaised = false →
    s.sup.glk[g].lastAt + 12 * us1 ≤ max s.time t →
    let u := (s.adv t).modGlk g fun y => { y with lost := true, lostRaised := true }
    exec (.glkLost g t) s = .next (u.faultSet g 2 g 0x93 u.time)) ∧
  (∀ (s : State) (g : Fin 8), (s.glkErr g = true → s.glkUsed g = true →
      (s.sup.glk[g].errRaised = false →
        exec (.glkError g) s = .next ((s.modGlk g fun x => { x with errRaised := true }).health 5 0x07 g 0 s.lastHr)) ∧
      (s.sup.glk[g].errRaised = true → exec (.glkError g) s = .next s)) ∧
    (s.glkErr g = false ∨ s.glkUsed g = false → exec (.glkError g) s = .next (s.modGlk g fun x => { x with errRaised := false })))

/-- A reset asserted while a stronger or equal one is in force only records its kind. Any other discards a pending reversal with its event, releases every channel and chopper, makes the device UNJOINED with OWN and CLAIM low and not started, keeps the fuses, makes RESET_REPORT due, and is in force until its release. A SOFT reset takes the key 0x5352 from PCI Express or the management cores; another key is rejected. An FLR that ends DEEP leaves every window OUT, PAC_TIME at the next whole tick and PAC_STATUS.STEPPED set. Rails settle outside POR and BOR. A release ends the reset in force, records it as the last, samples the straps after POR, BOR or PIN and starts PAC_TIME at 0 except after FLR; the converters' grids start with it. [R431, R436, R437, R438, R439, R441, R308, R22, R424, R275] -/
def Obligations.ResetRule : Prop :=
  (∀ (s : State) (kind : Nat) (t : Time),
    (∀ k, s.pcr.asserted = some k → k ≤ kind → s.assertReset kind t = s.seenReset kind) ∧
    ((∀ k, s.pcr.asserted = some k → kind < k) → let w := s.assertReset kind t
      w.pcr.asserted = some kind ∧ w.chans = State.reset.chans ∧ w.chops = State.reset.chops ∧ w.ypl.role = .unjoined ∧ w.ypl.own = false ∧
      w.ypl.claim = false ∧ w.started = false ∧ w.otp.norm = s.otp.norm ∧ w.otp.marg = s.otp.marg ∧ w.host.reportDue = true ∧
      w.host.mem = (forFin 2 (s.burnCut t) fun s m => s.discardRev m t).host.mem)) ∧
  (∀ (s : State) (t : Time), let u := s.adv t
    exec (.por t) s = .next (({ u with pcr := { u.pcr with borSeen := u.pcr.borSeen ||| u.pcr.warn } } : State).assertReset 0 u.time) ∧
    (∀ r, exec (.bor r t) s = .next (({ u with pcr := { u.pcr with borRail := r, borSeen := u.pcr.borSeen ||| r, settled := false } } : State).assertReset 1 u.time)) ∧
    exec (.pinReset t) s = .next (u.assertReset 2 u.time) ∧
    (∀ p, p ≠ .svc → u.regsOn = true → exec (.softReset p 0x5352 t) s = .next (u.assertReset 3 u.time) ∧
      ∀ k, k ≠ 0x5352 → exec (.softReset p k t) s = .next u.writeReject) ∧
    (let v : State := if s.pcr.state = 3 then s.leaveDeep t else u
     let w := if s.pcr.state = 3 then (v.assertReset 4 v.time).rsetF regPacStatus 0 2 2 1 else v.assertReset 4 v.time
     ((s.leaveDeep t).time % 5 = 0 ∧ max s.time t ≤ (s.leaveDeep t).time ∧ (s.leaveDeep t).time < max s.time t + 5 ∧ (s.leaveDeep t).winOut = 0xFFFFF) ∧
     exec (.flr .flr t) s = .next w ∧ exec (.flr .hotReset t) s = .next w ∧
     exec (.flr .perst t) s = .next { w with host := { w.host with linkUp := false } }) ∧
    (s.pcr.asserted ≠ some 0 → s.pcr.asserted ≠ some 1 → exec (.railsSettled t) s = .next { u with pcr := { u.pcr with settled := true } })) ∧
  (∀ (s : State) (kind : Nat) (straps : BitVec 6) (t : Time), s.pcr.asserted = some kind →
    let u := s.adv t
    let a : State := { u with pcr := { u.pcr with asserted := none, last := kind } }
    let b : State := if kind ≤ 2 then { a with pcr := { a.pcr with straps := straps &&& 0x37 } } else a
    let c : State := if kind ≤ 3 then { b.timeZero with winOut := 0xFFFFF, pcr := { b.timeZero.pcr with xtal := true, pll0 := true, pll1 := true } } else b
    let g := c.convBack true
    let d := if kind == 3 && g.otp.loaded then g.bootStart else g
    let e : State := { d with pcr := { d.pcr with runAt := if d.pcr.warn = 0 then none else some d.time } }
    let f := if e.estop then e.estopHit e.time else e
    exec (.resetRelease straps t) s = .next (f.soloAlone f.time) ∧ e.pcr.asserted = none ∧ e.pcr.last = kind ∧ (kind ≤ 3 → e.time = 0) ∧
      (kind ≤ 2 → e.pcr.straps = straps &&& 0x37))

/-- POWER_STATE to the state in force completes OK at once; one that Table 17.8 forbids is refused with its number; a change to RUN always, and one permitted, waits for the FP boundary, and DEEP opens its window at once. A transit's end puts the target in force. DEEP_ENTRY keeps the role, claim and OWN and what its classes keep. A write of WAKE, or the wake timer, ends DEEP in HOLD. [R442, R443, R444, R445, R446, Table 17.8] -/
def Obligations.PowerRule : Prop :=
  (∀ (s : State) (q : CmdQ), Begins s q → bits q.arg0 31 2 = 0 → q.arg1 = 0 →
    let n := bits q.arg0 1 0
    let u := taken s q
    (n = u.pwr → exec (.powerState q) s = .next (done s q 0x50 stOk n)) ∧
    (n = 0 → u.pwr ≠ 0 → exec (.powerState q) s = .next (waits s q 0x50 (u.fpAfter u.time) 0)) ∧
    (n ≠ u.pwr → n ≠ 0 → u.powerRefusal n ≠ 0 → exec (.powerState q) s = .next (done s q 0x50 stRefusedState (u.powerRefusal n))) ∧
    (n ≠ u.pwr → n = 1 ∨ n = 2 → u.powerRefusal n = 0 → exec (.powerState q) s = .next (waits s q 0x50 (u.fpAfter u.time) n)) ∧
    (n ≠ u.pwr → n = 3 → u.powerRefusal 3 = 0 →
      exec (.powerState q) s = .next (({ u with pcr := { u.pcr with transit := true, target := 3 } } : State).awaitAt (s.ctx q 0x50) (u.fpAfter u.time) 3))) ∧
  (∀ (s : State) (t : Time), s.pcr.transit = true → s.pcr.target ≠ 3 → s.pcr.asserted = none →
    exec (.powerTransitDone t) s = .next ((s.adv t).powerEnd s.pcr.target (s.adv t).time).retrip) ∧
  (∀ (s : State) (t : Time), s.pcr.transit = true → s.pcr.target = 3 → s.pcr.asserted = none → (s.host.waiting.any fun c => c.opc == 0x50) = false →
    ∃ w : State, exec (.deepEntry t) s = .next w ∧ w.pcr.state = 3 ∧ w.pcr.transit = false ∧ w.pcr.pll0 = false ∧ w.pcr.pll1 = false ∧
      w.ypl.role = (s.adv t).closeAll.pump.ypl.role ∧ w.ypl.claim = (s.adv t).closeAll.pump.ypl.claim ∧ w.ypl.own = (s.adv t).closeAll.pump.ypl.own ∧ w.started = false) ∧
  (∀ (s : State) (t : Time), s.pcr.state = 3 → s.pcr.asserted = none →
    exec (.wake t) s = .next (s.wakeUp 1 t) ∧
    ((s.rget regPcrWakeTimer 0).toNat ≠ 0 →
      exec (.wakeTimerExpiry t) s = .next (s.wakeUp 3 (max t (s.pcr.deepAt + ms1 * (s.rget regPcrWakeTimer 0).toNat)))))

/-- A warning is kept and raised, and stops an OTP burn. Its end, if no reset monitor acted, counts a dip and raises it with its length. A warning that lasts tWARN_HOLD raises SUPPLY_STOP, requests the brake and begins the stop. At its maximum time the machines that still decelerate for it become safe; when all are and every command begun has completed, the stop is held with F4 and STOP_DONE is raised. A lost lock or crystal is latched, raised as F6 and reacted to as F5. [R426, R427, R428, R429, R430, R434, R400] -/
def Obligations.SupplyRule : Prop :=
  (∀ (s : State) (r : Fin 4) (t : Time), s.pcr.asserted = none → let u := s.adv t
    (s.pcr.warn &&& (1#4 <<< r.val) = 0 →
      let v : State := { u with pcr := { u.pcr with warn := u.pcr.warn ||| (1#4 <<< r.val), warnAt := u.pcr.warnAt.set r u.time, borSeen := u.pcr.borSeen &&& ~~~(1#4 <<< r.val), runAt := some (u.pcr.runAt.getD u.time) } }
      exec (.warnSet r t) s = .next ((v.raise 4 8 0x14 0 (0x10 + at_ r.val 8) v.time).burnSupply v.time)) ∧
    (s.pcr.warn &&& (1#4 <<< r.val) ≠ 0 → s.pcr.borSeen &&& (1#4 <<< r.val) = 0 →
      ∃ w : State, exec (.warnClear r t) s = .next w ∧ w.pcr.warn = s.pcr.warn &&& ~~~(1#4 <<< r.val) ∧ w.pcr.dipCnt = min 65535 (s.pcr.dipCnt + 1))) ∧
  (∀ (s : State) (t0 : Time), s.pcr.runAt = some t0 → s.pcr.stopRaised = false → s.pcr.asserted = none →
    let t := max s.time (t0 + us1 * s.rf regPcrSupplyCfg 0 15 0)
    let u := s.adv t
    let v : State := { u with pcr := { u.pcr with stopRaised := true } }
    exec .supplyStop s = .next (((v.raise 1 8 0x14 5 (0x12 + at_ v.pcr.firstWarn 8) t).mbrk true).stopBegin t)) ∧
  (∀ (s : State), s.pcr.stopping = true → s.pcr.stopDue = false → s.confMach.any s.stopsFor = true →
    let t := max s.time (s.pcr.stopAt + 100 * ms1 * s.rf regPcrSupplyCfg 0 31 24)
    let u := s.adv t
    let v : State := { u with pcr := { u.pcr with stopTmax := true } }
    exec .stopTmaxExpiry s = .next (v.confMach.foldl (fun s m => if s.stopsFor m then s.machSafe m 0 0x12 false t else s) v)) ∧
  (∀ (s : State) (t : Time), s.pcr.stopping = true → s.pcr.stopDue = false → (s.confMach.all fun m => s.mach[m].sup.safe.isSome) = true → (s.adv t).begunDone = true →
    let u := s.adv t
    exec (.stopDone t) s = .next (({ u with pcr := { u.pcr with stopping := false, stopHeld := true }, sup := { u.sup with f4 := true } } : State).raise 4 8 0x14 0
      (0x13 + at_ (b2n s.pcr.stopTmax) 8) u.time)) ∧
  (∀ (s : State) (t : Time), s.pcr.asserted = none → let u := s.adv t
    exec (.clockFault .xtal t) s = .next (({ u with pcr := { u.pcr with xtal := false } } : State).clockFault false u.time) ∧
    (s.pcr.state ≠ 3 → exec (.clockFault .pll0 t) s = .next (({ u with pcr := { u.pcr with pll0 := false } } : State).clockFault false u.time)) ∧
    (s.pcr.state < 2 → exec (.clockFault .pll1 t) s = .next (({ u with pcr := { u.pcr with pll1 := false } } : State).clockFault false u.time)))

/-- While CTL runs, each boundary row goes to the next boundary of its kind and does the work of that boundary; while a reset other than MGR is in force, or in DEEP, nothing happens. The boundaries lie at the whole multiples of FP, of N_SP·FP and of 409,600 ticks: the next one is a multiple, after the last one, not before now, and less than one period from there. A round that counts both clocks within 8% of nominal records both counts. [R19, R35, R40, R242] -/
def Obligations.BoundaryRule : Prop :=
  (∀ (s : State), (s.ctlRuns = true → exec .fpBoundary s = .next (s.fpBoundary s.nextFp) ∧ exec .spBoundary s = .next (s.spBoundary s.nextSp) ∧
      ∀ mgt ctl, exec (.housekeepingRound mgt ctl) s = .next (s.hrRound mgt.toNat ctl.toNat s.nextHr)) ∧
    (s.ctlRuns = false → exec .fpBoundary s = .next s ∧ exec .spBoundary s = .next s ∧ ∀ mgt ctl, exec (.housekeepingRound mgt ctl) s = .next s)) ∧
  (∀ (s : State),
    (s.fp ≠ 0 → s.fpNewAt = none → s.nextFp % s.fp = 0 ∧ s.lastFp < s.nextFp ∧ s.time ≤ s.nextFp ∧ s.nextFp < max s.time (s.lastFp + 1) + s.fp) ∧
    (s.sp ≠ 0 → s.nextSp % s.sp = 0 ∧ s.lastSp < s.nextSp ∧ s.time ≤ s.nextSp ∧ s.nextSp < max s.time (s.lastSp + 1) + s.sp) ∧
    s.nextHr % (5 * 409600) = 0 ∧ s.lastHr < s.nextHr ∧ s.time ≤ s.nextHr ∧ s.nextHr < max s.time (s.lastHr + 1) + 5 * 409600) ∧
  (∀ (s : State) (m c : Nat) (b : Time), countBad m 245760 = false → countBad c 409600 = false →
    let w := s.hrRound m c b
    w.pcr.mgtCyc = m ∧ w.pcr.ctlCyc = c ∧ w.lastHr = b ∧ ((b / 2048000) % 1000 = 0 → ∀ x : Fin 8, w.sets[x].trips = 0))

/-- A set cell that still waits for samples at t2 of its FP, whose computation a poisoned word has stopped, or whose pass the stalls delay beyond t2, overruns once in that FP: its computation and those of the other sets of a late pass are abandoned, it is counted and flagged, and raised with the consecutive count: the third is an F2 fault of the set. With no such cause nothing happens. A machine cell that misses its deadline keeps the previous outputs; its third consecutive miss is an F2 fault. A winner confirmed and not the one last reported is reported with the one before it. Each HOLD_MAX of a deceleration's hold is reported. Of an adaptation window that has closed and qualifies, h moves by the clamped ratio and its bounds are judged; one that does not qualify only stops being due; without a closed window nothing happens. [R28, R64, R117, R122, R139] -/
def Obligations.CellEventsRule : Prop :=
  (∀ (s : State) (w : Fin 8) (x : SetSt), s.sets[w] = x →
    let cause := x.cell.waitAt == some s.lastFp || x.cell.freeNext || s.passLate w s.lastFp
    (s.cellRuns w = true → x.cell.ovrAt ≠ some s.lastFp → cause = true →
      let n := min 3 (x.cell.ovrRun + 1)
      let b := s.lastFp
      let a := forFin 8 (s.adv (b + s.fp - lead40)) fun u v =>
        if u.cellRuns v && !u.sets[v].cell.freeNext && u.sets[v].cell.ovrAt != some b && (v == w || u.passLate v b) then
          (u.overrun v b).modSet v fun x => { x with cell := { x.cell with freeNext := true } }
        else u
      let u := a.modSet w fun x => { x with cell := { x.cell with freeNext := false, ovrRun := n, ovrAt := some s.lastFp } }
      let v := (u.rcount regEngScCount w 31 24 1).rsetF regEngScStat w 11 11 1
      (n < 3 → exec (.engOverrun w) s = .next (v.raiseF 2 w 1 (0x44 + at_ n 8) s.lastFp)) ∧
      (¬ n < 3 → exec (.engOverrun w) s = .next (v.faultSet w 2 w (0x44 + at_ n 8) s.lastFp))) ∧
    (s.cellRuns w = false ∨ x.cell.ovrAt = some s.lastFp ∨ cause = false → exec (.engOverrun w) s = .next s)) ∧
  (∀ (s : State) (m : Fin 2) (x : MachSt), s.mach[m] = x →
    (x.loop.out.isSome = true →
      let n := min 3 (x.loop.mcRun + 1)
      let u := s.modMach m fun x => { x with loop := { x.loop with out := none, mcRun := n } }
      (n < 3 → exec (.mcOverrun m) s = .next (u.raiseF 3 m 1 (0x80 + at_ n 8) u.lastSp)) ∧
      (¬ n < 3 → exec (.mcOverrun m) s = .next (u.faultMach m 3 m 3 (0x80 + at_ n 8) u.lastSp))) ∧
    (x.loop.winRun ≠ 0 → s.srcCfg m 31 28 ≤ x.loop.winRun → x.loop.winRep ≠ some x.loop.winner →
      exec (.winnerChanged m) s = .next ((s.modMach m fun y => { y with loop := { y.loop with winRep := some x.loop.winner } }).raise 2 3 m 0
        (0x50 + at_ x.loop.winner 8 + at_ (x.loop.winRep.getD 7) 11) s.lastSp)) ∧
    (x.decel.active = true → x.decel.held = true → x.decel.heldAt + (x.decel.heldCnt + 1) * (100 * ms1 * s.rf regEngDecelCfg m 15 8) ≤ s.lastSp →
      exec (.decelHoldLong m) s = .next ((s.modMach m fun x => { x with decel := { x.decel with heldCnt := x.decel.heldCnt + 1 } }).raise 2 3 m 0 0x23 s.lastSp))) ∧
  (∀ (s : State) (w : Fin 8), s.sets[w].adapt.closed = none → exec (.adaptWindowClose w) s = .next s) ∧
  (∀ (s : State) (w : Fin 8) (a : AdaptWin), s.sets[w].adapt.closed = some a →
    let u := s.modSet w fun x => { x with adapt := { x.adapt with closed := none } }
    let ok := s.rb regEngRegCfg 0 8 && !a.spoiled && decide (3 ≤ a.raises) && decide (a.tFirst < a.tLast)
    let fm := natR (a.raises - 1) / (sec a.tLast - sec a.tFirst)
    let rho := clampR (1 + u.sc w cKB * (fm - u.sc w cFSW) / u.sc w cFSW) (mkRat 8 10) (mkRat 125 100)
    let h := rnd (clampR (u.sets[w].cell.h * rho) (u.sc w cHMIN) (u.sc w cHMAX))
    let v := u.modSet w fun x => { x with cell := { x.cell with h := h, fsw := rnd fm } }
    (ok = false → exec (.adaptWindowClose w) s = .next u) ∧
    (ok = true → exec (.adaptWindowClose w) s = .next (v.bandLimits w v.lastSp)))

/-- Each is acted on where its judgement stands and only then: a set with an implausible current or too many trips is faulted with F2, a starved judgement is raised once as F0, a following error is an F3 fault of its machine, a group, or a chopper, whose run of cut periods reaches its limit at a boundary is released and latched there, and then the group's set is faulted with F2, the chopper marked faulty with F1, an open chopper is marked with F1, a short chopper and an undervoltage put the machines of their link in their safe state with F3, and an overvoltage that stays is raised once and puts the machine in ASC whatever the policy. [R169, R182, R239, R240, R241, R242, R243, R244, R245] -/
def Obligations.JudgedFaultsRule : Prop :=
  (∀ (s : State) (w : Fin 8) (x : SetSt), s.sets[w] = x →
    (x.plDue = true → exec (.plausibility w) s =
      .next ((s.modSet w fun x => { x with plDue := false, plCnt := 0 }).faultSet w 2 w (0x82 + at_ (b2n x.plNeg) 8) s.lastFp)) ∧
    (x.plDue = false → exec (.plausibility w) s = .next s) ∧
    (x.driving = true → s.mach[machOf w].trk.state = .locked → x.plRaised = false → x.plSince + 100 * ms1 ≤ s.lastFp →
      exec (.plStarved w) s = .next ((s.modSet w fun x => { x with plRaised := true }).raiseF 2 w 1 0x83 s.lastFp)) ∧
    (x.plRaised = true → exec (.plStarved w) s = .next s) ∧
    (s.rf regSupTripCfg 0 7 0 ≤ x.trips → x.trips ≠ 0 → x.tripHit = false →
      exec (.tripRate w) s = .next ((s.modSet w fun x => { x with tripHit := true }).faultSet w 2 w 0x85 s.time)) ∧
    (x.trips < s.rf regSupTripCfg 0 7 0 ∨ x.trips = 0 ∨ x.tripHit = true → exec (.tripRate w) s = .next s)) ∧
  (∀ (s : State) (g : Fin 8) (x : GroupSt), s.groups[g] = x →
    (x.cutSeen = true → escReached (s.rf regPgnSgCfg g 7 0) (x.cutRun + 1) x.hiz = true →
      let u := (s.rcount regPgnSgCount g 15 0 1).modGroup g fun y => { y with cutRun := x.cutRun + 1, cutSeen := false, cutNow := false, escDue := true }
      s.endCut g = u.hizLatch g 3 0 s.time) ∧
    (x.escDue = true →
      let u := (s.rcount regPgnSgCount g 31 24 1).modGroup g fun y => { y with escDue := false }
      exec (.tripEscalated g) s = .next (u.faultSet g 2 g (0x62 + at_ (min x.cutRun 255) 8) u.lastFp)) ∧
    (x.escDue = false → exec (.tripEscalated g) s = .next s)) ∧
  (∀ (s : State) (c : Fin 2) (x : ChopSt), s.chops[c] = x →
    (x.cutSeen = true → escReached (s.rf regPgnPgkCfg c 15 8) (x.run + 1) x.latch = true →
      s.endChopCut c = (s.rcount regPgnPgkCount c 15 0 1).modChop c fun y => { y with run := x.run + 1, cutSeen := false, cutNow := false, escDue := true, latch := true, lowAt := y.ch.relAt s.time y.lowAt, ch := { y.ch.release s.time with blocked := false } }) ∧
    (x.escDue = true →
      let u := s.modChop c fun y => { y with escDue := false, state := 3 }
      exec (.chpEscalated c) s = .next ((u.rcount regPgnPgkCount c 31 24 1).raise 1 8 3 2 (0x69 + at_ c.val 8) u.lastFp)) ∧
    (x.escDue = false → exec (.chpEscalated c) s = .next s) ∧
    (s.rf regSupChpCfg c 11 8 ≤ x.openCnt → x.state = 0 →
      exec (.chopperOpen c) s = .next ((s.modChop c fun x => { x with state := 1 }).raise 1 8 6 2 (0x8E + at_ c.val 8) s.time)) ∧
    (x.openCnt < s.rf regSupChpCfg c 11 8 → exec (.chopperOpen c) s = .next s) ∧
    (s.rf regSupChpCfg c 11 8 ≤ x.shortCnt → x.state ≠ 2 →
      let u := (s.modChop c fun x => { x with state := 2 }).mbrk true
      let v := (u.confMach.filter fun m => (u.vdcSel m).val == s.rf regSupChpCfg c 0 0).foldl (fun (s : State) m =>
        (s.modMach m fun y => { y with sup := { y.sup with fault := true } }).armSafe (.mach m) 0 0x8F false s.time) u
      exec (.chopperShort c) s = .next (v.raise 1 8 6 4 (0x8F + at_ c.val 8) v.time)) ∧
    (x.shortCnt < s.rf regSupChpCfg c 11 8 → exec (.chopperShort c) s = .next s)) ∧
  (∀ (s : State) (m : Fin 2) (x : MachSt), s.mach[m] = x →
    (x.sup.feDue = true → exec (.followingError m) s =
      .next ((s.modMach m fun x => { x with sup := { x.sup with feDue := false, feT := 0 } }).faultMach m 3 m 3 (0x84 + at_ (b2n x.sup.feNeg) 8) s.lastSp)) ∧
    (∀ t0, x.sup.ov2Since = some t0 → s.machEn m = true → t0 + 200000 * s.rf regSupVdcCfg (s.vdcSel m) 15 0 ≤ s.lastFp → x.sup.ovRaised = false →
      let u := s.modMach m fun x => { x with sup := { x.sup with fault := true, ovRaised := true } }
      exec (.dcOvAsc m) s = .next ((u.armSafe (.mach m) 2 0x8C true s.lastFp).raiseF 3 m 4 0x8C s.lastFp)) ∧
    (x.sup.ov2Since = none ∨ x.sup.ovRaised = true → exec (.dcOvAsc m) s = .next s)) ∧
  (∀ (s : State) (x : Fin 2), (s.sup.uvDue[x] = true →
      let u : State := { s with sup := { s.sup with uvDue := s.sup.uvDue.set x false, uvRun := s.sup.uvRun.set x 0 } }
      let v := (u.confMach.filter fun m => u.vdcSel m == x).foldl (fun (s : State) m =>
        (s.modMach m fun y => { y with sup := { y.sup with fault := true } }).armSafe (.mach m) 0 0x8D false s.lastFp) u
      exec (.vdcUv x) s = .next (v.raise 1 8 6 4 (0x8D + at_ x.val 8) v.lastFp)) ∧
    (s.sup.uvDue[x] = false → exec (.vdcUv x) s = .next s))

/-- An enabled window that is IN becomes OUT when its input has lain beyond an active side for FILT, at the guaranteed depth and for 10 ns at least: it is counted and seen, and its trips act, stamped with the input's transition to within a tick, on the groups and choppers it is routed to (through an FLR only its output changes). An excursion below the guaranteed depth or 10 ns does so or does nothing as a free value says. A window disabled, already OUT, in DEEP or in a reset whose release forces it OUT, an input not beyond an active side, or an excursion shorter than FILT does nothing. It becomes IN again when its input has come inside every active side by more than HYST, and not before. A low FLT_N is seen and latches its group in HIZ unless a higher row of Table 6.1 holds. A low ESTOP_N is seen and held with F4 and the brake request, ESTOP is raised, and every configured machine goes to its safe state if the device owns them. Only a happening that finds the level low and lets it go does nothing more. [R219, R223, R224, R225, R226, R227, R236] -/
def Obligations.TripInputsRule : Prop :=
  (∀ (s : State) (n : Fin 20) (x : Int) (len t : Time), let filt := 50 * s.rf regCmpWinCfg n 30 28; let u := s.adv (t + filt)
    (s.rb regCmpWinCfg n 31 = true → s.winOut.getLsbD n = false → s.winRuns = true → 0 < s.winBeyond n x → filt ≤ len →
      (s.winDepth ≤ s.winBeyond n x → 20 ≤ len → exec (.windowOut n ⟨x, len, t⟩) s = .next (u.windowTrip n t)) ∧
      (s.winBeyond n x < s.winDepth ∨ len < 20 → exec (.windowOut n ⟨x, len, t⟩) s =
        .next (if s.free.getLsbD 0 then u.freeNext.windowTrip n t else s.freeNext.adv t))) ∧
    (s.rb regCmpWinCfg n 31 = false ∨ s.winOut.getLsbD n = true ∨ s.winRuns = false ∨ s.winBeyond n x ≤ 0 ∨ len < filt →
      exec (.windowOut n ⟨x, len, t⟩) s = .next (s.adv t)) ∧
    (s.winRuns = true → s.winInside n x = true → exec (.windowIn n ⟨x, t⟩) s = .next { s.adv t with winOut := s.winOut &&& ~~~ (1#20 <<< n.val) }) ∧
    (s.winInside n x = false → exec (.windowIn n ⟨x, t⟩) s = .next (s.adv t)) ∧
    (let v : State := { s with winOut := s.winOut ||| (1#20 <<< n.val) }
     let w := v.rset regCmpSeen 0 (v.rget regCmpSeen 0 ||| (1#32 <<< n.val))
     let y := w.rcount regCmpCount n 15 0 1
     (s.pcr.asserted = none → s.windowTrip n t = (y.windowActs n (y.stamp t)).freeNext) ∧
     (s.pcr.asserted ≠ none → s.windowTrip n t = v))) ∧
  (∀ (s : State) (g : Fin 8) (stays : Bool) (t : Time),
    let u : State := { s.adv t with flt := if stays then s.flt ||| (1#8 <<< g.val) else s.flt &&& ~~~ (1#8 <<< g.val) }
    let v := u.rset regCmpFltSeen 0 (u.rget regCmpFltSeen 0 ||| (1#32 <<< g.val))
    (s.flt.getLsbD g = true → stays = false → exec (.fltNLow g stays t) s = .next u) ∧
    (s.flt.getLsbD g = false ∨ stays = true → v.tripMasked g = true → exec (.fltNLow g stays t) s = .next v) ∧
    (s.flt.getLsbD g = false ∨ stays = true → v.tripMasked g = false → exec (.fltNLow g stays t) s = .next (v.hizLatch g 2 0 (v.stamp v.time)).freeNext)) ∧
  (∀ (s : State) (stays : Bool) (t : Time), let u : State := { s.adv t with estop := stays }
    (s.estop = true → stays = false → exec (.estop stays t) s = .next u) ∧
    (s.estop = false ∨ stays = true → exec (.estop stays t) s = .next (u.freeNext.estopHit (u.stamp u.time)) ∧
      (let a := u.freeNext.rset regCmpFltSeen 0 (u.freeNext.rget regCmpFltSeen 0 ||| 0x100)
       let w := ({ a with sup := { a.sup with estopHeld := true, f4 := true, mbrk := true } } : State).raise 1 4 0 5 0x88 (u.stamp u.time)
       w.sup.estopHeld = true ∧ w.sup.f4 = true ∧ w.sup.mbrk = true ∧ w.estop = stays ∧ (w.confMach = [] → exec (.estop stays t) s = .next w))))

/-- A FAULT event equal in code, source level and source index to an entry held increments that entry's REPEAT, to at most 255, and takes no new entry. Otherwise a new entry is taken while fewer than 16 are held. Of a full history the oldest entry of the lowest class held is replaced, provided that class is not above the new event's; otherwise the event is not recorded and HIST_LOST is incremented (its saturation at 255 is the model's choice). Nothing else changes. [R256] -/
def Obligations.FaultHistoryRule : Prop :=
  ∀ (s : State) (e : Evt),
    let same := fun (h : HistE) => bits h.detail 7 0 == bits e.detail 7 0 && h.level == e.level && h.index == e.index
    let new : HistE := ⟨e.time, e.detail, 0, e.fclass, e.level, e.index⟩
    let w := s.record e
    (w = { s with sup := { s.sup with hist := w.sup.hist, histLost := w.sup.histLost } }) ∧
    (s.sup.hist.any same = true → w.sup.histLost = s.sup.histLost ∧ w.sup.hist.length = s.sup.hist.length ∧ ∀ (i : Nat) (h : HistE), s.sup.hist[i]? = some h →
      (same h = true → w.sup.hist[i]? = some { h with repeat_ := min 255 (h.repeat_ + 1) }) ∧ (same h = false → w.sup.hist[i]? = some h)) ∧
    (s.sup.hist.any same = false → s.sup.hist.length < 16 → w.sup.hist = s.sup.hist ++ [new] ∧ w.sup.histLost = s.sup.histLost) ∧
    (s.sup.hist.any same = false → ¬ s.sup.hist.length < 16 → ∃ (i : Nat) (v : HistE), s.sup.hist[i]? = some v ∧
      (∀ h ∈ s.sup.hist, v.cls ≤ h.cls ∧ (h.cls = v.cls → v.time ≤ h.time)) ∧
      (v.cls ≤ e.fclass → w.sup.hist = s.sup.hist.set i new ∧ w.sup.histLost = s.sup.histLost) ∧
      (e.fclass < v.cls → w.sup.hist = s.sup.hist ∧ w.sup.histLost = min 255 (s.sup.histLost + 1)))

/-- The requests that fall due first are applied or held together; a held change is applied at the first instant every rule permits. A commutation placed for a running set moves it to the new sector at its instant, begins blanking there and re-maps the pattern; a regulator change that stands at it acts with it, and with that change a new torque direction that waits; if a minimum time delays an outgoing or incoming edge it is counted late, and blanking of a commutation starts from the later edge. A reversal of torque waits in DECAY until the pair current has fallen below DEMAG_I; the new direction then waits for the next state change. Blanking that passes its limit reports the crossing missed. [R49, R53, R59, R155, R159, R162] -/
def Obligations.PulseEdgesRule : Prop :=
  (∀ (s : State), (∀ t, s.edgeDue = some t → exec .scheduledEdge s = .next ((s.adv t).edgesAt t)) ∧ (s.edgeDue = none → exec .scheduledEdge s = .next s)) ∧
  (∀ (s : State) (ch : Fin 50),
    (∀ (n : Fin 48), n.val = ch.val → (∀ a, s.changeFrom n = some a → exec (.pendingChangeApplied ch) s = .next (((s.adv (max s.time a)).applyChange n (max s.time a)).noteSet (setOf n) (max s.time a))) ∧
      (s.changeFrom n = none → exec (.pendingChangeApplied ch) s = .next s)) ∧
    (∀ (c : Fin 2), ch.val = 48 + c.val → (∀ a, s.chopFrom c = some a → exec (.pendingChangeApplied ch) s = .next ((s.adv (max s.time a)).applyChop c (max s.time a))) ∧
      (s.chopFrom c = none → exec (.pendingChangeApplied ch) s = .next s))) ∧
  (∀ (s : State) (w : Fin 8) (x : SetSt), s.sets[w] = x →
    (∀ t0 rs ns old, x.cell.commAt = some (t0, rs, ns) → x.sector = some old → s.cellRuns w = true →
      let t := max s.time t0
      let moved : Option Reg := match x.cell.plan with | (a, r) :: _ => if a = t0 then some r else none | [] => none
      let newTd := moved.isSome && x.tdNew
      let td := if newTd then x.tdReq else x.td
      ∃ v : State, v.sets[w].sector = some ns ∧ v.sets[w].prevSec = some old ∧ v.sets[w].lastComm = t ∧
        v.sets[w].cell.commAt = x.cell.resyncAt.map (fun (a, n, _) => (a, true, n)) ∧ v.sets[w].td = td ∧
        v.sets[w].chopLow = (if newTd then x.tdChop else x.cell.commChop.of td) ∧ v.sets[w].adv = natOf (x.cell.commAdv * 64) ∧
        v.sets[w].x.blanking = true ∧ v.sets[w].x.tc = t ∧ v.sets[w].x.armed = !rs ∧ v.chans = s.chans ∧ v.time = t ∧
        (let y := v.reqSet w t
         let u := match moved with | some r => y.countChange w r ((s.adv t).genAt w t0) t | none => y
         let late := (swapped w old ns x.td td).filterMap fun n => u.delayedTo n t
         (late.isEmpty = true → exec (.commutation w) s = .next u) ∧
         (late.isEmpty = false → exec (.commutation w) s = .next (if rs then u.rcount regComCount w 7 0 1
           else (u.rcount regComCount w 7 0 1).modSet w fun y => { y with x := { y.x with tc := late.foldl max t } })))) ∧
    (x.cell.commAt = none → exec (.commutation w) s = .next s) ∧
    (x.sector = none → exec (.commutation w) s = .next s)) ∧
  (∀ (s : State) (w : Fin 8) (t : Time) (x : SetSt) (sec : Fin 6), s.sets[w] = x → x.sector = some sec → x.tdDecay = true →
    let u := s.adv t
    let i := ((u.pairI (u.lastSample u.time) w sec x.td).getD (0, 0)).1
    (absR i < u.demagI (machOf w) → exec (.tdDecayEnd w t) s = .next (u.modSet w fun y => { y with tdDecay := false, tdNew := true, cell := { y.cell with masked := y.cell.masked.map fun (a, z) => (a, if z = 0 then u.time else z) } })) ∧
    (¬ absR i < u.demagI (machOf w) → exec (.tdDecayEnd w t) s = .next u)) ∧
  (∀ (s : State) (w : Fin 8) (t : Time), let u := s.adv t
    (u.cellRuns w = true → s.sets[w].x.blanking = true → u.demagOver w u.time = true → exec (.missed w t) s = .next (u.missedNow w u.time)) ∧
    (u.cellRuns w = false ∨ u.demagOver w u.time = false → exec (.missed w t) s = .next u))

/-- A hall change to an adjacent span is reported to the tracker at the border between the two; a change to no span makes the fault due. An encoder edge counts one step, modulo its count, and is reported once an index was seen; an index sets the count to 0, and one far from 0 makes the fault due. A PSP period is kept for the mean of its SP; one in range counts good, one out of range bad: three bad, or 2 ms without an edge, make the input invalid, a hundred good make it valid. An input in use that has become invalid is raised as F1. A mismatch and a host watchdog expiry enter FALLBACK at the SP boundary that finds them as the cause. [R75, R77, R78, R128, R130, R131, R132] -/
def Obligations.SensorsRule : Prop :=
  (∀ (s : State) (m : Fin 2) (l : BitVec 3) (t : Time),
    let u := s.adv t
    let st := u.stamp t
    let v := u.freeNext.modMach m fun x => { x with sens := { x.sens with hall := l, hallAt := st } }
    (v.hallValid m = false → exec (.hallEdge m l t) s = .next v) ∧
    (v.hallValid m = true →
      (∀ a b, hallSpan (u.hallCode m) = some a → hallSpan (v.hallCode m) = some b →
        (b = (a + 1) % 6 → exec (.hallEdge m l t) s = .next (v.report m ⟨.hall, 0, st, wrap360 (natR (60 * b) + v.hallOfs m), mkRat (v.rf regComSensCfg m 7 0) 256, st⟩)) ∧
        (b ≠ (a + 1) % 6 → a = (b + 1) % 6 →
          exec (.hallEdge m l t) s = .next (v.report m ⟨.hall, 0, st, wrap360 (natR (60 * a) + v.hallOfs m), mkRat (v.rf regComSensCfg m 7 0) 256, st⟩))) ∧
      (hallSpan (v.hallCode m) = none → v.started = true →
        exec (.hallEdge m l t) s = .next (v.modMach m fun x => { x with sens := { x.sens with hallDue := true } })))) ∧
  (∀ (s : State) (m : Fin 2) (x : MachSt), s.mach[m] = x →
    (x.sens.hallDue = true → s.started = true → exec (.hallFault m) s =
      .next ((s.modMach m fun x => { x with sens := { x.sens with hallDue := false, hallFail := true } }).raiseF 3 m 2 0x38 s.time)) ∧
    (x.sens.encDue = true → s.started = true → exec (.encFault m) s =
      .next ((s.modMach m fun x => { x with sens := { x.sens with encDue := false, encFail := true } }).raiseF 3 m 2 0x39 s.time)) ∧
    (∀ (t : Time), ∃ v : State, exec (.encZEdge m t) s = .next v ∧ v.mach[m].sens.encCount = 0 ∧ v.mach[m].sens.encIdx = (x.sens.encIdx || s.started) ∧
      v.mach[m].sens.encDue = (x.sens.encDue || (decide (4 < x.sens.encCount) && decide (x.sens.encCount + 4 < s.encMod m) && s.started && s.encValid m)) ∧
      (s.encValid m = true → v.mach[m].loop.rev = 0)) ∧
    (∀ (up : Bool) (t : Time), let u := s.adv t
      let k := s.encMod m
      let v := u.freeNext.modMach m fun x => { x with sens := { x.sens with encCount := if up then (x.sens.encCount + 1) % k else (x.sens.encCount + k - 1) % k } }
      (k = 0 → exec (.encoderEdge m up t) s = .next u) ∧
      (k ≠ 0 → (v.encValid m && v.mach[m].sens.encIdx) = true → exec (.encoderEdge m up t) s =
        .next (v.report m ⟨.encoder, 0, u.stamp t, wrap360 (v.encAngle m), mkRat (v.rf regComSensCfg m 15 8) 256, u.stamp t⟩)) ∧
      (k ≠ 0 → (v.encValid m && v.mach[m].sens.encIdx) = false → exec (.encoderEdge m up t) s = .next v))) ∧
  (∀ (s : State) (m : Fin 2) (period high : Nat) (t : Time) (y : SrcSt), s.mach[m].src = y →
    (period = 0 → exec (.pspMeasurement m period high t) s = .next (s.adv t)) ∧
    (period ≠ 0 →
      let x : Rat := if s.rb regEngSrcCfg m 18 then mkRat (100 * high) period else 1 / sec period
      let ok := if s.rb regEngSrcCfg m 18 then decide (5 ≤ x) && decide (x ≤ 95) else decide (1000 ≤ x) && decide (x ≤ 20000)
      let z := y.pspCheck (max s.time t)
      let bad := if ok then 0 else min 3 (z.pspBad + 1)
      let good := if ok then min 100 (z.pspGood + 1) else 0
      ∃ v : State, exec (.pspMeasurement m period high t) s = .next v ∧ v.mach[m].src.pspNew = (z.pspNew.filter fun p => decide (max s.time t ≤ p.1 + s.sp)) ++ [(max s.time t, rnd x)] ∧
        v.mach[m].src.pspLast = rnd x ∧ v.mach[m].src.pspEdge = max s.time t ∧
        v.mach[m].src.pspBad = bad ∧ v.mach[m].src.pspGood = good ∧
        v.mach[m].src.pspOk = (if z.pspOk then decide (bad < 3) else decide (100 ≤ good))) ∧
    (let d := match y.aspNew with | some (a, _) => (s.adv a).aspLand m (max s.time a + 1) | none => s
     d.mach[m].src.aspDue = true → exec (.setpointInput m false) s =
      .next ((d.modMach m fun z => { z with src := { z.src with aspDue := false } }).raiseF 3 m 2 0x55 d.time)) ∧
    (y.pspDue = true → exec (.setpointInput m true) s =
      .next (((s.adv s.time).modMach m fun z => { z with src := { z.src with pspDue := false, pspOk := false, pspGood := 0 } }).raiseF 3 m 2 0x155 s.time))) ∧
  (∀ (s : State) (m : Fin 2), let u := ((s.adv s.nextSp).swapsDue s.nextSp).srcUpdate m s.nextSp
    (s.machEn m = true → s.started = true → s.pcr.state = 0 → s.owner = true →
      (u.fallbackCause m s.nextSp = 4 → exec (.setpointMismatch m) s = .next (u.enterFallback m 4 s.nextSp)) ∧
      (u.fallbackCause m s.nextSp = 1 → exec (.hostWatchdogExpiry m) s = .next (u.enterFallback m 1 s.nextSp)) ∧
      (u.fallbackCause m s.nextSp = 0 → exec (.setpointMismatch m) s = .next s ∧ exec (.hostWatchdogExpiry m) s = .next s)))

/-- While a machine listens, each conversion of a configured set on a running grid, with its converter free and no urgent request waiting for it, updates the line voltages and the catch is tried with the crossings found; in LOST only the lines are updated; otherwise nothing. When the listening time ends without a catch it is extended once if the voltage was seen, else the machine starts at rest. A probe pulse ends at PROBE_T or at its current limit and its response is recorded; its slot ends when the current is low, and fails with cause 2 one slot later; a stopped start goes on with neither, nor locks. A failed start is an F2 fault with its cause. Enough good events lock the tracker, in STEP only where f has the commanded sign; the set-point takes over from STEP_I per set (log 19), or from 0 where the start follows a loss. [R73, R81, R82, R84, R87] -/
def Obligations.StartRule : Prop :=
  (∀ (s : State) (w : Fin 8) (uP uN v wP wN : Int) (t : Time), let m := machOf w
    let a := (((s.adv t).vcSample w 0 uP (t - 400)).1.vcSample w 1 v t).1
    let c := (a.vcSample w 2 wN (t + 400)).1
    let cv := fun (x : Int) => intR (c.code14 (32 + w.val) 0 x).1 * f32v (c.rget regComVphGain w)
    let uu := cv uP + (cv uN - cv uP) / 3
    let ww := cv wP + (cv wN - cv wP) * mkRat 2 3
    let l1 := lineCross c.sets[w].lineUV t (uu - cv v) (c.zcHyst m)
    let l2 := lineCross c.sets[w].lineVW t (cv v - ww) (c.zcHyst m)
    let l3 := lineCross c.sets[w].lineWU t (ww - uu) (c.zcHyst m)
    let d := c.modSet w fun y => { y with lineUV := l1.1, lineVW := l2.1, lineWU := l3.1 }
    (s.setConf w = true → (s.adv t).gridOn = true → s.convFree (32 + w.val) (t - 400) = true → (s.adv t).urgentHeld (32 + w.val) (t - 400) = false → s.mach[m].trk.state = .lost → s.sets[w].driving = false → exec (.listenConversion w uP uN v wP wN t) s = .next d) ∧
    (s.setConf w = true → (s.adv t).gridOn = true → s.convFree (32 + w.val) (t - 400) = true → (s.adv t).urgentHeld (32 + w.val) (t - 400) = false → s.mach[m].trk.state = .listen → ∃ e : State, exec (.listenConversion w uP uN v wP wN t) s = .next (e.tryCatch m e.time) ∧
      e.mach[m].start.vSeen = (d.mach[m].start.vSeen || decide (f32v (d.rget regComCatchVmin m) < maxR (absR (uu - cv v)) (maxR (absR (cv v - ww)) (absR (ww - uu))))) ∧
      (l1.2 = none → l2.2 = none → l3.2 = none → e.mach[m].start.catches = d.mach[m].start.catches) ∧
      (∀ tc r, l1.2 = some (tc, r) → l2.2 = none → l3.2 = none →
        e.mach[m].start.catches = ((tc, wrap360 ((if r then 330 else 150) + d.setOfs w)) :: d.mach[m].start.catches).take 3)) ∧
    (s.setConf w = false ∨ (s.adv t).gridOn = false ∨ s.convFree (32 + w.val) (t - 400) = false ∨ (s.adv t).urgentHeld (32 + w.val) (t - 400) = true ∨
      (s.mach[m].trk.state ≠ .listen ∧ s.mach[m].trk.state ≠ .lost) → exec (.listenConversion w uP uN v wP wN t) s = .next (s.adv t))) ∧
  (∀ (s : State) (m : Fin 2) (x : MachSt), s.mach[m] = x →
    (x.trk.state = .listen →
      let d := 200000 * s.rf regComStartCfg m 15 0
      let t := max s.time (x.start.listenAt + (if x.start.extended then 2 * d else d))
      let u := (s.adv t).tryCatch m t
      (u.mach[m].trk.state ≠ .listen → exec (.catchListenExpiry m) s = .next u) ∧
      (u.mach[m].trk.state = .listen → x.start.vSeen = true → x.start.extended = false →
        exec (.catchListenExpiry m) s = .next (u.modMach m fun x => { x with start := { x.start with extended := true } })) ∧
      (u.mach[m].trk.state = .listen → x.start.vSeen = false ∨ x.start.extended = true → exec (.catchListenExpiry m) s = .next (u.startAtRest m t))) ∧
    (∀ (t : Time), x.trk.state = .probe → x.start.probePh = 0 → x.trk.stopping = false →
      let tEnd := min (max s.time t) (x.start.slotAt + x.start.probeT)
      let i := s.probeI m tEnd
      let u := s.adv t
      let w := probeSet m x.start.probeIdx
      (tEnd < x.start.slotAt + x.start.probeT → i < f32v (s.rget regComProbeImax m) → exec (.probePulseEnd m t) s = .next u) ∧
      (tEnd = x.start.slotAt + x.start.probeT ∨ ¬ i < f32v (s.rget regComProbeImax m) → exec (.probePulseEnd m t) s = .next
        (((u.modMach m fun y => { y with start := { y.start with probePh := 1, responses := y.start.responses ++ [if tEnd ≤ x.start.slotAt then 0 else i / (sec tEnd - sec x.start.slotAt)] } }).modSet w
          fun y => { y with cell := y.cell.enter .decay tEnd }).reqSet w u.time))) ∧
    (∀ (t : Time), let t' := max s.time t
      let slot := 20000 * s.rf regComProbeCfg m 15 8
      let u := s.adv t'
      let w := probeSet m x.start.probeIdx
      x.trk.state = .probe → x.start.probePh = 1 → x.trk.stopping = false → x.start.slotAt + slot ≤ t' →
      (u.demagI m ≤ absR (u.probeI m t') →
        (x.start.slotAt + 2 * slot ≤ t' → exec (.probeSlotEnd m t) s = .next (u.modMach m fun x => { x with start := { x.start with failDue := some 2, probePh := 4 } })) ∧
        (t' < x.start.slotAt + 2 * slot → exec (.probeSlotEnd m t) s = .next u)) ∧
      (¬ u.demagI m ≤ absR (u.probeI m t') →
        let v := (u.modSet w fun x => { x with sector := none, cell := { x.cell with cur := .off } }).modMach m fun x => { x with start := { x.start with probeIdx := x.start.probeIdx + 1 } }
        exec (.probeSlotEnd m t) s = .next (if v.mach[m].start.probeIdx < 6 * v.nSets m then v.probeSlot m t' else v.probeResult m t'))) ∧
    (∀ (t : Time), x.trk.stopping = true → exec (.probePulseEnd m t) s = .next (s.adv t) ∧ exec (.probeSlotEnd m t) s = .next (s.adv (max s.time t))) ∧
    (∀ c, x.start.failDue = some c → let v := s.modMach m fun x => { x with start := { x.start with failDue := none } }
      exec (.startFail m) s = .next (v.faultMach m 3 m 3 (0x34 + at_ c 8) v.time)) ∧
    (x.start.failDue = none → exec (.startFail m) s = .next s) ∧
    (s.rf regComTrkCfg m 27 24 ≤ x.trk.good → x.trk.stopping = false → x.trk.state = .capture ∨ (x.trk.state = .step ∧ 0 < s.sigma m * x.trk.f) →
      let out := if x.start.fromLost then 0 else s.sigma m * natR (s.setsOf m).length * f32v (s.rget regComStepI m)
      exec (.locked m) s = .next ((s.modMach m fun y => { y with trk := { y.trk with state := .locked, lost_ := false, rotEvent := 0 }, start := { y.start with fromLost := false }, decel := if x.trk.state = .step then y.decel.recover y.trk.f else y.decel, loop := if x.trk.state = .step then { y.loop with takeover := some out } else y.loop }).raise 0x0A 3 m 0 0x33 s.lastFp)) ∧
    (x.trk.good < s.rf regComTrkCfg m 27 24 ∨ x.trk.stopping = true → exec (.locked m) s = .next s))

/-- A loss of the position is counted, is a recovery of the running 10 s and is reported with its branch: above f_ASC the machine goes to ASC and observes, below it goes to DECAY; more than RECOVER_MAX recoveries are an F2 fault. In LOW a due restart begins a probe. In LOST, once every pair current is below DEMAG_I the sets are off and the machine listens, or is idle where a stop ends it. The observation begins when ASC_SETTLE has passed, and is over at once where no set can be observed; a first window of a start that did not turn enough is repeated, and the last window to end gives the estimate. With an estimate the ASC of every set neither faulty, held safe nor latched is released at the SP boundary, into CAPTURE or LOST by the speed, and REACQUIRED is reported. [R70, R79, R88, R89, R90, R91] -/
def Obligations.LossRule : Prop :=
  (∀ (s : State) (m : Fin 2) (x : MachSt), s.mach[m] = x →
    (x.trk.lost_ = true → s.trkOn m = true → x.trk.stopping = false → s.shadow = false →
      let b := s.lastFp
      let asc := decide (s.fAsc m ≤ absR x.trk.f)
      let u := ((s.rcount regComTrkCount m 31 24 1).addRecovery m b).raise 0x0A 3 m 0 (0x35 + at_ (b2n asc) 8) b
      (u.rf regComAscCfg m 31 24 < u.mach[m].trk.recov.length → exec (.rotorLost m) s =
        .next ((u.modMach m fun x => { x with trk := { x.trk with state := .idle } }).faultMach m 3 m 3 0x37 b)) ∧
      (u.mach[m].trk.recov.length ≤ u.rf regComAscCfg m 31 24 → exec (.rotorLost m) s = .next (if asc then u.ascObserve m x.trk.f b else (u.goLost m b).retrip))) ∧
    (x.trk.lost_ = false → exec (.rotorLost m) s = .next s) ∧
    (x.trk.state = .low → x.trk.stopping = false → x.decel.active = false → 4 * s.lossDeg m ≤ x.trk.rotLow ∨ x.trk.lowAt + 200 * ms1 ≤ s.lastFp →
      let u := (s.setsOf m).foldl (fun s w => s.decaySet w s.lastFp) s
      exec (.lowRestart m) s = .next ((u.beginProbe m).raise 0x0A 3 m 0 0x3A u.lastFp).retrip) ∧
    (x.trk.state ≠ .low → exec (.lowRestart m) s = .next s) ∧
    (∀ (t : Time), let u := s.adv t
      (x.trk.state = .lost → u.currentsLow m u.time = true →
        let v := (u.setsOf m).foldl (fun s w => s.offSet w s.time) u
        exec (.lostDecayDone m t) s = .next (if v.mach[m].trk.stopping then v.idleMach m else (v.beginListen m v.time).retrip)) ∧
      (x.trk.state ≠ .lost ∨ u.currentsLow m u.time = false → exec (.lostDecayDone m t) s = .next u)) ∧
    (∀ t, x.start.settleEnd = some t → let v := (s.adv t).modMach m fun x => { x with start := { x.start with settleEnd := none } }
      let w := v.obsStart m v.mach[m].start.fLoss t
      (((w.setsOf m).any fun k => w.sets[k].obs.running) = true ∨ w.mach[m].trk.state ≠ .ascObserve → exec (.ascSettleEnd m) s = .next w) ∧
      (((w.setsOf m).any fun k => w.sets[k].obs.running) = false → w.mach[m].trk.state = .ascObserve → exec (.ascSettleEnd m) s = .next (w.obsDone m t))) ∧
    (x.start.settleEnd = none → exec (.ascSettleEnd m) s = .next s)) ∧
  (∀ (s : State) (w : Fin 8) (o : ObsSt), s.sets[w].obs = o →
    (o.running = true →
      let t := o.start + obsTicks o.len
      let u := s.adv t
      let e := if u.observable w then u.obsEstimate w else (0, none)
      let retry := u.observable w && e.2.isNone && o.attempt == 1 && s.mach[machOf w].trk.state == .ascObserve
      (retry = true → ∃ v : State, exec (.ascWindowEnd w) s = .next v ∧ v.sets[w].obs.running = true ∧ v.sets[w].obs.attempt = 2 ∧
        v.sets[w].obs.start = t ∧ v.sets[w].obs.len = obsLen (360 * o.len / maxR (absR e.1) 1)) ∧
      (retry = false → ∃ v : State, v.sets[w].obs.running = false ∧ v.sets[w].obs.est = e.2.map (fun (th, f) => (th, f, o.tLast)) ∧
        (((v.setsOf (machOf w)).any fun k => v.sets[k].obs.running) = true → exec (.ascWindowEnd w) s = .next v) ∧
        (((v.setsOf (machOf w)).any fun k => v.sets[k].obs.running) = false → exec (.ascWindowEnd w) s = .next (v.obsDone (machOf w) v.time)))) ∧
    (o.running = false → exec (.ascWindowEnd w) s = .next s)) ∧
  (∀ (s : State) (m : Fin 2) (x : MachSt), s.mach[m] = x →
    (x.start.est ≠ none → x.trk.state = .ascObserve → let b := max s.time (s.spAfter x.start.estAt)
      let u := s.adv b
      let go := decide (u.fAscExit m < absR x.trk.f)
      let v := (u.modMach m fun x => { x with start := { x.start with est := none } }).endObs m
      let v := if go then v.toCapture m 0 else v.modMach m fun x => { x with trk := { x.trk with state := .lost } }
      let v := (v.setsOf m).foldl (fun (s : State) k =>
        if s.sets[k].fault || s.sets[k].safe.isSome || s.groups[k].hiz then s
        else
          let a := (s.modGroup k fun x => { x with asc := false }).enterSet k ((s.modGroup k fun x => { x with asc := false }).shiftedSector k (u.trkTheta m b) x.trk.f) b
          let a := if go then a else a.modSet k fun x => { x with ending := true }
          if a.rowOf k == .drive then a.reqSet k b else a) v
      exec (.reacquired m) s = .next (v.raise 0x0A 3 m 0 (0x36 + at_ (b2n (!go)) 8) b).retrip) ∧
    (x.start.est = none → exec (.reacquired m) s = .next s))
end

