-- ==== Sys2Proof/Laws/Keeps.lean ====
section
/-! SUPPORT. Laws/Keeps.lean: the relation that every shared operation keeps: the queue of waiting commands stands, no fuse changes
(where `kb` is true), and the invariants of Safety survive. One lemma per operation, here and in the files beside it. -/
namespace Sys2Proof.Machine

/-- What leads from `s` to `t` leaves the queue alone, leaves the fuses alone where `b` is true, and keeps the invariants. -/
structure Keeps (b : Bool) (s t : State) : Prop where
  queue : t.pending = s.pending
  fuses : b = true → t.otp.norm = s.otp.norm ∧ t.otp.marg = s.otp.marg
  inv   : s.Inv → t.Inv

/-- The same of an outcome: of its next state, if it is one. -/
structure KeepsO (b : Bool) (s : State) (o : Host.Outcome State Fault Refusal) : Prop where
  next : ∀ t, o = .next t → Keeps b s t

theorem Keeps.refl (b : Bool) (s : State) : Keeps b s s := ⟨rfl, fun _ => ⟨rfl, rfl⟩, id⟩

theorem Keeps.trans {b : Bool} {s t u : State} (h : Keeps b s t) (k : Keeps b t u) : Keeps b s u :=
  ⟨k.queue.trans h.queue, fun e => ⟨(k.fuses e).1.trans (h.fuses e).1, (k.fuses e).2.trans (h.fuses e).2⟩, fun i => k.inv (h.inv i)⟩

/-- A change of fields that neither the queue, the fuses nor the invariants name. -/
theorem keeps_mk {kb : Bool} {k0 s : State} (hk : Keeps kb k0 s) (time : Time) (freeCtr fpSteps : Nat) (fpNewAt : Option Time)
    (lastFp lastSp lastHr : Time) (started : Bool) (ecc : EccSt) (late : List LateNode) (mach : Vector MachSt 2) (sets : Vector SetSt 8)
    (edges : List Edge) (groups : Vector GroupSt 8) (direct : DirectSt) (chops : Vector ChopSt 2) (acq : AcqSt) (winOut : BitVec 20)
    (flt : BitVec 8) (estop : Bool) (sup : SupSt) (thm : ThmSt) (host : HostSt) (silo : Vector SiloCh 16) (otp : OtpSt) (msr : MsrSt)
    (pcr : PcrSt) (lts : LtsSt) (ypl : YplSt) (svc : SvcSt) (hm : alRising s.host.mem = true → alRising host.mem = true)
    (hl : heldEvents s.host.held ≤ 256 → heldEvents host.held ≤ 256) (hh : s.sup.hist.length ≤ 16 → sup.hist.length ≤ 16)
    (hb : alRising s.msr.bar4 = true ∧ (∀ p ∈ s.msr.bar4, p.2 ≠ 0) → alRising msr.bar4 = true ∧ ∀ p ∈ msr.bar4, p.2 ≠ 0)
    (hn : otp.norm = s.otp.norm) (hg : otp.marg = s.otp.marg) :
    Keeps kb k0 (State.mk time freeCtr s.pending fpSteps fpNewAt lastFp lastSp lastHr started s.regs s.nodes ecc late mach sets s.chans
      edges groups direct chops acq winOut flt estop sup thm host silo otp msr pcr lts ypl svc) := by
  refine ⟨hk.queue, fun e => ⟨hn.trans (hk.fuses e).1, hg.trans (hk.fuses e).2⟩, fun i => ?_⟩
  have j := hk.inv i
  exact ⟨j.legs, j.nodes, hb j.image, j.regs, hm j.mem, hh j.hist, hl j.held, by
    have := j.fuses; unfold State.fusesWf at *; rw [hn, hg]; exact this⟩

theorem keeps_ite {b : Bool} {s x y : State} {p : Prop} [Decidable p] (hx : Keeps b s x) (hy : Keeps b s y) :
    Keeps b s (if p then x else y) := by split <;> assumption

theorem keepsO_ite {b : Bool} {s : State} {x y : Host.Outcome State Fault Refusal} {p : Prop} [Decidable p] (hx : KeepsO b s x)
    (hy : KeepsO b s y) : KeepsO b s (if p then x else y) := by split <;> assumption

theorem keepsO_next {b : Bool} {s t : State} (h : Keeps b s t) : KeepsO b s (.next t) :=
  ⟨fun _ hu => by cases hu; exact h⟩

theorem keepsO_refused {b : Bool} {s : State} (r : Refusal) : KeepsO b s (.refused r) :=
  ⟨fun _ hu => by cases hu⟩

theorem keeps_foldl {α : Type} {b : Bool} {s0 s : State} {l : List α} {f : State → α → State} (h : Keeps b s0 s)
    (hf : ∀ u x, Keeps b s0 u → Keeps b s0 (f u x)) : Keeps b s0 (l.foldl f s) := by
  induction l generalizing s with
  | nil => exact h
  | cons a l ih => exact ih (hf _ _ h)

theorem keeps_forFin {n : Nat} {b : Bool} {s0 s : State} {f : State → Fin n → State} (h : Keeps b s0 s)
    (hf : ∀ u x, Keeps b s0 u → Keeps b s0 (f u x)) : Keeps b s0 (forFin n s f) := keeps_foldl h hf

theorem keeps_foldPair {α β : Type} {b : Bool} {s0 : State} {l : List α} {p : State × β} {f : State × β → α → State × β}
    (h : Keeps b s0 p.1) (hf : ∀ u x, Keeps b s0 u.1 → Keeps b s0 (f u x).1) : Keeps b s0 (l.foldl f p).1 := by
  induction l generalizing p with
  | nil => exact h
  | cons a l ih => exact ih (hf _ _ h)

theorem keeps_forFinPair {n : Nat} {β : Type} {b : Bool} {s0 : State} {p : State × β} {f : State × β → Fin n → State × β}
    (h : Keeps b s0 p.1) (hf : ∀ u x, Keeps b s0 u.1 → Keeps b s0 (f u x).1) : Keeps b s0 (forFin n p f).1 := keeps_foldPair h hf

/-! ### Sparse stores -/

/-- Every key of a rising list that begins with `a` or above. -/
theorem alRising_cons {α : Type} {a : Nat} {x : α} {l : List (Nat × α)} :
    alRising ((a, x) :: l) = true ↔ (∀ p ∈ l, a < p.1) ∧ alRising l = true := by
  induction l generalizing a x with
  | nil => simp [alRising]
  | cons p l ih =>
    obtain ⟨b, y⟩ := p
    simp only [alRising, Bool.and_eq_true, decide_eq_true_eq, List.mem_cons, forall_eq_or_imp]
    constructor
    · rintro ⟨hab, h⟩
      exact ⟨⟨hab, fun q hq => Nat.lt_trans hab ((ih.1 h).1 q hq)⟩, h⟩
    · rintro ⟨⟨hab, _⟩, h⟩
      exact ⟨hab, h⟩

theorem mem_alSet {α : Type} {l : List (Nat × α)} {a : Nat} {x : α} {p : Nat × α} (h : p ∈ alSet l a x) : p = (a, x) ∨ p ∈ l := by
  induction l with
  | nil => simp only [alSet, List.mem_singleton] at h; exact .inl h
  | cons q l ih =>
    obtain ⟨k, v⟩ := q
    simp only [alSet] at h
    split at h
    · simp only [List.mem_cons] at h ⊢; tauto
    · split at h
      · simp only [List.mem_cons] at h ⊢; tauto
      · simp only [List.mem_cons] at h ⊢
        rcases h with h | h
        · tauto
        · rcases ih h with h | h <;> tauto

theorem alRising_alSet {α : Type} {l : List (Nat × α)} {a : Nat} {x : α} (h : alRising l = true) : alRising (alSet l a x) = true := by
  induction l with
  | nil => simp [alSet, alRising]
  | cons q l ih =>
    obtain ⟨k, v⟩ := q
    simp only [alSet]
    have hc := alRising_cons.1 h
    split
    · rename_i e; subst e; exact alRising_cons.2 hc
    · split
      · rename_i hlt
        refine alRising_cons.2 ⟨fun p hp => ?_, h⟩
        rcases List.mem_cons.1 hp with rfl | hp
        · exact hlt
        · exact Nat.lt_trans hlt (hc.1 p hp)
      · refine alRising_cons.2 ⟨fun p hp => ?_, ih hc.2⟩
        rcases mem_alSet hp with rfl | hp
        · simp only; omega
        · exact hc.1 p hp

theorem mem_alDel {α : Type} {l : List (Nat × α)} {a : Nat} {p : Nat × α} (h : p ∈ alDel l a) : p ∈ l := by
  induction l with
  | nil => simp [alDel] at h
  | cons q l ih =>
    obtain ⟨k, v⟩ := q
    simp only [alDel] at h
    split at h
    · exact List.mem_cons_of_mem _ h
    · split at h
      · exact h
      · rcases List.mem_cons.1 h with rfl | h
        · exact List.mem_cons_self ..
        · exact List.mem_cons_of_mem _ (ih h)

theorem alRising_alDel {α : Type} {l : List (Nat × α)} {a : Nat} (h : alRising l = true) : alRising (alDel l a) = true := by
  induction l with
  | nil => simp [alDel, alRising]
  | cons q l ih =>
    obtain ⟨k, v⟩ := q
    have hc := alRising_cons.1 h
    simp only [alDel]
    split
    · exact hc.2
    · split
      · exact h
      · exact alRising_cons.2 ⟨fun p hp => hc.1 p (mem_alDel hp), ih hc.2⟩

theorem alRising_alPut {α : Type} [DecidableEq α] {d : α} {l : List (Nat × α)} {a : Nat} {x : α} (h : alRising l = true) :
    alRising (alPut d l a x) = true := by
  unfold alPut; split
  · exact alRising_alDel h
  · exact alRising_alSet h

theorem mem_alPut {α : Type} [DecidableEq α] {d : α} {l : List (Nat × α)} {a : Nat} {x : α} {p : Nat × α} (h : p ∈ alPut d l a x) :
    (p = (a, x) ∧ x ≠ d) ∨ p ∈ l := by
  unfold alPut at h; split at h
  · exact .inr (mem_alDel h)
  · rename_i hx
    rcases mem_alSet h with h | h
    · exact .inl ⟨h, hx⟩
    · exact .inr h

theorem alRising_filter {α : Type} {l : List (Nat × α)} {f : Nat × α → Bool} (h : alRising l = true) : alRising (l.filter f) = true := by
  induction l with
  | nil => simp [alRising]
  | cons q l ih =>
    have hc := alRising_cons.1 h
    simp only [List.filter_cons]
    split
    · exact alRising_cons.2 ⟨fun p hp => hc.1 p (List.mem_filter.1 hp).1, ih hc.2⟩
    · exact ih hc.2

/-- A read after a write: the value written at its key, any other key as before. -/
theorem alGet_lt {α : Type} {l : List (Nat × α)} {a : Nat} (h : ∀ p ∈ l, a < p.1) : alGet l a = none := by
  cases l with
  | nil => rfl
  | cons q l =>
    obtain ⟨k, v⟩ := q
    have : a < k := h _ (List.mem_cons_self ..)
    simp only [alGet]
    rw [if_neg (by omega), if_pos this]

theorem alGet_alSet {α : Type} (l : List (Nat × α)) (a b : Nat) (x : α) : alGet (alSet l a x) b = if b = a then some x else alGet l b := by
  induction l with
  | nil => simp only [alSet, alGet]; grind
  | cons q l ih =>
    obtain ⟨k, v⟩ := q
    simp only [alSet]
    split <;> [skip; split] <;> simp only [alGet, ih] <;> grind

theorem alGet_alDel {α : Type} (l : List (Nat × α)) (a b : Nat) (hl : alRising l = true) :
    alGet (alDel l a) b = if b = a then none else alGet l b := by
  induction l with
  | nil => simp [alDel, alGet]
  | cons q l ih =>
    obtain ⟨k, v⟩ := q
    have hc := alRising_cons.1 hl
    have hn : alGet l k = none := alGet_lt hc.1
    have hm : b < k → alGet l b = none := fun h => alGet_lt fun p hp => Nat.lt_trans h (hc.1 p hp)
    simp only [alDel]
    split <;> [skip; split] <;> simp only [alGet, ih hc.2] <;> grind

/-- The value that a key reads as, with the default of an unlisted one. -/
theorem alGet_alPut {α : Type} [DecidableEq α] (d : α) (l : List (Nat × α)) (a b : Nat) (x : α) (hl : alRising l = true) :
    (alGet (alPut d l a x) b).getD d = if b = a then x else (alGet l b).getD d := by
  unfold alPut
  split
  · rename_i e
    rw [alGet_alDel l a b hl]; split <;> simp [e]
  · rw [alGet_alSet]; split <;> rfl

end Sys2Proof.Machine
end

