-- ==== Sys2Proof/Laws/KeepsOps.lean ====
section
/-! SUPPORT. Laws/KeepsOps.lean: what each operation of Ops.lean, Operands.lean and RegOps.lean keeps. -/
namespace Sys2Proof.Machine

/-! ### The stores -/

theorem keeps_rsetP {kb : Bool} {k0 : State} (s : State) (d : RegDesc) (i part : Nat) (w : Word) (hk : Keeps kb k0 s) :
    Keeps kb k0 (s.rsetP d i part w) := by
  refine ⟨hk.queue, hk.fuses, fun i => ?_⟩
  have j := hk.inv i
  exact ⟨j.legs, j.nodes, j.image, alRising_alPut j.regs, j.mem, j.hist, j.held, j.fuses⟩

theorem keeps_nodeSet {kb : Bool} {k0 : State} (s : State) (id : Nat) (w : Word) (hk : Keeps kb k0 s) : Keeps kb k0 (s.nodeSet id w) := by
  refine ⟨hk.queue, hk.fuses, fun i => ?_⟩
  have j := hk.inv i
  refine ⟨j.legs, ⟨alRising_alPut j.nodes.1, fun p hp => ?_⟩, j.image, j.regs, j.mem, j.hist, j.held, j.fuses⟩
  rcases mem_alPut hp with ⟨rfl, h⟩ | h
  · exact h
  · exact j.nodes.2 p h

theorem keeps_hostWrite {kb : Bool} {k0 : State} (s : State) (addr : Nat) (w : Word) (hk : Keeps kb k0 s) :
    Keeps kb k0 (s.hostWrite addr w) := by
  refine ⟨hk.queue, hk.fuses, fun i => ?_⟩
  have j := hk.inv i
  exact ⟨j.legs, j.nodes, j.image, j.regs, alRising_alSet j.mem, j.hist, j.held, j.fuses⟩

/-- A change of one channel that turns nothing on. -/
theorem keeps_modChan {kb : Bool} {k0 : State} (s : State) (n : Fin 48) (f : ChanSt → ChanSt) (hk : Keeps kb k0 s)
    (hf : ∀ c, (f c).lvl = .high → c.lvl = .high) : Keeps kb k0 (s.modChan n f) := by
  refine ⟨hk.queue, hk.fuses, fun i => ?_⟩
  have j := hk.inv i
  refine ⟨fun l hl => j.legs l ?_, j.nodes, j.image, j.regs, j.mem, j.hist, j.held, j.fuses⟩
  have key : ∀ m : Fin 48, ((s.modChan n f).chans[m]).lvl = .high → (s.chans[m]).lvl = .high := by
    intro m hm
    simp only [State.modChan, vmod, Fin.getElem_fin, Vector.getElem_set] at hm ⊢
    split at hm
    · rename_i e
      have : n = m := Fin.ext e
      subst this
      exact hf _ hm
    · exact hm
  exact ⟨key ⟨2 * l.val, by omega⟩ hl.1, key ⟨2 * l.val + 1, by omega⟩ hl.2⟩

/-- A channel is turned on only while the other switch of its leg is off. -/
theorem keeps_turnOn {kb : Bool} {k0 : State} (s : State) (n : Fin 48) (f : ChanSt → ChanSt) (hk : Keeps kb k0 s)
    (hp : ∀ m : Fin 48, m.val / 2 = n.val / 2 → m ≠ n → (s.chans[m]).lvl ≠ .high) : Keeps kb k0 (s.modChan n f) := by
  refine ⟨hk.queue, hk.fuses, fun i => ?_⟩
  have j := hk.inv i
  refine ⟨fun l hl => ?_, j.nodes, j.image, j.regs, j.mem, j.hist, j.held, j.fuses⟩
  have other : ∀ m : Fin 48, m ≠ n → ((s.modChan n f).chans[m]).lvl = (s.chans[m]).lvl := by
    intro m hm
    simp only [State.modChan, vmod, Fin.getElem_fin, Vector.getElem_set]
    rw [if_neg (fun e => hm (Fin.ext e.symm))]
  let a : Fin 48 := ⟨2 * l.val, by omega⟩
  let b : Fin 48 := ⟨2 * l.val + 1, by omega⟩
  by_cases ha : a = n
  · have hb : b ≠ n := by intro e; have := congrArg Fin.val (ha.trans e.symm); simp [a, b] at this
    exact hp b (by rw [← ha]; simp only [a, b]; omega) hb ((other b hb).symm.trans hl.2)
  · by_cases hb : b = n
    · exact hp a (by rw [← hb]; simp only [a, b]; omega) ha ((other a ha).symm.trans hl.1)
    · exact j.legs l ⟨(other a ha).symm.trans hl.1, (other b hb).symm.trans hl.2⟩

/-! ### Time, vectors, registers, rings -/
set_option linter.all false

theorem keeps_modMach {kb : Bool} {k0 : State} (s : State) (m : Fin 2) (f : MachSt → MachSt) (hk : Keeps kb k0 s) :
    Keeps kb k0 (State.modMach s m f) := by
  unfold State.modMach; try dsimp only
  repeat' first | intro _ | with_reducible assumption | with_reducible apply keeps_ite | split | fail_if_no_progress (with_reducible apply keeps_mk <;> first | with_reducible exact rfl | with_reducible exact fun h => h | skip) | exact Nat.zero_le _ | dsimp only

theorem keeps_modSet {kb : Bool} {k0 : State} (s : State) (w : Fin 8) (f : SetSt → SetSt) (hk : Keeps kb k0 s) :
    Keeps kb k0 (State.modSet s w f) := by
  unfold State.modSet; try dsimp only
  repeat' first | intro _ | with_reducible assumption | with_reducible apply keeps_ite | split | fail_if_no_progress (with_reducible apply keeps_mk <;> first | with_reducible exact rfl | with_reducible exact fun h => h | skip) | exact Nat.zero_le _ | dsimp only

theorem keeps_modGroup {kb : Bool} {k0 : State} (s : State) (g : Fin 8) (f : GroupSt → GroupSt) (hk : Keeps kb k0 s) :
    Keeps kb k0 (State.modGroup s g f) := by
  unfold State.modGroup; try dsimp only
  repeat' first | intro _ | with_reducible assumption | with_reducible apply keeps_ite | split | fail_if_no_progress (with_reducible apply keeps_mk <;> first | with_reducible exact rfl | with_reducible exact fun h => h | skip) | exact Nat.zero_le _ | dsimp only

theorem keeps_modChop {kb : Bool} {k0 : State} (s : State) (c : Fin 2) (f : ChopSt → ChopSt) (hk : Keeps kb k0 s) :
    Keeps kb k0 (State.modChop s c f) := by
  unfold State.modChop; try dsimp only
  repeat' first | intro _ | with_reducible assumption | with_reducible apply keeps_ite | split | fail_if_no_progress (with_reducible apply keeps_mk <;> first | with_reducible exact rfl | with_reducible exact fun h => h | skip) | exact Nat.zero_le _ | dsimp only

theorem keeps_modPair {kb : Bool} {k0 : State} (s : State) (p : Fin 16) (f : PairSt → PairSt) (hk : Keeps kb k0 s) :
    Keeps kb k0 (State.modPair s p f) := by
  unfold State.modPair; try dsimp only
  repeat' first | intro _ | with_reducible assumption | with_reducible apply keeps_ite | split | fail_if_no_progress (with_reducible apply keeps_mk <;> first | with_reducible exact rfl | with_reducible exact fun h => h | skip) | exact Nat.zero_le _ | dsimp only

theorem keeps_modStream {kb : Bool} {k0 : State} (s : State) (i : Fin 32) (f : StreamSt → StreamSt) (hk : Keeps kb k0 s) :
    Keeps kb k0 (State.modStream s i f) := by
  unfold State.modStream; try dsimp only
  repeat' first | intro _ | with_reducible assumption | with_reducible apply keeps_ite | split | fail_if_no_progress (with_reducible apply keeps_mk <;> first | with_reducible exact rfl | with_reducible exact fun h => h | skip) | exact Nat.zero_le _ | dsimp only

theorem keeps_modGlk {kb : Bool} {k0 : State} (s : State) (g : Fin 8) (f : GlkSt → GlkSt) (hk : Keeps kb k0 s) :
    Keeps kb k0 (State.modGlk s g f) := by
  unfold State.modGlk; try dsimp only
  repeat' first | intro _ | with_reducible assumption | with_reducible apply keeps_ite | split | fail_if_no_progress (with_reducible apply keeps_mk <;> first | with_reducible exact rfl | with_reducible exact fun h => h | skip) | exact Nat.zero_le _ | dsimp only

theorem keeps_modSilo {kb : Bool} {k0 : State} (s : State) (c : Fin 16) (f : SiloCh → SiloCh) (hk : Keeps kb k0 s) :
    Keeps kb k0 (State.modSilo s c f) := by
  unfold State.modSilo; try dsimp only
  repeat' first | intro _ | with_reducible assumption | with_reducible apply keeps_ite | split | fail_if_no_progress (with_reducible apply keeps_mk <;> first | with_reducible exact rfl | with_reducible exact fun h => h | skip) | exact Nat.zero_le _ | dsimp only

theorem keeps_modRing {kb : Bool} {k0 : State} (s : State) (i : Fin 48) (f : RingSt → RingSt) (hk : Keeps kb k0 s) :
    Keeps kb k0 (State.modRing s i f) := by
  unfold State.modRing; try dsimp only
  repeat' first | intro _ | with_reducible assumption | with_reducible apply keeps_ite | split | fail_if_no_progress (with_reducible apply keeps_mk <;> first | with_reducible exact rfl | with_reducible exact fun h => h | skip) | exact Nat.zero_le _ | dsimp only

theorem keeps_modLop {kb : Bool} {k0 : State} (s : State) (k : Fin 8) (f : Lop → Lop) (hk : Keeps kb k0 s) :
    Keeps kb k0 (State.modLop s k f) := by
  unfold State.modLop; try dsimp only
  repeat' first | intro _ | with_reducible assumption | with_reducible apply keeps_ite | split | fail_if_no_progress (with_reducible apply keeps_mk <;> first | with_reducible exact rfl | with_reducible exact fun h => h | skip) | exact Nat.zero_le _ | dsimp only

theorem keeps_modZone {kb : Bool} {k0 : State} (s : State) (z : Fin 8) (f : ZoneSt → ZoneSt) (hk : Keeps kb k0 s) :
    Keeps kb k0 (State.modZone s z f) := by
  unfold State.modZone; try dsimp only
  repeat' first | intro _ | with_reducible assumption | with_reducible apply keeps_ite | split | fail_if_no_progress (with_reducible apply keeps_mk <;> first | with_reducible exact rfl | with_reducible exact fun h => h | skip) | exact Nat.zero_le _ | dsimp only

theorem keeps_modLink {kb : Bool} {k0 : State} (s : State) (k : Fin 13) (f : LinkSt → LinkSt) (hk : Keeps kb k0 s) :
    Keeps kb k0 (State.modLink s k f) := by
  unfold State.modLink; try dsimp only
  repeat' first | intro _ | with_reducible assumption | with_reducible apply keeps_ite | split | fail_if_no_progress (with_reducible apply keeps_mk <;> first | with_reducible exact rfl | with_reducible exact fun h => h | skip) | exact Nat.zero_le _ | dsimp only

theorem keeps_modRegion {kb : Bool} {k0 : State} (s : State) (r : Fin 16) (f : RegionSt → RegionSt) (hk : Keeps kb k0 s) :
    Keeps kb k0 (State.modRegion s r f) := by
  unfold State.modRegion; try dsimp only
  repeat' first | intro _ | with_reducible assumption | with_reducible apply keeps_ite | split | fail_if_no_progress (with_reducible apply keeps_mk <;> first | with_reducible exact rfl | with_reducible exact fun h => h | skip) | exact Nat.zero_le _ | dsimp only

theorem keeps_adv {kb : Bool} {k0 : State} (s : State) (t : Time) (hk : Keeps kb k0 s) :
    Keeps kb k0 (State.adv s t) := by
  unfold State.adv; try dsimp only
  repeat' first | intro _ | with_reducible assumption | with_reducible apply keeps_ite | split | fail_if_no_progress (with_reducible apply keeps_mk <;> first | with_reducible exact rfl | with_reducible exact fun h => h | skip) | exact Nat.zero_le _ | dsimp only

theorem keeps_freeNext {kb : Bool} {k0 : State} (s : State) (hk : Keeps kb k0 s) :
    Keeps kb k0 (State.freeNext s) := by
  unfold State.freeNext; try dsimp only
  repeat' first | intro _ | with_reducible assumption | with_reducible apply keeps_ite | split | fail_if_no_progress (with_reducible apply keeps_mk <;> first | with_reducible exact rfl | with_reducible exact fun h => h | skip) | exact Nat.zero_le _ | dsimp only

theorem keeps_gridStart {kb : Bool} {k0 : State} (s : State) (hk : Keeps kb k0 s) :
    Keeps kb k0 (State.gridStart s) := by
  unfold State.gridStart; try dsimp only
  repeat' first | intro _ | with_reducible assumption | with_reducible apply keeps_ite | split | fail_if_no_progress (with_reducible apply keeps_mk <;> first | with_reducible exact rfl | with_reducible exact fun h => h | skip) | exact Nat.zero_le _ | dsimp only

theorem keeps_rset {kb : Bool} {k0 : State} (s : State) (d : RegDesc) (i : Nat) (w : Word) (hk : Keeps kb k0 s) :
    Keeps kb k0 (State.rset s d i w) := by
  unfold State.rset; try dsimp only
  repeat' first | intro _ | with_reducible assumption | with_reducible apply keeps_ite | with_reducible apply keeps_rsetP | split | fail_if_no_progress (with_reducible apply keeps_mk <;> first | with_reducible exact rfl | with_reducible exact fun h => h | skip) | exact Nat.zero_le _ | dsimp only

theorem keeps_rsetF {kb : Bool} {k0 : State} (s : State) (d : RegDesc) (i hi lo v : Nat) (hk : Keeps kb k0 s) :
    Keeps kb k0 (State.rsetF s d i hi lo v) := by
  unfold State.rsetF; try dsimp only
  repeat' first | intro _ | with_reducible assumption | with_reducible apply keeps_ite | with_reducible apply keeps_rset | split | fail_if_no_progress (with_reducible apply keeps_mk <;> first | with_reducible exact rfl | with_reducible exact fun h => h | skip) | exact Nat.zero_le _ | dsimp only

theorem keeps_rcount {kb : Bool} {k0 : State} (s : State) (d : RegDesc) (i hi lo n : Nat) (hk : Keeps kb k0 s) :
    Keeps kb k0 (State.rcount s d i hi lo n) := by
  unfold State.rcount; try dsimp only
  repeat' first | intro _ | with_reducible assumption | with_reducible apply keeps_ite | with_reducible apply keeps_rsetF | split | fail_if_no_progress (with_reducible apply keeps_mk <;> first | with_reducible exact rfl | with_reducible exact fun h => h | skip) | exact Nat.zero_le _ | dsimp only

theorem keepsO_onRegs {kb : Bool} {k0 : State} (s : State) (t : Time) (f : State → State) (hk : Keeps kb k0 s)
    (hf : ∀ u, Keeps kb k0 u → Keeps kb k0 (f u)) : KeepsO kb k0 (s.onRegs t f) := by
  unfold State.onRegs
  exact keepsO_next (keeps_ite (hf _ (keeps_adv s t hk)) (keeps_adv s t hk))

theorem keeps_writeReject {kb : Bool} {k0 : State} (s : State) (hk : Keeps kb k0 s) :
    Keeps kb k0 (State.writeReject s) := by
  unfold State.writeReject; try dsimp only
  repeat' first | intro _ | with_reducible assumption | with_reducible apply keeps_ite | with_reducible apply keeps_rsetF | split | fail_if_no_progress (with_reducible apply keeps_mk <;> first | with_reducible exact rfl | with_reducible exact fun h => h | skip) | exact Nat.zero_le _ | dsimp only

theorem keeps_hostWriteQuad {kb : Bool} {k0 : State} (s : State) (addr : Nat) (q : Quad) (hk : Keeps kb k0 s) :
    Keeps kb k0 (State.hostWriteQuad s addr q) := by
  unfold State.hostWriteQuad; try dsimp only
  repeat' first | intro _ | with_reducible assumption | with_reducible apply keeps_ite | with_reducible apply keeps_hostWrite | split | fail_if_no_progress (with_reducible apply keeps_mk <;> first | with_reducible exact rfl | with_reducible exact fun h => h | skip) | exact Nat.zero_le _ | dsimp only

theorem keeps_msixSend {kb : Bool} {k0 : State} (s : State) (v : Nat) (hk : Keeps kb k0 s) :
    Keeps kb k0 (State.msixSend s v) := by
  unfold State.msixSend; try dsimp only
  repeat' first | intro _ | with_reducible assumption | with_reducible apply keeps_ite | with_reducible apply keeps_hostWrite | split | fail_if_no_progress (with_reducible apply keeps_mk <;> first | with_reducible exact rfl | with_reducible exact fun h => h | skip) | exact Nat.zero_le _ | dsimp only

theorem keeps_msixPump {kb : Bool} {k0 : State} (s : State) (hk : Keeps kb k0 s) :
    Keeps kb k0 (State.msixPump s) := by
  unfold State.msixPump; try dsimp only
  repeat' first | intro _ | with_reducible assumption | with_reducible apply keeps_ite | with_reducible apply keeps_forFin | with_reducible apply keeps_msixSend | with_reducible apply keeps_forFin | with_reducible apply keeps_forFinPair | split | fail_if_no_progress (with_reducible apply keeps_mk <;> first | with_reducible exact rfl | with_reducible exact fun h => h | skip) | exact Nat.zero_le _ | dsimp only

theorem keeps_ringSignal {kb : Bool} {k0 : State} (s : State) (i : Fin 48) (hk : Keeps kb k0 s) :
    Keeps kb k0 (State.ringSignal s i) := by
  unfold State.ringSignal; try dsimp only
  repeat' first | intro _ | with_reducible assumption | with_reducible apply keeps_ite | with_reducible apply keeps_modRing | with_reducible apply keeps_msixSend | split | fail_if_no_progress (with_reducible apply keeps_mk <;> first | with_reducible exact rfl | with_reducible exact fun h => h | skip) | exact Nat.zero_le _ | dsimp only

theorem keeps_ringNote {kb : Bool} {k0 : State} (s : State) (i : Fin 48) (sigs now : Bool) (hk : Keeps kb k0 s) :
    Keeps kb k0 (State.ringNote s i sigs now) := by
  unfold State.ringNote; try dsimp only
  repeat' first | intro _ | with_reducible assumption | with_reducible apply keeps_ite | with_reducible apply keeps_modRing | with_reducible apply keeps_ringSignal | split | fail_if_no_progress (with_reducible apply keeps_mk <;> first | with_reducible exact rfl | with_reducible exact fun h => h | skip) | exact Nat.zero_le _ | dsimp only

theorem keeps_ringPut {kb : Bool} {k0 : State} (s : State) (i : Fin 48) (q : Quad) (phaseBit : Nat) (sigs now : Bool) (hk : Keeps kb k0 s) :
    Keeps kb k0 (State.ringPut s i q phaseBit sigs now) := by
  unfold State.ringPut; try dsimp only
  repeat' first | intro _ | with_reducible assumption | with_reducible apply keeps_ite | with_reducible apply keeps_hostWriteQuad | with_reducible apply keeps_modRing | with_reducible apply keeps_ringNote | split | fail_if_no_progress (with_reducible apply keeps_mk <;> first | with_reducible exact rfl | with_reducible exact fun h => h | skip) | exact Nat.zero_le _ | dsimp only

theorem keeps_writeCpl {kb : Bool} {k0 : State} (s : State) (c : Cpl) (hk : Keeps kb k0 s) :
    Keeps kb k0 (State.writeCpl s c) := by
  unfold State.writeCpl; try dsimp only
  repeat' first | intro _ | with_reducible assumption | with_reducible apply keeps_ite | with_reducible apply keeps_ringPut | split | fail_if_no_progress (with_reducible apply keeps_mk <;> first | with_reducible exact rfl | with_reducible exact fun h => h | skip) | exact Nat.zero_le _ | dsimp only

theorem keeps_flushCplsFrom {kb : Bool} {k0 : State} (s : State) (l kept : List Cpl) (hk : Keeps kb k0 s) :
    Keeps kb k0 (s.flushCplsFrom l kept) := by
  induction l generalizing s kept with
  | nil =>
    unfold State.flushCplsFrom
    apply keeps_mk hk <;> first | rfl | exact fun h => h
  | cons c cs ih =>
    unfold State.flushCplsFrom; split
    · exact ih _ _ (keeps_writeCpl s c hk)
    · exact ih _ _ hk

theorem keeps_flushCpls {kb : Bool} {k0 : State} (s : State) (hk : Keeps kb k0 s) :
    Keeps kb k0 (State.flushCpls s) := by
  unfold State.flushCpls; try dsimp only
  repeat' first | intro _ | with_reducible assumption | with_reducible apply keeps_ite | with_reducible apply keeps_flushCplsFrom | split | fail_if_no_progress (with_reducible apply keeps_mk <;> first | with_reducible exact rfl | with_reducible exact fun h => h | skip) | exact Nat.zero_le _ | dsimp only

theorem keeps_noteCommit {kb : Bool} {k0 : State} (s : State) (n : Fin 16) (seq : Nat) (hk : Keeps kb k0 s) :
    Keeps kb k0 (State.noteCommit s n seq) := by
  unfold State.noteCommit; try dsimp only
  repeat' first | intro _ | with_reducible assumption | with_reducible apply keeps_ite | with_reducible apply keeps_modRing | split | fail_if_no_progress (with_reducible apply keeps_mk <;> first | with_reducible exact rfl | with_reducible exact fun h => h | skip) | exact Nat.zero_le _ | dsimp only

theorem keeps_complete {kb : Bool} {k0 : State} (s : State) (c : Cpl) (hk : Keeps kb k0 s) :
    Keeps kb k0 (State.complete s c) := by
  unfold State.complete; try dsimp only
  repeat' first | intro _ | with_reducible assumption | with_reducible apply keeps_ite | with_reducible apply keeps_noteCommit | with_reducible apply keeps_flushCpls | split | fail_if_no_progress (with_reducible apply keeps_mk <;> first | with_reducible exact rfl | with_reducible exact fun h => h | skip) | exact Nat.zero_le _ | dsimp only

theorem keeps_finish {kb : Bool} {k0 : State} (s : State) (c : Waiting) (st : BitVec 8) (result : Nat) (hk : Keeps kb k0 s) :
    Keeps kb k0 (State.finish s c st result) := by
  unfold State.finish; try dsimp only
  repeat' first | intro _ | with_reducible assumption | with_reducible apply keeps_ite | with_reducible apply keeps_complete | split | fail_if_no_progress (with_reducible apply keeps_mk <;> first | with_reducible exact rfl | with_reducible exact fun h => h | skip) | exact Nat.zero_le _ | dsimp only

theorem keeps_flushOne {kb : Bool} {k0 : State} (s : State) (n : Fin 16) (hk : Keeps kb k0 s) :
    Keeps kb k0 (State.flushOne s n) := by
  unfold State.flushOne; try dsimp only
  repeat' first | intro _ | with_reducible assumption | with_reducible apply keeps_ite | with_reducible apply keeps_freeNext | with_reducible apply keeps_modRing | with_reducible apply keeps_rset | with_reducible apply keeps_complete | split | fail_if_no_progress (with_reducible apply keeps_mk <;> first | with_reducible exact rfl | with_reducible exact fun h => h | skip) | exact Nat.zero_le _ | dsimp only

theorem keeps_closeTry {kb : Bool} {k0 : State} (s : State) (n : Fin 16) (hk : Keeps kb k0 s) :
    Keeps kb k0 (State.closeTry s n) := by
  unfold State.closeTry; try dsimp only
  repeat' first | intro _ | with_reducible assumption | with_reducible apply keeps_ite | with_reducible apply keeps_flushOne | with_reducible apply keeps_modRing | with_reducible apply keeps_rsetF | with_reducible apply keeps_foldl | with_reducible apply keeps_foldPair | split | fail_if_no_progress (with_reducible apply keeps_mk <;> first | with_reducible exact rfl | with_reducible exact fun h => h | skip) | exact Nat.zero_le _ | dsimp only

theorem keeps_finishW {kb : Bool} {k0 : State} (s : State) (c : Waiting) (st : BitVec 8) (result : Nat) (hk : Keeps kb k0 s) :
    Keeps kb k0 (State.finishW s c st result) := by
  unfold State.finishW; try dsimp only
  repeat' first | intro _ | with_reducible assumption | with_reducible apply keeps_ite | with_reducible apply keeps_finish | with_reducible apply keeps_closeTry | split | fail_if_no_progress (with_reducible apply keeps_mk <;> first | with_reducible exact rfl | with_reducible exact fun h => h | skip) | exact Nat.zero_le _ | dsimp only

theorem keeps_await {kb : Bool} {k0 : State} (s : State) (c : Waiting) (hk : Keeps kb k0 s) :
    Keeps kb k0 (State.await s c) := by
  unfold State.await; try dsimp only
  repeat' first | intro _ | with_reducible assumption | with_reducible apply keeps_ite | split | fail_if_no_progress (with_reducible apply keeps_mk <;> first | with_reducible exact rfl | with_reducible exact fun h => h | skip) | exact Nat.zero_le _ | dsimp only

theorem keeps_awaitJudge {kb : Bool} {k0 : State} (s : State) (c : Waiting) (due : Time) (aux : Nat) (hk : Keeps kb k0 s) :
    Keeps kb k0 (State.awaitJudge s c due aux) := by
  unfold State.awaitJudge; try dsimp only
  repeat' first | intro _ | with_reducible assumption | with_reducible apply keeps_ite | with_reducible apply keeps_await | split | fail_if_no_progress (with_reducible apply keeps_mk <;> first | with_reducible exact rfl | with_reducible exact fun h => h | skip) | exact Nat.zero_le _ | dsimp only

theorem keeps_takeCmd {kb : Bool} {k0 : State} (s : State) (n : Fin 16) (hk : Keeps kb k0 s) :
    Keeps kb k0 (State.takeCmd s n) := by
  unfold State.takeCmd; try dsimp only
  repeat' first | intro _ | with_reducible assumption | with_reducible apply keeps_ite | with_reducible apply keeps_modRing | with_reducible apply keeps_rset | split | fail_if_no_progress (with_reducible apply keeps_mk <;> first | with_reducible exact rfl | with_reducible exact fun h => h | skip) | exact Nat.zero_le _ | dsimp only

theorem keepsO_runCmd {kb : Bool} {k0 : State} (s : State) (q : CmdQ) (opc : BitVec 8) (ok : Bool) (body : State → Waiting → State)
    (hk : Keeps kb k0 s) (hf : ∀ u c, Keeps kb k0 u → Keeps kb k0 (body u c)) : KeepsO kb k0 (s.runCmd q opc ok body) := by
  have h := keeps_takeCmd s q.ring hk
  unfold State.runCmd; dsimp only
  split
  · split
    · exact keepsO_next (keeps_finish _ _ _ _ h)
    · split
      · exact keepsO_next (keeps_finish _ _ _ _ h)
      · split
        · exact keepsO_next (keeps_finish _ _ _ _ h)
        · exact keepsO_next (hf _ _ h)
  · exact keepsO_next hk

theorem keeps_putHeld {kb : Bool} {k0 : State} (s : State) (h : Held) (hk : Keeps kb k0 s) :
    Keeps kb k0 (State.putHeld s h) := by
  unfold State.putHeld; try dsimp only
  repeat' first | intro _ | with_reducible assumption | with_reducible apply keeps_ite | with_reducible apply keeps_ringPut | with_reducible apply keeps_foldl | with_reducible apply keeps_foldPair | split | fail_if_no_progress (with_reducible apply keeps_mk <;> first | with_reducible exact rfl | with_reducible exact fun h => h | skip) | exact Nat.zero_le _ | dsimp only

theorem keeps_heldOnly {kb : Bool} {k0 : State} (s : State) (l : List Held) (hk : Keeps kb k0 s)
    (hl : heldEvents s.host.held ≤ 256 → heldEvents l ≤ 256) : Keeps kb k0 { s with host := { s.host with held := l } } := by
  apply keeps_mk hk <;> first | exact hl | exact rfl | exact fun h => h

theorem heldEvents_append (a b : List Held) : heldEvents (a ++ b) = heldEvents a + heldEvents b := by
  simp [heldEvents, List.filter_append]

/-- What a written entry's rings take leaves the holding queue as it is. -/
theorem ringPut_held (s : State) (i : Fin 48) (q : Quad) (p : Nat) (a b : Bool) : (s.ringPut i q p a b).host.held = s.host.held := by
  have hm : ∀ (s : State) (v : Nat), (s.msixSend v).host.held = s.host.held := by
    intro s v; unfold State.msixSend; split
    · rfl
    · dsimp only; split <;> rfl
  have hn : ∀ (s : State), (s.ringNote i a b).host.held = s.host.held := by
    intro s; unfold State.ringNote; split
    · rfl
    · dsimp only; split
      · exact hm _ _
      · rfl
  unfold State.ringPut; exact hn _

theorem putHeld_held (s : State) (h : Held) : (s.putHeld h).host.held = s.host.held := by
  unfold State.putHeld
  generalize s.heldRings h = l
  induction l generalizing s with
  | nil => rfl
  | cons r l ih => exact (ih _).trans (ringPut_held ..)

theorem keeps_drainFrom {kb : Bool} {k0 : State} (s : State) (l kept : List Held) (bl : List (Fin 4)) (hk : Keeps kb k0 s)
    (hl : heldEvents s.host.held ≤ 256 → heldEvents (kept ++ l) ≤ 256) : Keeps kb k0 (s.drainFrom l kept bl) := by
  induction l generalizing s kept bl with
  | nil =>
    unfold State.drainFrom
    exact keeps_heldOnly s kept hk (by simpa using hl)
  | cons c cs ih =>
    unfold State.drainFrom; split
    · refine ih _ _ _ (keeps_putHeld s c hk) fun h => ?_
      rw [putHeld_held] at h
      have := hl h
      rw [heldEvents_append] at this ⊢
      have e : heldEvents (c :: cs) = heldEvents [c] + heldEvents cs := heldEvents_append [c] cs
      omega
    · refine ih _ _ _ hk fun h => ?_
      have := hl h
      simpa using this

theorem keeps_drain {kb : Bool} {k0 : State} (s : State) (hk : Keeps kb k0 s) : Keeps kb k0 s.drain :=
  keeps_drainFrom s _ _ _ hk (by simp)

theorem dropNonFault_events {l m : List Held} (h : dropNonFault l = some m) : heldEvents l = heldEvents m + 1 := by
  induction l generalizing m with
  | nil => simp [dropNonFault] at h
  | cons c l ih =>
    have e : ∀ (x : Held) (l : List Held), heldEvents (x :: l) = heldEvents [x] + heldEvents l := fun x l => heldEvents_append [x] l
    cases c with
    | event x =>
      simp only [dropNonFault] at h
      split at h
      · simp only [Option.map_eq_some_iff] at h
        obtain ⟨n, hn, rfl⟩ := h
        have := ih hn
        rw [e, e _ n]; omega
      · cases h
        rw [e]; simp [heldEvents]; omega
    | recovery x | record r x | mark r x =>
      simp only [dropNonFault, Option.map_eq_some_iff] at h
      obtain ⟨n, hn, rfl⟩ := h
      have := ih hn
      rw [e, e _ n]; omega

theorem keeps_hold {kb : Bool} {k0 : State} (s : State) (e : Evt) (hk : Keeps kb k0 s) : Keeps kb k0 (s.hold e) := by
  unfold State.hold; split
  · refine keeps_heldOnly s _ hk fun _ => ?_
    rw [heldEvents_append]; simp only [heldEvents, List.filter_cons, List.filter_nil] at *; simp; omega
  · dsimp only
    have hc := keeps_rcount s regRngEvtStat 0 31 16 1 hk
    split
    · split
      · rename_i l hl
        refine keeps_heldOnly _ _ hc fun h => ?_
        have := dropNonFault_events hl
        have h2 : heldEvents s.host.held ≤ 256 := h
        rw [heldEvents_append]; simp only [heldEvents, List.filter_cons, List.filter_nil] at *; simp; omega
      · exact hc
    · exact hc

theorem keeps_histOnly {kb : Bool} {k0 : State} (s : State) (l : List HistE) (n : Nat) (hk : Keeps kb k0 s)
    (hl : s.sup.hist.length ≤ 16 → l.length ≤ 16) : Keeps kb k0 { s with sup := { s.sup with hist := l, histLost := n } } := by
  apply keeps_mk hk <;> first | exact hl | exact rfl | exact fun h => h

theorem keeps_record {kb : Bool} {k0 : State} (s : State) (e : Evt) (hk : Keeps kb k0 s) : Keeps kb k0 (s.record e) := by
  unfold State.record; dsimp only
  split
  · exact keeps_histOnly s _ _ hk (by simp)
  · split
    · rename_i h
      exact keeps_histOnly s _ _ hk (by intro _; simp; omega)
    · split
      · split
        · exact keeps_histOnly s _ _ hk (by simp)
        · exact keeps_histOnly s _ _ hk fun h => h
      · exact hk

theorem keeps_markRecovery {kb : Bool} {k0 : State} (s : State) (m : Fin 2) (hk : Keeps kb k0 s) :
    Keeps kb k0 (State.markRecovery s m) := by
  unfold State.markRecovery; try dsimp only
  repeat' first | intro _ | with_reducible assumption | with_reducible apply keeps_ite | with_reducible apply keeps_forFin | with_reducible apply keeps_modGroup | with_reducible apply keeps_forFin | with_reducible apply keeps_forFinPair | split | fail_if_no_progress (with_reducible apply keeps_mk <;> first | with_reducible exact rfl | with_reducible exact fun h => h | skip) | exact Nat.zero_le _ | dsimp only

theorem keeps_siloSees {kb : Bool} {k0 : State} (s : State) (e : Evt) (hk : Keeps kb k0 s) :
    Keeps kb k0 (State.siloSees s e) := by
  unfold State.siloSees; try dsimp only
  repeat' first | intro _ | with_reducible assumption | with_reducible apply keeps_ite | with_reducible apply keeps_forFin | with_reducible apply keeps_modSilo | with_reducible apply keeps_forFin | with_reducible apply keeps_forFinPair | split | fail_if_no_progress (with_reducible apply keeps_mk <;> first | with_reducible exact rfl | with_reducible exact fun h => h | skip) | exact Nat.zero_le _ | dsimp only

theorem keeps_raiseE {kb : Bool} {k0 : State} (s : State) (e : Evt) (hk : Keeps kb k0 s) :
    Keeps kb k0 (State.raiseE s e) := by
  unfold State.raiseE; try dsimp only
  repeat' first | intro _ | with_reducible assumption | with_reducible apply keeps_ite | with_reducible apply keeps_record | with_reducible apply keeps_markRecovery | with_reducible apply keeps_rset | with_reducible apply keeps_siloSees | with_reducible apply keeps_hold | with_reducible apply keeps_drain | split | fail_if_no_progress (with_reducible apply keeps_mk <;> first | with_reducible exact rfl | with_reducible exact fun h => h | skip) | exact Nat.zero_le _ | dsimp only

theorem keeps_raise {kb : Bool} {k0 : State} (s : State) (cls level index fclass : Nat) (detail : Nat) (t : Time) (hk : Keeps kb k0 s) :
    Keeps kb k0 (State.raise s cls level index fclass detail t) := by
  unfold State.raise; try dsimp only
  repeat' first | intro _ | with_reducible assumption | with_reducible apply keeps_ite | with_reducible apply keeps_raiseE | split | fail_if_no_progress (with_reducible apply keeps_mk <;> first | with_reducible exact rfl | with_reducible exact fun h => h | skip) | exact Nat.zero_le _ | dsimp only

theorem keeps_recoveryQuad {kb : Bool} {k0 : State} (s : State) (detail : Nat) (t : Time) (hk : Keeps kb k0 s) :
    Keeps kb k0 (s.recoveryQuad detail t) := by
  unfold State.recoveryQuad
  refine keeps_drain _ (keeps_heldOnly s _ hk fun h => ?_)
  rw [heldEvents_append]; simpa [heldEvents] using h

theorem keeps_recordQuad {kb : Bool} {k0 : State} (s : State) (n : Fin 16) (detail : Nat) (t : Time) (hk : Keeps kb k0 s) :
    Keeps kb k0 (s.recordQuad n detail t) := by
  unfold State.recordQuad
  refine keeps_drain _ (keeps_heldOnly s _ hk fun h => ?_)
  rw [heldEvents_append]; simpa [heldEvents] using h

theorem keeps_health {kb : Bool} {k0 : State} (s : State) (bit block inst extra : Nat) (t : Time) (hk : Keeps kb k0 s) :
    Keeps kb k0 (State.health s bit block inst extra t) := by
  unfold State.health; try dsimp only
  repeat' first | intro _ | with_reducible assumption | with_reducible apply keeps_ite | with_reducible apply keeps_rset | with_reducible apply keeps_raise | split | fail_if_no_progress (with_reducible apply keeps_mk <;> first | with_reducible exact rfl | with_reducible exact fun h => h | skip) | exact Nat.zero_le _ | dsimp only

end Sys2Proof.Machine
end

