-- ==== Sys2Proof/Laws/KeepsOperands.lean ====
section
/-! SUPPORT. Laws/KeepsOperands.lean: what each operation of Operands.lean keeps. -/
namespace Sys2Proof.Machine

set_option linter.all false

theorem keeps_lateNote {kb : Bool} {k0 : State} (s : State) (id : Nat) (old : Word) (hk : Keeps kb k0 s) :
    Keeps kb k0 (State.lateNote s id old) := by
  unfold State.lateNote; try dsimp only
  repeat' first | intro _ | with_reducible assumption | with_reducible apply keeps_ite | split | fail_if_no_progress (with_reducible apply keeps_mk <;> first | with_reducible exact rfl | with_reducible exact fun h => h | skip) | exact Nat.zero_le _ | dsimp only

theorem keeps_setHost {kb : Bool} {k0 : State} (s : State) (m : Fin 2) (sp aux : Word) (hk : Keeps kb k0 s) :
    Keeps kb k0 (State.setHost s m sp aux) := by
  unfold State.setHost; try dsimp only
  repeat' first | intro _ | with_reducible assumption | with_reducible apply keeps_ite | with_reducible apply keeps_lateNote | with_reducible apply keeps_modMach | split | fail_if_no_progress (with_reducible apply keeps_mk <;> first | with_reducible exact rfl | with_reducible exact fun h => h | skip) | exact Nat.zero_le _ | dsimp only

theorem keeps_nodeSet64 {kb : Bool} {k0 : State} (s : State) (id n : Nat) (hk : Keeps kb k0 s) :
    Keeps kb k0 (State.nodeSet64 s id n) := by
  unfold State.nodeSet64; try dsimp only
  repeat' first | intro _ | with_reducible assumption | with_reducible apply keeps_ite | with_reducible apply keeps_nodeSet | split | fail_if_no_progress (with_reducible apply keeps_mk <;> first | with_reducible exact rfl | with_reducible exact fun h => h | skip) | exact Nat.zero_le _ | dsimp only

theorem keeps_ledgerPut {kb : Bool} {k0 : State} (s : State) (id : Nat) (v : Word) (hk : Keeps kb k0 s) :
    Keeps kb k0 (State.ledgerPut s id v) := by
  unfold State.ledgerPut; try dsimp only
  repeat' first | intro _ | with_reducible assumption | with_reducible apply keeps_ite | with_reducible apply keeps_lateNote | with_reducible apply keeps_nodeSet | split | fail_if_no_progress (with_reducible apply keeps_mk <;> first | with_reducible exact rfl | with_reducible exact fun h => h | skip) | exact Nat.zero_le _ | dsimp only

theorem keeps_countEdge {kb : Bool} {k0 : State} (s : State) (sw : Nat) (hk : Keeps kb k0 s) :
    Keeps kb k0 (State.countEdge s sw) := by
  unfold State.countEdge; try dsimp only
  repeat' first | intro _ | with_reducible assumption | with_reducible apply keeps_ite | with_reducible apply keeps_ledgerPut | split | fail_if_no_progress (with_reducible apply keeps_mk <;> first | with_reducible exact rfl | with_reducible exact fun h => h | skip) | exact Nat.zero_le _ | dsimp only

theorem keeps_countCharge {kb : Bool} {k0 : State} (s : State) (sw : Fin 48) (uc : Rat) (hk : Keeps kb k0 s) :
    Keeps kb k0 (State.countCharge s sw uc) := by
  unfold State.countCharge; try dsimp only
  repeat' first | intro _ | with_reducible assumption | with_reducible apply keeps_ite | with_reducible apply keeps_nodeSet64 | split | fail_if_no_progress (with_reducible apply keeps_mk <;> first | with_reducible exact rfl | with_reducible exact fun h => h | skip) | exact Nat.zero_le _ | dsimp only

theorem keeps_awaitAt {kb : Bool} {k0 : State} (s : State) (c : Waiting) (due : Time) (aux : Nat) (hk : Keeps kb k0 s) :
    Keeps kb k0 (State.awaitAt s c due aux) := by
  unfold State.awaitAt; try dsimp only
  repeat' first | intro _ | with_reducible assumption | with_reducible apply keeps_ite | with_reducible apply keeps_noteCommit | with_reducible apply keeps_await | split | fail_if_no_progress (with_reducible apply keeps_mk <;> first | with_reducible exact rfl | with_reducible exact fun h => h | skip) | exact Nat.zero_le _ | dsimp only

end Sys2Proof.Machine
end

