-- ==== Sys2Proof/Laws/KeepsRegOps.lean ====
section
/-! SUPPORT. Laws/KeepsRegOps.lean: what each operation of RegOps.lean keeps. -/
namespace Sys2Proof.Machine

set_option linter.all false

theorem keeps_writeWord {kb : Bool} {k0 : State} (s : State) (d : RegDesc) (i part : Nat) (v : Word) (hk : Keeps kb k0 s) :
    Keeps kb k0 (State.writeWord s d i part v) := by
  unfold State.writeWord; try dsimp only
  repeat' first | intro _ | with_reducible assumption | with_reducible apply keeps_ite | with_reducible apply keeps_rsetP | with_reducible apply keeps_writeReject | split | fail_if_no_progress (with_reducible apply keeps_mk <;> first | with_reducible exact rfl | with_reducible exact fun h => h | skip) | exact Nat.zero_le _ | dsimp only

end Sys2Proof.Machine
end

