-- ==== Sys2Proof/Laws/KeepsPulse.lean ====
section
/-! SUPPORT. Laws/KeepsPulse.lean: what each operation of Pulse.lean keeps. -/
namespace Sys2Proof.Machine

set_option linter.all false

/-- The other switch of a leg is its partner. -/
theorem partner_eq (n m : Fin 48) (h : m.val / 2 = n.val / 2) (hn : m ≠ n) : m = partner n := by
  apply Fin.ext
  have : m.val ≠ n.val := fun e => hn (Fin.ext e)
  unfold partner; dsimp only; split <;> omega

theorem keeps_applyChange {kb : Bool} {k0 : State} (s : State) (n : Fin 48) (t : Time) (hk : Keeps kb k0 s)
    (hp : s.chans[n].req = true → (s.chans[partner n]).lvl ≠ .high) : Keeps kb k0 (s.applyChange n t) := by
  unfold State.applyChange; split
  · rename_i h
    exact keeps_countEdge _ _ (keeps_turnOn s n _ hk fun m hm hn => by rw [partner_eq n m hm hn]; exact hp h)
  · exact keeps_modChan s n _ hk (by grind [ChanSt.turnOff])

/-- A permitted on-change has its partner off (R161). -/
theorem changeFrom_partner {s : State} {n : Fin 48} {a : Time} (h : s.changeFrom n = some a) (hr : s.chans[n].req = true) :
    (s.chans[partner n]).lvl ≠ .high := by
  intro e
  have hg : s.guardFrom n = none := by
    unfold State.guardFrom; dsimp only; rw [e]; rfl
  unfold State.changeFrom at h
  dsimp only at h
  rw [hr, hg] at h
  split at h
  · cases h
  · rw [if_pos rfl] at h; split at h <;> cases h

theorem keeps_holdChange {kb : Bool} {k0 : State} (s : State) (n : Fin 48) (t : Time) (hk : Keeps kb k0 s) :
    Keeps kb k0 (State.holdChange s n t) := by
  unfold State.holdChange; try dsimp only
  repeat' first | intro _ | with_reducible assumption | with_reducible apply keeps_ite | with_reducible apply keeps_rcount | with_reducible apply keeps_modChan | split | fail_if_no_progress (with_reducible apply keeps_mk <;> first | with_reducible exact rfl | with_reducible exact fun h => h | skip) | exact Nat.zero_le _ | dsimp only | grind [ChanSt.turnOff, ChanSt.release, ChanSt.account]

theorem keeps_tryChange {kb : Bool} {k0 : State} (s : State) (n : Fin 48) (t : Time) (hk : Keeps kb k0 s) :
    Keeps kb k0 (s.tryChange n t) := by
  unfold State.tryChange; split
  · rename_i a h
    exact keeps_ite (keeps_applyChange s n t hk (changeFrom_partner h)) (keeps_holdChange s n t hk)
  · exact keeps_ite (keeps_holdChange s n t hk) hk

theorem keeps_reqCh {kb : Bool} {k0 : State} (s : State) (n : Fin 48) (on : Bool) (t : Time) (hk : Keeps kb k0 s) :
    Keeps kb k0 (State.reqCh s n on t) := by
  unfold State.reqCh; try dsimp only
  repeat' first | intro _ | with_reducible assumption | with_reducible apply keeps_ite | with_reducible apply keeps_modChan | with_reducible apply keeps_tryChange | split | fail_if_no_progress (with_reducible apply keeps_mk <;> first | with_reducible exact rfl | with_reducible exact fun h => h | skip) | exact Nat.zero_le _ | dsimp only | grind [ChanSt.turnOff, ChanSt.release, ChanSt.account]

theorem keeps_releaseGroup {kb : Bool} {k0 : State} (s : State) (g : Fin 8) (t : Time) (hk : Keeps kb k0 s) :
    Keeps kb k0 (State.releaseGroup s g t) := by
  unfold State.releaseGroup; try dsimp only
  repeat' first | intro _ | with_reducible assumption | with_reducible apply keeps_ite | with_reducible apply keeps_modChan | with_reducible apply keeps_foldl | with_reducible apply keeps_foldPair | split | fail_if_no_progress (with_reducible apply keeps_mk <;> first | with_reducible exact rfl | with_reducible exact fun h => h | skip) | exact Nat.zero_le _ | dsimp only | grind [ChanSt.turnOff, ChanSt.release, ChanSt.account]

theorem keeps_lowGroup {kb : Bool} {k0 : State} (s : State) (g : Fin 8) (t : Time) (hk : Keeps kb k0 s) :
    Keeps kb k0 (State.lowGroup s g t) := by
  unfold State.lowGroup; try dsimp only
  repeat' first | intro _ | with_reducible assumption | with_reducible apply keeps_ite | with_reducible apply keeps_modChan | with_reducible apply keeps_foldl | with_reducible apply keeps_foldPair | split | fail_if_no_progress (with_reducible apply keeps_mk <;> first | with_reducible exact rfl | with_reducible exact fun h => h | skip) | exact Nat.zero_le _ | dsimp only | grind [ChanSt.turnOff, ChanSt.release, ChanSt.account]

theorem keeps_noteSet {kb : Bool} {k0 : State} (s : State) (w : Fin 8) (t : Time) (hk : Keeps kb k0 s) :
    Keeps kb k0 (State.noteSet s w t) := by
  unfold State.noteSet; try dsimp only
  repeat' first | intro _ | with_reducible assumption | with_reducible apply keeps_ite | with_reducible apply keeps_modSet | split | fail_if_no_progress (with_reducible apply keeps_mk <;> first | with_reducible exact rfl | with_reducible exact fun h => h | skip) | exact Nat.zero_le _ | dsimp only

theorem keeps_quitSet {kb : Bool} {k0 : State} (s : State) (w : Fin 8) (t : Time) (hk : Keeps kb k0 s) :
    Keeps kb k0 (State.quitSet s w t) := by
  unfold State.quitSet; try dsimp only
  repeat' first | intro _ | with_reducible assumption | with_reducible apply keeps_ite | with_reducible apply keeps_modSet | with_reducible apply keeps_freeNext | split | fail_if_no_progress (with_reducible apply keeps_mk <;> first | with_reducible exact rfl | with_reducible exact fun h => h | skip) | exact Nat.zero_le _ | dsimp only

theorem keeps_offSet {kb : Bool} {k0 : State} (s : State) (w : Fin 8) (t : Time) (hk : Keeps kb k0 s) :
    Keeps kb k0 (State.offSet s w t) := by
  unfold State.offSet; try dsimp only
  repeat' first | intro _ | with_reducible assumption | with_reducible apply keeps_ite | with_reducible apply keeps_releaseGroup | with_reducible apply keeps_quitSet | split | fail_if_no_progress (with_reducible apply keeps_mk <;> first | with_reducible exact rfl | with_reducible exact fun h => h | skip) | exact Nat.zero_le _ | dsimp only

theorem keeps_hizLatch {kb : Bool} {k0 : State} (s : State) (g : Fin 8) (src win : Nat) (st : Time) (hk : Keeps kb k0 s) :
    Keeps kb k0 (State.hizLatch s g src win st) := by
  unfold State.hizLatch; try dsimp only
  repeat' first | intro _ | with_reducible assumption | with_reducible apply keeps_ite | with_reducible apply keeps_releaseGroup | with_reducible apply keeps_modGroup | with_reducible apply keeps_offSet | with_reducible apply keeps_modSet | with_reducible apply keeps_rcount | with_reducible apply keeps_raise | split | fail_if_no_progress (with_reducible apply keeps_mk <;> first | with_reducible exact rfl | with_reducible exact fun h => h | skip) | exact Nat.zero_le _ | dsimp only

theorem keeps_cut {kb : Bool} {k0 : State} (s : State) (g : Fin 8) (hk : Keeps kb k0 s) :
    Keeps kb k0 (State.cut s g) := by
  unfold State.cut; try dsimp only
  repeat' first | intro _ | with_reducible assumption | with_reducible apply keeps_ite | with_reducible apply keeps_modChan | with_reducible apply keeps_modGroup | with_reducible apply keeps_modSet | with_reducible apply keeps_noteSet | with_reducible apply keeps_foldl | with_reducible apply keeps_foldPair | split | fail_if_no_progress (with_reducible apply keeps_mk <;> first | with_reducible exact rfl | with_reducible exact fun h => h | skip) | exact Nat.zero_le _ | dsimp only | grind [ChanSt.turnOff, ChanSt.release, ChanSt.account]

theorem keeps_cutReport {kb : Bool} {k0 : State} (s : State) (g : Fin 8) (win : Nat) (first : Bool) (st : Time) (hk : Keeps kb k0 s) :
    Keeps kb k0 (State.cutReport s g win first st) := by
  unfold State.cutReport; try dsimp only
  repeat' first | intro _ | with_reducible assumption | with_reducible apply keeps_ite | with_reducible apply keeps_modSet | with_reducible apply keeps_raise | split | fail_if_no_progress (with_reducible apply keeps_mk <;> first | with_reducible exact rfl | with_reducible exact fun h => h | skip) | exact Nat.zero_le _ | dsimp only

theorem keeps_tripGroup {kb : Bool} {k0 : State} (s : State) (g : Fin 8) (win : Nat) (st : Time) (hk : Keeps kb k0 s) :
    Keeps kb k0 (State.tripGroup s g win st) := by
  unfold State.tripGroup; try dsimp only
  repeat' first | intro _ | with_reducible assumption | with_reducible apply keeps_ite | with_reducible apply keeps_hizLatch | with_reducible apply keeps_modGroup | with_reducible apply keeps_cut | with_reducible apply keeps_cutReport | split | fail_if_no_progress (with_reducible apply keeps_mk <;> first | with_reducible exact rfl | with_reducible exact fun h => h | skip) | exact Nat.zero_le _ | dsimp only

theorem keeps_cutChop {kb : Bool} {k0 : State} (s : State) (c : Fin 2) (st : Time) (hk : Keeps kb k0 s) :
    Keeps kb k0 (State.cutChop s c st) := by
  unfold State.cutChop; try dsimp only
  repeat' first | intro _ | with_reducible assumption | with_reducible apply keeps_ite | with_reducible apply keeps_modChop | with_reducible apply keeps_raise | split | fail_if_no_progress (with_reducible apply keeps_mk <;> first | with_reducible exact rfl | with_reducible exact fun h => h | skip) | exact Nat.zero_le _ | dsimp only

theorem keeps_retrip {kb : Bool} {k0 : State} (s : State) (hk : Keeps kb k0 s) :
    Keeps kb k0 (State.retrip s) := by
  unfold State.retrip; try dsimp only
  repeat' first | intro _ | with_reducible assumption | with_reducible apply keeps_ite | with_reducible apply keeps_forFin | with_reducible apply keeps_hizLatch | with_reducible apply keeps_tripGroup | with_reducible apply keeps_cutChop | with_reducible apply keeps_forFin | with_reducible apply keeps_forFinPair | split | fail_if_no_progress (with_reducible apply keeps_mk <;> first | with_reducible exact rfl | with_reducible exact fun h => h | skip) | exact Nat.zero_le _ | dsimp only

theorem keeps_raiseF {kb : Bool} {k0 : State} (s : State) (level index fclass detail : Nat) (t : Time) (hk : Keeps kb k0 s) :
    Keeps kb k0 (State.raiseF s level index fclass detail t) := by
  unfold State.raiseF; try dsimp only
  repeat' first | intro _ | with_reducible assumption | with_reducible apply keeps_ite | with_reducible apply keeps_raise | with_reducible apply keeps_retrip | split | fail_if_no_progress (with_reducible apply keeps_mk <;> first | with_reducible exact rfl | with_reducible exact fun h => h | skip) | exact Nat.zero_le _ | dsimp only

theorem keeps_armSafe {kb : Bool} {k0 : State} (s : State) (obj : Obj) (state cause : Nat) (fix : Bool) (t : Time) (hk : Keeps kb k0 s) :
    Keeps kb k0 (State.armSafe s obj state cause fix t) := by
  unfold State.armSafe; try dsimp only
  repeat' first | intro _ | with_reducible assumption | with_reducible apply keeps_ite | split | fail_if_no_progress (with_reducible apply keeps_mk <;> first | with_reducible exact rfl | with_reducible exact fun h => h | skip) | exact Nat.zero_le _ | dsimp only

theorem keeps_faultSet {kb : Bool} {k0 : State} (s : State) (w : Fin 8) (level index detail : Nat) (t : Time) (hk : Keeps kb k0 s) :
    Keeps kb k0 (State.faultSet s w level index detail t) := by
  unfold State.faultSet; try dsimp only
  repeat' first | intro _ | with_reducible assumption | with_reducible apply keeps_ite | with_reducible apply keeps_modSet | with_reducible apply keeps_armSafe | with_reducible apply keeps_raiseF | with_reducible apply keeps_raise | split | fail_if_no_progress (with_reducible apply keeps_mk <;> first | with_reducible exact rfl | with_reducible exact fun h => h | skip) | exact Nat.zero_le _ | dsimp only

theorem keeps_faultMach {kb : Bool} {k0 : State} (s : State) (m : Fin 2) (level index fclass detail : Nat) (t : Time) (hk : Keeps kb k0 s) :
    Keeps kb k0 (State.faultMach s m level index fclass detail t) := by
  unfold State.faultMach; try dsimp only
  repeat' first | intro _ | with_reducible assumption | with_reducible apply keeps_ite | with_reducible apply keeps_modMach | with_reducible apply keeps_armSafe | with_reducible apply keeps_raiseF | split | fail_if_no_progress (with_reducible apply keeps_mk <;> first | with_reducible exact rfl | with_reducible exact fun h => h | skip) | exact Nat.zero_le _ | dsimp only

theorem keeps_reqPairs {kb : Bool} {k0 : State} (s : State) (l : List (Fin 48 × Bool)) (t : Time) (hk : Keeps kb k0 s) :
    Keeps kb k0 (State.reqPairs s l t) := by
  unfold State.reqPairs; try dsimp only
  repeat' first | intro _ | with_reducible assumption | with_reducible apply keeps_ite | with_reducible apply keeps_modChan | with_reducible apply keeps_faultSet | with_reducible apply keeps_reqCh | with_reducible apply keeps_foldl | with_reducible apply keeps_foldPair | split | fail_if_no_progress (with_reducible apply keeps_mk <;> first | with_reducible exact rfl | with_reducible exact fun h => h | skip) | exact Nat.zero_le _ | dsimp only | grind [ChanSt.turnOff, ChanSt.release, ChanSt.account]

theorem keeps_ascPattern {kb : Bool} {k0 : State} (s : State) (g : Fin 8) (t : Time) (hk : Keeps kb k0 s) :
    Keeps kb k0 (State.ascPattern s g t) := by
  unfold State.ascPattern; try dsimp only
  repeat' first | intro _ | with_reducible assumption | with_reducible apply keeps_ite | with_reducible apply keeps_lowGroup | with_reducible apply keeps_modGroup | with_reducible apply keeps_modChan | with_reducible apply keeps_reqCh | with_reducible apply keeps_foldl | with_reducible apply keeps_foldPair | split | fail_if_no_progress (with_reducible apply keeps_mk <;> first | with_reducible exact rfl | with_reducible exact fun h => h | skip) | exact Nat.zero_le _ | dsimp only | grind [ChanSt.turnOff, ChanSt.release, ChanSt.account]

theorem keeps_reqSet {kb : Bool} {k0 : State} (s : State) (w : Fin 8) (t : Time) (hk : Keeps kb k0 s) :
    Keeps kb k0 (State.reqSet s w t) := by
  unfold State.reqSet; try dsimp only
  repeat' first | intro _ | with_reducible assumption | with_reducible apply keeps_ite | with_reducible apply keeps_reqPairs | with_reducible apply keeps_noteSet | split | fail_if_no_progress (with_reducible apply keeps_mk <;> first | with_reducible exact rfl | with_reducible exact fun h => h | skip) | exact Nat.zero_le _ | dsimp only

theorem keeps_decaySet {kb : Bool} {k0 : State} (s : State) (w : Fin 8) (t : Time) (hk : Keeps kb k0 s) :
    Keeps kb k0 (State.decaySet s w t) := by
  unfold State.decaySet; try dsimp only
  repeat' first | intro _ | with_reducible assumption | with_reducible apply keeps_ite | with_reducible apply keeps_modSet | with_reducible apply keeps_freeNext | with_reducible apply keeps_reqSet | with_reducible apply keeps_offSet | split | fail_if_no_progress (with_reducible apply keeps_mk <;> first | with_reducible exact rfl | with_reducible exact fun h => h | skip) | exact Nat.zero_le _ | dsimp only

theorem keeps_testBegin {kb : Bool} {k0 : State} (s : State) (hk : Keeps kb k0 s) :
    Keeps kb k0 (State.testBegin s) := by
  unfold State.testBegin; try dsimp only
  repeat' first | intro _ | with_reducible assumption | with_reducible apply keeps_ite | with_reducible apply keeps_forFin | with_reducible apply keeps_lowGroup | with_reducible apply keeps_modChop | with_reducible apply keeps_forFin | with_reducible apply keeps_forFinPair | split | fail_if_no_progress (with_reducible apply keeps_mk <;> first | with_reducible exact rfl | with_reducible exact fun h => h | skip) | exact Nat.zero_le _ | dsimp only

theorem keeps_testEnd {kb : Bool} {k0 : State} (s : State) (hk : Keeps kb k0 s) :
    Keeps kb k0 (State.testEnd s) := by
  unfold State.testEnd; try dsimp only
  repeat' first | intro _ | with_reducible assumption | with_reducible apply keeps_ite | with_reducible apply keeps_forFin | with_reducible apply keeps_releaseGroup | with_reducible apply keeps_modGroup | with_reducible apply keeps_modChop | with_reducible apply keeps_forFin | with_reducible apply keeps_forFinPair | split | fail_if_no_progress (with_reducible apply keeps_mk <;> first | with_reducible exact rfl | with_reducible exact fun h => h | skip) | exact Nat.zero_le _ | dsimp only

theorem keeps_placeUrgent {kb : Bool} {k0 : State} (s : State) (conv chan : Nat) (host : Bool) (t : Time) (hk : Keeps kb k0 s) :
    Keeps kb k0 (State.placeUrgent s conv chan host t) := by
  unfold State.placeUrgent; try dsimp only
  repeat' first | intro _ | with_reducible assumption | with_reducible apply keeps_ite | split | fail_if_no_progress (with_reducible apply keeps_mk <;> first | with_reducible exact rfl | with_reducible exact fun h => h | skip) | exact Nat.zero_le _ | dsimp only

theorem keeps_askUrgent {kb : Bool} {k0 : State} (s : State) (conv chan : Nat) (host : Bool) (t : Time) (hk : Keeps kb k0 s) :
    Keeps kb k0 (State.askUrgent s conv chan host t) := by
  unfold State.askUrgent; try dsimp only
  repeat' first | intro _ | with_reducible assumption | with_reducible apply keeps_ite | with_reducible apply keeps_placeUrgent | split | fail_if_no_progress (with_reducible apply keeps_mk <;> first | with_reducible exact rfl | with_reducible exact fun h => h | skip) | exact Nat.zero_le _ | dsimp only

theorem keeps_applyChop {kb : Bool} {k0 : State} (s : State) (c : Fin 2) (t : Time) (hk : Keeps kb k0 s) :
    Keeps kb k0 (State.applyChop s c t) := by
  unfold State.applyChop; try dsimp only
  repeat' first | intro _ | with_reducible assumption | with_reducible apply keeps_ite | with_reducible apply keeps_modChop | with_reducible apply keeps_askUrgent | split | fail_if_no_progress (with_reducible apply keeps_mk <;> first | with_reducible exact rfl | with_reducible exact fun h => h | skip) | exact Nat.zero_le _ | dsimp only

theorem keeps_reqChop {kb : Bool} {k0 : State} (s : State) (c : Fin 2) (on : Bool) (t : Time) (hk : Keeps kb k0 s) :
    Keeps kb k0 (State.reqChop s c on t) := by
  unfold State.reqChop; try dsimp only
  repeat' first | intro _ | with_reducible assumption | with_reducible apply keeps_ite | with_reducible apply keeps_modChop | with_reducible apply keeps_applyChop | split | fail_if_no_progress (with_reducible apply keeps_mk <;> first | with_reducible exact rfl | with_reducible exact fun h => h | skip) | exact Nat.zero_le _ | dsimp only

theorem keeps_releaseChops {kb : Bool} {k0 : State} (s : State) (t : Time) (hk : Keeps kb k0 s) :
    Keeps kb k0 (State.releaseChops s t) := by
  unfold State.releaseChops; try dsimp only
  repeat' first | intro _ | with_reducible assumption | with_reducible apply keeps_ite | with_reducible apply keeps_forFin | with_reducible apply keeps_modChop | with_reducible apply keeps_forFin | with_reducible apply keeps_forFinPair | split | fail_if_no_progress (with_reducible apply keeps_mk <;> first | with_reducible exact rfl | with_reducible exact fun h => h | skip) | exact Nat.zero_le _ | dsimp only

theorem keeps_releaseAll {kb : Bool} {k0 : State} (s : State) (t : Time) (hk : Keeps kb k0 s) :
    Keeps kb k0 (State.releaseAll s t) := by
  unfold State.releaseAll; try dsimp only
  repeat' first | intro _ | with_reducible assumption | with_reducible apply keeps_ite | with_reducible apply keeps_forFin | with_reducible apply keeps_releaseGroup | with_reducible apply keeps_modGroup | with_reducible apply keeps_releaseChops | with_reducible apply keeps_forFin | with_reducible apply keeps_forFinPair | split | fail_if_no_progress (with_reducible apply keeps_mk <;> first | with_reducible exact rfl | with_reducible exact fun h => h | skip) | exact Nat.zero_le _ | dsimp only

theorem keeps_countChange {kb : Bool} {k0 : State} (s : State) (w : Fin 8) (x : Reg) (gen : Bool) (t : Time) (hk : Keeps kb k0 s) :
    Keeps kb k0 (State.countChange s w x gen t) := by
  unfold State.countChange; try dsimp only
  repeat' first | intro _ | with_reducible assumption | with_reducible apply keeps_ite | with_reducible apply keeps_modSet | with_reducible apply keeps_rset | split | fail_if_no_progress (with_reducible apply keeps_mk <;> first | with_reducible exact rfl | with_reducible exact fun h => h | skip) | exact Nat.zero_le _ | dsimp only

theorem keeps_takePlan {kb : Bool} {k0 : State} (s : State) (w : Fin 8) (t : Time) (hk : Keeps kb k0 s) :
    Keeps kb k0 (State.takePlan s w t).1 := by
  unfold State.takePlan; try dsimp only
  repeat' first | intro _ | with_reducible assumption | with_reducible apply keeps_ite | with_reducible apply keeps_modSet | split | fail_if_no_progress (with_reducible apply keeps_mk <;> first | with_reducible exact rfl | with_reducible exact fun h => h | skip) | exact Nat.zero_le _ | dsimp only

theorem keeps_takeAll {kb : Bool} {k0 : State} (s : State) (t : Time) (l : List (Fin 8)) (acc : List (Fin 48 × Bool))
    (hk : Keeps kb k0 s) :
    Keeps kb k0 (l.foldl (fun (x : State × List (Fin 48 × Bool)) w => ((x.1.takePlan w t).1, x.2 ++ (x.1.takePlan w t).2)) (s, acc)).1 := by
  induction l generalizing s acc with
  | nil => exact hk
  | cons a l ih => exact ih _ _ (keeps_takePlan s a t hk)

theorem keeps_edgesAt {kb : Bool} {k0 : State} (s : State) (t : Time) (hk : Keeps kb k0 s) : Keeps kb k0 (s.edgesAt t) := by
  have h := keeps_takeAll s t (List.finRange 8) [] hk
  unfold State.edgesAt forFin
  generalize hp : (List.finRange 8).foldl _ (s, ([] : List (Fin 48 × Bool))) = p
  have hq : Keeps kb k0 p.1 := by rw [← hp]; exact h
  dsimp only
  refine keeps_foldl (keeps_reqPairs _ _ _ (keeps_foldl ?_ fun u e hu => ?_)) fun u w hu => keeps_countChange _ _ _ _ _ (keeps_noteSet _ _ _ hu)
  · apply keeps_mk hq <;> first | exact rfl | exact fun h => h
  · split
    · exact hu
    · exact keeps_reqChop _ _ _ _ hu

theorem keepsO_execScheduledEdge {kb : Bool} {k0 : State} (s : State) (hk : Keeps kb k0 s) :
    KeepsO kb k0 (execScheduledEdge s) := by
  unfold execScheduledEdge; try dsimp only
  repeat' first | intro _ | with_reducible assumption | with_reducible apply keepsO_ite | with_reducible apply keepsO_next | with_reducible apply keeps_ite | with_reducible apply keeps_adv | with_reducible apply keeps_edgesAt | split | fail_if_no_progress (with_reducible apply keeps_mk <;> first | with_reducible exact rfl | with_reducible exact fun h => h | skip) | exact Nat.zero_le _ | dsimp only

theorem keepsO_execPendingChangeApplied {kb : Bool} {k0 : State} (ch : Fin 50) (s : State) (hk : Keeps kb k0 s) :
    KeepsO kb k0 (execPendingChangeApplied ch s) := by
  unfold execPendingChangeApplied; split
  · dsimp only; split
    · rename_i h
      exact keepsO_next (keeps_noteSet _ _ _ (keeps_applyChange _ _ _ (keeps_adv s _ hk) (changeFrom_partner h)))
    · exact keepsO_next hk
  · dsimp only; split
    · exact keepsO_next (keeps_applyChop _ _ _ (keeps_adv s _ hk))
    · exact keepsO_next hk

end Sys2Proof.Machine
end

