-- ==== Sys2Proof/Laws/KeepsLops.lean ====
section
/-! SUPPORT. Laws/KeepsLops.lean: what each operation of Lops.lean keeps. -/
namespace Sys2Proof.Machine

set_option linter.all false

theorem keeps_lopStart {kb : Bool} {k0 : State} (s : State) (c : Waiting) (hk : Keeps kb k0 s) :
    Keeps kb k0 (State.lopStart s c) := by
  unfold State.lopStart; try dsimp only
  repeat' first | intro _ | with_reducible assumption | with_reducible apply keeps_ite | with_reducible apply keeps_finish | with_reducible apply keeps_modLop | split | fail_if_no_progress (with_reducible apply keeps_mk <;> first | with_reducible exact rfl | with_reducible exact fun h => h | skip) | exact Nat.zero_le _ | dsimp only

theorem keeps_fenceTry {kb : Bool} {k0 : State} (s : State) (hk : Keeps kb k0 s) :
    Keeps kb k0 (State.fenceTry s) := by
  unfold State.fenceTry; try dsimp only
  repeat' first | intro _ | with_reducible assumption | with_reducible apply keeps_ite | with_reducible apply keeps_finishW | with_reducible apply keeps_foldl | with_reducible apply keeps_foldPair | split | fail_if_no_progress (with_reducible apply keeps_mk <;> first | with_reducible exact rfl | with_reducible exact fun h => h | skip) | exact Nat.zero_le _ | dsimp only

theorem keeps_pump {kb : Bool} {k0 : State} (s : State) (hk : Keeps kb k0 s) :
    Keeps kb k0 (State.pump s) := by
  unfold State.pump; try dsimp only
  repeat' first | intro _ | with_reducible assumption | with_reducible apply keeps_ite | with_reducible apply keeps_drain | with_reducible apply keeps_flushCpls | with_reducible apply keeps_fenceTry | with_reducible apply keeps_msixPump | with_reducible apply keeps_forFin | with_reducible apply keeps_closeTry | with_reducible apply keeps_forFin | with_reducible apply keeps_forFinPair | split | fail_if_no_progress (with_reducible apply keeps_mk <;> first | with_reducible exact rfl | with_reducible exact fun h => h | skip) | exact Nat.zero_le _ | dsimp only

theorem keeps_shadowOff {kb : Bool} {k0 : State} (s : State) (hk : Keeps kb k0 s) :
    Keeps kb k0 (State.shadowOff s) := by
  unfold State.shadowOff; try dsimp only
  repeat' first | intro _ | with_reducible assumption | with_reducible apply keeps_ite | with_reducible apply keeps_forFin | with_reducible apply keeps_modMach | with_reducible apply keeps_reset | with_reducible apply keeps_quitSet | with_reducible apply keeps_forFin | with_reducible apply keeps_forFinPair | split | fail_if_no_progress (with_reducible apply keeps_mk <;> first | with_reducible exact rfl | with_reducible exact fun h => h | skip) | exact Nat.zero_le _ | dsimp only

theorem keeps_lopCleanup {kb : Bool} {k0 : State} (s : State) (k : Fin 8) (hk : Keeps kb k0 s) :
    Keeps kb k0 (State.lopCleanup s k) := by
  unfold State.lopCleanup; try dsimp only
  repeat' first | intro _ | with_reducible assumption | with_reducible apply keeps_ite | with_reducible apply keeps_cut | with_reducible apply keeps_shadowOff | with_reducible apply keeps_gridStart | with_reducible apply keeps_testEnd | with_reducible apply keeps_modLink | split | fail_if_no_progress (with_reducible apply keeps_mk <;> first | with_reducible exact rfl | with_reducible exact fun h => h | skip) | exact Nat.zero_le _ | dsimp only

theorem keeps_lopEnd {kb : Bool} {k0 : State} (s : State) (k : Fin 8) (st : BitVec 8) (res : Nat) (hk : Keeps kb k0 s) :
    Keeps kb k0 (State.lopEnd s k st res) := by
  unfold State.lopEnd; try dsimp only
  repeat' first | intro _ | with_reducible assumption | with_reducible apply keeps_ite | with_reducible apply keeps_modLop | with_reducible apply keeps_complete | with_reducible apply keeps_finishW | with_reducible apply keeps_fenceTry | with_reducible apply keeps_foldl | with_reducible apply keeps_foldPair | split | fail_if_no_progress (with_reducible apply keeps_mk <;> first | with_reducible exact rfl | with_reducible exact fun h => h | skip) | exact Nat.zero_le _ | dsimp only

theorem keeps_lopQuit {kb : Bool} {k0 : State} (s : State) (k : Fin 8) (st : BitVec 8) (res : Nat) (hk : Keeps kb k0 s) :
    Keeps kb k0 (State.lopQuit s k st res) := by
  unfold State.lopQuit; try dsimp only
  repeat' first | intro _ | with_reducible assumption | with_reducible apply keeps_ite | with_reducible apply keeps_lopCleanup | with_reducible apply keeps_lopEnd | split | fail_if_no_progress (with_reducible apply keeps_mk <;> first | with_reducible exact rfl | with_reducible exact fun h => h | skip) | exact Nat.zero_le _ | dsimp only

theorem keeps_lopPause {kb : Bool} {k0 : State} (s : State) (k : Fin 8) (n res : Nat) (hk : Keeps kb k0 s) :
    Keeps kb k0 (State.lopPause s k n res).1 := by
  unfold State.lopPause; try dsimp only
  repeat' first | intro _ | with_reducible assumption | with_reducible apply keeps_ite | with_reducible apply keeps_modLop | with_reducible apply keeps_finishW | with_reducible apply keeps_lopQuit | with_reducible apply keeps_foldl | with_reducible apply keeps_foldPair | split | fail_if_no_progress (with_reducible apply keeps_mk <;> first | with_reducible exact rfl | with_reducible exact fun h => h | skip) | exact Nat.zero_le _ | dsimp only

theorem keeps_lopAbort {kb : Bool} {k0 : State} (s : State) (k : Fin 8) (hk : Keeps kb k0 s) :
    Keeps kb k0 (State.lopAbort s k) := by
  unfold State.lopAbort; try dsimp only
  repeat' first | intro _ | with_reducible assumption | with_reducible apply keeps_ite | with_reducible apply keeps_lopQuit | with_reducible apply keeps_modLop | split | fail_if_no_progress (with_reducible apply keeps_mk <;> first | with_reducible exact rfl | with_reducible exact fun h => h | skip) | exact Nat.zero_le _ | dsimp only

theorem keeps_abortLops {kb : Bool} {k0 : State} (s : State) (but : BitVec 8) (hk : Keeps kb k0 s) :
    Keeps kb k0 (State.abortLops s but) := by
  unfold State.abortLops; try dsimp only
  repeat' first | intro _ | with_reducible assumption | with_reducible apply keeps_ite | with_reducible apply keeps_forFin | with_reducible apply keeps_lopAbort | with_reducible apply keeps_forFin | with_reducible apply keeps_forFinPair | split | fail_if_no_progress (with_reducible apply keeps_mk <;> first | with_reducible exact rfl | with_reducible exact fun h => h | skip) | exact Nat.zero_le _ | dsimp only

theorem keepsO_execNop {kb : Bool} {k0 : State} (q : CmdQ) (s : State) (hk : Keeps kb k0 s) :
    KeepsO kb k0 (execNop q s) := by
  unfold execNop; try dsimp only
  repeat' first | intro _ | with_reducible assumption | with_reducible apply keepsO_ite | with_reducible apply keepsO_next | with_reducible apply keeps_ite | with_reducible apply keepsO_runCmd | with_reducible apply keeps_finish | split | fail_if_no_progress (with_reducible apply keeps_mk <;> first | with_reducible exact rfl | with_reducible exact fun h => h | skip) | exact Nat.zero_le _ | dsimp only

theorem keepsO_execBadOpcode {kb : Bool} {k0 : State} (q : CmdQ) (opc : BitVec 8) (s : State) (hk : Keeps kb k0 s) :
    KeepsO kb k0 (execBadOpcode q opc s) := by
  unfold execBadOpcode; try dsimp only
  repeat' first | intro _ | with_reducible assumption | with_reducible apply keepsO_ite | with_reducible apply keepsO_next | with_reducible apply keeps_ite | with_reducible apply keeps_takeCmd | with_reducible apply keeps_finish | split | fail_if_no_progress (with_reducible apply keeps_mk <;> first | with_reducible exact rfl | with_reducible exact fun h => h | skip) | exact Nat.zero_le _ | dsimp only

theorem keepsO_execFence {kb : Bool} {k0 : State} (q : CmdQ) (s : State) (hk : Keeps kb k0 s) :
    KeepsO kb k0 (execFence q s) := by
  unfold execFence; try dsimp only
  repeat' first | intro _ | with_reducible assumption | with_reducible apply keepsO_ite | with_reducible apply keepsO_next | with_reducible apply keeps_ite | with_reducible apply keepsO_runCmd | with_reducible apply keeps_finish | with_reducible apply keeps_freeNext | with_reducible apply keeps_await | with_reducible apply keeps_fenceTry | with_reducible apply keeps_foldl | with_reducible apply keeps_foldPair | split | fail_if_no_progress (with_reducible apply keeps_mk <;> first | with_reducible exact rfl | with_reducible exact fun h => h | skip) | exact Nat.zero_le _ | dsimp only

theorem keepsO_execSuspend {kb : Bool} {k0 : State} (q : CmdQ) (s : State) (hk : Keeps kb k0 s) :
    KeepsO kb k0 (execSuspend q s) := by
  unfold execSuspend; try dsimp only
  repeat' first | intro _ | with_reducible assumption | with_reducible apply keepsO_ite | with_reducible apply keepsO_next | with_reducible apply keeps_ite | with_reducible apply keepsO_runCmd | with_reducible apply keeps_finish | with_reducible apply keeps_await | with_reducible apply keeps_modLop | split | fail_if_no_progress (with_reducible apply keeps_mk <;> first | with_reducible exact rfl | with_reducible exact fun h => h | skip) | exact Nat.zero_le _ | dsimp only

theorem keepsO_execCancel {kb : Bool} {k0 : State} (q : CmdQ) (s : State) (hk : Keeps kb k0 s) :
    KeepsO kb k0 (execCancel q s) := by
  unfold execCancel; try dsimp only
  repeat' first | intro _ | with_reducible assumption | with_reducible apply keepsO_ite | with_reducible apply keepsO_next | with_reducible apply keeps_ite | with_reducible apply keepsO_runCmd | with_reducible apply keeps_finish | with_reducible apply keeps_lopQuit | with_reducible apply keeps_await | with_reducible apply keeps_finishW | with_reducible apply keeps_modLop | with_reducible apply keeps_foldl | with_reducible apply keeps_foldPair | split | fail_if_no_progress (with_reducible apply keeps_mk <;> first | with_reducible exact rfl | with_reducible exact fun h => h | skip) | exact Nat.zero_le _ | dsimp only

theorem keepsO_execResumeLimitExpiry {kb : Bool} {k0 : State} (slot : Fin 8) (t : Time) (s : State) (hk : Keeps kb k0 s) :
    KeepsO kb k0 (execResumeLimitExpiry slot t s) := by
  unfold execResumeLimitExpiry; try dsimp only
  repeat' first | intro _ | with_reducible assumption | with_reducible apply keepsO_ite | with_reducible apply keepsO_next | with_reducible apply keeps_ite | with_reducible apply keeps_adv | with_reducible apply keeps_modLop | split | fail_if_no_progress (with_reducible apply keeps_mk <;> first | with_reducible exact rfl | with_reducible exact fun h => h | skip) | exact Nat.zero_le _ | dsimp only

end Sys2Proof.Machine
end

