-- ==== Sys2Proof/Laws/Frames.lean ====
section
/-! SUPPORT. Laws/Frames.lean: what raising an event and completing a command leave alone: everything but the stored registers, the rings,
held entries, messages and host memory, the fault history, the RECOVERY marks and the Silo's triggers. -/
namespace Sys2Proof.Machine

/-- `t` differs from `s` at most where an event or a completion shows. -/
def Quiet (s t : State) : Prop :=
  t = { s with
    regs := t.regs
    host := { s.host with rings := t.host.rings, cpls := t.host.cpls, mem := t.host.mem, msgs := t.host.msgs, pba := t.host.pba,
                          held := t.host.held }
    sup := { s.sup with hist := t.sup.hist, histLost := t.sup.histLost }
    groups := t.groups
    silo := t.silo }

theorem Quiet.refl (s : State) : Quiet s s := rfl

theorem Quiet.trans {s t u : State} (h : Quiet s t) (k : Quiet t u) : Quiet s u := by
  unfold Quiet at *
  rw [k]
  rw [h]

theorem quiet_foldl {α : Type} {s : State} {l : List α} {f : State → α → State} (hf : ∀ u x, Quiet u (f u x)) : Quiet s (l.foldl f s) := by
  induction l generalizing s with
  | nil => exact Quiet.refl s
  | cons a l ih => exact (hf s a).trans ih

theorem quiet_rset (s : State) (d : RegDesc) (i : Nat) (w : Word) : Quiet s (s.rset d i w) := rfl
theorem quiet_rsetF (s : State) (d : RegDesc) (i hi lo v : Nat) : Quiet s (s.rsetF d i hi lo v) := rfl
theorem quiet_rcount (s : State) (d : RegDesc) (i hi lo n : Nat) : Quiet s (s.rcount d i hi lo n) := rfl
theorem quiet_writeReject (s : State) : Quiet s s.writeReject := rfl
theorem quiet_modRing (s : State) (i : Fin 48) (f : RingSt → RingSt) : Quiet s (s.modRing i f) := rfl
theorem quiet_cpls (s : State) (l : List Cpl) : Quiet s { s with host := { s.host with cpls := l } } := rfl
theorem quiet_held (s : State) (l : List Held) : Quiet s { s with host := { s.host with held := l } } := rfl

theorem quiet_msixSend (s : State) (v : Nat) : Quiet s (s.msixSend v) := by
  unfold State.msixSend; split
  · rfl
  · dsimp only; split <;> rfl

theorem quiet_ringNote (s : State) (i : Fin 48) (a b : Bool) : Quiet s (s.ringNote i a b) := by
  unfold State.ringNote; split
  · rfl
  · dsimp only; split
    · exact (quiet_modRing s i _).trans ((quiet_modRing _ i _).trans (quiet_msixSend _ _))
    · rfl

theorem quiet_hostWrite (s : State) (a : Nat) (w : Word) : Quiet s (s.hostWrite a w) := rfl

theorem quiet_hostWriteQuad (s : State) (a : Nat) (q : Quad) : Quiet s (s.hostWriteQuad a q) :=
  ((quiet_hostWrite s _ _).trans (quiet_hostWrite _ _ _)).trans ((quiet_hostWrite _ _ _).trans (quiet_hostWrite _ _ _))

theorem quiet_ringPut (s : State) (i : Fin 48) (q : Quad) (p : Nat) (a b : Bool) : Quiet s (s.ringPut i q p a b) := by
  unfold State.ringPut; extract_lets
  exact (quiet_hostWriteQuad s _ _).trans ((quiet_modRing _ i _).trans (quiet_ringNote _ i a b))

theorem quiet_flushCplsFrom (s : State) (l kept : List Cpl) : Quiet s (s.flushCplsFrom l kept) := by
  induction l generalizing s kept with
  | nil => rfl
  | cons c cs ih =>
    unfold State.flushCplsFrom; split
    · exact (quiet_ringPut s _ _ _ _ _).trans (ih _ _)
    · exact ih _ _

theorem quiet_flushCpls (s : State) : Quiet s s.flushCpls := quiet_flushCplsFrom s _ _

theorem quiet_complete (s : State) (c : Cpl) : Quiet s (s.complete c) := by
  unfold State.complete; extract_lets
  exact (quiet_modRing s _ _).trans ((quiet_cpls _ _).trans (quiet_flushCpls _))

theorem quiet_finish (s : State) (c : Waiting) (st : BitVec 8) (r : Nat) : Quiet s (s.finish c st r) := quiet_complete s _

theorem quiet_drainFrom (s : State) (l kept : List Held) (b : List (Fin 4)) : Quiet s (s.drainFrom l kept b) := by
  induction l generalizing s kept b with
  | nil => rfl
  | cons h hs ih =>
    unfold State.drainFrom; split
    · exact (quiet_foldl (fun u r => quiet_ringPut u _ _ _ _ _)).trans (ih _ _ _)
    · exact ih _ _ _

theorem quiet_drain (s : State) : Quiet s s.drain := quiet_drainFrom s _ _ _

theorem quiet_hold (s : State) (e : Evt) : Quiet s (s.hold e) := by
  unfold State.hold; split
  · rfl
  · dsimp only; split
    · split <;> rfl
    · rfl

theorem quiet_record (s : State) (e : Evt) : Quiet s (s.record e) := by
  unfold State.record; dsimp only; split
  · rfl
  · split
    · rfl
    · split
      · split <;> rfl
      · rfl

theorem quiet_markRecovery (s : State) (m : Fin 2) : Quiet s (s.markRecovery m) := by
  refine quiet_foldl fun u g => ?_
  split <;> rfl

theorem quiet_siloSees (s : State) (e : Evt) : Quiet s (s.siloSees e) := by
  refine quiet_foldl fun u c => ?_
  dsimp only; split <;> rfl

theorem quiet_raiseE (s : State) (e : Evt) : Quiet s (s.raiseE e) := by
  have h1 : Quiet s (if e.cls = 1 ∧ 2 ≤ e.fclass then s.record e else s) := by split; exacts [quiet_record s e, Quiet.refl s]
  have h2 : ∀ u, Quiet u (match e.machine with
      | some m => if e.cls = 1 ∨ (e.cls = 0x0A ∧ e.level = 3 ∧ bits e.detail 7 0 = 0x35) then u.markRecovery m else u
      | none => u) := by
    intro u; split
    · split; exacts [quiet_markRecovery u _, Quiet.refl u]
    · rfl
  unfold State.raiseE; dsimp only
  exact (h1.trans (h2 _)).trans (((quiet_rset _ regSvcIrq 0 _).trans (quiet_siloSees _ e)).trans ((quiet_hold _ e).trans (quiet_drain _)))

theorem quiet_raise (s : State) (cls level index fclass detail : Nat) (t : Time) : Quiet s (s.raise cls level index fclass detail t) :=
  quiet_raiseE s _

theorem quiet_health (s : State) (bit block inst extra : Nat) (t : Time) : Quiet s (s.health bit block inst extra t) :=
  (quiet_rset s regGlbHealth 0 _).trans (quiet_raise _ _ _ _ _ _ _)

theorem quiet_recoveryQuad (s : State) (d : Nat) (t : Time) : Quiet s (s.recoveryQuad d t) := by
  unfold State.recoveryQuad; exact Quiet.trans (quiet_held s _) (quiet_drain _)

theorem quiet_flushOne (s : State) (n : Fin 16) : Quiet s.freeNext (s.flushOne n) := by
  unfold State.flushOne; extract_lets
  exact (quiet_modRing _ _ _).trans ((quiet_rset _ _ _ _).trans (quiet_complete _ _))

/-! ### Field by field -/

theorem Quiet.time_eq {s t : State} (h : Quiet s t) : t.time = s.time := by unfold Quiet at h; rw [h]
theorem Quiet.freeCtr_eq {s t : State} (h : Quiet s t) : t.freeCtr = s.freeCtr := by unfold Quiet at h; rw [h]
theorem Quiet.pending_eq {s t : State} (h : Quiet s t) : t.pending = s.pending := by unfold Quiet at h; rw [h]
theorem Quiet.fpSteps_eq {s t : State} (h : Quiet s t) : t.fpSteps = s.fpSteps := by unfold Quiet at h; rw [h]
theorem Quiet.fpNewAt_eq {s t : State} (h : Quiet s t) : t.fpNewAt = s.fpNewAt := by unfold Quiet at h; rw [h]
theorem Quiet.lastFp_eq {s t : State} (h : Quiet s t) : t.lastFp = s.lastFp := by unfold Quiet at h; rw [h]
theorem Quiet.lastSp_eq {s t : State} (h : Quiet s t) : t.lastSp = s.lastSp := by unfold Quiet at h; rw [h]
theorem Quiet.lastHr_eq {s t : State} (h : Quiet s t) : t.lastHr = s.lastHr := by unfold Quiet at h; rw [h]
theorem Quiet.started_eq {s t : State} (h : Quiet s t) : t.started = s.started := by unfold Quiet at h; rw [h]
theorem Quiet.nodes_eq {s t : State} (h : Quiet s t) : t.nodes = s.nodes := by unfold Quiet at h; rw [h]
theorem Quiet.ecc_eq {s t : State} (h : Quiet s t) : t.ecc = s.ecc := by unfold Quiet at h; rw [h]
theorem Quiet.late_eq {s t : State} (h : Quiet s t) : t.late = s.late := by unfold Quiet at h; rw [h]
theorem Quiet.mach_eq {s t : State} (h : Quiet s t) : t.mach = s.mach := by unfold Quiet at h; rw [h]
theorem Quiet.sets_eq {s t : State} (h : Quiet s t) : t.sets = s.sets := by unfold Quiet at h; rw [h]
theorem Quiet.chans_eq {s t : State} (h : Quiet s t) : t.chans = s.chans := by unfold Quiet at h; rw [h]
theorem Quiet.edges_eq {s t : State} (h : Quiet s t) : t.edges = s.edges := by unfold Quiet at h; rw [h]
theorem Quiet.direct_eq {s t : State} (h : Quiet s t) : t.direct = s.direct := by unfold Quiet at h; rw [h]
theorem Quiet.chops_eq {s t : State} (h : Quiet s t) : t.chops = s.chops := by unfold Quiet at h; rw [h]
theorem Quiet.acq_eq {s t : State} (h : Quiet s t) : t.acq = s.acq := by unfold Quiet at h; rw [h]
theorem Quiet.winOut_eq {s t : State} (h : Quiet s t) : t.winOut = s.winOut := by unfold Quiet at h; rw [h]
theorem Quiet.flt_eq {s t : State} (h : Quiet s t) : t.flt = s.flt := by unfold Quiet at h; rw [h]
theorem Quiet.estop_eq {s t : State} (h : Quiet s t) : t.estop = s.estop := by unfold Quiet at h; rw [h]
theorem Quiet.thm_eq {s t : State} (h : Quiet s t) : t.thm = s.thm := by unfold Quiet at h; rw [h]
theorem Quiet.otp_eq {s t : State} (h : Quiet s t) : t.otp = s.otp := by unfold Quiet at h; rw [h]
theorem Quiet.msr_eq {s t : State} (h : Quiet s t) : t.msr = s.msr := by unfold Quiet at h; rw [h]
theorem Quiet.pcr_eq {s t : State} (h : Quiet s t) : t.pcr = s.pcr := by unfold Quiet at h; rw [h]
theorem Quiet.lts_eq {s t : State} (h : Quiet s t) : t.lts = s.lts := by unfold Quiet at h; rw [h]
theorem Quiet.ypl_eq {s t : State} (h : Quiet s t) : t.ypl = s.ypl := by unfold Quiet at h; rw [h]
theorem Quiet.svc_eq {s t : State} (h : Quiet s t) : t.svc = s.svc := by unfold Quiet at h; rw [h]
theorem Quiet.host_waiting {s t : State} (h : Quiet s t) : t.host.waiting = s.host.waiting := by unfold Quiet at h; rw [h]
theorem Quiet.host_lops {s t : State} (h : Quiet s t) : t.host.lops = s.host.lops := by unfold Quiet at h; rw [h]
theorem Quiet.host_fences {s t : State} (h : Quiet s t) : t.host.fences = s.host.fences := by unfold Quiet at h; rw [h]
theorem Quiet.host_fenceOk {s t : State} (h : Quiet s t) : t.host.fenceOk = s.host.fenceOk := by unfold Quiet at h; rw [h]
theorem Quiet.host_d3hot {s t : State} (h : Quiet s t) : t.host.d3hot = s.host.d3hot := by unfold Quiet at h; rw [h]
theorem Quiet.host_bme {s t : State} (h : Quiet s t) : t.host.bme = s.host.bme := by unfold Quiet at h; rw [h]
theorem Quiet.host_linkUp {s t : State} (h : Quiet s t) : t.host.linkUp = s.host.linkUp := by unfold Quiet at h; rw [h]
theorem Quiet.host_linkGen {s t : State} (h : Quiet s t) : t.host.linkGen = s.host.linkGen := by unfold Quiet at h; rw [h]
theorem Quiet.host_readP {s t : State} (h : Quiet s t) : t.host.readP = s.host.readP := by unfold Quiet at h; rw [h]
theorem Quiet.host_readS {s t : State} (h : Quiet s t) : t.host.readS = s.host.readS := by unfold Quiet at h; rw [h]
theorem Quiet.host_readM {s t : State} (h : Quiet s t) : t.host.readM = s.host.readM := by unfold Quiet at h; rw [h]
theorem Quiet.host_latchP {s t : State} (h : Quiet s t) : t.host.latchP = s.host.latchP := by unfold Quiet at h; rw [h]
theorem Quiet.host_latchS {s t : State} (h : Quiet s t) : t.host.latchS = s.host.latchS := by unfold Quiet at h; rw [h]
theorem Quiet.host_latchM {s t : State} (h : Quiet s t) : t.host.latchM = s.host.latchM := by unfold Quiet at h; rw [h]
theorem Quiet.host_opLost {s t : State} (h : Quiet s t) : t.host.opLost = s.host.opLost := by unfold Quiet at h; rw [h]
theorem Quiet.sup_reqs {s t : State} (h : Quiet s t) : t.sup.reqs = s.sup.reqs := by unfold Quiet at h; rw [h]
theorem Quiet.sup_f5 {s t : State} (h : Quiet s t) : t.sup.f5 = s.sup.f5 := by unfold Quiet at h; rw [h]
theorem Quiet.sup_f4 {s t : State} (h : Quiet s t) : t.sup.f4 = s.sup.f4 := by unfold Quiet at h; rw [h]
theorem Quiet.sup_estopHeld {s t : State} (h : Quiet s t) : t.sup.estopHeld = s.sup.estopHeld := by unfold Quiet at h; rw [h]
theorem Quiet.sup_mbrk {s t : State} (h : Quiet s t) : t.sup.mbrk = s.sup.mbrk := by unfold Quiet at h; rw [h]
theorem Quiet.sup_glk {s t : State} (h : Quiet s t) : t.sup.glk = s.sup.glk := by unfold Quiet at h; rw [h]
theorem Quiet.sup_kOv {s t : State} (h : Quiet s t) : t.sup.kOv = s.sup.kOv := by unfold Quiet at h; rw [h]

@[simp] theorem State.finish_time (s : State) (c : Waiting) (st : BitVec 8) (r : Nat) : (s.finish c st r).time = s.time := (quiet_finish s c st r).time_eq
@[simp] theorem State.raise_time (s : State) (a b c d e : Nat) (t : Time) : (s.raise a b c d e t).time = s.time := (quiet_raise s a b c d e t).time_eq
@[simp] theorem State.health_time (s : State) (a b c d : Nat) (t : Time) : (s.health a b c d t).time = s.time := (quiet_health s a b c d t).time_eq
@[simp] theorem State.drain_time (s : State) : s.drain.time = s.time := (quiet_drain s).time_eq
@[simp] theorem State.finish_freeCtr (s : State) (c : Waiting) (st : BitVec 8) (r : Nat) : (s.finish c st r).freeCtr = s.freeCtr := (quiet_finish s c st r).freeCtr_eq
@[simp] theorem State.raise_freeCtr (s : State) (a b c d e : Nat) (t : Time) : (s.raise a b c d e t).freeCtr = s.freeCtr := (quiet_raise s a b c d e t).freeCtr_eq
@[simp] theorem State.health_freeCtr (s : State) (a b c d : Nat) (t : Time) : (s.health a b c d t).freeCtr = s.freeCtr := (quiet_health s a b c d t).freeCtr_eq
@[simp] theorem State.drain_freeCtr (s : State) : s.drain.freeCtr = s.freeCtr := (quiet_drain s).freeCtr_eq
@[simp] theorem State.finish_pending (s : State) (c : Waiting) (st : BitVec 8) (r : Nat) : (s.finish c st r).pending = s.pending := (quiet_finish s c st r).pending_eq
@[simp] theorem State.raise_pending (s : State) (a b c d e : Nat) (t : Time) : (s.raise a b c d e t).pending = s.pending := (quiet_raise s a b c d e t).pending_eq
@[simp] theorem State.health_pending (s : State) (a b c d : Nat) (t : Time) : (s.health a b c d t).pending = s.pending := (quiet_health s a b c d t).pending_eq
@[simp] theorem State.drain_pending (s : State) : s.drain.pending = s.pending := (quiet_drain s).pending_eq
@[simp] theorem State.finish_fpSteps (s : State) (c : Waiting) (st : BitVec 8) (r : Nat) : (s.finish c st r).fpSteps = s.fpSteps := (quiet_finish s c st r).fpSteps_eq
@[simp] theorem State.raise_fpSteps (s : State) (a b c d e : Nat) (t : Time) : (s.raise a b c d e t).fpSteps = s.fpSteps := (quiet_raise s a b c d e t).fpSteps_eq
@[simp] theorem State.health_fpSteps (s : State) (a b c d : Nat) (t : Time) : (s.health a b c d t).fpSteps = s.fpSteps := (quiet_health s a b c d t).fpSteps_eq
@[simp] theorem State.drain_fpSteps (s : State) : s.drain.fpSteps = s.fpSteps := (quiet_drain s).fpSteps_eq
@[simp] theorem State.finish_fpNewAt (s : State) (c : Waiting) (st : BitVec 8) (r : Nat) : (s.finish c st r).fpNewAt = s.fpNewAt := (quiet_finish s c st r).fpNewAt_eq
@[simp] theorem State.raise_fpNewAt (s : State) (a b c d e : Nat) (t : Time) : (s.raise a b c d e t).fpNewAt = s.fpNewAt := (quiet_raise s a b c d e t).fpNewAt_eq
@[simp] theorem State.health_fpNewAt (s : State) (a b c d : Nat) (t : Time) : (s.health a b c d t).fpNewAt = s.fpNewAt := (quiet_health s a b c d t).fpNewAt_eq
@[simp] theorem State.drain_fpNewAt (s : State) : s.drain.fpNewAt = s.fpNewAt := (quiet_drain s).fpNewAt_eq
@[simp] theorem State.finish_lastFp (s : State) (c : Waiting) (st : BitVec 8) (r : Nat) : (s.finish c st r).lastFp = s.lastFp := (quiet_finish s c st r).lastFp_eq
@[simp] theorem State.raise_lastFp (s : State) (a b c d e : Nat) (t : Time) : (s.raise a b c d e t).lastFp = s.lastFp := (quiet_raise s a b c d e t).lastFp_eq
@[simp] theorem State.health_lastFp (s : State) (a b c d : Nat) (t : Time) : (s.health a b c d t).lastFp = s.lastFp := (quiet_health s a b c d t).lastFp_eq
@[simp] theorem State.drain_lastFp (s : State) : s.drain.lastFp = s.lastFp := (quiet_drain s).lastFp_eq
@[simp] theorem State.finish_lastSp (s : State) (c : Waiting) (st : BitVec 8) (r : Nat) : (s.finish c st r).lastSp = s.lastSp := (quiet_finish s c st r).lastSp_eq
@[simp] theorem State.raise_lastSp (s : State) (a b c d e : Nat) (t : Time) : (s.raise a b c d e t).lastSp = s.lastSp := (quiet_raise s a b c d e t).lastSp_eq
@[simp] theorem State.health_lastSp (s : State) (a b c d : Nat) (t : Time) : (s.health a b c d t).lastSp = s.lastSp := (quiet_health s a b c d t).lastSp_eq
@[simp] theorem State.drain_lastSp (s : State) : s.drain.lastSp = s.lastSp := (quiet_drain s).lastSp_eq
@[simp] theorem State.finish_lastHr (s : State) (c : Waiting) (st : BitVec 8) (r : Nat) : (s.finish c st r).lastHr = s.lastHr := (quiet_finish s c st r).lastHr_eq
@[simp] theorem State.raise_lastHr (s : State) (a b c d e : Nat) (t : Time) : (s.raise a b c d e t).lastHr = s.lastHr := (quiet_raise s a b c d e t).lastHr_eq
@[simp] theorem State.health_lastHr (s : State) (a b c d : Nat) (t : Time) : (s.health a b c d t).lastHr = s.lastHr := (quiet_health s a b c d t).lastHr_eq
@[simp] theorem State.drain_lastHr (s : State) : s.drain.lastHr = s.lastHr := (quiet_drain s).lastHr_eq
@[simp] theorem State.finish_started (s : State) (c : Waiting) (st : BitVec 8) (r : Nat) : (s.finish c st r).started = s.started := (quiet_finish s c st r).started_eq
@[simp] theorem State.raise_started (s : State) (a b c d e : Nat) (t : Time) : (s.raise a b c d e t).started = s.started := (quiet_raise s a b c d e t).started_eq
@[simp] theorem State.health_started (s : State) (a b c d : Nat) (t : Time) : (s.health a b c d t).started = s.started := (quiet_health s a b c d t).started_eq
@[simp] theorem State.drain_started (s : State) : s.drain.started = s.started := (quiet_drain s).started_eq
@[simp] theorem State.finish_nodes (s : State) (c : Waiting) (st : BitVec 8) (r : Nat) : (s.finish c st r).nodes = s.nodes := (quiet_finish s c st r).nodes_eq
@[simp] theorem State.raise_nodes (s : State) (a b c d e : Nat) (t : Time) : (s.raise a b c d e t).nodes = s.nodes := (quiet_raise s a b c d e t).nodes_eq
@[simp] theorem State.health_nodes (s : State) (a b c d : Nat) (t : Time) : (s.health a b c d t).nodes = s.nodes := (quiet_health s a b c d t).nodes_eq
@[simp] theorem State.drain_nodes (s : State) : s.drain.nodes = s.nodes := (quiet_drain s).nodes_eq
@[simp] theorem State.finish_ecc (s : State) (c : Waiting) (st : BitVec 8) (r : Nat) : (s.finish c st r).ecc = s.ecc := (quiet_finish s c st r).ecc_eq
@[simp] theorem State.raise_ecc (s : State) (a b c d e : Nat) (t : Time) : (s.raise a b c d e t).ecc = s.ecc := (quiet_raise s a b c d e t).ecc_eq
@[simp] theorem State.health_ecc (s : State) (a b c d : Nat) (t : Time) : (s.health a b c d t).ecc = s.ecc := (quiet_health s a b c d t).ecc_eq
@[simp] theorem State.drain_ecc (s : State) : s.drain.ecc = s.ecc := (quiet_drain s).ecc_eq
@[simp] theorem State.finish_late (s : State) (c : Waiting) (st : BitVec 8) (r : Nat) : (s.finish c st r).late = s.late := (quiet_finish s c st r).late_eq
@[simp] theorem State.raise_late (s : State) (a b c d e : Nat) (t : Time) : (s.raise a b c d e t).late = s.late := (quiet_raise s a b c d e t).late_eq
@[simp] theorem State.health_late (s : State) (a b c d : Nat) (t : Time) : (s.health a b c d t).late = s.late := (quiet_health s a b c d t).late_eq
@[simp] theorem State.drain_late (s : State) : s.drain.late = s.late := (quiet_drain s).late_eq
@[simp] theorem State.finish_mach (s : State) (c : Waiting) (st : BitVec 8) (r : Nat) : (s.finish c st r).mach = s.mach := (quiet_finish s c st r).mach_eq
@[simp] theorem State.raise_mach (s : State) (a b c d e : Nat) (t : Time) : (s.raise a b c d e t).mach = s.mach := (quiet_raise s a b c d e t).mach_eq
@[simp] theorem State.health_mach (s : State) (a b c d : Nat) (t : Time) : (s.health a b c d t).mach = s.mach := (quiet_health s a b c d t).mach_eq
@[simp] theorem State.drain_mach (s : State) : s.drain.mach = s.mach := (quiet_drain s).mach_eq
@[simp] theorem State.finish_sets (s : State) (c : Waiting) (st : BitVec 8) (r : Nat) : (s.finish c st r).sets = s.sets := (quiet_finish s c st r).sets_eq
@[simp] theorem State.raise_sets (s : State) (a b c d e : Nat) (t : Time) : (s.raise a b c d e t).sets = s.sets := (quiet_raise s a b c d e t).sets_eq
@[simp] theorem State.health_sets (s : State) (a b c d : Nat) (t : Time) : (s.health a b c d t).sets = s.sets := (quiet_health s a b c d t).sets_eq
@[simp] theorem State.drain_sets (s : State) : s.drain.sets = s.sets := (quiet_drain s).sets_eq
@[simp] theorem State.finish_chans (s : State) (c : Waiting) (st : BitVec 8) (r : Nat) : (s.finish c st r).chans = s.chans := (quiet_finish s c st r).chans_eq
@[simp] theorem State.raise_chans (s : State) (a b c d e : Nat) (t : Time) : (s.raise a b c d e t).chans = s.chans := (quiet_raise s a b c d e t).chans_eq
@[simp] theorem State.health_chans (s : State) (a b c d : Nat) (t : Time) : (s.health a b c d t).chans = s.chans := (quiet_health s a b c d t).chans_eq
@[simp] theorem State.drain_chans (s : State) : s.drain.chans = s.chans := (quiet_drain s).chans_eq
@[simp] theorem State.finish_edges (s : State) (c : Waiting) (st : BitVec 8) (r : Nat) : (s.finish c st r).edges = s.edges := (quiet_finish s c st r).edges_eq
@[simp] theorem State.raise_edges (s : State) (a b c d e : Nat) (t : Time) : (s.raise a b c d e t).edges = s.edges := (quiet_raise s a b c d e t).edges_eq
@[simp] theorem State.health_edges (s : State) (a b c d : Nat) (t : Time) : (s.health a b c d t).edges = s.edges := (quiet_health s a b c d t).edges_eq
@[simp] theorem State.drain_edges (s : State) : s.drain.edges = s.edges := (quiet_drain s).edges_eq
@[simp] theorem State.finish_direct (s : State) (c : Waiting) (st : BitVec 8) (r : Nat) : (s.finish c st r).direct = s.direct := (quiet_finish s c st r).direct_eq
@[simp] theorem State.raise_direct (s : State) (a b c d e : Nat) (t : Time) : (s.raise a b c d e t).direct = s.direct := (quiet_raise s a b c d e t).direct_eq
@[simp] theorem State.health_direct (s : State) (a b c d : Nat) (t : Time) : (s.health a b c d t).direct = s.direct := (quiet_health s a b c d t).direct_eq
@[simp] theorem State.drain_direct (s : State) : s.drain.direct = s.direct := (quiet_drain s).direct_eq
@[simp] theorem State.finish_chops (s : State) (c : Waiting) (st : BitVec 8) (r : Nat) : (s.finish c st r).chops = s.chops := (quiet_finish s c st r).chops_eq
@[simp] theorem State.raise_chops (s : State) (a b c d e : Nat) (t : Time) : (s.raise a b c d e t).chops = s.chops := (quiet_raise s a b c d e t).chops_eq
@[simp] theorem State.health_chops (s : State) (a b c d : Nat) (t : Time) : (s.health a b c d t).chops = s.chops := (quiet_health s a b c d t).chops_eq
@[simp] theorem State.drain_chops (s : State) : s.drain.chops = s.chops := (quiet_drain s).chops_eq
@[simp] theorem State.finish_acq (s : State) (c : Waiting) (st : BitVec 8) (r : Nat) : (s.finish c st r).acq = s.acq := (quiet_finish s c st r).acq_eq
@[simp] theorem State.raise_acq (s : State) (a b c d e : Nat) (t : Time) : (s.raise a b c d e t).acq = s.acq := (quiet_raise s a b c d e t).acq_eq
@[simp] theorem State.health_acq (s : State) (a b c d : Nat) (t : Time) : (s.health a b c d t).acq = s.acq := (quiet_health s a b c d t).acq_eq
@[simp] theorem State.drain_acq (s : State) : s.drain.acq = s.acq := (quiet_drain s).acq_eq
@[simp] theorem State.finish_winOut (s : State) (c : Waiting) (st : BitVec 8) (r : Nat) : (s.finish c st r).winOut = s.winOut := (quiet_finish s c st r).winOut_eq
@[simp] theorem State.raise_winOut (s : State) (a b c d e : Nat) (t : Time) : (s.raise a b c d e t).winOut = s.winOut := (quiet_raise s a b c d e t).winOut_eq
@[simp] theorem State.health_winOut (s : State) (a b c d : Nat) (t : Time) : (s.health a b c d t).winOut = s.winOut := (quiet_health s a b c d t).winOut_eq
@[simp] theorem State.drain_winOut (s : State) : s.drain.winOut = s.winOut := (quiet_drain s).winOut_eq
@[simp] theorem State.finish_flt (s : State) (c : Waiting) (st : BitVec 8) (r : Nat) : (s.finish c st r).flt = s.flt := (quiet_finish s c st r).flt_eq
@[simp] theorem State.raise_flt (s : State) (a b c d e : Nat) (t : Time) : (s.raise a b c d e t).flt = s.flt := (quiet_raise s a b c d e t).flt_eq
@[simp] theorem State.health_flt (s : State) (a b c d : Nat) (t : Time) : (s.health a b c d t).flt = s.flt := (quiet_health s a b c d t).flt_eq
@[simp] theorem State.drain_flt (s : State) : s.drain.flt = s.flt := (quiet_drain s).flt_eq
@[simp] theorem State.finish_estop (s : State) (c : Waiting) (st : BitVec 8) (r : Nat) : (s.finish c st r).estop = s.estop := (quiet_finish s c st r).estop_eq
@[simp] theorem State.raise_estop (s : State) (a b c d e : Nat) (t : Time) : (s.raise a b c d e t).estop = s.estop := (quiet_raise s a b c d e t).estop_eq
@[simp] theorem State.health_estop (s : State) (a b c d : Nat) (t : Time) : (s.health a b c d t).estop = s.estop := (quiet_health s a b c d t).estop_eq
@[simp] theorem State.drain_estop (s : State) : s.drain.estop = s.estop := (quiet_drain s).estop_eq
@[simp] theorem State.finish_thm (s : State) (c : Waiting) (st : BitVec 8) (r : Nat) : (s.finish c st r).thm = s.thm := (quiet_finish s c st r).thm_eq
@[simp] theorem State.raise_thm (s : State) (a b c d e : Nat) (t : Time) : (s.raise a b c d e t).thm = s.thm := (quiet_raise s a b c d e t).thm_eq
@[simp] theorem State.health_thm (s : State) (a b c d : Nat) (t : Time) : (s.health a b c d t).thm = s.thm := (quiet_health s a b c d t).thm_eq
@[simp] theorem State.drain_thm (s : State) : s.drain.thm = s.thm := (quiet_drain s).thm_eq
@[simp] theorem State.finish_otp (s : State) (c : Waiting) (st : BitVec 8) (r : Nat) : (s.finish c st r).otp = s.otp := (quiet_finish s c st r).otp_eq
@[simp] theorem State.raise_otp (s : State) (a b c d e : Nat) (t : Time) : (s.raise a b c d e t).otp = s.otp := (quiet_raise s a b c d e t).otp_eq
@[simp] theorem State.health_otp (s : State) (a b c d : Nat) (t : Time) : (s.health a b c d t).otp = s.otp := (quiet_health s a b c d t).otp_eq
@[simp] theorem State.drain_otp (s : State) : s.drain.otp = s.otp := (quiet_drain s).otp_eq
@[simp] theorem State.finish_msr (s : State) (c : Waiting) (st : BitVec 8) (r : Nat) : (s.finish c st r).msr = s.msr := (quiet_finish s c st r).msr_eq
@[simp] theorem State.raise_msr (s : State) (a b c d e : Nat) (t : Time) : (s.raise a b c d e t).msr = s.msr := (quiet_raise s a b c d e t).msr_eq
@[simp] theorem State.health_msr (s : State) (a b c d : Nat) (t : Time) : (s.health a b c d t).msr = s.msr := (quiet_health s a b c d t).msr_eq
@[simp] theorem State.drain_msr (s : State) : s.drain.msr = s.msr := (quiet_drain s).msr_eq
@[simp] theorem State.finish_pcr (s : State) (c : Waiting) (st : BitVec 8) (r : Nat) : (s.finish c st r).pcr = s.pcr := (quiet_finish s c st r).pcr_eq
@[simp] theorem State.raise_pcr (s : State) (a b c d e : Nat) (t : Time) : (s.raise a b c d e t).pcr = s.pcr := (quiet_raise s a b c d e t).pcr_eq
@[simp] theorem State.health_pcr (s : State) (a b c d : Nat) (t : Time) : (s.health a b c d t).pcr = s.pcr := (quiet_health s a b c d t).pcr_eq
@[simp] theorem State.drain_pcr (s : State) : s.drain.pcr = s.pcr := (quiet_drain s).pcr_eq
@[simp] theorem State.finish_lts (s : State) (c : Waiting) (st : BitVec 8) (r : Nat) : (s.finish c st r).lts = s.lts := (quiet_finish s c st r).lts_eq
@[simp] theorem State.raise_lts (s : State) (a b c d e : Nat) (t : Time) : (s.raise a b c d e t).lts = s.lts := (quiet_raise s a b c d e t).lts_eq
@[simp] theorem State.health_lts (s : State) (a b c d : Nat) (t : Time) : (s.health a b c d t).lts = s.lts := (quiet_health s a b c d t).lts_eq
@[simp] theorem State.drain_lts (s : State) : s.drain.lts = s.lts := (quiet_drain s).lts_eq
@[simp] theorem State.finish_ypl (s : State) (c : Waiting) (st : BitVec 8) (r : Nat) : (s.finish c st r).ypl = s.ypl := (quiet_finish s c st r).ypl_eq
@[simp] theorem State.raise_ypl (s : State) (a b c d e : Nat) (t : Time) : (s.raise a b c d e t).ypl = s.ypl := (quiet_raise s a b c d e t).ypl_eq
@[simp] theorem State.health_ypl (s : State) (a b c d : Nat) (t : Time) : (s.health a b c d t).ypl = s.ypl := (quiet_health s a b c d t).ypl_eq
@[simp] theorem State.drain_ypl (s : State) : s.drain.ypl = s.ypl := (quiet_drain s).ypl_eq
@[simp] theorem State.finish_svc (s : State) (c : Waiting) (st : BitVec 8) (r : Nat) : (s.finish c st r).svc = s.svc := (quiet_finish s c st r).svc_eq
@[simp] theorem State.raise_svc (s : State) (a b c d e : Nat) (t : Time) : (s.raise a b c d e t).svc = s.svc := (quiet_raise s a b c d e t).svc_eq
@[simp] theorem State.health_svc (s : State) (a b c d : Nat) (t : Time) : (s.health a b c d t).svc = s.svc := (quiet_health s a b c d t).svc_eq
@[simp] theorem State.drain_svc (s : State) : s.drain.svc = s.svc := (quiet_drain s).svc_eq
@[simp] theorem State.finish_waiting (s : State) (c : Waiting) (st : BitVec 8) (r : Nat) : (s.finish c st r).host.waiting = s.host.waiting := (quiet_finish s c st r).host_waiting
@[simp] theorem State.raise_waiting (s : State) (a b c d e : Nat) (t : Time) : (s.raise a b c d e t).host.waiting = s.host.waiting := (quiet_raise s a b c d e t).host_waiting
@[simp] theorem State.finish_lops (s : State) (c : Waiting) (st : BitVec 8) (r : Nat) : (s.finish c st r).host.lops = s.host.lops := (quiet_finish s c st r).host_lops
@[simp] theorem State.raise_lops (s : State) (a b c d e : Nat) (t : Time) : (s.raise a b c d e t).host.lops = s.host.lops := (quiet_raise s a b c d e t).host_lops
@[simp] theorem State.finish_fences (s : State) (c : Waiting) (st : BitVec 8) (r : Nat) : (s.finish c st r).host.fences = s.host.fences := (quiet_finish s c st r).host_fences
@[simp] theorem State.raise_fences (s : State) (a b c d e : Nat) (t : Time) : (s.raise a b c d e t).host.fences = s.host.fences := (quiet_raise s a b c d e t).host_fences

theorem alGet_alPut_ne {α : Type} [DecidableEq α] (d : α) (l : List (Nat × α)) (a b : Nat) (x : α) (hl : alRising l = true) (h : b ≠ a) :
    alGet (alPut d l a x) b = alGet l b := by
  unfold alPut; split
  · rw [alGet_alDel l a b hl, if_neg h]
  · rw [alGet_alSet, if_neg h]

/-! ### Beginning a command -/

/-- A command that may begin, whose quad passes the checks, runs its body on the state with the command taken. -/
theorem runCmd_begins {s : State} {q : CmdQ} (opc : BitVec 8) (ok : Bool) (body : State → Waiting → State) (hc : s.canBegin q.ring = true)
    (hr : q.role ≠ 3) (hm : s.roleMatches q.role = true) (h9 : q.rsv9 = false) (h12 : q.rsv12 = 0) (h : ok = true) :
    s.runCmd q opc ok body = .next (body (s.takeCmd q.ring) (s.ctx q opc)) := by
  have hm' : (s.takeCmd q.ring).roleMatches q.role = true := hm
  subst h
  unfold State.runCmd
  rw [if_pos hc]; dsimp only
  rw [if_neg (by simpa using hr), if_neg (by simp [hm']), if_neg (by simp [h9, h12])]

/-- A command that may not begin leaves the state as it is. -/
theorem runCmd_waits {s : State} {q : CmdQ} (opc : BitVec 8) (ok : Bool) (body : State → Waiting → State) (hc : s.canBegin q.ring = false) :
    s.runCmd q opc ok body = .next s := by
  unfold State.runCmd; rw [hc]; rfl

end Sys2Proof.Machine
end

