-- ==== Sys2Proof/Laws/KeepsTrace.lean ====
section
/-! SUPPORT. Laws/KeepsTrace.lean: what each operation of Trace.lean keeps. -/
namespace Sys2Proof.Machine

set_option linter.all false

theorem keeps_tqWrite {kb : Bool} {k0 : State} (c : Fin 16) (l : List TQuad) (s : State) (hk : Keeps kb k0 s) :
    Keeps kb k0 (State.tqWrite c l s) := by
  induction l generalizing s with
  | nil => unfold State.tqWrite; exact keeps_modSilo _ _ _ hk
  | cons q l ih =>
    unfold State.tqWrite; split
    · exact ih _ (keeps_modSilo _ _ _ (keeps_ringPut _ _ _ _ _ _ hk))
    · exact keeps_modSilo _ _ _ hk

theorem keeps_tqRing {kb : Bool} {k0 : State} (s : State) (q : Fin 4) (hk : Keeps kb k0 s) :
    Keeps kb k0 (State.tqRing s q) := by
  unfold State.tqRing; try dsimp only
  repeat' first | intro _ | with_reducible assumption | with_reducible apply keeps_ite | with_reducible apply keeps_forFin | with_reducible apply keeps_tqWrite | with_reducible apply keeps_forFin | with_reducible apply keeps_forFinPair | split | fail_if_no_progress (with_reducible apply keeps_mk <;> first | with_reducible exact rfl | with_reducible exact fun h => h | skip) | exact Nat.zero_le _ | dsimp only

theorem keeps_siloPush {kb : Bool} {k0 : State} (s : State) (c : Fin 16) (rs : List Rec) (hk : Keeps kb k0 s) :
    Keeps kb k0 (State.siloPush s c rs) := by
  unfold State.siloPush; try dsimp only
  repeat' first | intro _ | with_reducible assumption | with_reducible apply keeps_ite | with_reducible apply keeps_modSilo | with_reducible apply keeps_rcount | with_reducible apply keeps_raise | split | fail_if_no_progress (with_reducible apply keeps_mk <;> first | with_reducible exact rfl | with_reducible exact fun h => h | skip) | exact Nat.zero_le _ | dsimp only

theorem keeps_siloShut {kb : Bool} {k0 : State} (s : State) (c : Fin 16) (hk : Keeps kb k0 s) :
    Keeps kb k0 (State.siloShut s c) := by
  unfold State.siloShut; try dsimp only
  repeat' first | intro _ | with_reducible assumption | with_reducible apply keeps_ite | with_reducible apply keeps_modSilo | with_reducible apply keeps_siloPush | split | fail_if_no_progress (with_reducible apply keeps_mk <;> first | with_reducible exact rfl | with_reducible exact fun h => h | skip) | exact Nat.zero_le _ | dsimp only

theorem keeps_siloClose {kb : Bool} {k0 : State} (s : State) (c : Fin 16) (hk : Keeps kb k0 s) :
    Keeps kb k0 (State.siloClose s c) := by
  unfold State.siloClose; try dsimp only
  repeat' first | intro _ | with_reducible assumption | with_reducible apply keeps_ite | with_reducible apply keeps_tqWrite | with_reducible apply keeps_siloShut | split | fail_if_no_progress (with_reducible apply keeps_mk <;> first | with_reducible exact rfl | with_reducible exact fun h => h | skip) | exact Nat.zero_le _ | dsimp only

theorem keeps_siloRing {kb : Bool} {k0 : State} (s : State) (c : Fin 16) (r : Rec) (hk : Keeps kb k0 s) :
    Keeps kb k0 (State.siloRing s c r) := by
  unfold State.siloRing; try dsimp only
  repeat' first | intro _ | with_reducible assumption | with_reducible apply keeps_ite | with_reducible apply keeps_cut | with_reducible apply keeps_siloClose | with_reducible apply keeps_modSilo | split | fail_if_no_progress (with_reducible apply keeps_mk <;> first | with_reducible exact rfl | with_reducible exact fun h => h | skip) | exact Nat.zero_le _ | dsimp only

theorem keeps_siloShot {kb : Bool} {k0 : State} (s : State) (c : Fin 16) (r : Rec) (hk : Keeps kb k0 s) :
    Keeps kb k0 (State.siloShot s c r) := by
  unfold State.siloShot; try dsimp only
  repeat' first | intro _ | with_reducible assumption | with_reducible apply keeps_ite | with_reducible apply keeps_modSilo | split | fail_if_no_progress (with_reducible apply keeps_mk <;> first | with_reducible exact rfl | with_reducible exact fun h => h | skip) | exact Nat.zero_le _ | dsimp only

theorem keeps_siloRec {kb : Bool} {k0 : State} (s : State) (c : Fin 16) (r : Rec) (hk : Keeps kb k0 s) :
    Keeps kb k0 (State.siloRec s c r) := by
  unfold State.siloRec; try dsimp only
  repeat' first | intro _ | with_reducible assumption | with_reducible apply keeps_ite | with_reducible apply keeps_modSilo | with_reducible apply keeps_siloRing | with_reducible apply keeps_siloShot | split | fail_if_no_progress (with_reducible apply keeps_mk <;> first | with_reducible exact rfl | with_reducible exact fun h => h | skip) | exact Nat.zero_le _ | dsimp only

theorem keeps_siloSample {kb : Bool} {k0 : State} (s : State) (chan : Nat) (t : Time) (code : Int) (flags : BitVec 5) (hk : Keeps kb k0 s) :
    Keeps kb k0 (State.siloSample s chan t code flags) := by
  unfold State.siloSample; try dsimp only
  repeat' first | intro _ | with_reducible assumption | with_reducible apply keeps_ite | with_reducible apply keeps_forFin | with_reducible apply keeps_siloRec | with_reducible apply keeps_forFin | with_reducible apply keeps_forFinPair | split | fail_if_no_progress (with_reducible apply keeps_mk <;> first | with_reducible exact rfl | with_reducible exact fun h => h | skip) | exact Nat.zero_le _ | dsimp only

theorem keeps_traceMarks {kb : Bool} {k0 : State} (s : State) (n : Fin 16) (hk : Keeps kb k0 s) :
    Keeps kb k0 (State.traceMarks s n) := by
  unfold State.traceMarks; try dsimp only
  repeat' first | intro _ | with_reducible assumption | with_reducible apply keeps_ite | with_reducible apply keeps_forFin | with_reducible apply keeps_siloClose | with_reducible apply keeps_ringPut | with_reducible apply keeps_tqRing | with_reducible apply keeps_forFin | with_reducible apply keeps_forFinPair | split | fail_if_no_progress (with_reducible apply keeps_mk <;> first | with_reducible exact rfl | with_reducible exact fun h => h | skip) | exact Nat.zero_le _ | dsimp only

theorem keeps_allTraceMarks {kb : Bool} {k0 : State} (s : State) (hk : Keeps kb k0 s) :
    Keeps kb k0 (State.allTraceMarks s) := by
  unfold State.allTraceMarks; try dsimp only
  repeat' first | intro _ | with_reducible assumption | with_reducible apply keeps_ite | with_reducible apply keeps_forFin | with_reducible apply keeps_traceMarks | with_reducible apply keeps_forFin | with_reducible apply keeps_forFinPair | split | fail_if_no_progress (with_reducible apply keeps_mk <;> first | with_reducible exact rfl | with_reducible exact fun h => h | skip) | exact Nat.zero_le _ | dsimp only

end Sys2Proof.Machine
end

