-- ==== Sys2Proof/Laws/KeepsSupervise.lean ====
section
/-! SUPPORT. Laws/KeepsSupervise.lean: what each operation of Supervise.lean keeps. -/
namespace Sys2Proof.Machine

set_option linter.all false

theorem keeps_discardRev {kb : Bool} {k0 : State} (s : State) (m : Fin 2) (t : Time) (hk : Keeps kb k0 s) :
    Keeps kb k0 (State.discardRev s m t) := by
  unfold State.discardRev; try dsimp only
  repeat' first | intro _ | with_reducible assumption | with_reducible apply keeps_ite | with_reducible apply keeps_modMach | with_reducible apply keeps_raise | split | fail_if_no_progress (with_reducible apply keeps_mk <;> first | with_reducible exact rfl | with_reducible exact fun h => h | skip) | exact Nat.zero_le _ | dsimp only

theorem keeps_endObs {kb : Bool} {k0 : State} (s : State) (m : Fin 2) (hk : Keeps kb k0 s) :
    Keeps kb k0 (State.endObs s m) := by
  unfold State.endObs; try dsimp only
  repeat' first | intro _ | with_reducible assumption | with_reducible apply keeps_ite | with_reducible apply keeps_forFin | with_reducible apply keeps_modSet | with_reducible apply keeps_reset | with_reducible apply keeps_forFin | with_reducible apply keeps_forFinPair | split | fail_if_no_progress (with_reducible apply keeps_mk <;> first | with_reducible exact rfl | with_reducible exact fun h => h | skip) | exact Nat.zero_le _ | dsimp only

theorem keeps_idleMach {kb : Bool} {k0 : State} (s : State) (m : Fin 2) (hk : Keeps kb k0 s) :
    Keeps kb k0 (State.idleMach s m) := by
  unfold State.idleMach; try dsimp only
  repeat' first | intro _ | with_reducible assumption | with_reducible apply keeps_ite | with_reducible apply keeps_endObs | with_reducible apply keeps_modMach | split | fail_if_no_progress (with_reducible apply keeps_mk <;> first | with_reducible exact rfl | with_reducible exact fun h => h | skip) | exact Nat.zero_le _ | dsimp only

theorem keeps_offMach {kb : Bool} {k0 : State} (s : State) (m : Fin 2) (t : Time) (hk : Keeps kb k0 s) :
    Keeps kb k0 (State.offMach s m t) := by
  unfold State.offMach; try dsimp only
  repeat' first | intro _ | with_reducible assumption | with_reducible apply keeps_ite | with_reducible apply keeps_forFin | with_reducible apply keeps_offSet | with_reducible apply keeps_forFin | with_reducible apply keeps_forFinPair | split | fail_if_no_progress (with_reducible apply keeps_mk <;> first | with_reducible exact rfl | with_reducible exact fun h => h | skip) | exact Nat.zero_le _ | dsimp only

theorem keeps_pinsSafe {kb : Bool} {k0 : State} (s : State) (w : Fin 8) (t : Time) (hk : Keeps kb k0 s) :
    Keeps kb k0 (State.pinsSafe s w t) := by
  unfold State.pinsSafe; try dsimp only
  repeat' first | intro _ | with_reducible assumption | with_reducible apply keeps_ite | with_reducible apply keeps_ascPattern | with_reducible apply keeps_releaseGroup | with_reducible apply keeps_modGroup | split | fail_if_no_progress (with_reducible apply keeps_mk <;> first | with_reducible exact rfl | with_reducible exact fun h => h | skip) | exact Nat.zero_le _ | dsimp only

theorem keeps_enterSafe {kb : Bool} {k0 : State} (s : State) (m : Fin 2) (k : SafeKind) (hk : Keeps kb k0 s) :
    Keeps kb k0 (State.enterSafe s m k) := by
  unfold State.enterSafe; try dsimp only
  repeat' first | intro _ | with_reducible assumption | with_reducible apply keeps_ite | with_reducible apply keeps_idleMach | with_reducible apply keeps_forFin | with_reducible apply keeps_quitSet | with_reducible apply keeps_modSet | with_reducible apply keeps_reset | with_reducible apply keeps_modMach | with_reducible apply keeps_pinsSafe | with_reducible apply keeps_retrip | with_reducible apply keeps_forFin | with_reducible apply keeps_forFinPair | split | fail_if_no_progress (with_reducible apply keeps_mk <;> first | with_reducible exact rfl | with_reducible exact fun h => h | skip) | exact Nat.zero_le _ | dsimp only

theorem keeps_machSafe {kb : Bool} {k0 : State} (s : State) (m : Fin 2) (ask cause : Nat) (fix : Bool) (t : Time) (hk : Keeps kb k0 s) :
    Keeps kb k0 (State.machSafe s m ask cause fix t) := by
  unfold State.machSafe; try dsimp only
  repeat' first | intro _ | with_reducible assumption | with_reducible apply keeps_ite | with_reducible apply keeps_discardRev | with_reducible apply keeps_enterSafe | with_reducible apply keeps_modMach | with_reducible apply keeps_raise | split | fail_if_no_progress (with_reducible apply keeps_mk <;> first | with_reducible exact rfl | with_reducible exact fun h => h | skip) | exact Nat.zero_le _ | dsimp only

theorem keeps_takeSetSafe {kb : Bool} {k0 : State} (s : State) (w : Fin 8) (cause : Nat) (t : Time) (hk : Keeps kb k0 s) :
    Keeps kb k0 (State.takeSetSafe s w cause t) := by
  unfold State.takeSetSafe; try dsimp only
  repeat' first | intro _ | with_reducible assumption | with_reducible apply keeps_ite | with_reducible apply keeps_quitSet | with_reducible apply keeps_modSet | with_reducible apply keeps_pinsSafe | with_reducible apply keeps_raise | split | fail_if_no_progress (with_reducible apply keeps_mk <;> first | with_reducible exact rfl | with_reducible exact fun h => h | skip) | exact Nat.zero_le _ | dsimp only

theorem keeps_applyReq {kb : Bool} {k0 : State} (s : State) (r : SafeReq) (t : Time) (hk : Keeps kb k0 s) :
    Keeps kb k0 (State.applyReq s r t) := by
  unfold State.applyReq; try dsimp only
  repeat' first | intro _ | with_reducible assumption | with_reducible apply keeps_ite | with_reducible apply keeps_takeSetSafe | with_reducible apply keeps_machSafe | split | fail_if_no_progress (with_reducible apply keeps_mk <;> first | with_reducible exact rfl | with_reducible exact fun h => h | skip) | exact Nat.zero_le _ | dsimp only

theorem keeps_applyReqs {kb : Bool} {k0 : State} (s : State) (t : Time) (hk : Keeps kb k0 s) :
    Keeps kb k0 (State.applyReqs s t) := by
  unfold State.applyReqs; try dsimp only
  repeat' first | intro _ | with_reducible assumption | with_reducible apply keeps_ite | with_reducible apply keeps_applyReq | with_reducible apply keeps_foldl | with_reducible apply keeps_foldPair | split | fail_if_no_progress (with_reducible apply keeps_mk <;> first | with_reducible exact rfl | with_reducible exact fun h => h | skip) | exact Nat.zero_le _ | dsimp only

theorem keeps_mbrk {kb : Bool} {k0 : State} (s : State) (b : Bool) (hk : Keeps kb k0 s) :
    Keeps kb k0 (State.mbrk s b) := by
  unfold State.mbrk; try dsimp only
  repeat' first | intro _ | with_reducible assumption | with_reducible apply keeps_ite | split | fail_if_no_progress (with_reducible apply keeps_mk <;> first | with_reducible exact rfl | with_reducible exact fun h => h | skip) | exact Nat.zero_le _ | dsimp only

theorem keeps_newEpoch {kb : Bool} {k0 : State} (s : State) (e : Word) (hk : Keeps kb k0 s) :
    Keeps kb k0 (State.newEpoch s e) := by
  unfold State.newEpoch; try dsimp only
  repeat' first | intro _ | with_reducible assumption | with_reducible apply keeps_ite | split | fail_if_no_progress (with_reducible apply keeps_mk <;> first | with_reducible exact rfl | with_reducible exact fun h => h | skip) | exact Nat.zero_le _ | dsimp only

theorem keeps_sendFrame {kb : Bool} {k0 : State} (s : State) (type : Nat) (payload : List Quad) (hk : Keeps kb k0 s) :
    Keeps kb k0 (State.sendFrame s type payload) := by
  unfold State.sendFrame; try dsimp only
  repeat' first | intro _ | with_reducible assumption | with_reducible apply keeps_ite | split | fail_if_no_progress (with_reducible apply keeps_mk <;> first | with_reducible exact rfl | with_reducible exact fun h => h | skip) | exact Nat.zero_le _ | dsimp only

theorem keeps_sendSlow {kb : Bool} {k0 : State} (s : State) (type : Nat) (payload : List Quad) (hk : Keeps kb k0 s) :
    Keeps kb k0 (State.sendSlow s type payload) := by
  unfold State.sendSlow; try dsimp only
  repeat' first | intro _ | with_reducible assumption | with_reducible apply keeps_ite | with_reducible apply keeps_sendFrame | split | fail_if_no_progress (with_reducible apply keeps_mk <;> first | with_reducible exact rfl | with_reducible exact fun h => h | skip) | exact Nat.zero_le _ | dsimp only

theorem keeps_endHandover {kb : Bool} {k0 : State} (s : State) (hk : Keeps kb k0 s) :
    Keeps kb k0 (State.endHandover s) := by
  unfold State.endHandover; try dsimp only
  repeat' first | intro _ | with_reducible assumption | with_reducible apply keeps_ite | split | fail_if_no_progress (with_reducible apply keeps_mk <;> first | with_reducible exact rfl | with_reducible exact fun h => h | skip) | exact Nat.zero_le _ | dsimp only

theorem keeps_dropHandover {kb : Bool} {k0 : State} (s : State) (st : BitVec 8) (res : Nat) (hk : Keeps kb k0 s) :
    Keeps kb k0 (State.dropHandover s st res) := by
  unfold State.dropHandover; try dsimp only
  repeat' first | intro _ | with_reducible assumption | with_reducible apply keeps_ite | with_reducible apply keeps_endHandover | with_reducible apply keeps_finishW | split | fail_if_no_progress (with_reducible apply keeps_mk <;> first | with_reducible exact rfl | with_reducible exact fun h => h | skip) | exact Nat.zero_le _ | dsimp only

theorem keeps_localSafe {kb : Bool} {k0 : State} (s : State) (t : Time) (hk : Keeps kb k0 s) :
    Keeps kb k0 (State.localSafe s t) := by
  unfold State.localSafe; try dsimp only
  repeat' first | intro _ | with_reducible assumption | with_reducible apply keeps_ite | with_reducible apply keeps_modMach | with_reducible apply keeps_machSafe | with_reducible apply keeps_foldl | with_reducible apply keeps_foldPair | split | fail_if_no_progress (with_reducible apply keeps_mk <;> first | with_reducible exact rfl | with_reducible exact fun h => h | skip) | exact Nat.zero_le _ | dsimp only

theorem keeps_becomeOwner {kb : Bool} {k0 : State} (s : State) (role : Role) (e : Word) (t : Time) (hk : Keeps kb k0 s) :
    Keeps kb k0 (State.becomeOwner s role e t) := by
  unfold State.becomeOwner; try dsimp only
  repeat' first | intro _ | with_reducible assumption | with_reducible apply keeps_ite | with_reducible apply keeps_newEpoch | with_reducible apply keeps_localSafe | with_reducible apply keeps_retrip | split | fail_if_no_progress (with_reducible apply keeps_mk <;> first | with_reducible exact rfl | with_reducible exact fun h => h | skip) | exact Nat.zero_le _ | dsimp only

theorem keeps_soloAlone {kb : Bool} {k0 : State} (s : State) (t : Time) (hk : Keeps kb k0 s) :
    Keeps kb k0 (State.soloAlone s t) := by
  unfold State.soloAlone; try dsimp only
  repeat' first | intro _ | with_reducible assumption | with_reducible apply keeps_ite | with_reducible apply keeps_becomeOwner | split | fail_if_no_progress (with_reducible apply keeps_mk <;> first | with_reducible exact rfl | with_reducible exact fun h => h | skip) | exact Nat.zero_le _ | dsimp only

theorem keeps_roleAborts {kb : Bool} {k0 : State} (s : State) (hk : Keeps kb k0 s) :
    Keeps kb k0 (State.roleAborts s) := by
  unfold State.roleAborts; try dsimp only
  repeat' first | intro _ | with_reducible assumption | with_reducible apply keeps_ite | with_reducible apply keeps_finishW | with_reducible apply keeps_foldl | with_reducible apply keeps_foldPair | split | fail_if_no_progress (with_reducible apply keeps_mk <;> first | with_reducible exact rfl | with_reducible exact fun h => h | skip) | exact Nat.zero_le _ | dsimp only

theorem keeps_leaveDrive {kb : Bool} {k0 : State} (s : State) (role : Role) (t : Time) (hk : Keeps kb k0 s) :
    Keeps kb k0 (State.leaveDrive s role t) := by
  unfold State.leaveDrive; try dsimp only
  repeat' first | intro _ | with_reducible assumption | with_reducible apply keeps_ite | with_reducible apply keeps_abortLops | with_reducible apply keeps_roleAborts | with_reducible apply keeps_dropHandover | with_reducible apply keeps_forFin | with_reducible apply keeps_offMach | with_reducible apply keeps_idleMach | with_reducible apply keeps_modGroup | with_reducible apply keeps_releaseAll | with_reducible apply keeps_forFin | with_reducible apply keeps_forFinPair | split | fail_if_no_progress (with_reducible apply keeps_mk <;> first | with_reducible exact rfl | with_reducible exact fun h => h | skip) | exact Nat.zero_le _ | dsimp only

theorem keeps_depose {kb : Bool} {k0 : State} (s : State) (cause : Nat) (t : Time) (hk : Keeps kb k0 s) :
    Keeps kb k0 (State.depose s cause t) := by
  unfold State.depose; try dsimp only
  repeat' first | intro _ | with_reducible assumption | with_reducible apply keeps_ite | with_reducible apply keeps_leaveDrive | with_reducible apply keeps_raise | split | fail_if_no_progress (with_reducible apply keeps_mk <;> first | with_reducible exact rfl | with_reducible exact fun h => h | skip) | exact Nat.zero_le _ | dsimp only

theorem keeps_yield238 {kb : Bool} {k0 : State} (s : State) (f5 : Bool) (t : Time) (hk : Keeps kb k0 s) :
    Keeps kb k0 (State.yield238 s f5 t) := by
  unfold State.yield238; try dsimp only
  repeat' first | intro _ | with_reducible assumption | with_reducible apply keeps_ite | with_reducible apply keeps_sendFrame | with_reducible apply keeps_releaseAll | with_reducible apply keeps_mbrk | with_reducible apply keeps_depose | split | fail_if_no_progress (with_reducible apply keeps_mk <;> first | with_reducible exact rfl | with_reducible exact fun h => h | skip) | exact Nat.zero_le _ | dsimp only

theorem keeps_reactF5 {kb : Bool} {k0 : State} (s : State) (cause : Nat) (t : Time) (hk : Keeps kb k0 s) :
    Keeps kb k0 (State.reactF5 s cause t) := by
  unfold State.reactF5; try dsimp only
  repeat' first | intro _ | with_reducible assumption | with_reducible apply keeps_ite | with_reducible apply keeps_yield238 | with_reducible apply keeps_modMach | with_reducible apply keeps_machSafe | with_reducible apply keeps_mbrk | with_reducible apply keeps_foldl | with_reducible apply keeps_foldPair | split | fail_if_no_progress (with_reducible apply keeps_mk <;> first | with_reducible exact rfl | with_reducible exact fun h => h | skip) | exact Nat.zero_le _ | dsimp only

theorem keepsO_execSafeState {kb : Bool} {k0 : State} (q : CmdQ) (s : State) (hk : Keeps kb k0 s) :
    KeepsO kb k0 (execSafeState q s) := by
  unfold execSafeState; try dsimp only
  repeat' first | intro _ | with_reducible assumption | with_reducible apply keepsO_ite | with_reducible apply keepsO_next | with_reducible apply keeps_ite | with_reducible apply keepsO_runCmd | with_reducible apply keeps_awaitAt | split | fail_if_no_progress (with_reducible apply keeps_mk <;> first | with_reducible exact rfl | with_reducible exact fun h => h | skip) | exact Nat.zero_le _ | dsimp only

theorem keeps_safeCmd {kb : Bool} {k0 : State} (s : State) (mask ask : Nat) (svc : Bool) (t : Time) (hk : Keeps kb k0 s) :
    Keeps kb k0 (State.safeCmd s mask ask svc t) := by
  unfold State.safeCmd; try dsimp only
  repeat' first | intro _ | with_reducible assumption | with_reducible apply keeps_ite | with_reducible apply keeps_raise | with_reducible apply keeps_modMach | with_reducible apply keeps_machSafe | with_reducible apply keeps_discardRev | with_reducible apply keeps_foldl | with_reducible apply keeps_foldPair | split | fail_if_no_progress (with_reducible apply keeps_mk <;> first | with_reducible exact rfl | with_reducible exact fun h => h | skip) | exact Nat.zero_le _ | dsimp only

theorem keeps_askSafe {kb : Bool} {k0 : State} (s : State) (mask ask : Nat) (t : Time) (hk : Keeps kb k0 s) :
    Keeps kb k0 (State.askSafe s mask ask t) := by
  unfold State.askSafe; try dsimp only
  repeat' first | intro _ | with_reducible assumption | with_reducible apply keeps_ite | split | fail_if_no_progress (with_reducible apply keeps_mk <;> first | with_reducible exact rfl | with_reducible exact fun h => h | skip) | exact Nat.zero_le _ | dsimp only

theorem keeps_applySafes {kb : Bool} {k0 : State} (s : State) (t : Time) (hk : Keeps kb k0 s) :
    Keeps kb k0 (State.applySafes s t) := by
  unfold State.applySafes; try dsimp only
  repeat' first | intro _ | with_reducible assumption | with_reducible apply keeps_ite | with_reducible apply keeps_safeCmd | with_reducible apply keeps_foldl | with_reducible apply keeps_foldPair | split | fail_if_no_progress (with_reducible apply keeps_mk <;> first | with_reducible exact rfl | with_reducible exact fun h => h | skip) | exact Nat.zero_le _ | dsimp only

theorem keepsO_execSafeApplied {kb : Bool} {k0 : State} (s : State) (hk : Keeps kb k0 s) :
    KeepsO kb k0 (execSafeApplied s) := by
  unfold execSafeApplied; try dsimp only
  repeat' first | intro _ | with_reducible assumption | with_reducible apply keepsO_ite | with_reducible apply keepsO_next | with_reducible apply keeps_ite | with_reducible apply keeps_adv | with_reducible apply keeps_applyReqs | with_reducible apply keeps_applySafes | with_reducible apply keeps_safeCmd | with_reducible apply keeps_finishW | with_reducible apply keeps_foldl | with_reducible apply keeps_foldPair | split | fail_if_no_progress (with_reducible apply keeps_mk <;> first | with_reducible exact rfl | with_reducible exact fun h => h | skip) | exact Nat.zero_le _ | dsimp only

theorem keepsO_execFaultClear {kb : Bool} {k0 : State} (q : CmdQ) (s : State) (hk : Keeps kb k0 s) :
    KeepsO kb k0 (execFaultClear q s) := by
  unfold execFaultClear; try dsimp only
  repeat' first | intro _ | with_reducible assumption | with_reducible apply keepsO_ite | with_reducible apply keepsO_next | with_reducible apply keeps_ite | with_reducible apply keepsO_runCmd | with_reducible apply keeps_finish | with_reducible apply keeps_awaitAt | split | fail_if_no_progress (with_reducible apply keeps_mk <;> first | with_reducible exact rfl | with_reducible exact fun h => h | skip) | exact Nat.zero_le _ | dsimp only

theorem keeps_clearLatches {kb : Bool} {k0 : State} (s : State) (hk : Keeps kb k0 s) :
    Keeps kb k0 (State.clearLatches s) := by
  unfold State.clearLatches; try dsimp only
  repeat' first | intro _ | with_reducible assumption | with_reducible apply keeps_ite | with_reducible apply keeps_forFin | with_reducible apply keeps_modGroup | with_reducible apply keeps_modChop | with_reducible apply keeps_forFin | with_reducible apply keeps_forFinPair | split | fail_if_no_progress (with_reducible apply keeps_mk <;> first | with_reducible exact rfl | with_reducible exact fun h => h | skip) | exact Nat.zero_le _ | dsimp only

theorem keeps_clearChoppers {kb : Bool} {k0 : State} (s : State) (hk : Keeps kb k0 s) :
    Keeps kb k0 (State.clearChoppers s) := by
  unfold State.clearChoppers; try dsimp only
  repeat' first | intro _ | with_reducible assumption | with_reducible apply keeps_ite | with_reducible apply keeps_forFin | with_reducible apply keeps_modChop | with_reducible apply keeps_forFin | with_reducible apply keeps_forFinPair | split | fail_if_no_progress (with_reducible apply keeps_mk <;> first | with_reducible exact rfl | with_reducible exact fun h => h | skip) | exact Nat.zero_le _ | dsimp only

theorem keeps_rejoinSets {kb : Bool} {k0 : State} (s : State) (hk : Keeps kb k0 s) :
    Keeps kb k0 (State.rejoinSets s) := by
  unfold State.rejoinSets; try dsimp only
  repeat' first | intro _ | with_reducible assumption | with_reducible apply keeps_ite | with_reducible apply keeps_forFin | with_reducible apply keeps_modSet | with_reducible apply keeps_forFin | with_reducible apply keeps_forFinPair | split | fail_if_no_progress (with_reducible apply keeps_mk <;> first | with_reducible exact rfl | with_reducible exact fun h => h | skip) | exact Nat.zero_le _ | dsimp only

theorem keeps_endHolds {kb : Bool} {k0 : State} (s : State) (hk : Keeps kb k0 s) :
    Keeps kb k0 (State.endHolds s) := by
  unfold State.endHolds; try dsimp only
  repeat' first | intro _ | with_reducible assumption | with_reducible apply keeps_ite | with_reducible apply keeps_forFin | with_reducible apply keeps_modMach | with_reducible apply keeps_mbrk | with_reducible apply keeps_forFin | with_reducible apply keeps_forFinPair | split | fail_if_no_progress (with_reducible apply keeps_mk <;> first | with_reducible exact rfl | with_reducible exact fun h => h | skip) | exact Nat.zero_le _ | dsimp only

theorem keeps_clearGlk {kb : Bool} {k0 : State} (s : State) (hk : Keeps kb k0 s) :
    Keeps kb k0 (State.clearGlk s) := by
  unfold State.clearGlk; try dsimp only
  repeat' first | intro _ | with_reducible assumption | with_reducible apply keeps_ite | with_reducible apply keeps_forFin | with_reducible apply keeps_modGlk | with_reducible apply keeps_forFin | with_reducible apply keeps_forFinPair | split | fail_if_no_progress (with_reducible apply keeps_mk <;> first | with_reducible exact rfl | with_reducible exact fun h => h | skip) | exact Nat.zero_le _ | dsimp only

theorem keepsO_execFaultCleared {kb : Bool} {k0 : State} (s : State) (hk : Keeps kb k0 s) :
    KeepsO kb k0 (execFaultCleared s) := by
  unfold execFaultCleared; try dsimp only
  repeat' first | intro _ | with_reducible assumption | with_reducible apply keepsO_ite | with_reducible apply keepsO_next | with_reducible apply keeps_ite | with_reducible apply keeps_adv | with_reducible apply keeps_clearLatches | with_reducible apply keeps_clearChoppers | with_reducible apply keeps_rejoinSets | with_reducible apply keeps_endHolds | with_reducible apply keeps_clearGlk | with_reducible apply keeps_raise | with_reducible apply keeps_finishW | with_reducible apply keeps_mbrk | split | fail_if_no_progress (with_reducible apply keeps_mk <;> first | with_reducible exact rfl | with_reducible exact fun h => h | skip) | exact Nat.zero_le _ | dsimp only

theorem keepsO_execDcOvAsc {kb : Bool} {k0 : State} (m : Fin 2) (s : State) (hk : Keeps kb k0 s) :
    KeepsO kb k0 (execDcOvAsc m s) := by
  unfold execDcOvAsc; try dsimp only
  repeat' first | intro _ | with_reducible assumption | with_reducible apply keepsO_ite | with_reducible apply keepsO_next | with_reducible apply keeps_ite | with_reducible apply keeps_modMach | with_reducible apply keeps_armSafe | with_reducible apply keeps_raiseF | split | fail_if_no_progress (with_reducible apply keeps_mk <;> first | with_reducible exact rfl | with_reducible exact fun h => h | skip) | exact Nat.zero_le _ | dsimp only

theorem keepsO_execVdcUv {kb : Bool} {k0 : State} (x : Fin 2) (s : State) (hk : Keeps kb k0 s) :
    KeepsO kb k0 (execVdcUv x s) := by
  unfold execVdcUv; try dsimp only
  repeat' first | intro _ | with_reducible assumption | with_reducible apply keepsO_ite | with_reducible apply keepsO_next | with_reducible apply keeps_ite | with_reducible apply keeps_modMach | with_reducible apply keeps_armSafe | with_reducible apply keeps_raise | with_reducible apply keeps_foldl | with_reducible apply keeps_foldPair | split | fail_if_no_progress (with_reducible apply keeps_mk <;> first | with_reducible exact rfl | with_reducible exact fun h => h | skip) | exact Nat.zero_le _ | dsimp only

theorem keepsO_execPlausibility {kb : Bool} {k0 : State} (w : Fin 8) (s : State) (hk : Keeps kb k0 s) :
    KeepsO kb k0 (execPlausibility w s) := by
  unfold execPlausibility; try dsimp only
  repeat' first | intro _ | with_reducible assumption | with_reducible apply keepsO_ite | with_reducible apply keepsO_next | with_reducible apply keeps_ite | with_reducible apply keeps_modSet | with_reducible apply keeps_faultSet | split | fail_if_no_progress (with_reducible apply keeps_mk <;> first | with_reducible exact rfl | with_reducible exact fun h => h | skip) | exact Nat.zero_le _ | dsimp only

theorem keepsO_execPlStarved {kb : Bool} {k0 : State} (w : Fin 8) (s : State) (hk : Keeps kb k0 s) :
    KeepsO kb k0 (execPlStarved w s) := by
  unfold execPlStarved; try dsimp only
  repeat' first | intro _ | with_reducible assumption | with_reducible apply keepsO_ite | with_reducible apply keepsO_next | with_reducible apply keeps_ite | with_reducible apply keeps_modSet | with_reducible apply keeps_raiseF | split | fail_if_no_progress (with_reducible apply keeps_mk <;> first | with_reducible exact rfl | with_reducible exact fun h => h | skip) | exact Nat.zero_le _ | dsimp only

theorem keepsO_execFollowingError {kb : Bool} {k0 : State} (m : Fin 2) (s : State) (hk : Keeps kb k0 s) :
    KeepsO kb k0 (execFollowingError m s) := by
  unfold execFollowingError; try dsimp only
  repeat' first | intro _ | with_reducible assumption | with_reducible apply keepsO_ite | with_reducible apply keepsO_next | with_reducible apply keeps_ite | with_reducible apply keeps_modMach | with_reducible apply keeps_faultMach | split | fail_if_no_progress (with_reducible apply keeps_mk <;> first | with_reducible exact rfl | with_reducible exact fun h => h | skip) | exact Nat.zero_le _ | dsimp only

theorem keepsO_execTripRate {kb : Bool} {k0 : State} (w : Fin 8) (s : State) (hk : Keeps kb k0 s) :
    KeepsO kb k0 (execTripRate w s) := by
  unfold execTripRate; try dsimp only
  repeat' first | intro _ | with_reducible assumption | with_reducible apply keepsO_ite | with_reducible apply keepsO_next | with_reducible apply keeps_ite | with_reducible apply keeps_modSet | with_reducible apply keeps_faultSet | split | fail_if_no_progress (with_reducible apply keeps_mk <;> first | with_reducible exact rfl | with_reducible exact fun h => h | skip) | exact Nat.zero_le _ | dsimp only

theorem keepsO_execTripEscalated {kb : Bool} {k0 : State} (g : Fin 8) (s : State) (hk : Keeps kb k0 s) :
    KeepsO kb k0 (execTripEscalated g s) := by
  unfold execTripEscalated; try dsimp only
  repeat' first | intro _ | with_reducible assumption | with_reducible apply keepsO_ite | with_reducible apply keepsO_next | with_reducible apply keeps_ite | with_reducible apply keeps_rcount | with_reducible apply keeps_modGroup | with_reducible apply keeps_faultSet | split | fail_if_no_progress (with_reducible apply keeps_mk <;> first | with_reducible exact rfl | with_reducible exact fun h => h | skip) | exact Nat.zero_le _ | dsimp only

theorem keepsO_execChpEscalated {kb : Bool} {k0 : State} (c : Fin 2) (s : State) (hk : Keeps kb k0 s) :
    KeepsO kb k0 (execChpEscalated c s) := by
  unfold execChpEscalated; try dsimp only
  repeat' first | intro _ | with_reducible assumption | with_reducible apply keepsO_ite | with_reducible apply keepsO_next | with_reducible apply keeps_ite | with_reducible apply keeps_modChop | with_reducible apply keeps_rcount | with_reducible apply keeps_raise | split | fail_if_no_progress (with_reducible apply keeps_mk <;> first | with_reducible exact rfl | with_reducible exact fun h => h | skip) | exact Nat.zero_le _ | dsimp only

theorem keepsO_execChopperOpen {kb : Bool} {k0 : State} (c : Fin 2) (s : State) (hk : Keeps kb k0 s) :
    KeepsO kb k0 (execChopperOpen c s) := by
  unfold execChopperOpen; try dsimp only
  repeat' first | intro _ | with_reducible assumption | with_reducible apply keepsO_ite | with_reducible apply keepsO_next | with_reducible apply keeps_ite | with_reducible apply keeps_modChop | with_reducible apply keeps_raise | split | fail_if_no_progress (with_reducible apply keeps_mk <;> first | with_reducible exact rfl | with_reducible exact fun h => h | skip) | exact Nat.zero_le _ | dsimp only

theorem keepsO_execChopperShort {kb : Bool} {k0 : State} (c : Fin 2) (s : State) (hk : Keeps kb k0 s) :
    KeepsO kb k0 (execChopperShort c s) := by
  unfold execChopperShort; try dsimp only
  repeat' first | intro _ | with_reducible assumption | with_reducible apply keepsO_ite | with_reducible apply keepsO_next | with_reducible apply keeps_ite | with_reducible apply keeps_modChop | with_reducible apply keeps_mbrk | with_reducible apply keeps_modMach | with_reducible apply keeps_armSafe | with_reducible apply keeps_raise | with_reducible apply keeps_foldl | with_reducible apply keeps_foldPair | split | fail_if_no_progress (with_reducible apply keeps_mk <;> first | with_reducible exact rfl | with_reducible exact fun h => h | skip) | exact Nat.zero_le _ | dsimp only

theorem keeps_windowActs {kb : Bool} {k0 : State} (s : State) (n : Fin 20) (st : Time) (hk : Keeps kb k0 s) :
    Keeps kb k0 (State.windowActs s n st) := by
  unfold State.windowActs; try dsimp only
  repeat' first | intro _ | with_reducible assumption | with_reducible apply keeps_ite | with_reducible apply keeps_forFin | with_reducible apply keeps_tripGroup | with_reducible apply keeps_cutChop | with_reducible apply keeps_forFin | with_reducible apply keeps_forFinPair | split | fail_if_no_progress (with_reducible apply keeps_mk <;> first | with_reducible exact rfl | with_reducible exact fun h => h | skip) | exact Nat.zero_le _ | dsimp only

theorem keeps_windowTrip {kb : Bool} {k0 : State} (s : State) (n : Fin 20) (t : Time) (hk : Keeps kb k0 s) :
    Keeps kb k0 (State.windowTrip s n t) := by
  unfold State.windowTrip; try dsimp only
  repeat' first | intro _ | with_reducible assumption | with_reducible apply keeps_ite | with_reducible apply keeps_rset | with_reducible apply keeps_rcount | with_reducible apply keeps_windowActs | with_reducible apply keeps_freeNext | split | fail_if_no_progress (with_reducible apply keeps_mk <;> first | with_reducible exact rfl | with_reducible exact fun h => h | skip) | exact Nat.zero_le _ | dsimp only

theorem keepsO_execWindowOut {kb : Bool} {k0 : State} (n : Fin 20) (e : Excursion) (s : State) (hk : Keeps kb k0 s) :
    KeepsO kb k0 (execWindowOut n e s) := by
  unfold execWindowOut; try dsimp only
  repeat' first | intro _ | with_reducible assumption | with_reducible apply keepsO_ite | with_reducible apply keepsO_next | with_reducible apply keeps_ite | with_reducible apply keeps_adv | with_reducible apply keeps_windowTrip | with_reducible apply keeps_freeNext | split | fail_if_no_progress (with_reducible apply keeps_mk <;> first | with_reducible exact rfl | with_reducible exact fun h => h | skip) | exact Nat.zero_le _ | dsimp only

theorem keepsO_execWindowIn {kb : Bool} {k0 : State} (n : Fin 20) (e : InputLevel) (s : State) (hk : Keeps kb k0 s) :
    KeepsO kb k0 (execWindowIn n e s) := by
  unfold execWindowIn; try dsimp only
  repeat' first | intro _ | with_reducible assumption | with_reducible apply keepsO_ite | with_reducible apply keepsO_next | with_reducible apply keeps_ite | with_reducible apply keeps_adv | split | fail_if_no_progress (with_reducible apply keeps_mk <;> first | with_reducible exact rfl | with_reducible exact fun h => h | skip) | exact Nat.zero_le _ | dsimp only

theorem keepsO_execFltNLow {kb : Bool} {k0 : State} (g : Fin 8) (stays : Bool) (t : Time) (s : State) (hk : Keeps kb k0 s) :
    KeepsO kb k0 (execFltNLow g stays t s) := by
  unfold execFltNLow; try dsimp only
  repeat' first | intro _ | with_reducible assumption | with_reducible apply keepsO_ite | with_reducible apply keepsO_next | with_reducible apply keeps_ite | with_reducible apply keeps_adv | with_reducible apply keeps_rset | with_reducible apply keeps_hizLatch | with_reducible apply keeps_freeNext | split | fail_if_no_progress (with_reducible apply keeps_mk <;> first | with_reducible exact rfl | with_reducible exact fun h => h | skip) | exact Nat.zero_le _ | dsimp only

theorem keeps_estopHit {kb : Bool} {k0 : State} (s : State) (st : Time) (hk : Keeps kb k0 s) :
    Keeps kb k0 (State.estopHit s st) := by
  unfold State.estopHit; try dsimp only
  repeat' first | intro _ | with_reducible assumption | with_reducible apply keeps_ite | with_reducible apply keeps_rset | with_reducible apply keeps_mbrk | with_reducible apply keeps_raise | with_reducible apply keeps_modMach | with_reducible apply keeps_machSafe | with_reducible apply keeps_foldl | with_reducible apply keeps_foldPair | split | fail_if_no_progress (with_reducible apply keeps_mk <;> first | with_reducible exact rfl | with_reducible exact fun h => h | skip) | exact Nat.zero_le _ | dsimp only

theorem keepsO_execEstop {kb : Bool} {k0 : State} (stays : Bool) (t : Time) (s : State) (hk : Keeps kb k0 s) :
    KeepsO kb k0 (execEstop stays t s) := by
  unfold execEstop; try dsimp only
  repeat' first | intro _ | with_reducible assumption | with_reducible apply keepsO_ite | with_reducible apply keepsO_next | with_reducible apply keeps_ite | with_reducible apply keeps_adv | with_reducible apply keeps_freeNext | with_reducible apply keeps_estopHit | split | fail_if_no_progress (with_reducible apply keeps_mk <;> first | with_reducible exact rfl | with_reducible exact fun h => h | skip) | exact Nat.zero_le _ | dsimp only

theorem keeps_glkFresh {kb : Bool} {k0 : State} (s : State) (g : Fin 8) (hk : Keeps kb k0 s) :
    Keeps kb k0 (State.glkFresh s g) := by
  unfold State.glkFresh; try dsimp only
  repeat' first | intro _ | with_reducible assumption | with_reducible apply keeps_ite | with_reducible apply keeps_modGlk | split | fail_if_no_progress (with_reducible apply keeps_mk <;> first | with_reducible exact rfl | with_reducible exact fun h => h | skip) | exact Nat.zero_le _ | dsimp only

end Sys2Proof.Machine
end

