-- ==== Sys2Proof/Laws/KeepsSample.lean ====
section
/-! SUPPORT. Laws/KeepsSample.lean: what each operation of Sample.lean keeps. -/
namespace Sys2Proof.Machine

set_option linter.all false

theorem keeps_closeQuad {kb : Bool} {k0 : State} (s : State) (i : Fin 32) (hk : Keeps kb k0 s) :
    Keeps kb k0 (State.closeQuad s i) := by
  unfold State.closeQuad; try dsimp only
  repeat' first | intro _ | with_reducible assumption | with_reducible apply keeps_ite | with_reducible apply keeps_modStream | with_reducible apply keeps_ringPut | with_reducible apply keeps_rcount | with_reducible apply keeps_raise | split | fail_if_no_progress (with_reducible apply keeps_mk <;> first | with_reducible exact rfl | with_reducible exact fun h => h | skip) | exact Nat.zero_le _ | dsimp only

theorem keeps_closeChan {kb : Bool} {k0 : State} (s : State) (c : Nat) (hk : Keeps kb k0 s) :
    Keeps kb k0 (State.closeChan s c) := by
  unfold State.closeChan; try dsimp only
  repeat' first | intro _ | with_reducible assumption | with_reducible apply keeps_ite | with_reducible apply keeps_forFin | with_reducible apply keeps_closeQuad | with_reducible apply keeps_forFin | with_reducible apply keeps_forFinPair | split | fail_if_no_progress (with_reducible apply keeps_mk <;> first | with_reducible exact rfl | with_reducible exact fun h => h | skip) | exact Nat.zero_le _ | dsimp only

theorem keeps_closeAll {kb : Bool} {k0 : State} (s : State) (hk : Keeps kb k0 s) :
    Keeps kb k0 (State.closeAll s) := by
  unfold State.closeAll; try dsimp only
  repeat' first | intro _ | with_reducible assumption | with_reducible apply keeps_ite | with_reducible apply keeps_forFin | with_reducible apply keeps_closeQuad | with_reducible apply keeps_forFin | with_reducible apply keeps_forFinPair | split | fail_if_no_progress (with_reducible apply keeps_mk <;> first | with_reducible exact rfl | with_reducible exact fun h => h | skip) | exact Nat.zero_le _ | dsimp only

theorem keeps_streamSample {kb : Bool} {k0 : State} (s : State) (c steps : Nat) (x : Sample) (hk : Keeps kb k0 s) :
    Keeps kb k0 (State.streamSample s c steps x) := by
  unfold State.streamSample; try dsimp only
  repeat' first | intro _ | with_reducible assumption | with_reducible apply keeps_ite | with_reducible apply keeps_forFin | with_reducible apply keeps_modStream | with_reducible apply keeps_closeQuad | with_reducible apply keeps_forFin | with_reducible apply keeps_forFinPair | split | fail_if_no_progress (with_reducible apply keeps_mk <;> first | with_reducible exact rfl | with_reducible exact fun h => h | skip) | exact Nat.zero_le _ | dsimp only

theorem keeps_deliver {kb : Bool} {k0 : State} (s : State) (c steps : Nat) (x : Sample) (hk : Keeps kb k0 s) :
    Keeps kb k0 (State.deliver s c steps x) := by
  unfold State.deliver; try dsimp only
  repeat' first | intro _ | with_reducible assumption | with_reducible apply keeps_ite | with_reducible apply keeps_streamSample | with_reducible apply keeps_siloSample | split | fail_if_no_progress (with_reducible apply keeps_mk <;> first | with_reducible exact rfl | with_reducible exact fun h => h | skip) | exact Nat.zero_le _ | dsimp only

theorem keeps_writeSlot {kb : Bool} {k0 : State} (s : State) (i : Fin 32) (v : Word) (hk : Keeps kb k0 s) :
    Keeps kb k0 (State.writeSlot s i v) := by
  unfold State.writeSlot; try dsimp only
  repeat' first | intro _ | with_reducible assumption | with_reducible apply keeps_ite | with_reducible apply keeps_writeReject | with_reducible apply keeps_rset | with_reducible apply keeps_closeQuad | with_reducible apply keeps_modStream | split | fail_if_no_progress (with_reducible apply keeps_mk <;> first | with_reducible exact rfl | with_reducible exact fun h => h | skip) | exact Nat.zero_le _ | dsimp only

theorem keepsO_execStreamSlotWrite {kb : Bool} {k0 : State} (slot : Fin 32) (v : Word) (t : Time) (s : State) (hk : Keeps kb k0 s) :
    KeepsO kb k0 (execStreamSlotWrite slot v t s) := by
  unfold execStreamSlotWrite; try dsimp only
  repeat' first | intro _ | with_reducible assumption | with_reducible apply keepsO_ite | with_reducible apply keepsO_next | with_reducible apply keeps_ite | with_reducible apply keepsO_onRegs | with_reducible apply keeps_writeSlot | split | fail_if_no_progress (with_reducible apply keeps_mk <;> first | with_reducible exact rfl | with_reducible exact fun h => h | skip) | exact Nat.zero_le _ | dsimp only

theorem keeps_cutSlots {kb : Bool} {k0 : State} (s : State) (hk : Keeps kb k0 s) :
    Keeps kb k0 (State.cutSlots s) := by
  unfold State.cutSlots; try dsimp only
  repeat' first | intro _ | with_reducible assumption | with_reducible apply keeps_ite | with_reducible apply keeps_forFin | with_reducible apply keeps_closeQuad | with_reducible apply keeps_rsetF | with_reducible apply keeps_forFin | with_reducible apply keeps_forFinPair | split | fail_if_no_progress (with_reducible apply keeps_mk <;> first | with_reducible exact rfl | with_reducible exact fun h => h | skip) | exact Nat.zero_le _ | dsimp only

theorem keepsO_execLinkSpeedChange {kb : Bool} {k0 : State} (gen : Fin 3) (t : Time) (s : State) (hk : Keeps kb k0 s) :
    KeepsO kb k0 (execLinkSpeedChange gen t s) := by
  unfold execLinkSpeedChange; try dsimp only
  repeat' first | intro _ | with_reducible assumption | with_reducible apply keepsO_ite | with_reducible apply keepsO_next | with_reducible apply keeps_ite | with_reducible apply keeps_adv | with_reducible apply keeps_cutSlots | with_reducible apply keeps_rsetF | with_reducible apply keeps_raise | with_reducible apply keeps_pump | split | fail_if_no_progress (with_reducible apply keeps_mk <;> first | with_reducible exact rfl | with_reducible exact fun h => h | skip) | exact Nat.zero_le _ | dsimp only

theorem keeps_clampEvent {kb : Bool} {k0 : State} (s : State) (c : Nat) (t : Time) (hk : Keeps kb k0 s) :
    Keeps kb k0 (State.clampEvent s c t) := by
  unfold State.clampEvent; try dsimp only
  repeat' first | intro _ | with_reducible assumption | with_reducible apply keeps_ite | with_reducible apply keeps_raise | split | fail_if_no_progress (with_reducible apply keeps_mk <;> first | with_reducible exact rfl | with_reducible exact fun h => h | skip) | exact Nat.zero_le _ | dsimp only

theorem keeps_bankClamps {kb : Bool} {k0 : State} (s : State) (n chan : Nat) (t : Time) (hk : Keeps kb k0 s) :
    Keeps kb k0 (State.bankClamps s n chan t) := by
  unfold State.bankClamps; try dsimp only
  repeat' first | intro _ | with_reducible assumption | with_reducible apply keeps_ite | with_reducible apply keeps_clampEvent | split | fail_if_no_progress (with_reducible apply keeps_mk <;> first | with_reducible exact rfl | with_reducible exact fun h => h | skip) | exact Nat.zero_le _ | dsimp only

theorem keeps_slowFlags {kb : Bool} {k0 : State} (s : State) (n chan : Nat) (ovr : Bool) (t : Time) (hk : Keeps kb k0 s) :
    Keeps kb k0 (State.slowFlags s n chan ovr t).1 := by
  unfold State.slowFlags; try dsimp only
  repeat' first | intro _ | with_reducible assumption | with_reducible apply keeps_ite | with_reducible apply keeps_clampEvent | split | fail_if_no_progress (with_reducible apply keeps_mk <;> first | with_reducible exact rfl | with_reducible exact fun h => h | skip) | exact Nat.zero_le _ | dsimp only

theorem keeps_blockEnter {kb : Bool} {k0 : State} (s : State) (k : Fin 8) (hk : Keeps kb k0 s) :
    Keeps kb k0 (State.blockEnter s k) := by
  unfold State.blockEnter; try dsimp only
  repeat' first | intro _ | with_reducible assumption | with_reducible apply keeps_ite | with_reducible apply keeps_modLop | with_reducible apply keeps_closeAll | with_reducible apply keeps_testBegin | split | fail_if_no_progress (with_reducible apply keeps_mk <;> first | with_reducible exact rfl | with_reducible exact fun h => h | skip) | exact Nat.zero_le _ | dsimp only

theorem keeps_failMember {kb : Bool} {k0 : State} (s : State) (p : Fin 16) (odd : Bool) (cause : Nat) (t : Time) (hk : Keeps kb k0 s) :
    Keeps kb k0 (State.failMember s p odd cause t) := by
  unfold State.failMember; try dsimp only
  repeat' first | intro _ | with_reducible assumption | with_reducible apply keeps_ite | with_reducible apply keeps_closeChan | with_reducible apply keeps_modPair | with_reducible apply keeps_health | with_reducible apply keeps_faultSet | with_reducible apply keeps_raise | split | fail_if_no_progress (with_reducible apply keeps_mk <;> first | with_reducible exact rfl | with_reducible exact fun h => h | skip) | exact Nat.zero_le _ | dsimp only

theorem keeps_noteMember {kb : Bool} {k0 : State} (s : State) (p : Fin 16) (odd : Bool) (code : Int) (t : Time) (hk : Keeps kb k0 s) :
    Keeps kb k0 (State.noteMember s p odd code t) := by
  unfold State.noteMember; try dsimp only
  repeat' first | intro _ | with_reducible assumption | with_reducible apply keeps_ite | with_reducible apply keeps_modPair | split | fail_if_no_progress (with_reducible apply keeps_mk <;> first | with_reducible exact rfl | with_reducible exact fun h => h | skip) | exact Nat.zero_le _ | dsimp only

theorem keeps_memberRound {kb : Bool} {k0 : State} (s : State) (b : Time) (hk : Keeps kb k0 s) :
    Keeps kb k0 (State.memberRound s b) := by
  unfold State.memberRound; try dsimp only
  repeat' first | intro _ | with_reducible assumption | with_reducible apply keeps_ite | with_reducible apply keeps_forFin | with_reducible apply keeps_modPair | with_reducible apply keeps_forFin | with_reducible apply keeps_forFinPair | split | fail_if_no_progress (with_reducible apply keeps_mk <;> first | with_reducible exact rfl | with_reducible exact fun h => h | skip) | exact Nat.zero_le _ | dsimp only

theorem keepsO_execMemberFailure {kb : Bool} {k0 : State} (p : Fin 16) (odd stuck : Bool) (t : Time) (s : State) (hk : Keeps kb k0 s) :
    KeepsO kb k0 (execMemberFailure p odd stuck t s) := by
  unfold execMemberFailure; try dsimp only
  repeat' first | intro _ | with_reducible assumption | with_reducible apply keepsO_ite | with_reducible apply keepsO_next | with_reducible apply keeps_ite | with_reducible apply keeps_adv | with_reducible apply keeps_failMember | split | fail_if_no_progress (with_reducible apply keeps_mk <;> first | with_reducible exact rfl | with_reducible exact fun h => h | skip) | exact Nat.zero_le _ | dsimp only

theorem keepsO_execPairDivergeRun {kb : Bool} {k0 : State} (p : Fin 16) (s : State) (hk : Keeps kb k0 s) :
    KeepsO kb k0 (execPairDivergeRun p s) := by
  unfold execPairDivergeRun; try dsimp only
  repeat' first | intro _ | with_reducible assumption | with_reducible apply keepsO_ite | with_reducible apply keepsO_next | with_reducible apply keeps_ite | with_reducible apply keeps_modPair | split | fail_if_no_progress (with_reducible apply keeps_mk <;> first | with_reducible exact rfl | with_reducible exact fun h => h | skip) | exact Nat.zero_le _ | dsimp only

theorem keepsO_execReferenceCheck {kb : Bool} {k0 : State} (p : Fin 16) (even odd : Int) (s : State) (hk : Keeps kb k0 s) :
    KeepsO kb k0 (execReferenceCheck p even odd s) := by
  unfold execReferenceCheck; try dsimp only
  repeat' first | intro _ | with_reducible assumption | with_reducible apply keepsO_ite | with_reducible apply keepsO_next | with_reducible apply keeps_ite | with_reducible apply keeps_adv | with_reducible apply keeps_modPair | with_reducible apply keeps_rcount | with_reducible apply keeps_failMember | with_reducible apply keeps_raise | split | fail_if_no_progress (with_reducible apply keeps_mk <;> first | with_reducible exact rfl | with_reducible exact fun h => h | skip) | exact Nat.zero_le _ | dsimp only

theorem keeps_trackPair {kb : Bool} {k0 : State} (s : State) (p : Fin 16) (r : Rat × Rat × BitVec 5) (hk : Keeps kb k0 s) :
    Keeps kb k0 (State.trackPair s p r) := by
  unfold State.trackPair; try dsimp only
  repeat' first | intro _ | with_reducible assumption | with_reducible apply keeps_ite | with_reducible apply keeps_modPair | split | fail_if_no_progress (with_reducible apply keeps_mk <;> first | with_reducible exact rfl | with_reducible exact fun h => h | skip) | exact Nat.zero_le _ | dsimp only

theorem keeps_reBound {kb : Bool} {k0 : State} (s : State) (hk : Keeps kb k0 s) :
    Keeps kb k0 (State.reBound s) := by
  unfold State.reBound; try dsimp only
  repeat' first | intro _ | with_reducible assumption | with_reducible apply keeps_ite | with_reducible apply keeps_forFin | with_reducible apply keeps_modPair | with_reducible apply keeps_forFin | with_reducible apply keeps_forFinPair | split | fail_if_no_progress (with_reducible apply keeps_mk <;> first | with_reducible exact rfl | with_reducible exact fun h => h | skip) | exact Nat.zero_le _ | dsimp only

theorem keepsO_execTrackUpdate {kb : Bool} {k0 : State} (p : Fin 16) (s : State) (hk : Keeps kb k0 s) :
    KeepsO kb k0 (execTrackUpdate p s) := by
  unfold execTrackUpdate; try dsimp only
  repeat' first | intro _ | with_reducible assumption | with_reducible apply keepsO_ite | with_reducible apply keepsO_next | with_reducible apply keeps_ite | with_reducible apply keeps_modPair | with_reducible apply keeps_raise | split | fail_if_no_progress (with_reducible apply keeps_mk <;> first | with_reducible exact rfl | with_reducible exact fun h => h | skip) | exact Nat.zero_le _ | dsimp only

theorem keeps_fastSample {kb : Bool} {k0 : State} (s : State) (p : Fin 16) (odd : Bool) (raw : Int) (t : Time) (hk : Keeps kb k0 s) :
    Keeps kb k0 (State.fastSample s p odd raw t) := by
  unfold State.fastSample; try dsimp only
  repeat' first | intro _ | with_reducible assumption | with_reducible apply keeps_ite | with_reducible apply keeps_noteMember | with_reducible apply keeps_deliver | with_reducible apply keeps_modPair | with_reducible apply keeps_trackPair | split | fail_if_no_progress (with_reducible apply keeps_mk <;> first | with_reducible exact rfl | with_reducible exact fun h => h | skip) | exact Nat.zero_le _ | dsimp only

theorem keeps_linkSample {kb : Bool} {k0 : State} (s : State) (x : Fin 2) (raw : Int) (t : Time) (hk : Keeps kb k0 s) :
    Keeps kb k0 (State.linkSample s x raw t) := by
  unfold State.linkSample; try dsimp only
  repeat' first | intro _ | with_reducible assumption | with_reducible apply keeps_ite | with_reducible apply keeps_deliver | split | fail_if_no_progress (with_reducible apply keeps_mk <;> first | with_reducible exact rfl | with_reducible exact fun h => h | skip) | exact Nat.zero_le _ | dsimp only

theorem keeps_inputClamp {kb : Bool} {k0 : State} (s : State) (n : Nat) (beyond2 : Bool) (t : Time) (hk : Keeps kb k0 s) :
    Keeps kb k0 (State.inputClamp s n beyond2 t) := by
  unfold State.inputClamp; try dsimp only
  repeat' first | intro _ | with_reducible assumption | with_reducible apply keeps_ite | with_reducible apply keeps_bankClamps | split | fail_if_no_progress (with_reducible apply keeps_mk <;> first | with_reducible exact rfl | with_reducible exact fun h => h | skip) | exact Nat.zero_le _ | dsimp only

theorem keeps_sampleIn {kb : Bool} {k0 : State} (s : State) (c : Fin 34) (raw : Int) (beyond2 : Bool) (track : Time) (hk : Keeps kb k0 s) :
    Keeps kb k0 (State.sampleIn s c raw beyond2 track) := by
  unfold State.sampleIn; try dsimp only
  repeat' first | intro _ | with_reducible assumption | with_reducible apply keeps_ite | with_reducible apply keeps_inputClamp | with_reducible apply keeps_fastSample | with_reducible apply keeps_linkSample | split | fail_if_no_progress (with_reducible apply keeps_mk <;> first | with_reducible exact rfl | with_reducible exact fun h => h | skip) | exact Nat.zero_le _ | dsimp only

theorem keeps_converts {kb : Bool} {k0 : State} (s : State) (n : Nat) (t : Time) (hk : Keeps kb k0 s) :
    Keeps kb k0 (State.converts s n t) := by
  unfold State.converts; try dsimp only
  repeat' first | intro _ | with_reducible assumption | with_reducible apply keeps_ite | split | fail_if_no_progress (with_reducible apply keeps_mk <;> first | with_reducible exact rfl | with_reducible exact fun h => h | skip) | exact Nat.zero_le _ | dsimp only

theorem keeps_vcSample {kb : Bool} {k0 : State} (s : State) (w : Fin 8) (k : Nat) (raw : Int) (t : Time) (hk : Keeps kb k0 s) :
    Keeps kb k0 (State.vcSample s w k raw t).1 := by
  unfold State.vcSample; try dsimp only
  repeat' first | intro _ | with_reducible assumption | with_reducible apply keeps_ite | with_reducible apply keeps_converts | with_reducible apply keeps_slowFlags | with_reducible apply keeps_deliver | split | fail_if_no_progress (with_reducible apply keeps_mk <;> first | with_reducible exact rfl | with_reducible exact fun h => h | skip) | exact Nat.zero_le _ | dsimp only

end Sys2Proof.Machine
end

