-- ==== Sys2Proof/Laws/KeepsTracker.lean ====
section
/-! SUPPORT. Laws/KeepsTracker.lean: what each operation of Tracker.lean keeps. -/
namespace Sys2Proof.Machine

set_option linter.all false

theorem keeps_report {kb : Bool} {k0 : State} (s : State) (m : Fin 2) (e : PosEvent) (hk : Keeps kb k0 s) :
    Keeps kb k0 (State.report s m e) := by
  unfold State.report; try dsimp only
  repeat' first | intro _ | with_reducible assumption | with_reducible apply keeps_ite | with_reducible apply keeps_modMach | split | fail_if_no_progress (with_reducible apply keeps_mk <;> first | with_reducible exact rfl | with_reducible exact fun h => h | skip) | exact Nat.zero_le _ | dsimp only

theorem keeps_reportMiss {kb : Bool} {k0 : State} (s : State) (m : Fin 2) (t : Time) (hk : Keeps kb k0 s) :
    Keeps kb k0 (State.reportMiss s m t) := by
  unfold State.reportMiss; try dsimp only
  repeat' first | intro _ | with_reducible assumption | with_reducible apply keeps_ite | with_reducible apply keeps_modMach | split | fail_if_no_progress (with_reducible apply keeps_mk <;> first | with_reducible exact rfl | with_reducible exact fun h => h | skip) | exact Nat.zero_le _ | dsimp only

theorem keeps_trkUpdate {kb : Bool} {k0 : State} (s : State) (m : Fin 2) (b : Time) (hk : Keeps kb k0 s) :
    Keeps kb k0 (State.trkUpdate s m b) := by
  unfold State.trkUpdate; try dsimp only
  repeat' first | intro _ | with_reducible assumption | with_reducible apply keeps_ite | with_reducible apply keeps_hold | with_reducible apply keeps_modMach | with_reducible apply keeps_rcount | with_reducible apply keeps_foldl | with_reducible apply keeps_foldPair | split | fail_if_no_progress (with_reducible apply keeps_mk <;> first | with_reducible exact rfl | with_reducible exact fun h => h | skip) | exact Nat.zero_le _ | dsimp only

theorem keeps_trkJudge {kb : Bool} {k0 : State} (s : State) (m : Fin 2) (b : Time) (hk : Keeps kb k0 s) :
    Keeps kb k0 (State.trkJudge s m b) := by
  unfold State.trkJudge; try dsimp only
  repeat' first | intro _ | with_reducible assumption | with_reducible apply keeps_ite | with_reducible apply keeps_capture | with_reducible apply keeps_modMach | split | fail_if_no_progress (with_reducible apply keeps_mk <;> first | with_reducible exact rfl | with_reducible exact fun h => h | skip) | exact Nat.zero_le _ | dsimp only

theorem keepsO_execHallEdge {kb : Bool} {k0 : State} (m : Fin 2) (levels : BitVec 3) (t : Time) (s : State) (hk : Keeps kb k0 s) :
    KeepsO kb k0 (execHallEdge m levels t s) := by
  unfold execHallEdge; try dsimp only
  repeat' first | intro _ | with_reducible assumption | with_reducible apply keepsO_ite | with_reducible apply keepsO_next | with_reducible apply keeps_ite | with_reducible apply keeps_adv | with_reducible apply keeps_freeNext | with_reducible apply keeps_modMach | with_reducible apply keeps_report | split | fail_if_no_progress (with_reducible apply keeps_mk <;> first | with_reducible exact rfl | with_reducible exact fun h => h | skip) | exact Nat.zero_le _ | dsimp only

theorem keeps_hallJudge {kb : Bool} {k0 : State} (s : State) (m : Fin 2) (hk : Keeps kb k0 s) :
    Keeps kb k0 (State.hallJudge s m) := by
  unfold State.hallJudge; try dsimp only
  repeat' first | intro _ | with_reducible assumption | with_reducible apply keeps_ite | with_reducible apply keeps_modMach | split | fail_if_no_progress (with_reducible apply keeps_mk <;> first | with_reducible exact rfl | with_reducible exact fun h => h | skip) | exact Nat.zero_le _ | dsimp only

theorem keepsO_execHallFault {kb : Bool} {k0 : State} (m : Fin 2) (s : State) (hk : Keeps kb k0 s) :
    KeepsO kb k0 (execHallFault m s) := by
  unfold execHallFault; try dsimp only
  repeat' first | intro _ | with_reducible assumption | with_reducible apply keepsO_ite | with_reducible apply keepsO_next | with_reducible apply keeps_ite | with_reducible apply keeps_modMach | with_reducible apply keeps_raiseF | split | fail_if_no_progress (with_reducible apply keeps_mk <;> first | with_reducible exact rfl | with_reducible exact fun h => h | skip) | exact Nat.zero_le _ | dsimp only

theorem keepsO_execEncoderEdge {kb : Bool} {k0 : State} (m : Fin 2) (up : Bool) (t : Time) (s : State) (hk : Keeps kb k0 s) :
    KeepsO kb k0 (execEncoderEdge m up t s) := by
  unfold execEncoderEdge; try dsimp only
  repeat' first | intro _ | with_reducible assumption | with_reducible apply keepsO_ite | with_reducible apply keepsO_next | with_reducible apply keeps_ite | with_reducible apply keeps_adv | with_reducible apply keeps_freeNext | with_reducible apply keeps_modMach | with_reducible apply keeps_report | split | fail_if_no_progress (with_reducible apply keeps_mk <;> first | with_reducible exact rfl | with_reducible exact fun h => h | skip) | exact Nat.zero_le _ | dsimp only

theorem keepsO_execEncZEdge {kb : Bool} {k0 : State} (m : Fin 2) (t : Time) (s : State) (hk : Keeps kb k0 s) :
    KeepsO kb k0 (execEncZEdge m t s) := by
  unfold execEncZEdge; try dsimp only
  repeat' first | intro _ | with_reducible assumption | with_reducible apply keepsO_ite | with_reducible apply keepsO_next | with_reducible apply keeps_ite | with_reducible apply keeps_adv | with_reducible apply keeps_modMach | split | fail_if_no_progress (with_reducible apply keeps_mk <;> first | with_reducible exact rfl | with_reducible exact fun h => h | skip) | exact Nat.zero_le _ | dsimp only

theorem keepsO_execEncFault {kb : Bool} {k0 : State} (m : Fin 2) (s : State) (hk : Keeps kb k0 s) :
    KeepsO kb k0 (execEncFault m s) := by
  unfold execEncFault; try dsimp only
  repeat' first | intro _ | with_reducible assumption | with_reducible apply keepsO_ite | with_reducible apply keepsO_next | with_reducible apply keeps_ite | with_reducible apply keeps_modMach | with_reducible apply keeps_raiseF | split | fail_if_no_progress (with_reducible apply keeps_mk <;> first | with_reducible exact rfl | with_reducible exact fun h => h | skip) | exact Nat.zero_le _ | dsimp only

theorem keeps_beginSets {kb : Bool} {k0 : State} (s : State) (m : Fin 2) (t : Time) (hk : Keeps kb k0 s) :
    Keeps kb k0 (State.beginSets s m t) := by
  unfold State.beginSets; try dsimp only
  repeat' first | intro _ | with_reducible assumption | with_reducible apply keeps_ite | with_reducible apply keeps_modSet | with_reducible apply keeps_foldl | with_reducible apply keeps_foldPair | split | fail_if_no_progress (with_reducible apply keeps_mk <;> first | with_reducible exact rfl | with_reducible exact fun h => h | skip) | exact Nat.zero_le _ | dsimp only

theorem keeps_toCapture {kb : Bool} {k0 : State} (s : State) (m : Fin 2) (outgoing : Rat) (hk : Keeps kb k0 s) :
    Keeps kb k0 (State.toCapture s m outgoing) := by
  unfold State.toCapture; try dsimp only
  repeat' first | intro _ | with_reducible assumption | with_reducible apply keeps_ite | with_reducible apply keeps_modMach | with_reducible apply keeps_capture | split | fail_if_no_progress (with_reducible apply keeps_mk <;> first | with_reducible exact rfl | with_reducible exact fun h => h | skip) | exact Nat.zero_le _ | dsimp only

theorem keeps_capture {kb : Bool} {k0 : State} (s : State) (m : Fin 2) (theta f outgoing : Rat) (b : Time) (hk : Keeps kb k0 s) :
    Keeps kb k0 (State.capture s m theta f outgoing b) := by
  unfold State.capture; try dsimp only
  repeat' first | intro _ | with_reducible assumption | with_reducible apply keeps_ite | with_reducible apply keeps_modMach | with_reducible apply keeps_toCapture | split | fail_if_no_progress (with_reducible apply keeps_mk <;> first | with_reducible exact rfl | with_reducible exact fun h => h | skip) | exact Nat.zero_le _ | dsimp only

theorem keeps_beginProbe {kb : Bool} {k0 : State} (s : State) (m : Fin 2) (hk : Keeps kb k0 s) :
    Keeps kb k0 (State.beginProbe s m) := by
  unfold State.beginProbe; try dsimp only
  repeat' first | intro _ | with_reducible assumption | with_reducible apply keeps_ite | with_reducible apply keeps_modMach | split | fail_if_no_progress (with_reducible apply keeps_mk <;> first | with_reducible exact rfl | with_reducible exact fun h => h | skip) | exact Nat.zero_le _ | dsimp only

theorem keeps_startAtRest {kb : Bool} {k0 : State} (s : State) (m : Fin 2) (t0 : Time) (hk : Keeps kb k0 s) :
    Keeps kb k0 (State.startAtRest s m t0) := by
  unfold State.startAtRest; try dsimp only
  repeat' first | intro _ | with_reducible assumption | with_reducible apply keeps_ite | with_reducible apply keeps_capture | with_reducible apply keeps_beginSets | with_reducible apply keeps_modMach | with_reducible apply keeps_raise | with_reducible apply keeps_beginProbe | split | fail_if_no_progress (with_reducible apply keeps_mk <;> first | with_reducible exact rfl | with_reducible exact fun h => h | skip) | exact Nat.zero_le _ | dsimp only

theorem keeps_beginListen {kb : Bool} {k0 : State} (s : State) (m : Fin 2) (t : Time) (hk : Keeps kb k0 s) :
    Keeps kb k0 (State.beginListen s m t) := by
  unfold State.beginListen; try dsimp only
  repeat' first | intro _ | with_reducible assumption | with_reducible apply keeps_ite | with_reducible apply keeps_modMach | with_reducible apply keeps_forFin | with_reducible apply keeps_modSet | with_reducible apply keeps_forFin | with_reducible apply keeps_forFinPair | split | fail_if_no_progress (with_reducible apply keeps_mk <;> first | with_reducible exact rfl | with_reducible exact fun h => h | skip) | exact Nat.zero_le _ | dsimp only

theorem keeps_tryCatch {kb : Bool} {k0 : State} (s : State) (m : Fin 2) (t0 : Time) (hk : Keeps kb k0 s) :
    Keeps kb k0 (State.tryCatch s m t0) := by
  unfold State.tryCatch; try dsimp only
  repeat' first | intro _ | with_reducible assumption | with_reducible apply keeps_ite | with_reducible apply keeps_capture | with_reducible apply keeps_beginSets | with_reducible apply keeps_modMach | with_reducible apply keeps_raise | split | fail_if_no_progress (with_reducible apply keeps_mk <;> first | with_reducible exact rfl | with_reducible exact fun h => h | skip) | exact Nat.zero_le _ | dsimp only

theorem keepsO_execListenConversion {kb : Bool} {k0 : State} (w : Fin 8) (uPrev uNext v wPrev wNext : Int) (track : Time) (s : State) (hk : Keeps kb k0 s) :
    KeepsO kb k0 (execListenConversion w uPrev uNext v wPrev wNext track s) := by
  unfold execListenConversion; try dsimp only
  repeat' first | intro _ | with_reducible assumption | with_reducible apply keepsO_ite | with_reducible apply keepsO_next | with_reducible apply keeps_ite | with_reducible apply keeps_adv | with_reducible apply keeps_vcSample | with_reducible apply keeps_modSet | with_reducible apply keeps_modMach | with_reducible apply keeps_tryCatch | split | fail_if_no_progress (with_reducible apply keeps_mk <;> first | with_reducible exact rfl | with_reducible exact fun h => h | skip) | exact Nat.zero_le _ | dsimp only

theorem keepsO_execCatchListenExpiry {kb : Bool} {k0 : State} (m : Fin 2) (s : State) (hk : Keeps kb k0 s) :
    KeepsO kb k0 (execCatchListenExpiry m s) := by
  unfold execCatchListenExpiry; try dsimp only
  repeat' first | intro _ | with_reducible assumption | with_reducible apply keepsO_ite | with_reducible apply keepsO_next | with_reducible apply keeps_ite | with_reducible apply keeps_adv | with_reducible apply keeps_tryCatch | with_reducible apply keeps_modMach | with_reducible apply keeps_startAtRest | split | fail_if_no_progress (with_reducible apply keeps_mk <;> first | with_reducible exact rfl | with_reducible exact fun h => h | skip) | exact Nat.zero_le _ | dsimp only

theorem keeps_probeSlot {kb : Bool} {k0 : State} (s : State) (m : Fin 2) (t : Time) (hk : Keeps kb k0 s) :
    Keeps kb k0 (State.probeSlot s m t) := by
  unfold State.probeSlot; try dsimp only
  repeat' first | intro _ | with_reducible assumption | with_reducible apply keeps_ite | with_reducible apply keeps_modMach | with_reducible apply keeps_modSet | with_reducible apply keeps_reqSet | split | fail_if_no_progress (with_reducible apply keeps_mk <;> first | with_reducible exact rfl | with_reducible exact fun h => h | skip) | exact Nat.zero_le _ | dsimp only

theorem keeps_probeStart {kb : Bool} {k0 : State} (s : State) (m : Fin 2) (t : Time) (hk : Keeps kb k0 s) :
    Keeps kb k0 (State.probeStart s m t) := by
  unfold State.probeStart; try dsimp only
  repeat' first | intro _ | with_reducible assumption | with_reducible apply keeps_ite | with_reducible apply keeps_glkFresh | with_reducible apply keeps_modSet | with_reducible apply keeps_modGroup | with_reducible apply keeps_lowGroup | with_reducible apply keeps_probeSlot | with_reducible apply keeps_foldl | with_reducible apply keeps_foldPair | split | fail_if_no_progress (with_reducible apply keeps_mk <;> first | with_reducible exact rfl | with_reducible exact fun h => h | skip) | exact Nat.zero_le _ | dsimp only

theorem keepsO_execProbePulseEnd {kb : Bool} {k0 : State} (m : Fin 2) (t : Time) (s : State) (hk : Keeps kb k0 s) :
    KeepsO kb k0 (execProbePulseEnd m t s) := by
  unfold execProbePulseEnd; try dsimp only
  repeat' first | intro _ | with_reducible assumption | with_reducible apply keepsO_ite | with_reducible apply keepsO_next | with_reducible apply keeps_ite | with_reducible apply keeps_adv | with_reducible apply keeps_modMach | with_reducible apply keeps_modSet | with_reducible apply keeps_reqSet | split | fail_if_no_progress (with_reducible apply keeps_mk <;> first | with_reducible exact rfl | with_reducible exact fun h => h | skip) | exact Nat.zero_le _ | dsimp only

theorem keeps_probeResult {kb : Bool} {k0 : State} (s : State) (m : Fin 2) (t : Time) (hk : Keeps kb k0 s) :
    Keeps kb k0 (State.probeResult s m t) := by
  unfold State.probeResult; try dsimp only
  repeat' first | intro _ | with_reducible assumption | with_reducible apply keeps_ite | with_reducible apply keeps_modMach | with_reducible apply keeps_probeSlot | with_reducible apply keeps_modSet | with_reducible apply keeps_raise | with_reducible apply keeps_foldl | with_reducible apply keeps_foldPair | split | fail_if_no_progress (with_reducible apply keeps_mk <;> first | with_reducible exact rfl | with_reducible exact fun h => h | skip) | exact Nat.zero_le _ | dsimp only

theorem keepsO_execProbeSlotEnd {kb : Bool} {k0 : State} (m : Fin 2) (t : Time) (s : State) (hk : Keeps kb k0 s) :
    KeepsO kb k0 (execProbeSlotEnd m t s) := by
  unfold execProbeSlotEnd; try dsimp only
  repeat' first | intro _ | with_reducible assumption | with_reducible apply keepsO_ite | with_reducible apply keepsO_next | with_reducible apply keeps_ite | with_reducible apply keeps_adv | with_reducible apply keeps_modMach | with_reducible apply keeps_modSet | with_reducible apply keeps_probeSlot | with_reducible apply keeps_probeResult | split | fail_if_no_progress (with_reducible apply keeps_mk <;> first | with_reducible exact rfl | with_reducible exact fun h => h | skip) | exact Nat.zero_le _ | dsimp only

theorem keepsO_execStartFail {kb : Bool} {k0 : State} (m : Fin 2) (s : State) (hk : Keeps kb k0 s) :
    KeepsO kb k0 (execStartFail m s) := by
  unfold execStartFail; try dsimp only
  repeat' first | intro _ | with_reducible assumption | with_reducible apply keepsO_ite | with_reducible apply keepsO_next | with_reducible apply keeps_ite | with_reducible apply keeps_modMach | with_reducible apply keeps_faultMach | split | fail_if_no_progress (with_reducible apply keeps_mk <;> first | with_reducible exact rfl | with_reducible exact fun h => h | skip) | exact Nat.zero_le _ | dsimp only

theorem keepsO_execLocked {kb : Bool} {k0 : State} (m : Fin 2) (s : State) (hk : Keeps kb k0 s) :
    KeepsO kb k0 (execLocked m s) := by
  unfold execLocked; try dsimp only
  repeat' first | intro _ | with_reducible assumption | with_reducible apply keepsO_ite | with_reducible apply keepsO_next | with_reducible apply keeps_ite | with_reducible apply keeps_capture | with_reducible apply keeps_modMach | with_reducible apply keeps_raise | split | fail_if_no_progress (with_reducible apply keeps_mk <;> first | with_reducible exact rfl | with_reducible exact fun h => h | skip) | exact Nat.zero_le _ | dsimp only

theorem keeps_addRecovery {kb : Bool} {k0 : State} (s : State) (m : Fin 2) (t : Time) (hk : Keeps kb k0 s) :
    Keeps kb k0 (State.addRecovery s m t) := by
  unfold State.addRecovery; try dsimp only
  repeat' first | intro _ | with_reducible assumption | with_reducible apply keeps_ite | with_reducible apply keeps_modMach | split | fail_if_no_progress (with_reducible apply keeps_mk <;> first | with_reducible exact rfl | with_reducible exact fun h => h | skip) | exact Nat.zero_le _ | dsimp only

theorem keeps_ascObserve {kb : Bool} {k0 : State} (s : State) (m : Fin 2) (f : Rat) (t : Time) (hk : Keeps kb k0 s) :
    Keeps kb k0 (State.ascObserve s m f t) := by
  unfold State.ascObserve; try dsimp only
  repeat' first | intro _ | with_reducible assumption | with_reducible apply keeps_ite | with_reducible apply keeps_modMach | with_reducible apply keeps_modSet | with_reducible apply keeps_foldl | with_reducible apply keeps_foldPair | split | fail_if_no_progress (with_reducible apply keeps_mk <;> first | with_reducible exact rfl | with_reducible exact fun h => h | skip) | exact Nat.zero_le _ | dsimp only

theorem keeps_ascEnter {kb : Bool} {k0 : State} (s : State) (m : Fin 2) (b : Time) (hk : Keeps kb k0 s) :
    Keeps kb k0 (State.ascEnter s m b) := by
  unfold State.ascEnter; try dsimp only
  repeat' first | intro _ | with_reducible assumption | with_reducible apply keeps_ite | with_reducible apply keeps_modMach | with_reducible apply keeps_quitSet | with_reducible apply keeps_modSet | with_reducible apply keeps_reset | with_reducible apply keeps_foldl | with_reducible apply keeps_foldPair | split | fail_if_no_progress (with_reducible apply keeps_mk <;> first | with_reducible exact rfl | with_reducible exact fun h => h | skip) | exact Nat.zero_le _ | dsimp only

theorem keeps_goLost {kb : Bool} {k0 : State} (s : State) (m : Fin 2) (t : Time) (hk : Keeps kb k0 s) :
    Keeps kb k0 (State.goLost s m t) := by
  unfold State.goLost; try dsimp only
  repeat' first | intro _ | with_reducible assumption | with_reducible apply keeps_ite | with_reducible apply keeps_modMach | with_reducible apply keeps_decaySet | with_reducible apply keeps_foldl | with_reducible apply keeps_foldPair | split | fail_if_no_progress (with_reducible apply keeps_mk <;> first | with_reducible exact rfl | with_reducible exact fun h => h | skip) | exact Nat.zero_le _ | dsimp only

theorem keepsO_execRotorLost {kb : Bool} {k0 : State} (m : Fin 2) (s : State) (hk : Keeps kb k0 s) :
    KeepsO kb k0 (execRotorLost m s) := by
  unfold execRotorLost; try dsimp only
  repeat' first | intro _ | with_reducible assumption | with_reducible apply keepsO_ite | with_reducible apply keepsO_next | with_reducible apply keeps_ite | with_reducible apply keeps_rcount | with_reducible apply keeps_addRecovery | with_reducible apply keeps_raise | with_reducible apply keeps_modMach | with_reducible apply keeps_faultMach | with_reducible apply keeps_ascObserve | with_reducible apply keeps_goLost | with_reducible apply keeps_retrip | split | fail_if_no_progress (with_reducible apply keeps_mk <;> first | with_reducible exact rfl | with_reducible exact fun h => h | skip) | exact Nat.zero_le _ | dsimp only

theorem keepsO_execLowRestart {kb : Bool} {k0 : State} (m : Fin 2) (s : State) (hk : Keeps kb k0 s) :
    KeepsO kb k0 (execLowRestart m s) := by
  unfold execLowRestart; try dsimp only
  repeat' first | intro _ | with_reducible assumption | with_reducible apply keepsO_ite | with_reducible apply keepsO_next | with_reducible apply keeps_ite | with_reducible apply keeps_decaySet | with_reducible apply keeps_beginProbe | with_reducible apply keeps_raise | with_reducible apply keeps_retrip | with_reducible apply keeps_foldl | with_reducible apply keeps_foldPair | split | fail_if_no_progress (with_reducible apply keeps_mk <;> first | with_reducible exact rfl | with_reducible exact fun h => h | skip) | exact Nat.zero_le _ | dsimp only

theorem keepsO_execLostDecayDone {kb : Bool} {k0 : State} (m : Fin 2) (t : Time) (s : State) (hk : Keeps kb k0 s) :
    KeepsO kb k0 (execLostDecayDone m t s) := by
  unfold execLostDecayDone; try dsimp only
  repeat' first | intro _ | with_reducible assumption | with_reducible apply keepsO_ite | with_reducible apply keepsO_next | with_reducible apply keeps_ite | with_reducible apply keeps_adv | with_reducible apply keeps_offSet | with_reducible apply keeps_idleMach | with_reducible apply keeps_beginListen | with_reducible apply keeps_retrip | with_reducible apply keeps_foldl | with_reducible apply keeps_foldPair | split | fail_if_no_progress (with_reducible apply keeps_mk <;> first | with_reducible exact rfl | with_reducible exact fun h => h | skip) | exact Nat.zero_le _ | dsimp only

theorem keeps_obsBegin {kb : Bool} {k0 : State} (s : State) (m : Fin 2) (len : Rat) (t : Time) (hk : Keeps kb k0 s) :
    Keeps kb k0 (State.obsBegin s m len t) := by
  unfold State.obsBegin; try dsimp only
  repeat' first | intro _ | with_reducible assumption | with_reducible apply keeps_ite | with_reducible apply keeps_reset | with_reducible apply keeps_modSet | with_reducible apply keeps_foldl | with_reducible apply keeps_foldPair | split | fail_if_no_progress (with_reducible apply keeps_mk <;> first | with_reducible exact rfl | with_reducible exact fun h => h | skip) | exact Nat.zero_le _ | dsimp only

theorem keeps_obsStart {kb : Bool} {k0 : State} (s : State) (m : Fin 2) (f : Rat) (t : Time) (hk : Keeps kb k0 s) :
    Keeps kb k0 (State.obsStart s m f t) := by
  unfold State.obsStart; try dsimp only
  repeat' first | intro _ | with_reducible assumption | with_reducible apply keeps_ite | with_reducible apply keeps_obsBegin | split | fail_if_no_progress (with_reducible apply keeps_mk <;> first | with_reducible exact rfl | with_reducible exact fun h => h | skip) | exact Nat.zero_le _ | dsimp only

theorem keeps_trkFrom {kb : Bool} {k0 : State} (s : State) (m : Fin 2) (th f : Rat) (t : Time) (hk : Keeps kb k0 s) :
    Keeps kb k0 (State.trkFrom s m th f t) := by
  unfold State.trkFrom; try dsimp only
  repeat' first | intro _ | with_reducible assumption | with_reducible apply keeps_ite | with_reducible apply keeps_modMach | split | fail_if_no_progress (with_reducible apply keeps_mk <;> first | with_reducible exact rfl | with_reducible exact fun h => h | skip) | exact Nat.zero_le _ | dsimp only

theorem keeps_obsDone {kb : Bool} {k0 : State} (s : State) (m : Fin 2) (t : Time) (hk : Keeps kb k0 s) :
    Keeps kb k0 (State.obsDone s m t) := by
  unfold State.obsDone; try dsimp only
  repeat' first | intro _ | with_reducible assumption | with_reducible apply keeps_ite | with_reducible apply keeps_ascObserve | with_reducible apply keeps_trkFrom | with_reducible apply keeps_modMach | with_reducible apply keeps_faultMach | with_reducible apply keeps_obsBegin | split | fail_if_no_progress (with_reducible apply keeps_mk <;> first | with_reducible exact rfl | with_reducible exact fun h => h | skip) | exact Nat.zero_le _ | dsimp only

theorem keepsO_execAscSettleEnd {kb : Bool} {k0 : State} (m : Fin 2) (s : State) (hk : Keeps kb k0 s) :
    KeepsO kb k0 (execAscSettleEnd m s) := by
  unfold execAscSettleEnd; try dsimp only
  repeat' first | intro _ | with_reducible assumption | with_reducible apply keepsO_ite | with_reducible apply keepsO_next | with_reducible apply keeps_ite | with_reducible apply keeps_adv | with_reducible apply keeps_modMach | with_reducible apply keeps_obsStart | with_reducible apply keeps_ascObserve | with_reducible apply keeps_obsDone | split | fail_if_no_progress (with_reducible apply keeps_mk <;> first | with_reducible exact rfl | with_reducible exact fun h => h | skip) | exact Nat.zero_le _ | dsimp only

theorem keepsO_execAscWindowEnd {kb : Bool} {k0 : State} (w : Fin 8) (s : State) (hk : Keeps kb k0 s) :
    KeepsO kb k0 (execAscWindowEnd w s) := by
  unfold execAscWindowEnd; try dsimp only
  repeat' first | intro _ | with_reducible assumption | with_reducible apply keepsO_ite | with_reducible apply keepsO_next | with_reducible apply keeps_ite | with_reducible apply keeps_adv | with_reducible apply keeps_ascObserve | with_reducible apply keeps_modSet | with_reducible apply keeps_reset | with_reducible apply keeps_obsDone | split | fail_if_no_progress (with_reducible apply keeps_mk <;> first | with_reducible exact rfl | with_reducible exact fun h => h | skip) | exact Nat.zero_le _ | dsimp only

theorem keeps_noteRot {kb : Bool} {k0 : State} (s : State) (w : Fin 8) (hk : Keeps kb k0 s) :
    Keeps kb k0 (State.noteRot s w) := by
  unfold State.noteRot; try dsimp only
  repeat' first | intro _ | with_reducible assumption | with_reducible apply keeps_ite | with_reducible apply keeps_modSet | split | fail_if_no_progress (with_reducible apply keeps_mk <;> first | with_reducible exact rfl | with_reducible exact fun h => h | skip) | exact Nat.zero_le _ | dsimp only

theorem keeps_enterSet {kb : Bool} {k0 : State} (s : State) (w : Fin 8) (sec : Fin 6) (t : Time) (hk : Keeps kb k0 s) :
    Keeps kb k0 (State.enterSet s w sec t) := by
  unfold State.enterSet; try dsimp only
  repeat' first | intro _ | with_reducible assumption | with_reducible apply keeps_ite | with_reducible apply keeps_glkFresh | with_reducible apply keeps_modGroup | with_reducible apply keeps_modSet | with_reducible apply keeps_reset | with_reducible apply keeps_freeNext | split | fail_if_no_progress (with_reducible apply keeps_mk <;> first | with_reducible exact rfl | with_reducible exact fun h => h | skip) | exact Nat.zero_le _ | dsimp only

theorem keepsO_execReacquired {kb : Bool} {k0 : State} (m : Fin 2) (s : State) (hk : Keeps kb k0 s) :
    KeepsO kb k0 (execReacquired m s) := by
  unfold execReacquired; try dsimp only
  repeat' first | intro _ | with_reducible assumption | with_reducible apply keepsO_ite | with_reducible apply keepsO_next | with_reducible apply keeps_ite | with_reducible apply keeps_ascObserve | with_reducible apply keeps_adv | with_reducible apply keeps_modMach | with_reducible apply keeps_endObs | with_reducible apply keeps_toCapture | with_reducible apply keeps_modGroup | with_reducible apply keeps_enterSet | with_reducible apply keeps_modSet | with_reducible apply keeps_reqSet | with_reducible apply keeps_raise | with_reducible apply keeps_retrip | with_reducible apply keeps_foldl | with_reducible apply keeps_foldPair | split | fail_if_no_progress (with_reducible apply keeps_mk <;> first | with_reducible exact rfl | with_reducible exact fun h => h | skip) | exact Nat.zero_le _ | dsimp only

end Sys2Proof.Machine
end

