-- ==== Sys2Proof/Laws/KeepsCell.lean ====
section
/-! SUPPORT. Laws/KeepsCell.lean: what each operation of Cell.lean keeps. -/
namespace Sys2Proof.Machine

set_option linter.all false

theorem keeps_place {kb : Bool} {k0 : State} (s : State) (w : Fin 8) (tc : Time) (resync : Bool) (n : Fin 6) (adv : Rat) (chop : ChopPair) (hk : Keeps kb k0 s) :
    Keeps kb k0 (State.place s w tc resync n adv chop) := by
  unfold State.place; try dsimp only
  repeat' first | intro _ | with_reducible assumption | with_reducible apply keeps_ite | with_reducible apply keeps_modSet | with_reducible apply keeps_adv | split | fail_if_no_progress (with_reducible apply keeps_mk <;> first | with_reducible exact rfl | with_reducible exact fun h => h | skip) | exact Nat.zero_le _ | dsimp only

theorem keeps_placeComm {kb : Bool} {k0 : State} (s : State) (w : Fin 8) (b : Time) (hk : Keeps kb k0 s) :
    Keeps kb k0 (State.placeComm s w b) := by
  unfold State.placeComm; try dsimp only
  repeat' first | intro _ | with_reducible assumption | with_reducible apply keeps_ite | with_reducible apply keeps_adv | with_reducible apply keeps_rcount | with_reducible apply keeps_modSet | with_reducible apply keeps_place | split | fail_if_no_progress (with_reducible apply keeps_mk <;> first | with_reducible exact rfl | with_reducible exact fun h => h | skip) | exact Nat.zero_le _ | dsimp only

theorem keeps_limitSet {kb : Bool} {k0 : State} (s : State) (w : Fin 8) (detail : Nat) (b : Time) (hk : Keeps kb k0 s) :
    Keeps kb k0 (State.limitSet s w detail b) := by
  unfold State.limitSet; try dsimp only
  repeat' first | intro _ | with_reducible assumption | with_reducible apply keeps_ite | with_reducible apply keeps_modSet | with_reducible apply keeps_raise | split | fail_if_no_progress (with_reducible apply keeps_mk <;> first | with_reducible exact rfl | with_reducible exact fun h => h | skip) | exact Nat.zero_le _ | dsimp only

theorem keeps_plausible {kb : Bool} {k0 : State} (s : State) (w : Fin 8) (r im : Rat) (b : Time) (hk : Keeps kb k0 s) :
    Keeps kb k0 (State.plausible s w r im b) := by
  unfold State.plausible; try dsimp only
  repeat' first | intro _ | with_reducible assumption | with_reducible apply keeps_ite | with_reducible apply keeps_modSet | split | fail_if_no_progress (with_reducible apply keeps_mk <;> first | with_reducible exact rfl | with_reducible exact fun h => h | skip) | exact Nat.zero_le _ | dsimp only

theorem keeps_settle {kb : Bool} {k0 : State} (s : State) (w : Fin 8) (b : Time) (hk : Keeps kb k0 s) :
    Keeps kb k0 (State.settle s w b) := by
  unfold State.settle; try dsimp only
  repeat' first | intro _ | with_reducible assumption | with_reducible apply keeps_ite | with_reducible apply keeps_modSet | with_reducible apply keeps_countChange | with_reducible apply keeps_foldl | with_reducible apply keeps_foldPair | split | fail_if_no_progress (with_reducible apply keeps_mk <;> first | with_reducible exact rfl | with_reducible exact fun h => h | skip) | exact Nat.zero_le _ | dsimp only

theorem keeps_overrun {kb : Bool} {k0 : State} (s : State) (w : Fin 8) (b : Time) (hk : Keeps kb k0 s) :
    Keeps kb k0 (State.overrun s w b) := by
  unfold State.overrun; try dsimp only
  repeat' first | intro _ | with_reducible assumption | with_reducible apply keeps_ite | with_reducible apply keeps_modSet | split | fail_if_no_progress (with_reducible apply keeps_mk <;> first | with_reducible exact rfl | with_reducible exact fun h => h | skip) | exact Nat.zero_le _ | dsimp only

theorem keeps_setModel {kb : Bool} {k0 : State} (s : State) (w : Fin 8) (a : Option (Rat × Rat × Bool × Bool)) (b : Time) (hk : Keeps kb k0 s) :
    Keeps kb k0 (State.setModel s w a b) := by
  unfold State.setModel; try dsimp only
  repeat' first | intro _ | with_reducible assumption | with_reducible apply keeps_ite | with_reducible apply keeps_modSet | with_reducible apply keeps_limitSet | split | fail_if_no_progress (with_reducible apply keeps_mk <;> first | with_reducible exact rfl | with_reducible exact fun h => h | skip) | exact Nat.zero_le _ | dsimp only

theorem keeps_bandLimits {kb : Bool} {k0 : State} (s : State) (w : Fin 8) (b : Time) (hk : Keeps kb k0 s) :
    Keeps kb k0 (State.bandLimits s w b) := by
  unfold State.bandLimits; try dsimp only
  repeat' first | intro _ | with_reducible assumption | with_reducible apply keeps_ite | with_reducible apply keeps_limitSet | split | fail_if_no_progress (with_reducible apply keeps_mk <;> first | with_reducible exact rfl | with_reducible exact fun h => h | skip) | exact Nat.zero_le _ | dsimp only

theorem keeps_takeResult {kb : Bool} {k0 : State} (s : State) (w : Fin 8) (b : Time) (p : CellRun) (hk : Keeps kb k0 s) :
    Keeps kb k0 (State.takeResult s w b p) := by
  unfold State.takeResult; try dsimp only
  repeat' first | intro _ | with_reducible assumption | with_reducible apply keeps_ite | with_reducible apply keeps_rcount | with_reducible apply keeps_modSet | with_reducible apply keeps_modMach | with_reducible apply keeps_limitSet | split | fail_if_no_progress (with_reducible apply keeps_mk <;> first | with_reducible exact rfl | with_reducible exact fun h => h | skip) | exact Nat.zero_le _ | dsimp only

theorem keeps_computeCell {kb : Bool} {k0 : State} (s : State) (w : Fin 8) (b : Time) (hk : Keeps kb k0 s) :
    Keeps kb k0 (State.computeCell s w b) := by
  unfold State.computeCell; try dsimp only
  repeat' first | intro _ | with_reducible assumption | with_reducible apply keeps_ite | with_reducible apply keeps_modSet | with_reducible apply keeps_overrun | with_reducible apply keeps_freeNext | with_reducible apply keeps_plausible | with_reducible apply keeps_setModel | with_reducible apply keeps_bandLimits | with_reducible apply keeps_faultSet | with_reducible apply keeps_takeResult | split | fail_if_no_progress (with_reducible apply keeps_mk <;> first | with_reducible exact rfl | with_reducible exact fun h => h | skip) | exact Nat.zero_le _ | dsimp only

theorem keeps_cellPasses {kb : Bool} {k0 : State} (s : State) (b : Time) (hk : Keeps kb k0 s) :
    Keeps kb k0 (State.cellPasses s b) := by
  unfold State.cellPasses; try dsimp only
  repeat' first | intro _ | with_reducible assumption | with_reducible apply keeps_ite | with_reducible apply keeps_forFin | with_reducible apply keeps_computeCell | with_reducible apply keeps_forFin | with_reducible apply keeps_forFinPair | split | fail_if_no_progress (with_reducible apply keeps_mk <;> first | with_reducible exact rfl | with_reducible exact fun h => h | skip) | exact Nat.zero_le _ | dsimp only

theorem keeps_cellBegin {kb : Bool} {k0 : State} (s : State) (w : Fin 8) (b : Time) (hk : Keeps kb k0 s) :
    Keeps kb k0 (State.cellBegin s w b) := by
  unfold State.cellBegin; try dsimp only
  repeat' first | intro _ | with_reducible assumption | with_reducible apply keeps_ite | with_reducible apply keeps_settle | with_reducible apply keeps_placeComm | with_reducible apply keeps_modSet | with_reducible apply keeps_freeNext | split | fail_if_no_progress (with_reducible apply keeps_mk <;> first | with_reducible exact rfl | with_reducible exact fun h => h | skip) | exact Nat.zero_le _ | dsimp only

theorem keeps_adaptRoll {kb : Bool} {k0 : State} (s : State) (w : Fin 8) (b : Time) (hk : Keeps kb k0 s) :
    Keeps kb k0 (State.adaptRoll s w b) := by
  unfold State.adaptRoll; try dsimp only
  repeat' first | intro _ | with_reducible assumption | with_reducible apply keeps_ite | with_reducible apply keeps_capture | with_reducible apply keeps_modSet | with_reducible apply keeps_reset | split | fail_if_no_progress (with_reducible apply keeps_mk <;> first | with_reducible exact rfl | with_reducible exact fun h => h | skip) | exact Nat.zero_le _ | dsimp only

theorem keeps_cellsFp {kb : Bool} {k0 : State} (s : State) (b : Time) (hk : Keeps kb k0 s) :
    Keeps kb k0 (State.cellsFp s b) := by
  unfold State.cellsFp; try dsimp only
  repeat' first | intro _ | with_reducible assumption | with_reducible apply keeps_ite | with_reducible apply keeps_forFin | with_reducible apply keeps_cellBegin | with_reducible apply keeps_adaptRoll | with_reducible apply keeps_cellPasses | with_reducible apply keeps_forFin | with_reducible apply keeps_forFinPair | split | fail_if_no_progress (with_reducible apply keeps_mk <;> first | with_reducible exact rfl | with_reducible exact fun h => h | skip) | exact Nat.zero_le _ | dsimp only

theorem keeps_cellsWake {kb : Bool} {k0 : State} (s : State) (hk : Keeps kb k0 s) :
    Keeps kb k0 (State.cellsWake s) := by
  unfold State.cellsWake; try dsimp only
  repeat' first | intro _ | with_reducible assumption | with_reducible apply keeps_ite | with_reducible apply keeps_cellPasses | split | fail_if_no_progress (with_reducible apply keeps_mk <;> first | with_reducible exact rfl | with_reducible exact fun h => h | skip) | exact Nat.zero_le _ | dsimp only

theorem keepsO_execEngOverrun {kb : Bool} {k0 : State} (w : Fin 8) (s : State) (hk : Keeps kb k0 s) :
    KeepsO kb k0 (execEngOverrun w s) := by
  unfold execEngOverrun; try dsimp only
  repeat' first | intro _ | with_reducible assumption | with_reducible apply keepsO_ite | with_reducible apply keepsO_next | with_reducible apply keeps_ite | with_reducible apply keeps_freeNext | with_reducible apply keeps_adv | with_reducible apply keeps_forFin | with_reducible apply keeps_overrun | with_reducible apply keeps_modSet | with_reducible apply keeps_rcount | with_reducible apply keeps_rsetF | with_reducible apply keeps_raiseF | with_reducible apply keeps_faultSet | with_reducible apply keeps_forFin | with_reducible apply keeps_forFinPair | split | fail_if_no_progress (with_reducible apply keeps_mk <;> first | with_reducible exact rfl | with_reducible exact fun h => h | skip) | exact Nat.zero_le _ | dsimp only

theorem keepsO_execCommutation {kb : Bool} {k0 : State} (w : Fin 8) (s : State) (hk : Keeps kb k0 s) :
    KeepsO kb k0 (execCommutation w s) := by
  unfold execCommutation; try dsimp only
  repeat' first | intro _ | with_reducible assumption | with_reducible apply keepsO_ite | with_reducible apply keepsO_next | with_reducible apply keeps_ite | with_reducible apply keeps_adv | with_reducible apply keeps_modSet | with_reducible apply keeps_reset | with_reducible apply keeps_reqSet | with_reducible apply keeps_countChange | with_reducible apply keeps_rcount | with_reducible apply keeps_foldl | with_reducible apply keeps_foldPair | split | fail_if_no_progress (with_reducible apply keeps_mk <;> first | with_reducible exact rfl | with_reducible exact fun h => h | skip) | exact Nat.zero_le _ | dsimp only

theorem keepsO_execTdDecayEnd {kb : Bool} {k0 : State} (w : Fin 8) (t : Time) (s : State) (hk : Keeps kb k0 s) :
    KeepsO kb k0 (execTdDecayEnd w t s) := by
  unfold execTdDecayEnd; try dsimp only
  repeat' first | intro _ | with_reducible assumption | with_reducible apply keepsO_ite | with_reducible apply keepsO_next | with_reducible apply keeps_ite | with_reducible apply keeps_adv | with_reducible apply keeps_modSet | split | fail_if_no_progress (with_reducible apply keeps_mk <;> first | with_reducible exact rfl | with_reducible exact fun h => h | skip) | exact Nat.zero_le _ | dsimp only

theorem keeps_reportCross {kb : Bool} {k0 : State} (s : State) (w : Fin 8) (tz : Time) (q : Nat) (track : Time) (hk : Keeps kb k0 s) :
    Keeps kb k0 (State.reportCross s w tz q track) := by
  unfold State.reportCross; try dsimp only
  repeat' first | intro _ | with_reducible assumption | with_reducible apply keeps_ite | with_reducible apply keeps_report | split | fail_if_no_progress (with_reducible apply keeps_mk <;> first | with_reducible exact rfl | with_reducible exact fun h => h | skip) | exact Nat.zero_le _ | dsimp only

theorem keeps_missedNow {kb : Bool} {k0 : State} (s : State) (w : Fin 8) (t : Time) (hk : Keeps kb k0 s) :
    Keeps kb k0 (State.missedNow s w t) := by
  unfold State.missedNow; try dsimp only
  repeat' first | intro _ | with_reducible assumption | with_reducible apply keeps_ite | with_reducible apply keeps_modSet | with_reducible apply keeps_rcount | with_reducible apply keeps_reportMiss | split | fail_if_no_progress (with_reducible apply keeps_mk <;> first | with_reducible exact rfl | with_reducible exact fun h => h | skip) | exact Nat.zero_le _ | dsimp only

theorem keepsO_execMissed {kb : Bool} {k0 : State} (w : Fin 8) (t : Time) (s : State) (hk : Keeps kb k0 s) :
    KeepsO kb k0 (execMissed w t s) := by
  unfold execMissed; try dsimp only
  repeat' first | intro _ | with_reducible assumption | with_reducible apply keepsO_ite | with_reducible apply keepsO_next | with_reducible apply keeps_ite | with_reducible apply keeps_adv | with_reducible apply keeps_missedNow | split | fail_if_no_progress (with_reducible apply keeps_mk <;> first | with_reducible exact rfl | with_reducible exact fun h => h | skip) | exact Nat.zero_le _ | dsimp only

theorem keeps_crossSample {kb : Bool} {k0 : State} (s : State) (w : Fin 8) (t : Time) (vf vdc : Rat) (ovr : Bool) (hk : Keeps kb k0 s) :
    Keeps kb k0 (State.crossSample s w t vf vdc ovr) := by
  unfold State.crossSample; try dsimp only
  repeat' first | intro _ | with_reducible assumption | with_reducible apply keeps_ite | with_reducible apply keeps_modSet | with_reducible apply keeps_missedNow | with_reducible apply keeps_rcount | with_reducible apply keeps_reportMiss | with_reducible apply keeps_reportCross | split | fail_if_no_progress (with_reducible apply keeps_mk <;> first | with_reducible exact rfl | with_reducible exact fun h => h | skip) | exact Nat.zero_le _ | dsimp only

theorem keepsO_execAdaptWindowClose {kb : Bool} {k0 : State} (w : Fin 8) (s : State) (hk : Keeps kb k0 s) :
    KeepsO kb k0 (execAdaptWindowClose w s) := by
  unfold execAdaptWindowClose; try dsimp only
  repeat' first | intro _ | with_reducible assumption | with_reducible apply keepsO_ite | with_reducible apply keepsO_next | with_reducible apply keeps_ite | with_reducible apply keeps_modSet | with_reducible apply keeps_bandLimits | split | fail_if_no_progress (with_reducible apply keeps_mk <;> first | with_reducible exact rfl | with_reducible exact fun h => h | skip) | exact Nat.zero_le _ | dsimp only

theorem keepsO_execSampleResult {kb : Bool} {k0 : State} (c : Fin 34) (raw : Int) (beyond2 : Bool) (track : Time) (s : State) (hk : Keeps kb k0 s) :
    KeepsO kb k0 (execSampleResult c raw beyond2 track s) := by
  unfold execSampleResult; try dsimp only
  repeat' first | intro _ | with_reducible assumption | with_reducible apply keepsO_ite | with_reducible apply keepsO_next | with_reducible apply keeps_ite | with_reducible apply keeps_adv | with_reducible apply keeps_sampleIn | with_reducible apply keeps_cellsWake | split | fail_if_no_progress (with_reducible apply keeps_mk <;> first | with_reducible exact rfl | with_reducible exact fun h => h | skip) | exact Nat.zero_le _ | dsimp only

end Sys2Proof.Machine
end

