-- ==== Sys2Proof/Laws/KeepsDemand.lean ====
section
/-! SUPPORT. Laws/KeepsDemand.lean: what each operation of Demand.lean keeps. -/
namespace Sys2Proof.Machine

set_option linter.all false

theorem keeps_stepLoop {kb : Bool} {k0 : State} (s : State) (m : Fin 2) (b : Time) (hk : Keeps kb k0 s) :
    Keeps kb k0 (State.stepLoop s m b) := by
  unfold State.stepLoop; try dsimp only
  repeat' first | intro _ | with_reducible assumption | with_reducible apply keeps_ite | with_reducible apply keeps_modMach | split | fail_if_no_progress (with_reducible apply keeps_mk <;> first | with_reducible exact rfl | with_reducible exact fun h => h | skip) | exact Nat.zero_le _ | dsimp only

theorem keeps_trkFp {kb : Bool} {k0 : State} (s : State) (m : Fin 2) (b : Time) (hk : Keeps kb k0 s) :
    Keeps kb k0 (State.trkFp s m b) := by
  unfold State.trkFp; try dsimp only
  repeat' first | intro _ | with_reducible assumption | with_reducible apply keeps_ite | with_reducible apply keeps_stepLoop | with_reducible apply keeps_trkUpdate | with_reducible apply keeps_trkJudge | with_reducible apply keeps_modMach | split | fail_if_no_progress (with_reducible apply keeps_mk <;> first | with_reducible exact rfl | with_reducible exact fun h => h | skip) | exact Nat.zero_le _ | dsimp only

theorem keeps_preview {kb : Bool} {k0 : State} (s : State) (b : Time) (hk : Keeps kb k0 s) :
    Keeps kb k0 (State.preview s b) := by
  unfold State.preview; try dsimp only
  repeat' first | intro _ | with_reducible assumption | with_reducible apply keeps_ite | with_reducible apply keeps_trkFp | with_reducible apply keeps_foldl | with_reducible apply keeps_foldPair | split | fail_if_no_progress (with_reducible apply keeps_mk <;> first | with_reducible exact rfl | with_reducible exact fun h => h | skip) | exact Nat.zero_le _ | dsimp only

theorem keeps_beginBlend {kb : Bool} {k0 : State} (s : State) (m : Fin 2) (internal : Bool) (d0 : Rat) (b : Time) (hk : Keeps kb k0 s) :
    Keeps kb k0 (State.beginBlend s m internal d0 b) := by
  unfold State.beginBlend; try dsimp only
  repeat' first | intro _ | with_reducible assumption | with_reducible apply keeps_ite | with_reducible apply keeps_raise | with_reducible apply keeps_preview | with_reducible apply keeps_modMach | split | fail_if_no_progress (with_reducible apply keeps_mk <;> first | with_reducible exact rfl | with_reducible exact fun h => h | skip) | exact Nat.zero_le _ | dsimp only

theorem keeps_handInternal {kb : Bool} {k0 : State} (s : State) (m : Fin 2) (dPrev : Rat) (restart : Bool) (b : Time) (hk : Keeps kb k0 s) :
    Keeps kb k0 (State.handInternal s m dPrev restart b) := by
  unfold State.handInternal; try dsimp only
  repeat' first | intro _ | with_reducible assumption | with_reducible apply keeps_ite | with_reducible apply keeps_modMach | with_reducible apply keeps_beginBlend | split | fail_if_no_progress (with_reducible apply keeps_mk <;> first | with_reducible exact rfl | with_reducible exact fun h => h | skip) | exact Nat.zero_le _ | dsimp only

theorem keeps_aspCount {kb : Bool} {k0 : State} (s : State) (m : Fin 2) (v : Rat) (hk : Keeps kb k0 s) :
    Keeps kb k0 (State.aspCount s m v) := by
  unfold State.aspCount; try dsimp only
  repeat' first | intro _ | with_reducible assumption | with_reducible apply keeps_ite | with_reducible apply keeps_modMach | split | fail_if_no_progress (with_reducible apply keeps_mk <;> first | with_reducible exact rfl | with_reducible exact fun h => h | skip) | exact Nat.zero_le _ | dsimp only

theorem keeps_aspLand {kb : Bool} {k0 : State} (s : State) (m : Fin 2) (b : Time) (hk : Keeps kb k0 s) :
    Keeps kb k0 (State.aspLand s m b) := by
  unfold State.aspLand; try dsimp only
  repeat' first | intro _ | with_reducible assumption | with_reducible apply keeps_ite | with_reducible apply keeps_aspCount | split | fail_if_no_progress (with_reducible apply keeps_mk <;> first | with_reducible exact rfl | with_reducible exact fun h => h | skip) | exact Nat.zero_le _ | dsimp only

theorem keeps_aspSample {kb : Bool} {k0 : State} (s : State) (m : Fin 2) (v : Rat) (t : Time) (hk : Keeps kb k0 s) :
    Keeps kb k0 (State.aspSample s m v t) := by
  unfold State.aspSample; try dsimp only
  repeat' first | intro _ | with_reducible assumption | with_reducible apply keeps_ite | with_reducible apply keeps_aspLand | with_reducible apply keeps_modMach | split | fail_if_no_progress (with_reducible apply keeps_mk <;> first | with_reducible exact rfl | with_reducible exact fun h => h | skip) | exact Nat.zero_le _ | dsimp only

theorem keeps_wdFeed {kb : Bool} {k0 : State} (s : State) (m : Fin 2) (hk : Keeps kb k0 s) :
    Keeps kb k0 (State.wdFeed s m) := by
  unfold State.wdFeed; try dsimp only
  repeat' first | intro _ | with_reducible assumption | with_reducible apply keeps_ite | with_reducible apply keeps_modMach | split | fail_if_no_progress (with_reducible apply keeps_mk <;> first | with_reducible exact rfl | with_reducible exact fun h => h | skip) | exact Nat.zero_le _ | dsimp only

theorem keeps_srcUpdate {kb : Bool} {k0 : State} (s : State) (m : Fin 2) (b : Time) (hk : Keeps kb k0 s) :
    Keeps kb k0 (State.srcUpdate s m b) := by
  unfold State.srcUpdate; try dsimp only
  repeat' first | intro _ | with_reducible assumption | with_reducible apply keeps_ite | with_reducible apply keeps_aspLand | with_reducible apply keeps_modMach | split | fail_if_no_progress (with_reducible apply keeps_mk <;> first | with_reducible exact rfl | with_reducible exact fun h => h | skip) | exact Nat.zero_le _ | dsimp only

theorem keeps_startDecel {kb : Bool} {k0 : State} (s : State) (m : Fin 2) (cause : Nat) (t : Time) (hk : Keeps kb k0 s) :
    Keeps kb k0 (State.startDecel s m cause t) := by
  unfold State.startDecel; try dsimp only
  repeat' first | intro _ | with_reducible assumption | with_reducible apply keeps_ite | with_reducible apply keeps_discardRev | with_reducible apply keeps_modMach | with_reducible apply keeps_raise | split | fail_if_no_progress (with_reducible apply keeps_mk <;> first | with_reducible exact rfl | with_reducible exact fun h => h | skip) | exact Nat.zero_le _ | dsimp only

theorem keeps_enterFallback {kb : Bool} {k0 : State} (s : State) (m : Fin 2) (cause : Nat) (b : Time) (hk : Keeps kb k0 s) :
    Keeps kb k0 (State.enterFallback s m cause b) := by
  unfold State.enterFallback; try dsimp only
  repeat' first | intro _ | with_reducible assumption | with_reducible apply keeps_ite | with_reducible apply keeps_raiseF | with_reducible apply keeps_modMach | with_reducible apply keeps_raise | with_reducible apply keeps_beginBlend | with_reducible apply keeps_startDecel | split | fail_if_no_progress (with_reducible apply keeps_mk <;> first | with_reducible exact rfl | with_reducible exact fun h => h | skip) | exact Nat.zero_le _ | dsimp only

theorem keeps_judgeSources {kb : Bool} {k0 : State} (s : State) (m : Fin 2) (b : Time) (hk : Keeps kb k0 s) :
    Keeps kb k0 (State.judgeSources s m b) := by
  unfold State.judgeSources; try dsimp only
  repeat' first | intro _ | with_reducible assumption | with_reducible apply keeps_ite | with_reducible apply keeps_srcUpdate | with_reducible apply keeps_enterFallback | split | fail_if_no_progress (with_reducible apply keeps_mk <;> first | with_reducible exact rfl | with_reducible exact fun h => h | skip) | exact Nat.zero_le _ | dsimp only

theorem keeps_decelHold {kb : Bool} {k0 : State} (s : State) (m : Fin 2) (b : Time) (hk : Keeps kb k0 s) :
    Keeps kb k0 (State.decelHold s m b) := by
  unfold State.decelHold; try dsimp only
  repeat' first | intro _ | with_reducible assumption | with_reducible apply keeps_ite | with_reducible apply keeps_modMach | with_reducible apply keeps_raise | split | fail_if_no_progress (with_reducible apply keeps_mk <;> first | with_reducible exact rfl | with_reducible exact fun h => h | skip) | exact Nat.zero_le _ | dsimp only

theorem keeps_decelBegin {kb : Bool} {k0 : State} (s : State) (m : Fin 2) (cause : Nat) (b : Time) (hk : Keeps kb k0 s) :
    Keeps kb k0 (State.decelBegin s m cause b) := by
  unfold State.decelBegin; try dsimp only
  repeat' first | intro _ | with_reducible assumption | with_reducible apply keeps_ite | with_reducible apply keeps_modMach | with_reducible apply keeps_handInternal | with_reducible apply keeps_raise | with_reducible apply keeps_decelHold | split | fail_if_no_progress (with_reducible apply keeps_mk <;> first | with_reducible exact rfl | with_reducible exact fun h => h | skip) | exact Nat.zero_le _ | dsimp only

theorem keeps_enactDir {kb : Bool} {k0 : State} (s : State) (m : Fin 2) (rev : Bool) (b : Time) (hk : Keeps kb k0 s) :
    Keeps kb k0 (State.enactDir s m rev b) := by
  unfold State.enactDir; try dsimp only
  repeat' first | intro _ | with_reducible assumption | with_reducible apply keeps_ite | with_reducible apply keeps_modMach | with_reducible apply keeps_raise | split | fail_if_no_progress (with_reducible apply keeps_mk <;> first | with_reducible exact rfl | with_reducible exact fun h => h | skip) | exact Nat.zero_le _ | dsimp only

theorem keeps_decelEnd {kb : Bool} {k0 : State} (s : State) (m : Fin 2) (b : Time) (hk : Keeps kb k0 s) :
    Keeps kb k0 (State.decelEnd s m b) := by
  unfold State.decelEnd; try dsimp only
  repeat' first | intro _ | with_reducible assumption | with_reducible apply keeps_ite | with_reducible apply keeps_modMach | with_reducible apply keeps_raise | with_reducible apply keeps_offMach | with_reducible apply keeps_idleMach | with_reducible apply keeps_enactDir | with_reducible apply keeps_handInternal | with_reducible apply keeps_machSafe | split | fail_if_no_progress (with_reducible apply keeps_mk <;> first | with_reducible exact rfl | with_reducible exact fun h => h | skip) | exact Nat.zero_le _ | dsimp only

theorem keeps_decelStep {kb : Bool} {k0 : State} (s : State) (m : Fin 2) (b : Time) (hk : Keeps kb k0 s) :
    Keeps kb k0 (State.decelStep s m b) := by
  unfold State.decelStep; try dsimp only
  repeat' first | intro _ | with_reducible assumption | with_reducible apply keeps_ite | with_reducible apply keeps_capture | with_reducible apply keeps_hold | with_reducible apply keeps_modMach | with_reducible apply keeps_decelHold | with_reducible apply keeps_raise | with_reducible apply keeps_decelEnd | split | fail_if_no_progress (with_reducible apply keeps_mk <;> first | with_reducible exact rfl | with_reducible exact fun h => h | skip) | exact Nat.zero_le _ | dsimp only

theorem keeps_saturate {kb : Bool} {k0 : State} (s : State) (m : Fin 2) (a u l : Bool) (b : Time) (hk : Keeps kb k0 s) :
    Keeps kb k0 (State.saturate s m a u l b) := by
  unfold State.saturate; try dsimp only
  repeat' first | intro _ | with_reducible assumption | with_reducible apply keeps_ite | with_reducible apply keeps_modMach | with_reducible apply keeps_raise | with_reducible apply keeps_foldl | with_reducible apply keeps_foldPair | split | fail_if_no_progress (with_reducible apply keeps_mk <;> first | with_reducible exact rfl | with_reducible exact fun h => h | skip) | exact Nat.zero_le _ | dsimp only

theorem keeps_feJudge {kb : Bool} {k0 : State} (s : State) (m : Fin 2) (b : Time) (hk : Keeps kb k0 s) :
    Keeps kb k0 (State.feJudge s m b) := by
  unfold State.feJudge; try dsimp only
  repeat' first | intro _ | with_reducible assumption | with_reducible apply keeps_ite | with_reducible apply keeps_modMach | with_reducible apply keeps_foldl | with_reducible apply keeps_foldPair | split | fail_if_no_progress (with_reducible apply keeps_mk <;> first | with_reducible exact rfl | with_reducible exact fun h => h | skip) | exact Nat.zero_le _ | dsimp only

theorem keeps_mcTransitions {kb : Bool} {k0 : State} (s : State) (m : Fin 2) (b : Time) (hk : Keeps kb k0 s) :
    Keeps kb k0 (State.mcTransitions s m b) := by
  unfold State.mcTransitions; try dsimp only
  repeat' first | intro _ | with_reducible assumption | with_reducible apply keeps_ite | with_reducible apply keeps_judgeSources | with_reducible apply keeps_modMach | with_reducible apply keeps_enactDir | with_reducible apply keeps_handInternal | with_reducible apply keeps_decelBegin | with_reducible apply keeps_decelStep | split | fail_if_no_progress (with_reducible apply keeps_mk <;> first | with_reducible exact rfl | with_reducible exact fun h => h | skip) | exact Nat.zero_le _ | dsimp only

theorem keeps_mcRun {kb : Bool} {k0 : State} (s : State) (m : Fin 2) (b : Time) (hk : Keeps kb k0 s) :
    Keeps kb k0 (State.mcRun s m b) := by
  unfold State.mcRun; try dsimp only
  repeat' first | intro _ | with_reducible assumption | with_reducible apply keeps_ite | with_reducible apply keeps_feJudge | with_reducible apply keeps_modMach | with_reducible apply keeps_raise | with_reducible apply keeps_mcTransitions | with_reducible apply keeps_saturate | with_reducible apply keeps_faultMach | split | fail_if_no_progress (with_reducible apply keeps_mk <;> first | with_reducible exact rfl | with_reducible exact fun h => h | skip) | exact Nat.zero_le _ | dsimp only

theorem keepsO_execBankSwap {kb : Bool} {k0 : State} (q : CmdQ) (s : State) (hk : Keeps kb k0 s) :
    KeepsO kb k0 (execBankSwap q s) := by
  unfold execBankSwap; try dsimp only
  repeat' first | intro _ | with_reducible assumption | with_reducible apply keepsO_ite | with_reducible apply keepsO_next | with_reducible apply keeps_ite | with_reducible apply keepsO_runCmd | with_reducible apply keeps_finish | with_reducible apply keeps_modMach | with_reducible apply keeps_awaitAt | with_reducible apply keeps_foldl | with_reducible apply keeps_foldPair | split | fail_if_no_progress (with_reducible apply keeps_mk <;> first | with_reducible exact rfl | with_reducible exact fun h => h | skip) | exact Nat.zero_le _ | dsimp only

theorem keeps_clampSet {kb : Bool} {k0 : State} (s : State) (w : Fin 8) (b : Time) (hk : Keeps kb k0 s) :
    Keeps kb k0 (State.clampSet s w b) := by
  unfold State.clampSet; try dsimp only
  repeat' first | intro _ | with_reducible assumption | with_reducible apply keeps_ite | with_reducible apply keeps_modSet | split | fail_if_no_progress (with_reducible apply keeps_mk <;> first | with_reducible exact rfl | with_reducible exact fun h => h | skip) | exact Nat.zero_le _ | dsimp only

theorem keeps_swapMach {kb : Bool} {k0 : State} (s : State) (m : Fin 2) (b : Time) (hk : Keeps kb k0 s) :
    Keeps kb k0 (State.swapMach s m b) := by
  unfold State.swapMach; try dsimp only
  repeat' first | intro _ | with_reducible assumption | with_reducible apply keeps_ite | with_reducible apply keeps_modMach | with_reducible apply keeps_clampSet | with_reducible apply keeps_preview | with_reducible apply keeps_saturate | with_reducible apply keeps_raise | with_reducible apply keeps_foldl | with_reducible apply keeps_foldPair | split | fail_if_no_progress (with_reducible apply keeps_mk <;> first | with_reducible exact rfl | with_reducible exact fun h => h | skip) | exact Nat.zero_le _ | dsimp only

theorem keeps_swapFor {kb : Bool} {k0 : State} (s : State) (c : Waiting) (b : Time) (hk : Keeps kb k0 s) :
    Keeps kb k0 (State.swapFor s c b) := by
  unfold State.swapFor; try dsimp only
  repeat' first | intro _ | with_reducible assumption | with_reducible apply keeps_ite | with_reducible apply keeps_swapMach | with_reducible apply keeps_finishW | with_reducible apply keeps_modMach | with_reducible apply keeps_foldl | with_reducible apply keeps_foldPair | split | fail_if_no_progress (with_reducible apply keeps_mk <;> first | with_reducible exact rfl | with_reducible exact fun h => h | skip) | exact Nat.zero_le _ | dsimp only

theorem keeps_swapsDue {kb : Bool} {k0 : State} (s : State) (b : Time) (hk : Keeps kb k0 s) :
    Keeps kb k0 (State.swapsDue s b) := by
  unfold State.swapsDue; try dsimp only
  repeat' first | intro _ | with_reducible assumption | with_reducible apply keeps_ite | with_reducible apply keeps_swapFor | with_reducible apply keeps_foldl | with_reducible apply keeps_foldPair | split | fail_if_no_progress (with_reducible apply keeps_mk <;> first | with_reducible exact rfl | with_reducible exact fun h => h | skip) | exact Nat.zero_le _ | dsimp only

theorem keepsO_execBankSwapped {kb : Bool} {k0 : State} (s : State) (hk : Keeps kb k0 s) :
    KeepsO kb k0 (execBankSwapped s) := by
  unfold execBankSwapped; try dsimp only
  repeat' first | intro _ | with_reducible assumption | with_reducible apply keepsO_ite | with_reducible apply keepsO_next | with_reducible apply keeps_ite | with_reducible apply keeps_adv | with_reducible apply keeps_swapFor | split | fail_if_no_progress (with_reducible apply keeps_mk <;> first | with_reducible exact rfl | with_reducible exact fun h => h | skip) | exact Nat.zero_le _ | dsimp only

theorem keepsO_execSetpoint {kb : Bool} {k0 : State} (q : CmdQ) (s : State) (hk : Keeps kb k0 s) :
    KeepsO kb k0 (execSetpoint q s) := by
  unfold execSetpoint; try dsimp only
  repeat' first | intro _ | with_reducible assumption | with_reducible apply keepsO_ite | with_reducible apply keepsO_next | with_reducible apply keeps_ite | with_reducible apply keepsO_runCmd | with_reducible apply keeps_finish | with_reducible apply keeps_setHost | with_reducible apply keeps_wdFeed | split | fail_if_no_progress (with_reducible apply keeps_mk <;> first | with_reducible exact rfl | with_reducible exact fun h => h | skip) | exact Nat.zero_le _ | dsimp only

theorem keepsO_execModeSelect {kb : Bool} {k0 : State} (q : CmdQ) (s : State) (hk : Keeps kb k0 s) :
    KeepsO kb k0 (execModeSelect q s) := by
  unfold execModeSelect; try dsimp only
  repeat' first | intro _ | with_reducible assumption | with_reducible apply keepsO_ite | with_reducible apply keepsO_next | with_reducible apply keeps_ite | with_reducible apply keepsO_runCmd | with_reducible apply keeps_finish | with_reducible apply keeps_awaitJudge | split | fail_if_no_progress (with_reducible apply keeps_mk <;> first | with_reducible exact rfl | with_reducible exact fun h => h | skip) | exact Nat.zero_le _ | dsimp only

theorem keeps_takeValid {kb : Bool} {k0 : State} (s : State) (m : Fin 2) (b : Time) (hk : Keeps kb k0 s) :
    Keeps kb k0 (State.takeValid s m b) := by
  unfold State.takeValid; try dsimp only
  repeat' first | intro _ | with_reducible assumption | with_reducible apply keeps_ite | with_reducible apply keeps_preview | with_reducible apply keeps_modMach | split | fail_if_no_progress (with_reducible apply keeps_mk <;> first | with_reducible exact rfl | with_reducible exact fun h => h | skip) | exact Nat.zero_le _ | dsimp only

theorem keeps_setMode {kb : Bool} {k0 : State} (s : State) (m : Fin 2) (speed : Bool) (src : Nat) (b : Time) (hk : Keeps kb k0 s) :
    Keeps kb k0 (State.setMode s m speed src b) := by
  unfold State.setMode; try dsimp only
  repeat' first | intro _ | with_reducible assumption | with_reducible apply keeps_ite | with_reducible apply keeps_aspLand | with_reducible apply keeps_modMach | with_reducible apply keeps_takeValid | split | fail_if_no_progress (with_reducible apply keeps_mk <;> first | with_reducible exact rfl | with_reducible exact fun h => h | skip) | exact Nat.zero_le _ | dsimp only

theorem keeps_judgeMode {kb : Bool} {k0 : State} (s : State) (m : Fin 2) (speed : Bool) (src : Nat) (b : Time) (hk : Keeps kb k0 s) :
    Keeps kb k0 (State.judgeMode s m speed src b).1 := by
  unfold State.judgeMode; try dsimp only
  repeat' first | intro _ | with_reducible assumption | with_reducible apply keeps_ite | with_reducible apply keeps_aspLand | with_reducible apply keeps_modMach | with_reducible apply keeps_setMode | with_reducible apply keeps_preview | with_reducible apply keeps_beginBlend | split | fail_if_no_progress (with_reducible apply keeps_mk <;> first | with_reducible exact rfl | with_reducible exact fun h => h | skip) | exact Nat.zero_le _ | dsimp only

theorem keeps_beforeHand {kb : Bool} {k0 : State} (s : State) (m : Fin 2) (b : Time) (hk : Keeps kb k0 s) :
    Keeps kb k0 (State.beforeHand s m b) := by
  unfold State.beforeHand; try dsimp only
  repeat' first | intro _ | with_reducible assumption | with_reducible apply keeps_ite | with_reducible apply keeps_adv | with_reducible apply keeps_swapsDue | with_reducible apply keeps_judgeSources | split | fail_if_no_progress (with_reducible apply keeps_mk <;> first | with_reducible exact rfl | with_reducible exact fun h => h | skip) | exact Nat.zero_le _ | dsimp only

theorem keepsO_execModeSelectJudged {kb : Bool} {k0 : State} (s : State) (hk : Keeps kb k0 s) :
    KeepsO kb k0 (execModeSelectJudged s) := by
  unfold execModeSelectJudged; try dsimp only
  repeat' first | intro _ | with_reducible assumption | with_reducible apply keepsO_ite | with_reducible apply keepsO_next | with_reducible apply keeps_ite | with_reducible apply keeps_beforeHand | with_reducible apply keeps_judgeMode | with_reducible apply keeps_finishW | split | fail_if_no_progress (with_reducible apply keeps_mk <;> first | with_reducible exact rfl | with_reducible exact fun h => h | skip) | exact Nat.zero_le _ | dsimp only

theorem keepsO_execPspMeasurement {kb : Bool} {k0 : State} (m : Fin 2) (period high : Nat) (t : Time) (s : State) (hk : Keeps kb k0 s) :
    KeepsO kb k0 (execPspMeasurement m period high t s) := by
  unfold execPspMeasurement; try dsimp only
  repeat' first | intro _ | with_reducible assumption | with_reducible apply keepsO_ite | with_reducible apply keepsO_next | with_reducible apply keeps_ite | with_reducible apply keeps_adv | with_reducible apply keeps_modMach | split | fail_if_no_progress (with_reducible apply keeps_mk <;> first | with_reducible exact rfl | with_reducible exact fun h => h | skip) | exact Nat.zero_le _ | dsimp only

theorem keepsO_execSetpointInput {kb : Bool} {k0 : State} (m : Fin 2) (psp : Bool) (s : State) (hk : Keeps kb k0 s) :
    KeepsO kb k0 (execSetpointInput m psp s) := by
  unfold execSetpointInput; try dsimp only
  repeat' first | intro _ | with_reducible assumption | with_reducible apply keepsO_ite | with_reducible apply keepsO_next | with_reducible apply keeps_ite | with_reducible apply keeps_adv | with_reducible apply keeps_aspLand | with_reducible apply keeps_modMach | with_reducible apply keeps_raiseF | split | fail_if_no_progress (with_reducible apply keeps_mk <;> first | with_reducible exact rfl | with_reducible exact fun h => h | skip) | exact Nat.zero_le _ | dsimp only

theorem keeps_fallbackAt {kb : Bool} {k0 : State} (s : State) (m : Fin 2) (c : Nat) (hk : Keeps kb k0 s) :
    Keeps kb k0 (State.fallbackAt s m c) := by
  unfold State.fallbackAt; try dsimp only
  repeat' first | intro _ | with_reducible assumption | with_reducible apply keeps_ite | with_reducible apply keeps_adv | with_reducible apply keeps_swapsDue | with_reducible apply keeps_srcUpdate | with_reducible apply keeps_enterFallback | split | fail_if_no_progress (with_reducible apply keeps_mk <;> first | with_reducible exact rfl | with_reducible exact fun h => h | skip) | exact Nat.zero_le _ | dsimp only

theorem keepsO_execSetpointMismatch {kb : Bool} {k0 : State} (m : Fin 2) (s : State) (hk : Keeps kb k0 s) :
    KeepsO kb k0 (execSetpointMismatch m s) := by
  unfold execSetpointMismatch; try dsimp only
  repeat' first | intro _ | with_reducible assumption | with_reducible apply keepsO_ite | with_reducible apply keepsO_next | with_reducible apply keeps_ite | with_reducible apply keeps_fallbackAt | split | fail_if_no_progress (with_reducible apply keeps_mk <;> first | with_reducible exact rfl | with_reducible exact fun h => h | skip) | exact Nat.zero_le _ | dsimp only

theorem keepsO_execHostWatchdogExpiry {kb : Bool} {k0 : State} (m : Fin 2) (s : State) (hk : Keeps kb k0 s) :
    KeepsO kb k0 (execHostWatchdogExpiry m s) := by
  unfold execHostWatchdogExpiry; try dsimp only
  repeat' first | intro _ | with_reducible assumption | with_reducible apply keepsO_ite | with_reducible apply keepsO_next | with_reducible apply keeps_ite | with_reducible apply keeps_fallbackAt | split | fail_if_no_progress (with_reducible apply keeps_mk <;> first | with_reducible exact rfl | with_reducible exact fun h => h | skip) | exact Nat.zero_le _ | dsimp only

theorem keepsO_execWinnerChanged {kb : Bool} {k0 : State} (m : Fin 2) (s : State) (hk : Keeps kb k0 s) :
    KeepsO kb k0 (execWinnerChanged m s) := by
  unfold execWinnerChanged; try dsimp only
  repeat' first | intro _ | with_reducible assumption | with_reducible apply keepsO_ite | with_reducible apply keepsO_next | with_reducible apply keeps_ite | with_reducible apply keeps_modMach | with_reducible apply keeps_raise | split | fail_if_no_progress (with_reducible apply keeps_mk <;> first | with_reducible exact rfl | with_reducible exact fun h => h | skip) | exact Nat.zero_le _ | dsimp only

theorem keepsO_execDecelHoldLong {kb : Bool} {k0 : State} (m : Fin 2) (s : State) (hk : Keeps kb k0 s) :
    KeepsO kb k0 (execDecelHoldLong m s) := by
  unfold execDecelHoldLong; try dsimp only
  repeat' first | intro _ | with_reducible assumption | with_reducible apply keepsO_ite | with_reducible apply keepsO_next | with_reducible apply keeps_ite | with_reducible apply keeps_modMach | with_reducible apply keeps_raise | split | fail_if_no_progress (with_reducible apply keeps_mk <;> first | with_reducible exact rfl | with_reducible exact fun h => h | skip) | exact Nat.zero_le _ | dsimp only

theorem keepsO_execMcOverrun {kb : Bool} {k0 : State} (m : Fin 2) (s : State) (hk : Keeps kb k0 s) :
    KeepsO kb k0 (execMcOverrun m s) := by
  unfold execMcOverrun; try dsimp only
  repeat' first | intro _ | with_reducible assumption | with_reducible apply keepsO_ite | with_reducible apply keepsO_next | with_reducible apply keeps_ite | with_reducible apply keeps_mcRun | with_reducible apply keeps_modMach | with_reducible apply keeps_raiseF | with_reducible apply keeps_faultMach | split | fail_if_no_progress (with_reducible apply keeps_mk <;> first | with_reducible exact rfl | with_reducible exact fun h => h | skip) | exact Nat.zero_le _ | dsimp only

end Sys2Proof.Machine
end

