-- ==== Sys2Proof/Laws/KeepsStart.lean ====
section
/-! SUPPORT. Laws/KeepsStart.lean: what each operation of Start.lean keeps. -/
namespace Sys2Proof.Machine

set_option linter.all false

theorem keepsO_execDriveStart {kb : Bool} {k0 : State} (q : CmdQ) (s : State) (hk : Keeps kb k0 s) :
    KeepsO kb k0 (execDriveStart q s) := by
  unfold execDriveStart; try dsimp only
  repeat' first | intro _ | with_reducible assumption | with_reducible apply keepsO_ite | with_reducible apply keepsO_next | with_reducible apply keeps_ite | with_reducible apply keepsO_runCmd | with_reducible apply keeps_finish | with_reducible apply keeps_awaitAt | split | fail_if_no_progress (with_reducible apply keeps_mk <;> first | with_reducible exact rfl | with_reducible exact fun h => h | skip) | exact Nat.zero_le _ | dsimp only

theorem keeps_startSet {kb : Bool} {k0 : State} (s : State) (w : Fin 8) (b : Time) (hk : Keeps kb k0 s) :
    Keeps kb k0 (State.startSet s w b) := by
  unfold State.startSet; try dsimp only
  repeat' first | intro _ | with_reducible assumption | with_reducible apply keeps_ite | with_reducible apply keeps_modSet | with_reducible apply keeps_reset | split | fail_if_no_progress (with_reducible apply keeps_mk <;> first | with_reducible exact rfl | with_reducible exact fun h => h | skip) | exact Nat.zero_le _ | dsimp only

theorem keeps_startMach {kb : Bool} {k0 : State} (s : State) (m : Fin 2) (b : Time) (hk : Keeps kb k0 s) :
    Keeps kb k0 (State.startMach s m b) := by
  unfold State.startMach; try dsimp only
  repeat' first | intro _ | with_reducible assumption | with_reducible apply keeps_ite | with_reducible apply keeps_aspLand | with_reducible apply keeps_modMach | with_reducible apply keeps_reset | with_reducible apply keeps_startSet | with_reducible apply keeps_takeValid | with_reducible apply keeps_hallJudge | with_reducible apply keeps_ascObserve | with_reducible apply keeps_modSet | with_reducible apply keeps_forFin | with_reducible apply keeps_modGroup | with_reducible apply keeps_startAtRest | with_reducible apply keeps_beginListen | with_reducible apply keeps_foldl | with_reducible apply keeps_foldPair | with_reducible apply keeps_forFin | with_reducible apply keeps_forFinPair | split | fail_if_no_progress (with_reducible apply keeps_mk <;> first | with_reducible exact rfl | with_reducible exact fun h => h | skip) | exact Nat.zero_le _ | dsimp only

theorem keepsO_execDriveStartActs {kb : Bool} {k0 : State} (s : State) (hk : Keeps kb k0 s) :
    KeepsO kb k0 (execDriveStartActs s) := by
  unfold execDriveStartActs; try dsimp only
  repeat' first | intro _ | with_reducible assumption | with_reducible apply keepsO_ite | with_reducible apply keepsO_next | with_reducible apply keeps_ite | with_reducible apply keeps_adv | with_reducible apply keeps_forFin | with_reducible apply keeps_wdFeed | with_reducible apply keeps_startMach | with_reducible apply keeps_finishW | with_reducible apply keeps_foldl | with_reducible apply keeps_foldPair | with_reducible apply keeps_forFin | with_reducible apply keeps_forFinPair | split | fail_if_no_progress (with_reducible apply keeps_mk <;> first | with_reducible exact rfl | with_reducible exact fun h => h | skip) | exact Nat.zero_le _ | dsimp only

theorem keepsO_execDriveStop {kb : Bool} {k0 : State} (q : CmdQ) (s : State) (hk : Keeps kb k0 s) :
    KeepsO kb k0 (execDriveStop q s) := by
  unfold execDriveStop; try dsimp only
  repeat' first | intro _ | with_reducible assumption | with_reducible apply keepsO_ite | with_reducible apply keepsO_next | with_reducible apply keeps_ite | with_reducible apply keepsO_runCmd | with_reducible apply keeps_finish | with_reducible apply keeps_awaitAt | split | fail_if_no_progress (with_reducible apply keeps_mk <;> first | with_reducible exact rfl | with_reducible exact fun h => h | skip) | exact Nat.zero_le _ | dsimp only

theorem keeps_stopMach {kb : Bool} {k0 : State} (s : State) (m : Fin 2) (decel : Bool) (t : Time) (hk : Keeps kb k0 s) :
    Keeps kb k0 (State.stopMach s m decel t) := by
  unfold State.stopMach; try dsimp only
  repeat' first | intro _ | with_reducible assumption | with_reducible apply keeps_ite | with_reducible apply keeps_discardRev | with_reducible apply keeps_idleMach | with_reducible apply keeps_capture | with_reducible apply keeps_startDecel | with_reducible apply keeps_modMach | with_reducible apply keeps_decaySet | with_reducible apply keeps_forFin | with_reducible apply keeps_modGroup | with_reducible apply keeps_offMach | with_reducible apply keeps_foldl | with_reducible apply keeps_foldPair | with_reducible apply keeps_forFin | with_reducible apply keeps_forFinPair | split | fail_if_no_progress (with_reducible apply keeps_mk <;> first | with_reducible exact rfl | with_reducible exact fun h => h | skip) | exact Nat.zero_le _ | dsimp only

theorem keepsO_execDriveStopActs {kb : Bool} {k0 : State} (s : State) (hk : Keeps kb k0 s) :
    KeepsO kb k0 (execDriveStopActs s) := by
  unfold execDriveStopActs; try dsimp only
  repeat' first | intro _ | with_reducible assumption | with_reducible apply keepsO_ite | with_reducible apply keepsO_next | with_reducible apply keeps_ite | with_reducible apply keeps_stopMach | with_reducible apply keeps_adv | with_reducible apply keeps_finishW | with_reducible apply keeps_foldl | with_reducible apply keeps_foldPair | split | fail_if_no_progress (with_reducible apply keeps_mk <;> first | with_reducible exact rfl | with_reducible exact fun h => h | skip) | exact Nat.zero_le _ | dsimp only

theorem keepsO_execReverse {kb : Bool} {k0 : State} (q : CmdQ) (s : State) (hk : Keeps kb k0 s) :
    KeepsO kb k0 (execReverse q s) := by
  unfold execReverse; try dsimp only
  repeat' first | intro _ | with_reducible assumption | with_reducible apply keepsO_ite | with_reducible apply keepsO_next | with_reducible apply keeps_ite | with_reducible apply keepsO_runCmd | with_reducible apply keeps_finish | with_reducible apply keeps_awaitJudge | split | fail_if_no_progress (with_reducible apply keeps_mk <;> first | with_reducible exact rfl | with_reducible exact fun h => h | skip) | exact Nat.zero_le _ | dsimp only

theorem keeps_judgeRev {kb : Bool} {k0 : State} (s : State) (m : Fin 2) (tgt first : Bool) (b : Time) (hk : Keeps kb k0 s) :
    Keeps kb k0 (State.judgeRev s m tgt first b).1 := by
  unfold State.judgeRev; try dsimp only
  repeat' first | intro _ | with_reducible assumption | with_reducible apply keeps_ite | with_reducible apply keeps_enactDir | with_reducible apply keeps_discardRev | with_reducible apply keeps_modMach | with_reducible apply keeps_handInternal | with_reducible apply keeps_preview | with_reducible apply keeps_startDecel | split | fail_if_no_progress (with_reducible apply keeps_mk <;> first | with_reducible exact rfl | with_reducible exact fun h => h | skip) | exact Nat.zero_le _ | dsimp only

theorem keepsO_execReverseJudged {kb : Bool} {k0 : State} (s : State) (hk : Keeps kb k0 s) :
    KeepsO kb k0 (execReverseJudged s) := by
  unfold execReverseJudged; try dsimp only
  repeat' first | intro _ | with_reducible assumption | with_reducible apply keepsO_ite | with_reducible apply keepsO_next | with_reducible apply keeps_ite | with_reducible apply keeps_beforeHand | with_reducible apply keeps_judgeRev | with_reducible apply keeps_finishW | split | fail_if_no_progress (with_reducible apply keeps_mk <;> first | with_reducible exact rfl | with_reducible exact fun h => h | skip) | exact Nat.zero_le _ | dsimp only

end Sys2Proof.Machine
end

