-- ==== Sys2Proof/Laws/KeepsDirect.lean ====
section
/-! SUPPORT. Laws/KeepsDirect.lean: what each operation of Direct.lean keeps. -/
namespace Sys2Proof.Machine

set_option linter.all false

theorem keepsO_execPgDirect {kb : Bool} {k0 : State} (q : CmdQ) (s : State) (hk : Keeps kb k0 s) :
    KeepsO kb k0 (execPgDirect q s) := by
  unfold execPgDirect; try dsimp only
  repeat' first | intro _ | with_reducible assumption | with_reducible apply keepsO_ite | with_reducible apply keepsO_next | with_reducible apply keeps_ite | with_reducible apply keepsO_runCmd | with_reducible apply keeps_finish | with_reducible apply keeps_awaitAt | split | fail_if_no_progress (with_reducible apply keeps_mk <;> first | with_reducible exact rfl | with_reducible exact fun h => h | skip) | exact Nat.zero_le _ | dsimp only

theorem keeps_dirStart {kb : Bool} {k0 : State} (s : State) (t : Time) (hk : Keeps kb k0 s) :
    Keeps kb k0 (State.dirStart s t) := by
  unfold State.dirStart; try dsimp only
  repeat' first | intro _ | with_reducible assumption | with_reducible apply keeps_ite | split | fail_if_no_progress (with_reducible apply keeps_mk <;> first | with_reducible exact rfl | with_reducible exact fun h => h | skip) | exact Nat.zero_le _ | dsimp only

theorem keeps_dirJoin {kb : Bool} {k0 : State} (s : State) (g : Fin 8) (t : Time) (hk : Keeps kb k0 s) :
    Keeps kb k0 (State.dirJoin s g t) := by
  unfold State.dirJoin; try dsimp only
  repeat' first | intro _ | with_reducible assumption | with_reducible apply keeps_ite | with_reducible apply keeps_modGroup | with_reducible apply keeps_lowGroup | split | fail_if_no_progress (with_reducible apply keeps_mk <;> first | with_reducible exact rfl | with_reducible exact fun h => h | skip) | exact Nat.zero_le _ | dsimp only

theorem keepsO_execDirectEnter {kb : Bool} {k0 : State} (s : State) (hk : Keeps kb k0 s) :
    KeepsO kb k0 (execDirectEnter s) := by
  unfold execDirectEnter; try dsimp only
  repeat' first | intro _ | with_reducible assumption | with_reducible apply keepsO_ite | with_reducible apply keepsO_next | with_reducible apply keeps_ite | with_reducible apply keeps_adv | with_reducible apply keeps_dirStart | with_reducible apply keeps_dirJoin | with_reducible apply keeps_retrip | with_reducible apply keeps_raise | with_reducible apply keeps_finishW | with_reducible apply keeps_foldl | with_reducible apply keeps_foldPair | split | fail_if_no_progress (with_reducible apply keeps_mk <;> first | with_reducible exact rfl | with_reducible exact fun h => h | skip) | exact Nat.zero_le _ | dsimp only

theorem keeps_dirDrop {kb : Bool} {k0 : State} (s : State) (g : Fin 8) (t : Time) (hk : Keeps kb k0 s) :
    Keeps kb k0 (State.dirDrop s g t) := by
  unfold State.dirDrop; try dsimp only
  repeat' first | intro _ | with_reducible assumption | with_reducible apply keeps_ite | with_reducible apply keeps_modGroup | with_reducible apply keeps_releaseGroup | split | fail_if_no_progress (with_reducible apply keeps_mk <;> first | with_reducible exact rfl | with_reducible exact fun h => h | skip) | exact Nat.zero_le _ | dsimp only

theorem keeps_dirStop {kb : Bool} {k0 : State} (s : State) (hk : Keeps kb k0 s) :
    Keeps kb k0 (State.dirStop s) := by
  unfold State.dirStop; try dsimp only
  repeat' first | intro _ | with_reducible assumption | with_reducible apply keeps_ite | split | fail_if_no_progress (with_reducible apply keeps_mk <;> first | with_reducible exact rfl | with_reducible exact fun h => h | skip) | exact Nat.zero_le _ | dsimp only

theorem keepsO_execDirectLeave {kb : Bool} {k0 : State} (s : State) (hk : Keeps kb k0 s) :
    KeepsO kb k0 (execDirectLeave s) := by
  unfold execDirectLeave; try dsimp only
  repeat' first | intro _ | with_reducible assumption | with_reducible apply keepsO_ite | with_reducible apply keepsO_next | with_reducible apply keeps_ite | with_reducible apply keeps_dirDrop | with_reducible apply keeps_adv | with_reducible apply keeps_dirStop | with_reducible apply keeps_raise | with_reducible apply keeps_finishW | with_reducible apply keeps_foldl | with_reducible apply keeps_foldPair | split | fail_if_no_progress (with_reducible apply keeps_mk <;> first | with_reducible exact rfl | with_reducible exact fun h => h | skip) | exact Nat.zero_le _ | dsimp only

theorem keeps_commitNow {kb : Bool} {k0 : State} (s : State) (hk : Keeps kb k0 s) :
    Keeps kb k0 (State.commitNow s) := by
  unfold State.commitNow; try dsimp only
  repeat' first | intro _ | with_reducible assumption | with_reducible apply keeps_ite | with_reducible apply keeps_rsetF | split | fail_if_no_progress (with_reducible apply keeps_mk <;> first | with_reducible exact rfl | with_reducible exact fun h => h | skip) | exact Nat.zero_le _ | dsimp only

theorem keepsO_execCommit {kb : Bool} {k0 : State} (t : Time) (s : State) (hk : Keeps kb k0 s) :
    KeepsO kb k0 (execCommit t s) := by
  unfold execCommit; try dsimp only
  repeat' first | intro _ | with_reducible assumption | with_reducible apply keepsO_ite | with_reducible apply keepsO_next | with_reducible apply keeps_ite | with_reducible apply keepsO_onRegs | with_reducible apply keeps_commitNow | split | fail_if_no_progress (with_reducible apply keeps_mk <;> first | with_reducible exact rfl | with_reducible exact fun h => h | skip) | exact Nat.zero_le _ | dsimp only

theorem keeps_clampSnap {kb : Bool} {k0 : State} (s : State) (x : Snap) (t : Time) (hk : Keeps kb k0 s) :
    Keeps kb k0 (State.clampSnap s x t).1 := by
  unfold State.clampSnap; try dsimp only
  repeat' first | intro _ | with_reducible assumption | with_reducible apply keeps_ite | with_reducible apply keeps_rsetF | with_reducible apply keeps_raise | with_reducible apply keeps_freeNext | with_reducible apply keeps_foldl | with_reducible apply keeps_foldPair | split | fail_if_no_progress (with_reducible apply keeps_mk <;> first | with_reducible exact rfl | with_reducible exact fun h => h | skip) | exact Nat.zero_le _ | dsimp only

theorem keeps_applyCommit {kb : Bool} {k0 : State} (s : State) (x : Snap) (t : Time) (hk : Keeps kb k0 s) :
    Keeps kb k0 (State.applyCommit s x t) := by
  unfold State.applyCommit; try dsimp only
  repeat' first | intro _ | with_reducible assumption | with_reducible apply keeps_ite | with_reducible apply keeps_clampSnap | with_reducible apply keeps_rsetF | with_reducible apply keeps_raise | split | fail_if_no_progress (with_reducible apply keeps_mk <;> first | with_reducible exact rfl | with_reducible exact fun h => h | skip) | exact Nat.zero_le _ | dsimp only

theorem keepsO_execDirectBoundary {kb : Bool} {k0 : State} (s : State) (hk : Keeps kb k0 s) :
    KeepsO kb k0 (execDirectBoundary s) := by
  unfold execDirectBoundary; try dsimp only
  repeat' first | intro _ | with_reducible assumption | with_reducible apply keepsO_ite | with_reducible apply keepsO_next | with_reducible apply keeps_ite | with_reducible apply keeps_adv | with_reducible apply keeps_applyCommit | split | fail_if_no_progress (with_reducible apply keeps_mk <;> first | with_reducible exact rfl | with_reducible exact fun h => h | skip) | exact Nat.zero_le _ | dsimp only

end Sys2Proof.Machine
end

