-- ==== Sys2Proof/Laws/KeepsAcquire.lean ====
section
/-! SUPPORT. Laws/KeepsAcquire.lean: what each operation of Acquire.lean keeps. -/
namespace Sys2Proof.Machine

set_option linter.all false

theorem keepsO_execFloatingPhaseSample {kb : Bool} {k0 : State} (w : Fin 8) (raw : Int) (track : Time) (s : State) (hk : Keeps kb k0 s) :
    KeepsO kb k0 (execFloatingPhaseSample w raw track s) := by
  unfold execFloatingPhaseSample; try dsimp only
  repeat' first | intro _ | with_reducible assumption | with_reducible apply keepsO_ite | with_reducible apply keepsO_next | with_reducible apply keeps_ite | with_reducible apply keeps_adv | with_reducible apply keeps_vcSample | with_reducible apply keeps_crossSample | split | fail_if_no_progress (with_reducible apply keeps_mk <;> first | with_reducible exact rfl | with_reducible exact fun h => h | skip) | exact Nat.zero_le _ | dsimp only

theorem keepsO_execAdcUrgent {kb : Bool} {k0 : State} (q : CmdQ) (s : State) (hk : Keeps kb k0 s) :
    KeepsO kb k0 (execAdcUrgent q s) := by
  unfold execAdcUrgent; try dsimp only
  repeat' first | intro _ | with_reducible assumption | with_reducible apply keepsO_ite | with_reducible apply keepsO_next | with_reducible apply keeps_ite | with_reducible apply keepsO_runCmd | with_reducible apply keeps_finish | with_reducible apply keeps_askUrgent | with_reducible apply keeps_await | split | fail_if_no_progress (with_reducible apply keeps_mk <;> first | with_reducible exact rfl | with_reducible exact fun h => h | skip) | exact Nat.zero_le _ | dsimp only

theorem keeps_dropUrgent {kb : Bool} {k0 : State} (s : State) (u : Urgent) (hk : Keeps kb k0 s) :
    Keeps kb k0 (State.dropUrgent s u) := by
  unfold State.dropUrgent; try dsimp only
  repeat' first | intro _ | with_reducible assumption | with_reducible apply keeps_ite | split | fail_if_no_progress (with_reducible apply keeps_mk <;> first | with_reducible exact rfl | with_reducible exact fun h => h | skip) | exact Nat.zero_le _ | dsimp only

theorem keeps_answerUrgent {kb : Bool} {k0 : State} (s : State) (u : Urgent) (x : Sample) (hk : Keeps kb k0 s) :
    Keeps kb k0 (State.answerUrgent s u x) := by
  unfold State.answerUrgent; try dsimp only
  repeat' first | intro _ | with_reducible assumption | with_reducible apply keeps_ite | with_reducible apply keeps_dropUrgent | with_reducible apply keeps_finishW | split | fail_if_no_progress (with_reducible apply keeps_mk <;> first | with_reducible exact rfl | with_reducible exact fun h => h | skip) | exact Nat.zero_le _ | dsimp only

theorem keeps_openCheck {kb : Bool} {k0 : State} (s : State) (c : Fin 2) (x : Sample) (hk : Keeps kb k0 s) :
    Keeps kb k0 (State.openCheck s c x) := by
  unfold State.openCheck; try dsimp only
  repeat' first | intro _ | with_reducible assumption | with_reducible apply keeps_ite | with_reducible apply keeps_rcount | with_reducible apply keeps_modChop | split | fail_if_no_progress (with_reducible apply keeps_mk <;> first | with_reducible exact rfl | with_reducible exact fun h => h | skip) | exact Nat.zero_le _ | dsimp only

theorem keeps_shortCheck {kb : Bool} {k0 : State} (s : State) (c : Fin 2) (x : Sample) (hk : Keeps kb k0 s) :
    Keeps kb k0 (State.shortCheck s c x) := by
  unfold State.shortCheck; try dsimp only
  repeat' first | intro _ | with_reducible assumption | with_reducible apply keeps_ite | with_reducible apply keeps_modChop | split | fail_if_no_progress (with_reducible apply keeps_mk <;> first | with_reducible exact rfl | with_reducible exact fun h => h | skip) | exact Nat.zero_le _ | dsimp only

theorem keeps_hkSample {kb : Bool} {k0 : State} (s : State) (c : Nat) (raw : Int) (t : Time) (hk : Keeps kb k0 s) :
    Keeps kb k0 (State.hkSample s c raw t).1 := by
  unfold State.hkSample; try dsimp only
  repeat' first | intro _ | with_reducible assumption | with_reducible apply keeps_ite | with_reducible apply keeps_converts | with_reducible apply keeps_slowFlags | with_reducible apply keeps_deliver | split | fail_if_no_progress (with_reducible apply keeps_mk <;> first | with_reducible exact rfl | with_reducible exact fun h => h | skip) | exact Nat.zero_le _ | dsimp only

theorem keeps_aspFeed {kb : Bool} {k0 : State} (s : State) (c : Nat) (x : Sample) (hk : Keeps kb k0 s) :
    Keeps kb k0 (State.aspFeed s c x) := by
  unfold State.aspFeed; try dsimp only
  repeat' first | intro _ | with_reducible assumption | with_reducible apply keeps_ite | with_reducible apply keeps_aspSample | split | fail_if_no_progress (with_reducible apply keeps_mk <;> first | with_reducible exact rfl | with_reducible exact fun h => h | skip) | exact Nat.zero_le _ | dsimp only

theorem keeps_vcRef {kb : Bool} {k0 : State} (s : State) (w : Fin 8) (x : Sample) (hk : Keeps kb k0 s) :
    Keeps kb k0 (State.vcRef s w x) := by
  unfold State.vcRef; try dsimp only
  repeat' first | intro _ | with_reducible assumption | with_reducible apply keeps_ite | with_reducible apply keeps_raise | split | fail_if_no_progress (with_reducible apply keeps_mk <;> first | with_reducible exact rfl | with_reducible exact fun h => h | skip) | exact Nat.zero_le _ | dsimp only

theorem keeps_writeHk {kb : Bool} {k0 : State} (s : State) (i : Fin 22) (v : Word) (hk : Keeps kb k0 s) :
    Keeps kb k0 (State.writeHk s i v) := by
  unfold State.writeHk; try dsimp only
  repeat' first | intro _ | with_reducible assumption | with_reducible apply keeps_ite | with_reducible apply keeps_writeWord | split | fail_if_no_progress (with_reducible apply keeps_mk <;> first | with_reducible exact rfl | with_reducible exact fun h => h | skip) | exact Nat.zero_le _ | dsimp only

theorem keeps_hkServed {kb : Bool} {k0 : State} (s : State) (i : Fin 22) (hk : Keeps kb k0 s) :
    Keeps kb k0 (State.hkServed s i) := by
  unfold State.hkServed; try dsimp only
  repeat' first | intro _ | with_reducible assumption | with_reducible apply keeps_ite | split | fail_if_no_progress (with_reducible apply keeps_mk <;> first | with_reducible exact rfl | with_reducible exact fun h => h | skip) | exact Nat.zero_le _ | dsimp only

theorem keeps_hkResult {kb : Bool} {k0 : State} (s : State) (c : Nat) (raw : Int) (track : Time) (sched : Bool) (hk : Keeps kb k0 s) :
    Keeps kb k0 (State.hkResult s c raw track sched).1 := by
  unfold State.hkResult; try dsimp only
  repeat' first | intro _ | with_reducible assumption | with_reducible apply keeps_ite | with_reducible apply keeps_hkSample | with_reducible apply keeps_aspFeed | with_reducible apply keeps_openCheck | with_reducible apply keeps_shortCheck | split | fail_if_no_progress (with_reducible apply keeps_mk <;> first | with_reducible exact rfl | with_reducible exact fun h => h | skip) | exact Nat.zero_le _ | dsimp only

theorem keeps_vcResult {kb : Bool} {k0 : State} (s : State) (w : Fin 8) (k : Nat) (raw : Int) (track : Time) (hk : Keeps kb k0 s) :
    Keeps kb k0 (State.vcResult s w k raw track).1 := by
  unfold State.vcResult; try dsimp only
  repeat' first | intro _ | with_reducible assumption | with_reducible apply keeps_ite | with_reducible apply keeps_vcSample | with_reducible apply keeps_vcRef | split | fail_if_no_progress (with_reducible apply keeps_mk <;> first | with_reducible exact rfl | with_reducible exact fun h => h | skip) | exact Nat.zero_le _ | dsimp only

theorem keepsO_execChopperCheckConversion {kb : Bool} {k0 : State} (c : Fin 2) (raw : Int) (track : Time) (s : State) (hk : Keeps kb k0 s) :
    KeepsO kb k0 (execChopperCheckConversion c raw track s) := by
  unfold execChopperCheckConversion; try dsimp only
  repeat' first | intro _ | with_reducible assumption | with_reducible apply keepsO_ite | with_reducible apply keepsO_next | with_reducible apply keeps_ite | with_reducible apply keeps_adv | with_reducible apply keeps_dropUrgent | with_reducible apply keeps_hkSample | with_reducible apply keeps_aspFeed | with_reducible apply keeps_openCheck | split | fail_if_no_progress (with_reducible apply keeps_mk <;> first | with_reducible exact rfl | with_reducible exact fun h => h | skip) | exact Nat.zero_le _ | dsimp only

theorem keepsO_execAdcCalibrate {kb : Bool} {k0 : State} (q : CmdQ) (s : State) (hk : Keeps kb k0 s) :
    KeepsO kb k0 (execAdcCalibrate q s) := by
  unfold execAdcCalibrate; try dsimp only
  repeat' first | intro _ | with_reducible assumption | with_reducible apply keepsO_ite | with_reducible apply keepsO_next | with_reducible apply keeps_ite | with_reducible apply keepsO_runCmd | with_reducible apply keeps_finish | with_reducible apply keeps_lopStart | with_reducible apply keeps_closeAll | split | fail_if_no_progress (with_reducible apply keeps_mk <;> first | with_reducible exact rfl | with_reducible exact fun h => h | skip) | exact Nat.zero_le _ | dsimp only

theorem keeps_calApply {kb : Bool} {k0 : State} (s : State) (res : List Nat) (full : Bool) (hk : Keeps kb k0 s) :
    Keeps kb k0 (State.calApply s res full).1 := by
  unfold State.calApply; try dsimp only
  repeat' first | intro _ | with_reducible assumption | with_reducible apply keeps_ite | with_reducible apply keeps_rsetF | with_reducible apply keeps_forFin | with_reducible apply keeps_modPair | with_reducible apply keeps_reBound | with_reducible apply keeps_foldl | with_reducible apply keeps_foldPair | with_reducible apply keeps_forFin | with_reducible apply keeps_forFinPair | split | fail_if_no_progress (with_reducible apply keeps_mk <;> first | with_reducible exact rfl | with_reducible exact fun h => h | skip) | exact Nat.zero_le _ | dsimp only

theorem keeps_calPairs {kb : Bool} {k0 : State} (s : State) (fails : List Nat) (full : Bool) (hk : Keeps kb k0 s) :
    Keeps kb k0 (State.calPairs s fails full) := by
  unfold State.calPairs; try dsimp only
  repeat' first | intro _ | with_reducible assumption | with_reducible apply keeps_ite | with_reducible apply keeps_forFin | with_reducible apply keeps_modPair | with_reducible apply keeps_failMember | with_reducible apply keeps_forFin | with_reducible apply keeps_forFinPair | split | fail_if_no_progress (with_reducible apply keeps_mk <;> first | with_reducible exact rfl | with_reducible exact fun h => h | skip) | exact Nat.zero_le _ | dsimp only

theorem keeps_calDone {kb : Bool} {k0 : State} (s : State) (k : Fin 8) (res : List Nat) (full : Bool) (hk : Keeps kb k0 s) :
    Keeps kb k0 (State.calDone s k res full) := by
  unfold State.calDone; try dsimp only
  repeat' first | intro _ | with_reducible assumption | with_reducible apply keeps_ite | with_reducible apply keeps_calApply | with_reducible apply keeps_calPairs | with_reducible apply keeps_gridStart | with_reducible apply keeps_lopEnd | split | fail_if_no_progress (with_reducible apply keeps_mk <;> first | with_reducible exact rfl | with_reducible exact fun h => h | skip) | exact Nat.zero_le _ | dsimp only

theorem keepsO_execCalPhaseEnd {kb : Bool} {k0 : State} (vals : List (Fin 44 × Int)) (t : Time) (s : State) (hk : Keeps kb k0 s) :
    KeepsO kb k0 (execCalPhaseEnd vals t s) := by
  unfold execCalPhaseEnd; try dsimp only
  repeat' first | intro _ | with_reducible assumption | with_reducible apply keepsO_ite | with_reducible apply keepsO_next | with_reducible apply keeps_ite | with_reducible apply keeps_adv | with_reducible apply keeps_modLop | with_reducible apply keeps_lopPause | with_reducible apply keeps_gridStart | with_reducible apply keeps_calDone | split | fail_if_no_progress (with_reducible apply keeps_mk <;> first | with_reducible exact rfl | with_reducible exact fun h => h | skip) | exact Nat.zero_le _ | dsimp only

theorem keeps_clearTracked {kb : Bool} {k0 : State} (s : State) (hk : Keeps kb k0 s) :
    Keeps kb k0 (State.clearTracked s) := by
  unfold State.clearTracked; try dsimp only
  repeat' first | intro _ | with_reducible assumption | with_reducible apply keeps_ite | with_reducible apply keeps_forFin | with_reducible apply keeps_modPair | with_reducible apply keeps_reBound | with_reducible apply keeps_forFin | with_reducible apply keeps_forFinPair | split | fail_if_no_progress (with_reducible apply keeps_mk <;> first | with_reducible exact rfl | with_reducible exact fun h => h | skip) | exact Nat.zero_le _ | dsimp only

theorem keeps_writeCalTag {kb : Bool} {k0 : State} (s : State) (v : Word) (hk : Keeps kb k0 s) :
    Keeps kb k0 (State.writeCalTag s v) := by
  unfold State.writeCalTag; try dsimp only
  repeat' first | intro _ | with_reducible assumption | with_reducible apply keeps_ite | with_reducible apply keeps_clearTracked | with_reducible apply keeps_rsetF | with_reducible apply keeps_raise | split | fail_if_no_progress (with_reducible apply keeps_mk <;> first | with_reducible exact rfl | with_reducible exact fun h => h | skip) | exact Nat.zero_le _ | dsimp only

theorem keepsO_execCalTagWrite {kb : Bool} {k0 : State} (v : Word) (t : Time) (s : State) (hk : Keeps kb k0 s) :
    KeepsO kb k0 (execCalTagWrite v t s) := by
  unfold execCalTagWrite; try dsimp only
  repeat' first | intro _ | with_reducible assumption | with_reducible apply keepsO_ite | with_reducible apply keepsO_next | with_reducible apply keeps_ite | with_reducible apply keepsO_onRegs | with_reducible apply keeps_writeCalTag | split | fail_if_no_progress (with_reducible apply keeps_mk <;> first | with_reducible exact rfl | with_reducible exact fun h => h | skip) | exact Nat.zero_le _ | dsimp only

theorem keeps_writeFactor {kb : Bool} {k0 : State} (s : State) (d : RegDesc) (n : Nat) (v : Word) (hk : Keeps kb k0 s) :
    Keeps kb k0 (State.writeFactor s d n v) := by
  unfold State.writeFactor; try dsimp only
  repeat' first | intro _ | with_reducible assumption | with_reducible apply keeps_ite | with_reducible apply keeps_writeWord | split | fail_if_no_progress (with_reducible apply keeps_mk <;> first | with_reducible exact rfl | with_reducible exact fun h => h | skip) | exact Nat.zero_le _ | dsimp only

theorem keepsO_execCalFactorWrite {kb : Bool} {k0 : State} (f : CalFactor) (v : Word) (t : Time) (s : State) (hk : Keeps kb k0 s) :
    KeepsO kb k0 (execCalFactorWrite f v t s) := by
  unfold execCalFactorWrite; try dsimp only
  repeat' first | intro _ | with_reducible assumption | with_reducible apply keepsO_ite | with_reducible apply keepsO_next | with_reducible apply keeps_ite | with_reducible apply keepsO_onRegs | with_reducible apply keeps_writeFactor | with_reducible apply keeps_reBound | split | fail_if_no_progress (with_reducible apply keeps_mk <;> first | with_reducible exact rfl | with_reducible exact fun h => h | skip) | exact Nat.zero_le _ | dsimp only

theorem keeps_writeWindow {kb : Bool} {k0 : State} (s : State) (n : Fin 20) (v : Word) (hk : Keeps kb k0 s) :
    Keeps kb k0 (State.writeWindow s n v) := by
  unfold State.writeWindow; try dsimp only
  repeat' first | intro _ | with_reducible assumption | with_reducible apply keeps_ite | with_reducible apply keeps_writeReject | with_reducible apply keeps_writeWord | split | fail_if_no_progress (with_reducible apply keeps_mk <;> first | with_reducible exact rfl | with_reducible exact fun h => h | skip) | exact Nat.zero_le _ | dsimp only

theorem keepsO_execWindowConfigWrite {kb : Bool} {k0 : State} (n : Fin 20) (v : Word) (t : Time) (s : State) (hk : Keeps kb k0 s) :
    KeepsO kb k0 (execWindowConfigWrite n v t s) := by
  unfold execWindowConfigWrite; try dsimp only
  repeat' first | intro _ | with_reducible assumption | with_reducible apply keepsO_ite | with_reducible apply keepsO_next | with_reducible apply keeps_ite | with_reducible apply keepsO_onRegs | with_reducible apply keeps_writeWindow | split | fail_if_no_progress (with_reducible apply keeps_mk <;> first | with_reducible exact rfl | with_reducible exact fun h => h | skip) | exact Nat.zero_le _ | dsimp only

end Sys2Proof.Machine
end

