-- ==== Sys2Proof/Laws/KeepsGateLink.lean ====
section
/-! SUPPORT. Laws/KeepsGateLink.lean: what each operation of GateLink.lean keeps. -/
namespace Sys2Proof.Machine

set_option linter.all false

theorem keeps_glkDiscard {kb : Bool} {k0 : State} (s : State) (g : Fin 8) (t : Time) (hk : Keeps kb k0 s) :
    Keeps kb k0 (State.glkDiscard s g t) := by
  unfold State.glkDiscard; try dsimp only
  repeat' first | intro _ | with_reducible assumption | with_reducible apply keeps_ite | with_reducible apply keeps_rcount | with_reducible apply keeps_modGlk | split | fail_if_no_progress (with_reducible apply keeps_mk <;> first | with_reducible exact rfl | with_reducible exact fun h => h | skip) | exact Nat.zero_le _ | dsimp only

theorem keeps_glkCond {kb : Bool} {k0 : State} (s : State) (g : Fin 8) (k : Nat) (now : Bool) (held : BitVec 6) (detail : Nat) (t : Time) (hk : Keeps kb k0 s) :
    Keeps kb k0 (State.glkCond s g k now held detail t).1 := by
  unfold State.glkCond; try dsimp only
  repeat' first | intro _ | with_reducible assumption | with_reducible apply keeps_ite | with_reducible apply keeps_faultSet | split | fail_if_no_progress (with_reducible apply keeps_mk <;> first | with_reducible exact rfl | with_reducible exact fun h => h | skip) | exact Nat.zero_le _ | dsimp only

theorem keeps_glkSwitch {kb : Bool} {k0 : State} (s : State) (g : Fin 8) (k : Nat) (f : BitVec 64) (t0 t : Time) (hk : Keeps kb k0 s) :
    Keeps kb k0 (State.glkSwitch s g k f t0 t) := by
  unfold State.glkSwitch; try dsimp only
  repeat' first | intro _ | with_reducible assumption | with_reducible apply keeps_ite | with_reducible apply keeps_glkCond | with_reducible apply keeps_modGlk | split | fail_if_no_progress (with_reducible apply keeps_mk <;> first | with_reducible exact rfl | with_reducible exact fun h => h | skip) | exact Nat.zero_le _ | dsimp only

theorem keeps_glkTemp {kb : Bool} {k0 : State} (s : State) (g : Fin 8) (f : BitVec 64) (hk : Keeps kb k0 s) :
    Keeps kb k0 (State.glkTemp s g f) := by
  unfold State.glkTemp; try dsimp only
  repeat' first | intro _ | with_reducible assumption | with_reducible apply keeps_ite | with_reducible apply keeps_modGlk | split | fail_if_no_progress (with_reducible apply keeps_mk <;> first | with_reducible exact rfl | with_reducible exact fun h => h | skip) | exact Nat.zero_le _ | dsimp only

theorem keepsO_execTelemetryFrame {kb : Bool} {k0 : State} (g : Fin 8) (frame : BitVec 64) (midOk : Bool) (t : Time) (s : State) (hk : Keeps kb k0 s) :
    KeepsO kb k0 (execTelemetryFrame g frame midOk t s) := by
  unfold execTelemetryFrame; try dsimp only
  repeat' first | intro _ | with_reducible assumption | with_reducible apply keepsO_ite | with_reducible apply keepsO_next | with_reducible apply keeps_ite | with_reducible apply keeps_adv | with_reducible apply keeps_glkDiscard | with_reducible apply keeps_modGlk | with_reducible apply keeps_freeNext | with_reducible apply keeps_glkSwitch | with_reducible apply keeps_glkTemp | with_reducible apply keeps_foldl | with_reducible apply keeps_foldPair | split | fail_if_no_progress (with_reducible apply keeps_mk <;> first | with_reducible exact rfl | with_reducible exact fun h => h | skip) | exact Nat.zero_le _ | dsimp only

theorem keepsO_execGateMismatch {kb : Bool} {k0 : State} (sw : Fin 48) (s : State) (hk : Keeps kb k0 s) :
    KeepsO kb k0 (execGateMismatch sw s) := by
  unfold execGateMismatch; try dsimp only
  repeat' first | intro _ | with_reducible assumption | with_reducible apply keepsO_ite | with_reducible apply keepsO_next | with_reducible apply keeps_ite | with_reducible apply keeps_modGlk | with_reducible apply keeps_faultSet | split | fail_if_no_progress (with_reducible apply keeps_mk <;> first | with_reducible exact rfl | with_reducible exact fun h => h | skip) | exact Nat.zero_le _ | dsimp only

theorem keepsO_execModTsd {kb : Bool} {k0 : State} (l : Fin 24) (s : State) (hk : Keeps kb k0 s) :
    KeepsO kb k0 (execModTsd l s) := by
  unfold execModTsd; try dsimp only
  repeat' first | intro _ | with_reducible assumption | with_reducible apply keepsO_ite | with_reducible apply keepsO_next | with_reducible apply keeps_ite | with_reducible apply keeps_modGlk | with_reducible apply keeps_faultSet | split | fail_if_no_progress (with_reducible apply keeps_mk <;> first | with_reducible exact rfl | with_reducible exact fun h => h | skip) | exact Nat.zero_le _ | dsimp only

theorem keepsO_execGlkLost {kb : Bool} {k0 : State} (g : Fin 8) (t : Time) (s : State) (hk : Keeps kb k0 s) :
    KeepsO kb k0 (execGlkLost g t s) := by
  unfold execGlkLost; try dsimp only
  repeat' first | intro _ | with_reducible assumption | with_reducible apply keepsO_ite | with_reducible apply keepsO_next | with_reducible apply keeps_ite | with_reducible apply keeps_adv | with_reducible apply keeps_modGlk | with_reducible apply keeps_faultSet | split | fail_if_no_progress (with_reducible apply keeps_mk <;> first | with_reducible exact rfl | with_reducible exact fun h => h | skip) | exact Nat.zero_le _ | dsimp only

theorem keepsO_execGlkError {kb : Bool} {k0 : State} (g : Fin 8) (s : State) (hk : Keeps kb k0 s) :
    KeepsO kb k0 (execGlkError g s) := by
  unfold execGlkError; try dsimp only
  repeat' first | intro _ | with_reducible assumption | with_reducible apply keepsO_ite | with_reducible apply keepsO_next | with_reducible apply keeps_ite | with_reducible apply keeps_modGlk | with_reducible apply keeps_health | split | fail_if_no_progress (with_reducible apply keeps_mk <;> first | with_reducible exact rfl | with_reducible exact fun h => h | skip) | exact Nat.zero_le _ | dsimp only

theorem keeps_writeGlkCmd {kb : Bool} {k0 : State} (s : State) (g : Fin 8) (v : Word) (hk : Keeps kb k0 s) :
    Keeps kb k0 (State.writeGlkCmd s g v) := by
  unfold State.writeGlkCmd; try dsimp only
  repeat' first | intro _ | with_reducible assumption | with_reducible apply keeps_ite | with_reducible apply keeps_writeReject | with_reducible apply keeps_writeWord | with_reducible apply keeps_modGlk | split | fail_if_no_progress (with_reducible apply keeps_mk <;> first | with_reducible exact rfl | with_reducible exact fun h => h | skip) | exact Nat.zero_le _ | dsimp only

theorem keepsO_execGlkCmdGo {kb : Bool} {k0 : State} (g : Fin 8) (v : Word) (t : Time) (s : State) (hk : Keeps kb k0 s) :
    KeepsO kb k0 (execGlkCmdGo g v t s) := by
  unfold execGlkCmdGo; try dsimp only
  repeat' first | intro _ | with_reducible assumption | with_reducible apply keepsO_ite | with_reducible apply keepsO_next | with_reducible apply keeps_ite | with_reducible apply keepsO_onRegs | with_reducible apply keeps_writeGlkCmd | split | fail_if_no_progress (with_reducible apply keeps_mk <;> first | with_reducible exact rfl | with_reducible exact fun h => h | skip) | exact Nat.zero_le _ | dsimp only

theorem keepsO_execCmdFail {kb : Bool} {k0 : State} (g : Fin 8) (s : State) (hk : Keeps kb k0 s) :
    KeepsO kb k0 (execCmdFail g s) := by
  unfold execCmdFail; try dsimp only
  repeat' first | intro _ | with_reducible assumption | with_reducible apply keepsO_ite | with_reducible apply keepsO_next | with_reducible apply keeps_ite | with_reducible apply keeps_modGlk | with_reducible apply keeps_rsetF | split | fail_if_no_progress (with_reducible apply keeps_mk <;> first | with_reducible exact rfl | with_reducible exact fun h => h | skip) | exact Nat.zero_le _ | dsimp only

theorem keepsO_execGateLinkFrameSend {kb : Bool} {k0 : State} (g : Fin 8) (t : Time) (s : State) (hk : Keeps kb k0 s) :
    KeepsO kb k0 (execGateLinkFrameSend g t s) := by
  unfold execGateLinkFrameSend; try dsimp only
  repeat' first | intro _ | with_reducible assumption | with_reducible apply keepsO_ite | with_reducible apply keepsO_next | with_reducible apply keeps_ite | with_reducible apply keeps_adv | with_reducible apply keeps_modGlk | split | fail_if_no_progress (with_reducible apply keeps_mk <;> first | with_reducible exact rfl | with_reducible exact fun h => h | skip) | exact Nat.zero_le _ | dsimp only

theorem keeps_cycleStep {kb : Bool} {k0 : State} (s : State) (l : Fin 24) (r : Rat) (hk : Keeps kb k0 s) :
    Keeps kb k0 (State.cycleStep s l r) := by
  unfold State.cycleStep; try dsimp only
  repeat' first | intro _ | with_reducible assumption | with_reducible apply keeps_ite | with_reducible apply keeps_ledgerPut | split | fail_if_no_progress (with_reducible apply keeps_mk <;> first | with_reducible exact rfl | with_reducible exact fun h => h | skip) | exact Nat.zero_le _ | dsimp only

theorem keeps_wearRound {kb : Bool} {k0 : State} (s : State) (l : Fin 24) (r : Rat) (hk : Keeps kb k0 s) :
    Keeps kb k0 (State.wearRound s l r) := by
  unfold State.wearRound; try dsimp only
  repeat' first | intro _ | with_reducible assumption | with_reducible apply keeps_ite | with_reducible apply keeps_ledgerPut | with_reducible apply keeps_cycleStep | split | fail_if_no_progress (with_reducible apply keeps_mk <;> first | with_reducible exact rfl | with_reducible exact fun h => h | skip) | exact Nat.zero_le _ | dsimp only

theorem keeps_wearAll {kb : Bool} {k0 : State} (s : State) (hk : Keeps kb k0 s) :
    Keeps kb k0 (State.wearAll s) := by
  unfold State.wearAll; try dsimp only
  repeat' first | intro _ | with_reducible assumption | with_reducible apply keeps_ite | with_reducible apply keeps_forFin | with_reducible apply keeps_wearRound | with_reducible apply keeps_modGlk | with_reducible apply keeps_forFin | with_reducible apply keeps_forFinPair | split | fail_if_no_progress (with_reducible apply keeps_mk <;> first | with_reducible exact rfl | with_reducible exact fun h => h | skip) | exact Nat.zero_le _ | dsimp only

end Sys2Proof.Machine
end

