-- ==== Sys2Proof/Laws/KeepsOtp.lean ====
section
/-! SUPPORT. Laws/KeepsOtp.lean: what each operation of Otp.lean keeps. -/
namespace Sys2Proof.Machine

set_option linter.all false

/-- A burn writes the fuses, and keeps their canonical form. -/
theorem keeps_otpStore {k0 : State} (s : State) (a : Nat) (n m : BitVec 39) (hk : Keeps false k0 s) : Keeps false k0 (s.otpStore a n m) := by
  refine ⟨hk.queue, (by intro h; cases h), fun i => ?_⟩
  have j := hk.inv i
  refine ⟨j.legs, j.nodes, j.image, j.regs, j.mem, j.hist, j.held, ⟨alRising_alPut j.fuses.1.1, fun p hp => ?_⟩,
    alRising_alPut j.fuses.2.1, fun p hp => ?_⟩
  · rcases mem_alPut hp with ⟨rfl, h⟩ | h
    · exact h
    · exact j.fuses.1.2 p h
  · rcases mem_alPut hp with ⟨rfl, h⟩ | h
    · exact h
    · exact j.fuses.2.2 p h

theorem keeps_otpFinding {kb : Bool} {k0 : State} (s : State) (a kind : Nat) (t : Time) (hk : Keeps kb k0 s) :
    Keeps kb k0 (State.otpFinding s a kind t) := by
  unfold State.otpFinding; try dsimp only
  repeat' first | intro _ | with_reducible assumption | with_reducible apply keeps_ite | split | fail_if_no_progress (with_reducible apply keeps_mk <;> first | with_reducible exact rfl | with_reducible exact fun h => h | skip) | exact Nat.zero_le _ | dsimp only

theorem keeps_otpClear {kb : Bool} {k0 : State} (s : State) (a : Nat) (hk : Keeps kb k0 s) :
    Keeps kb k0 (State.otpClear s a) := by
  unfold State.otpClear; try dsimp only
  repeat' first | intro _ | with_reducible assumption | with_reducible apply keeps_ite | split | fail_if_no_progress (with_reducible apply keeps_mk <;> first | with_reducible exact rfl | with_reducible exact fun h => h | skip) | exact Nat.zero_le _ | dsimp only

theorem keeps_otpLocksNow {kb : Bool} {k0 : State} (s : State) (hk : Keeps kb k0 s) :
    Keeps kb k0 (State.otpLocksNow s) := by
  unfold State.otpLocksNow; try dsimp only
  repeat' first | intro _ | with_reducible assumption | with_reducible apply keeps_ite | split | fail_if_no_progress (with_reducible apply keeps_mk <;> first | with_reducible exact rfl | with_reducible exact fun h => h | skip) | exact Nat.zero_le _ | dsimp only

theorem keeps_otpLifeNow {kb : Bool} {k0 : State} (s : State) (status : Nat) (hk : Keeps kb k0 s) :
    Keeps kb k0 (State.otpLifeNow s status) := by
  unfold State.otpLifeNow; try dsimp only
  repeat' first | intro _ | with_reducible assumption | with_reducible apply keeps_ite | split | fail_if_no_progress (with_reducible apply keeps_mk <;> first | with_reducible exact rfl | with_reducible exact fun h => h | skip) | exact Nat.zero_le _ | dsimp only

theorem keeps_otpWeakFound {kb : Bool} {k0 : State} (s : State) (a : Nat) (t : Time) (hk : Keeps kb k0 s) :
    Keeps kb k0 (State.otpWeakFound s a t) := by
  unfold State.otpWeakFound; try dsimp only
  repeat' first | intro _ | with_reducible assumption | with_reducible apply keeps_ite | with_reducible apply keeps_otpFinding | with_reducible apply keeps_health | split | fail_if_no_progress (with_reducible apply keeps_mk <;> first | with_reducible exact rfl | with_reducible exact fun h => h | skip) | exact Nat.zero_le _ | dsimp only

theorem keeps_otpJudge {kb : Bool} {k0 : State} (s : State) (r : Fin 16) (scan : Bool) (t : Time) (hk : Keeps kb k0 s) :
    Keeps kb k0 (State.otpJudge s r scan t) := by
  unfold State.otpJudge; try dsimp only
  repeat' first | intro _ | with_reducible assumption | with_reducible apply keeps_ite | with_reducible apply keeps_modRegion | with_reducible apply keeps_otpLifeNow | with_reducible apply keeps_otpLocksNow | with_reducible apply keeps_otpWeakFound | with_reducible apply keeps_raise | with_reducible apply keeps_health | with_reducible apply keeps_foldl | with_reducible apply keeps_foldPair | split | fail_if_no_progress (with_reducible apply keeps_mk <;> first | with_reducible exact rfl | with_reducible exact fun h => h | skip) | exact Nat.zero_le _ | dsimp only

theorem keeps_otpJudgeAll {kb : Bool} {k0 : State} (s : State) (scan : Bool) (t : Time) (hk : Keeps kb k0 s) :
    Keeps kb k0 (State.otpJudgeAll s scan t) := by
  unfold State.otpJudgeAll; try dsimp only
  repeat' first | intro _ | with_reducible assumption | with_reducible apply keeps_ite | with_reducible apply keeps_otpJudge | with_reducible apply keeps_forFin | with_reducible apply keeps_forFin | with_reducible apply keeps_forFinPair | split | fail_if_no_progress (with_reducible apply keeps_mk <;> first | with_reducible exact rfl | with_reducible exact fun h => h | skip) | exact Nat.zero_le _ | dsimp only

theorem keeps_lowerLevels {kb : Bool} {k0 : State} (s : State) (hk : Keeps kb k0 s) :
    Keeps kb k0 (State.lowerLevels s) := by
  unfold State.lowerLevels; try dsimp only
  repeat' first | intro _ | with_reducible assumption | with_reducible apply keeps_ite | with_reducible apply keeps_rsetF | with_reducible apply keeps_foldl | with_reducible apply keeps_foldPair | split | fail_if_no_progress (with_reducible apply keeps_mk <;> first | with_reducible exact rfl | with_reducible exact fun h => h | skip) | exact Nat.zero_le _ | dsimp only

theorem keeps_loadKeys {kb : Bool} {k0 : State} (s : State) (hk : Keeps kb k0 s) :
    Keeps kb k0 (State.loadKeys s) := by
  unfold State.loadKeys; try dsimp only
  repeat' first | intro _ | with_reducible assumption | with_reducible apply keeps_ite | split | fail_if_no_progress (with_reducible apply keeps_mk <;> first | with_reducible exact rfl | with_reducible exact fun h => h | skip) | exact Nat.zero_le _ | dsimp only

theorem keeps_bootStart {kb : Bool} {k0 : State} (s : State) (hk : Keeps kb k0 s) :
    Keeps kb k0 (State.bootStart s) := by
  unfold State.bootStart; try dsimp only
  repeat' first | intro _ | with_reducible assumption | with_reducible apply keeps_ite | split | fail_if_no_progress (with_reducible apply keeps_mk <;> first | with_reducible exact rfl | with_reducible exact fun h => h | skip) | exact Nat.zero_le _ | dsimp only

theorem keepsO_execOtpShadowLoad {kb : Bool} {k0 : State} (t : Time) (s : State) (hk : Keeps kb k0 s) :
    KeepsO kb k0 (execOtpShadowLoad t s) := by
  unfold execOtpShadowLoad; try dsimp only
  repeat' first | intro _ | with_reducible assumption | with_reducible apply keepsO_ite | with_reducible apply keepsO_next | with_reducible apply keeps_ite | with_reducible apply keeps_adv | with_reducible apply keeps_otpJudgeAll | with_reducible apply keeps_lowerLevels | with_reducible apply keeps_loadKeys | with_reducible apply keeps_bootStart | with_reducible apply keeps_soloAlone | split | fail_if_no_progress (with_reducible apply keeps_mk <;> first | with_reducible exact rfl | with_reducible exact fun h => h | skip) | exact Nat.zero_le _ | dsimp only

theorem keeps_modBurn {kb : Bool} {k0 : State} (s : State) (f : BurnSt → BurnSt) (hk : Keeps kb k0 s) :
    Keeps kb k0 (State.modBurn s f) := by
  unfold State.modBurn; try dsimp only
  repeat' first | intro _ | with_reducible assumption | with_reducible apply keeps_ite | split | fail_if_no_progress (with_reducible apply keeps_mk <;> first | with_reducible exact rfl | with_reducible exact fun h => h | skip) | exact Nat.zero_le _ | dsimp only

theorem keeps_burnSeen {kb : Bool} {k0 : State} (s : State) (kind : Nat) (hk : Keeps kb k0 s) :
    Keeps kb k0 (State.burnSeen s kind) := by
  unfold State.burnSeen; try dsimp only
  repeat' first | intro _ | with_reducible assumption | with_reducible apply keeps_ite | with_reducible apply keeps_otpLocksNow | with_reducible apply keeps_otpLifeNow | split | fail_if_no_progress (with_reducible apply keeps_mk <;> first | with_reducible exact rfl | with_reducible exact fun h => h | skip) | exact Nat.zero_le _ | dsimp only

theorem keeps_burnEnd {kb : Bool} {k0 : State} (s : State) (b : BurnSt) (st : BitVec 8) (o : Nat) (hk : Keeps kb k0 s) :
    Keeps kb k0 (State.burnEnd s b st o) := by
  unfold State.burnEnd; try dsimp only
  repeat' first | intro _ | with_reducible assumption | with_reducible apply keeps_ite | with_reducible apply keeps_burnSeen | with_reducible apply keeps_finishW | with_reducible apply keeps_lopEnd | split | fail_if_no_progress (with_reducible apply keeps_mk <;> first | with_reducible exact rfl | with_reducible exact fun h => h | skip) | exact Nat.zero_le _ | dsimp only

theorem keeps_burnOk {kb : Bool} {k0 : State} (s : State) (b : BurnSt) (hk : Keeps kb k0 s) :
    Keeps kb k0 (State.burnOk s b) := by
  unfold State.burnOk; try dsimp only
  repeat' first | intro _ | with_reducible assumption | with_reducible apply keeps_ite | with_reducible apply keeps_otpLocksNow | with_reducible apply keeps_raise | with_reducible apply keeps_modRegion | with_reducible apply keeps_burnEnd | split | fail_if_no_progress (with_reducible apply keeps_mk <;> first | with_reducible exact rfl | with_reducible exact fun h => h | skip) | exact Nat.zero_le _ | dsimp only

theorem keeps_burnAsk {kb : Bool} {k0 : State} (s : State) (b : BurnSt) (hk : Keeps kb k0 s) :
    Keeps kb k0 (State.burnAsk s b) := by
  unfold State.burnAsk; try dsimp only
  repeat' first | intro _ | with_reducible assumption | with_reducible apply keeps_ite | with_reducible apply keeps_burnOk | with_reducible apply keeps_burnEnd | with_reducible apply keeps_placeUrgent | split | fail_if_no_progress (with_reducible apply keeps_mk <;> first | with_reducible exact rfl | with_reducible exact fun h => h | skip) | exact Nat.zero_le _ | dsimp only

theorem keeps_burnNext {kb : Bool} {k0 : State} (s : State) (b : BurnSt) (a : Nat) (rest : List (Nat × BitVec 39)) (hk : Keeps kb k0 s) :
    Keeps kb k0 (State.burnNext s b a rest) := by
  unfold State.burnNext; try dsimp only
  repeat' first | intro _ | with_reducible assumption | with_reducible apply keeps_ite | with_reducible apply keeps_otpClear | with_reducible apply keeps_lopPause | with_reducible apply keeps_burnAsk | split | fail_if_no_progress (with_reducible apply keeps_mk <;> first | with_reducible exact rfl | with_reducible exact fun h => h | skip) | exact Nat.zero_le _ | dsimp only

theorem keeps_burnRead {kb : Bool} {k0 : State} (s : State) (b : BurnSt) (a : Nat) (v : BitVec 39) (rest : List (Nat × BitVec 39)) (hk : Keeps kb k0 s) :
    Keeps kb k0 (State.burnRead s b a v rest) := by
  unfold State.burnRead; try dsimp only
  repeat' first | intro _ | with_reducible assumption | with_reducible apply keeps_ite | with_reducible apply keeps_burnEnd | with_reducible apply keeps_burnNext | with_reducible apply keeps_modBurn | split | fail_if_no_progress (with_reducible apply keeps_mk <;> first | with_reducible exact rfl | with_reducible exact fun h => h | skip) | exact Nat.zero_le _ | dsimp only

theorem keeps_burnVpp {kb : Bool} {k0 : State} (s : State) (hk : Keeps kb k0 s) :
    Keeps kb k0 (State.burnVpp s) := by
  unfold State.burnVpp; try dsimp only
  repeat' first | intro _ | with_reducible assumption | with_reducible apply keeps_ite | with_reducible apply keeps_burnEnd | with_reducible apply keeps_lopStart | with_reducible apply keeps_closeTry | with_reducible apply keeps_burnRead | with_reducible apply keeps_finishW | split | fail_if_no_progress (with_reducible apply keeps_mk <;> first | with_reducible exact rfl | with_reducible exact fun h => h | skip) | exact Nat.zero_le _ | dsimp only

theorem keeps_burnIncomplete {kb : Bool} {k0 : State} (s : State) (b : BurnSt) (t : Time) (hk : Keeps kb k0 s) :
    Keeps kb k0 (State.burnIncomplete s b t) := by
  unfold State.burnIncomplete; try dsimp only
  repeat' first | intro _ | with_reducible assumption | with_reducible apply keeps_ite | with_reducible apply keeps_otpFinding | with_reducible apply keeps_raise | split | fail_if_no_progress (with_reducible apply keeps_mk <;> first | with_reducible exact rfl | with_reducible exact fun h => h | skip) | exact Nat.zero_le _ | dsimp only

theorem keeps_mgrBurnEnd {kb : Bool} {k0 : State} (s : State) (b : BurnSt) (met : Bool) (t : Time) (hk : Keeps kb k0 s) :
    Keeps kb k0 (State.mgrBurnEnd s b met t) := by
  unfold State.mgrBurnEnd; try dsimp only
  repeat' first | intro _ | with_reducible assumption | with_reducible apply keeps_ite | with_reducible apply keeps_otpClear | with_reducible apply keeps_burnIncomplete | with_reducible apply keeps_burnSeen | with_reducible apply keeps_modLop | split | fail_if_no_progress (with_reducible apply keeps_mk <;> first | with_reducible exact rfl | with_reducible exact fun h => h | skip) | exact Nat.zero_le _ | dsimp only

theorem keepsO_execOtpBurnRound {k0 : State} (normal margin : BitVec 39) (t : Time) (s : State) (hk : Keeps false k0 s) :
    KeepsO false k0 (execOtpBurnRound normal margin t s) := by
  unfold execOtpBurnRound; try dsimp only
  repeat' first | intro _ | with_reducible assumption | with_reducible apply keepsO_ite | with_reducible apply keepsO_next | with_reducible apply keeps_ite | with_reducible apply keeps_adv | with_reducible apply keeps_otpStore | with_reducible apply keeps_cut | with_reducible apply keeps_burnIncomplete | with_reducible apply keeps_burnEnd | with_reducible apply keeps_mgrBurnEnd | with_reducible apply keeps_burnNext | with_reducible apply keeps_otpFinding | with_reducible apply keeps_raise | with_reducible apply keeps_modBurn | split | fail_if_no_progress (with_reducible apply keeps_mk <;> first | with_reducible exact rfl | with_reducible exact fun h => h | skip) | exact Nat.zero_le _ | dsimp only

theorem keeps_burnAbandon {kb : Bool} {k0 : State} (s : State) (t : Time) (hk : Keeps kb k0 s) :
    Keeps kb k0 (State.burnAbandon s t) := by
  unfold State.burnAbandon; try dsimp only
  repeat' first | intro _ | with_reducible assumption | with_reducible apply keeps_ite | with_reducible apply keeps_burnIncomplete | with_reducible apply keeps_burnEnd | split | fail_if_no_progress (with_reducible apply keeps_mk <;> first | with_reducible exact rfl | with_reducible exact fun h => h | skip) | exact Nat.zero_le _ | dsimp only

theorem keeps_burnTsd {kb : Bool} {k0 : State} (s : State) (t : Time) (hk : Keeps kb k0 s) :
    Keeps kb k0 (State.burnTsd s t) := by
  unfold State.burnTsd; try dsimp only
  repeat' first | intro _ | with_reducible assumption | with_reducible apply keeps_ite | with_reducible apply keeps_cut | with_reducible apply keeps_modBurn | with_reducible apply keeps_burnAbandon | split | fail_if_no_progress (with_reducible apply keeps_mk <;> first | with_reducible exact rfl | with_reducible exact fun h => h | skip) | exact Nat.zero_le _ | dsimp only

theorem keeps_burnSupply {kb : Bool} {k0 : State} (s : State) (t : Time) (hk : Keeps kb k0 s) :
    Keeps kb k0 (State.burnSupply s t) := by
  unfold State.burnSupply; try dsimp only
  repeat' first | intro _ | with_reducible assumption | with_reducible apply keeps_ite | with_reducible apply keeps_burnAbandon | split | fail_if_no_progress (with_reducible apply keeps_mk <;> first | with_reducible exact rfl | with_reducible exact fun h => h | skip) | exact Nat.zero_le _ | dsimp only

theorem keeps_burnCut {kb : Bool} {k0 : State} (s : State) (t : Time) (hk : Keeps kb k0 s) :
    Keeps kb k0 (State.burnCut s t) := by
  unfold State.burnCut; try dsimp only
  repeat' first | intro _ | with_reducible assumption | with_reducible apply keeps_ite | with_reducible apply keeps_otpFinding | split | fail_if_no_progress (with_reducible apply keeps_mk <;> first | with_reducible exact rfl | with_reducible exact fun h => h | skip) | exact Nat.zero_le _ | dsimp only

theorem keeps_burnStart {kb : Bool} {k0 : State} (s : State) (kind : Nat) (words : List (Nat × BitVec 39)) (slot region target : Nat) (force : Bool) (hk : Keeps kb k0 s) :
    Keeps kb k0 (State.burnStart s kind words slot region target force) := by
  unfold State.burnStart; try dsimp only
  repeat' first | intro _ | with_reducible assumption | with_reducible apply keeps_ite | with_reducible apply keeps_burnAsk | with_reducible apply keeps_cut | split | fail_if_no_progress (with_reducible apply keeps_mk <;> first | with_reducible exact rfl | with_reducible exact fun h => h | skip) | exact Nat.zero_le _ | dsimp only

theorem keepsO_execOtpProgram {kb : Bool} {k0 : State} (q : CmdQ) (data : List Word) (s : State) (hk : Keeps kb k0 s) :
    KeepsO kb k0 (execOtpProgram q data s) := by
  unfold execOtpProgram; try dsimp only
  repeat' first | intro _ | with_reducible assumption | with_reducible apply keepsO_ite | with_reducible apply keepsO_next | with_reducible apply keeps_ite | with_reducible apply keepsO_runCmd | with_reducible apply keeps_finish | with_reducible apply keeps_await | with_reducible apply keeps_burnStart | split | fail_if_no_progress (with_reducible apply keeps_mk <;> first | with_reducible exact rfl | with_reducible exact fun h => h | skip) | exact Nat.zero_le _ | dsimp only

theorem keepsO_execOtpLock {kb : Bool} {k0 : State} (q : CmdQ) (s : State) (hk : Keeps kb k0 s) :
    KeepsO kb k0 (execOtpLock q s) := by
  unfold execOtpLock; try dsimp only
  repeat' first | intro _ | with_reducible assumption | with_reducible apply keepsO_ite | with_reducible apply keepsO_next | with_reducible apply keeps_ite | with_reducible apply keepsO_runCmd | with_reducible apply keeps_finish | with_reducible apply keeps_await | with_reducible apply keeps_burnStart | split | fail_if_no_progress (with_reducible apply keeps_mk <;> first | with_reducible exact rfl | with_reducible exact fun h => h | skip) | exact Nat.zero_le _ | dsimp only

theorem keepsO_execLifecycleAdvance {kb : Bool} {k0 : State} (q : CmdQ) (s : State) (hk : Keeps kb k0 s) :
    KeepsO kb k0 (execLifecycleAdvance q s) := by
  unfold execLifecycleAdvance; try dsimp only
  repeat' first | intro _ | with_reducible assumption | with_reducible apply keepsO_ite | with_reducible apply keepsO_next | with_reducible apply keeps_ite | with_reducible apply keepsO_runCmd | with_reducible apply keeps_finish | with_reducible apply keeps_await | with_reducible apply keeps_burnStart | split | fail_if_no_progress (with_reducible apply keeps_mk <;> first | with_reducible exact rfl | with_reducible exact fun h => h | skip) | exact Nat.zero_le _ | dsimp only

theorem keeps_otpCmdRead {kb : Bool} {k0 : State} (s : State) (margin : Bool) (hk : Keeps kb k0 s) :
    Keeps kb k0 (State.otpCmdRead s margin) := by
  unfold State.otpCmdRead; try dsimp only
  repeat' first | intro _ | with_reducible assumption | with_reducible apply keeps_ite | with_reducible apply keeps_rset | split | fail_if_no_progress (with_reducible apply keeps_mk <;> first | with_reducible exact rfl | with_reducible exact fun h => h | skip) | exact Nat.zero_le _ | dsimp only

theorem keepsO_execOtpCmdRead {kb : Bool} {k0 : State} (t : Time) (s : State) (hk : Keeps kb k0 s) :
    KeepsO kb k0 (execOtpCmdRead t s) := by
  unfold execOtpCmdRead; try dsimp only
  repeat' first | intro _ | with_reducible assumption | with_reducible apply keepsO_ite | with_reducible apply keepsO_next | with_reducible apply keeps_ite | with_reducible apply keepsO_onRegs | with_reducible apply keeps_otpCmdRead | split | fail_if_no_progress (with_reducible apply keeps_mk <;> first | with_reducible exact rfl | with_reducible exact fun h => h | skip) | exact Nat.zero_le _ | dsimp only

theorem keepsO_execOtpCmdMargin {kb : Bool} {k0 : State} (t : Time) (s : State) (hk : Keeps kb k0 s) :
    KeepsO kb k0 (execOtpCmdMargin t s) := by
  unfold execOtpCmdMargin; try dsimp only
  repeat' first | intro _ | with_reducible assumption | with_reducible apply keepsO_ite | with_reducible apply keepsO_next | with_reducible apply keeps_ite | with_reducible apply keepsO_onRegs | with_reducible apply keeps_otpCmdRead | split | fail_if_no_progress (with_reducible apply keeps_mk <;> first | with_reducible exact rfl | with_reducible exact fun h => h | skip) | exact Nat.zero_le _ | dsimp only

theorem keeps_otpCmdProgram {kb : Bool} {k0 : State} (s : State) (hk : Keeps kb k0 s) :
    Keeps kb k0 (State.otpCmdProgram s) := by
  unfold State.otpCmdProgram; try dsimp only
  repeat' first | intro _ | with_reducible assumption | with_reducible apply keeps_ite | with_reducible apply keeps_writeReject | with_reducible apply keeps_burnStart | split | fail_if_no_progress (with_reducible apply keeps_mk <;> first | with_reducible exact rfl | with_reducible exact fun h => h | skip) | exact Nat.zero_le _ | dsimp only

theorem keepsO_execOtpCmdProgram {kb : Bool} {k0 : State} (t : Time) (s : State) (hk : Keeps kb k0 s) :
    KeepsO kb k0 (execOtpCmdProgram t s) := by
  unfold execOtpCmdProgram; try dsimp only
  repeat' first | intro _ | with_reducible assumption | with_reducible apply keepsO_ite | with_reducible apply keepsO_next | with_reducible apply keeps_ite | with_reducible apply keepsO_onRegs | with_reducible apply keeps_otpCmdProgram | split | fail_if_no_progress (with_reducible apply keeps_mk <;> first | with_reducible exact rfl | with_reducible exact fun h => h | skip) | exact Nat.zero_le _ | dsimp only

theorem keepsO_execOtpMarginScan {kb : Bool} {k0 : State} (q : CmdQ) (s : State) (hk : Keeps kb k0 s) :
    KeepsO kb k0 (execOtpMarginScan q s) := by
  unfold execOtpMarginScan; try dsimp only
  repeat' first | intro _ | with_reducible assumption | with_reducible apply keepsO_ite | with_reducible apply keepsO_next | with_reducible apply keeps_ite | with_reducible apply keepsO_runCmd | with_reducible apply keeps_finish | with_reducible apply keeps_lopStart | split | fail_if_no_progress (with_reducible apply keeps_mk <;> first | with_reducible exact rfl | with_reducible exact fun h => h | skip) | exact Nat.zero_le _ | dsimp only

theorem keepsO_execScanRegionDone {kb : Bool} {k0 : State} (t : Time) (s : State) (hk : Keeps kb k0 s) :
    KeepsO kb k0 (execScanRegionDone t s) := by
  unfold execScanRegionDone; try dsimp only
  repeat' first | intro _ | with_reducible assumption | with_reducible apply keepsO_ite | with_reducible apply keepsO_next | with_reducible apply keeps_ite | with_reducible apply keeps_adv | with_reducible apply keeps_otpJudge | with_reducible apply keeps_modLop | with_reducible apply keeps_lopPause | with_reducible apply keeps_lopEnd | split | fail_if_no_progress (with_reducible apply keeps_mk <;> first | with_reducible exact rfl | with_reducible exact fun h => h | skip) | exact Nat.zero_le _ | dsimp only

theorem keeps_scanNote {kb : Bool} {k0 : State} (s : State) (hk : Keeps kb k0 s) :
    Keeps kb k0 (State.scanNote s) := by
  unfold State.scanNote; try dsimp only
  repeat' first | intro _ | with_reducible assumption | with_reducible apply keeps_ite | split | fail_if_no_progress (with_reducible apply keeps_mk <;> first | with_reducible exact rfl | with_reducible exact fun h => h | skip) | exact Nat.zero_le _ | dsimp only

theorem keepsO_execGleanerScanDue {kb : Bool} {k0 : State} (t : Time) (s : State) (hk : Keeps kb k0 s) :
    KeepsO kb k0 (execGleanerScanDue t s) := by
  unfold execGleanerScanDue; try dsimp only
  repeat' first | intro _ | with_reducible assumption | with_reducible apply keepsO_ite | with_reducible apply keepsO_next | with_reducible apply keeps_ite | with_reducible apply keeps_adv | with_reducible apply keeps_scanNote | with_reducible apply keeps_otpJudgeAll | split | fail_if_no_progress (with_reducible apply keeps_mk <;> first | with_reducible exact rfl | with_reducible exact fun h => h | skip) | exact Nat.zero_le _ | dsimp only

theorem keepsO_execHousekeepingConversion {kb : Bool} {k0 : State} (chan : BitVec 8) (raw : Int) (track : Time) (s : State) (hk : Keeps kb k0 s) :
    KeepsO kb k0 (execHousekeepingConversion chan raw track s) := by
  unfold execHousekeepingConversion; try dsimp only
  repeat' first | intro _ | with_reducible assumption | with_reducible apply keepsO_ite | with_reducible apply keepsO_next | with_reducible apply keeps_ite | with_reducible apply keeps_adv | with_reducible apply keeps_hkResult | with_reducible apply keeps_vcResult | with_reducible apply keeps_answerUrgent | with_reducible apply keeps_dropUrgent | with_reducible apply keeps_burnVpp | with_reducible apply keeps_hkServed | split | fail_if_no_progress (with_reducible apply keeps_mk <;> first | with_reducible exact rfl | with_reducible exact fun h => h | skip) | exact Nat.zero_le _ | dsimp only

theorem keeps_burnResume {kb : Bool} {k0 : State} (s : State) (hk : Keeps kb k0 s) :
    Keeps kb k0 (State.burnResume s) := by
  unfold State.burnResume; try dsimp only
  repeat' first | intro _ | with_reducible assumption | with_reducible apply keeps_ite | with_reducible apply keeps_burnAsk | split | fail_if_no_progress (with_reducible apply keeps_mk <;> first | with_reducible exact rfl | with_reducible exact fun h => h | skip) | exact Nat.zero_le _ | dsimp only

end Sys2Proof.Machine
end

