-- ==== Sys2Proof/Laws/KeepsThermal.lean ====
section
/-! SUPPORT. Laws/KeepsThermal.lean: what each operation of Thermal.lean keeps. -/
namespace Sys2Proof.Machine

set_option linter.all false

theorem keeps_exitRound {kb : Bool} {k0 : State} (s : State) (hk : Keeps kb k0 s) :
    Keeps kb k0 (State.exitRound s) := by
  unfold State.exitRound; try dsimp only
  repeat' first | intro _ | with_reducible assumption | with_reducible apply keeps_ite | split | fail_if_no_progress (with_reducible apply keeps_mk <;> first | with_reducible exact rfl | with_reducible exact fun h => h | skip) | exact Nat.zero_le _ | dsimp only

theorem keeps_thmRound {kb : Bool} {k0 : State} (s : State) (counts : List Nat) (t : Time) (hk : Keeps kb k0 s) :
    Keeps kb k0 (State.thmRound s counts t) := by
  unfold State.thmRound; try dsimp only
  repeat' first | intro _ | with_reducible assumption | with_reducible apply keeps_ite | with_reducible apply keeps_forFin | with_reducible apply keeps_health | with_reducible apply keeps_modZone | with_reducible apply keeps_exitRound | with_reducible apply keeps_scanNote | with_reducible apply keeps_raise | with_reducible apply keeps_reactF5 | with_reducible apply keeps_foldl | with_reducible apply keeps_foldPair | with_reducible apply keeps_forFin | with_reducible apply keeps_forFinPair | split | fail_if_no_progress (with_reducible apply keeps_mk <;> first | with_reducible exact rfl | with_reducible exact fun h => h | skip) | exact Nat.zero_le _ | dsimp only

theorem keepsO_execThermalReading {kb : Bool} {k0 : State} (counts : List Nat) (s : State) (hk : Keeps kb k0 s) :
    KeepsO kb k0 (execThermalReading counts s) := by
  unfold execThermalReading; try dsimp only
  repeat' first | intro _ | with_reducible assumption | with_reducible apply keepsO_ite | with_reducible apply keepsO_next | with_reducible apply keeps_ite | with_reducible apply keeps_adv | with_reducible apply keeps_thmRound | split | fail_if_no_progress (with_reducible apply keeps_mk <;> first | with_reducible exact rfl | with_reducible exact fun h => h | skip) | exact Nat.zero_le _ | dsimp only

theorem keeps_thmToCells {kb : Bool} {k0 : State} (s : State) (b : Time) (hk : Keeps kb k0 s) :
    Keeps kb k0 (State.thmToCells s b) := by
  unfold State.thmToCells; try dsimp only
  repeat' first | intro _ | with_reducible assumption | with_reducible apply keeps_ite | split | fail_if_no_progress (with_reducible apply keeps_mk <;> first | with_reducible exact rfl | with_reducible exact fun h => h | skip) | exact Nat.zero_le _ | dsimp only

theorem keepsO_execTw1Set {kb : Bool} {k0 : State} (z : Fin 8) (s : State) (hk : Keeps kb k0 s) :
    KeepsO kb k0 (execTw1Set z s) := by
  unfold execTw1Set; try dsimp only
  repeat' first | intro _ | with_reducible assumption | with_reducible apply keepsO_ite | with_reducible apply keepsO_next | with_reducible apply keeps_ite | with_reducible apply keeps_modZone | with_reducible apply keeps_raise | split | fail_if_no_progress (with_reducible apply keeps_mk <;> first | with_reducible exact rfl | with_reducible exact fun h => h | skip) | exact Nat.zero_le _ | dsimp only

theorem keepsO_execTw1Clear {kb : Bool} {k0 : State} (z : Fin 8) (s : State) (hk : Keeps kb k0 s) :
    KeepsO kb k0 (execTw1Clear z s) := by
  unfold execTw1Clear; try dsimp only
  repeat' first | intro _ | with_reducible assumption | with_reducible apply keepsO_ite | with_reducible apply keepsO_next | with_reducible apply keeps_ite | with_reducible apply keeps_modZone | with_reducible apply keeps_raise | split | fail_if_no_progress (with_reducible apply keeps_mk <;> first | with_reducible exact rfl | with_reducible exact fun h => h | skip) | exact Nat.zero_le _ | dsimp only

theorem keeps_abortTests {kb : Bool} {k0 : State} (s : State) (hk : Keeps kb k0 s) :
    Keeps kb k0 (State.abortTests s) := by
  unfold State.abortTests; try dsimp only
  repeat' first | intro _ | with_reducible assumption | with_reducible apply keeps_ite | with_reducible apply keeps_forFin | with_reducible apply keeps_lopQuit | with_reducible apply keeps_forFin | with_reducible apply keeps_forFinPair | split | fail_if_no_progress (with_reducible apply keeps_mk <;> first | with_reducible exact rfl | with_reducible exact fun h => h | skip) | exact Nat.zero_le _ | dsimp only

theorem keeps_stopOrSafe {kb : Bool} {k0 : State} (s : State) (m : Fin 2) (decel : Bool) (cause detail : Nat) (t : Time) (hk : Keeps kb k0 s) :
    Keeps kb k0 (State.stopOrSafe s m decel cause detail t) := by
  unfold State.stopOrSafe; try dsimp only
  repeat' first | intro _ | with_reducible assumption | with_reducible apply keeps_ite | with_reducible apply keeps_startDecel | with_reducible apply keeps_machSafe | split | fail_if_no_progress (with_reducible apply keeps_mk <;> first | with_reducible exact rfl | with_reducible exact fun h => h | skip) | exact Nat.zero_le _ | dsimp only

theorem keeps_thmStart {kb : Bool} {k0 : State} (s : State) (t : Time) (hk : Keeps kb k0 s) :
    Keeps kb k0 (State.thmStart s t) := by
  unfold State.thmStart; try dsimp only
  repeat' first | intro _ | with_reducible assumption | with_reducible apply keeps_ite | with_reducible apply keeps_stopOrSafe | with_reducible apply keeps_burnTsd | with_reducible apply keeps_abortTests | with_reducible apply keeps_foldl | with_reducible apply keeps_foldPair | split | fail_if_no_progress (with_reducible apply keeps_mk <;> first | with_reducible exact rfl | with_reducible exact fun h => h | skip) | exact Nat.zero_le _ | dsimp only

theorem keeps_thmYield {kb : Bool} {k0 : State} (s : State) (t : Time) (hk : Keeps kb k0 s) :
    Keeps kb k0 (State.thmYield s t) := by
  unfold State.thmYield; try dsimp only
  repeat' first | intro _ | with_reducible assumption | with_reducible apply keeps_ite | with_reducible apply keeps_yield238 | with_reducible apply keeps_burnTsd | with_reducible apply keeps_abortTests | split | fail_if_no_progress (with_reducible apply keeps_mk <;> first | with_reducible exact rfl | with_reducible exact fun h => h | skip) | exact Nat.zero_le _ | dsimp only

theorem keeps_thmStep {kb : Bool} {k0 : State} (s : State) (b : Time) (hk : Keeps kb k0 s) :
    Keeps kb k0 (State.thmStep s b) := by
  unfold State.thmStep; try dsimp only
  repeat' first | intro _ | with_reducible assumption | with_reducible apply keeps_ite | with_reducible apply keeps_thmStart | split | fail_if_no_progress (with_reducible apply keeps_mk <;> first | with_reducible exact rfl | with_reducible exact fun h => h | skip) | exact Nat.zero_le _ | dsimp only

theorem keepsO_execTsd {kb : Bool} {k0 : State} (z : Fin 8) (s : State) (hk : Keeps kb k0 s) :
    KeepsO kb k0 (execTsd z s) := by
  unfold execTsd; try dsimp only
  repeat' first | intro _ | with_reducible assumption | with_reducible apply keepsO_ite | with_reducible apply keepsO_next | with_reducible apply keeps_ite | with_reducible apply keeps_modZone | with_reducible apply keeps_raise | with_reducible apply keeps_mbrk | with_reducible apply keeps_thmYield | split | fail_if_no_progress (with_reducible apply keeps_mk <;> first | with_reducible exact rfl | with_reducible exact fun h => h | skip) | exact Nat.zero_le _ | dsimp only

theorem keepsO_execTsdAlarmRelease {kb : Bool} {k0 : State} (z : Fin 8) (s : State) (hk : Keeps kb k0 s) :
    KeepsO kb k0 (execTsdAlarmRelease z s) := by
  unfold execTsdAlarmRelease; try dsimp only
  repeat' first | intro _ | with_reducible assumption | with_reducible apply keepsO_ite | with_reducible apply keepsO_next | with_reducible apply keeps_ite | with_reducible apply keeps_modZone | split | fail_if_no_progress (with_reducible apply keeps_mk <;> first | with_reducible exact rfl | with_reducible exact fun h => h | skip) | exact Nat.zero_le _ | dsimp only

theorem keepsO_execTsdTmaxExpiry {kb : Bool} {k0 : State} (s : State) (hk : Keeps kb k0 s) :
    KeepsO kb k0 (execTsdTmaxExpiry s) := by
  unfold execTsdTmaxExpiry; try dsimp only
  repeat' first | intro _ | with_reducible assumption | with_reducible apply keepsO_ite | with_reducible apply keepsO_next | with_reducible apply keeps_ite | with_reducible apply keeps_adv | with_reducible apply keeps_machSafe | with_reducible apply keeps_foldl | with_reducible apply keeps_foldPair | split | fail_if_no_progress (with_reducible apply keeps_mk <;> first | with_reducible exact rfl | with_reducible exact fun h => h | skip) | exact Nat.zero_le _ | dsimp only

theorem keepsO_execShutdownDone {kb : Bool} {k0 : State} (t : Time) (s : State) (hk : Keeps kb k0 s) :
    KeepsO kb k0 (execShutdownDone t s) := by
  unfold execShutdownDone; try dsimp only
  repeat' first | intro _ | with_reducible assumption | with_reducible apply keepsO_ite | with_reducible apply keepsO_next | with_reducible apply keeps_ite | with_reducible apply keeps_adv | with_reducible apply keeps_raise | split | fail_if_no_progress (with_reducible apply keeps_mk <;> first | with_reducible exact rfl | with_reducible exact fun h => h | skip) | exact Nat.zero_le _ | dsimp only

theorem keepsO_execExitMet {kb : Bool} {k0 : State} (s : State) (hk : Keeps kb k0 s) :
    KeepsO kb k0 (execExitMet s) := by
  unfold execExitMet; try dsimp only
  repeat' first | intro _ | with_reducible assumption | with_reducible apply keepsO_ite | with_reducible apply keepsO_next | with_reducible apply keeps_ite | with_reducible apply keeps_raise | split | fail_if_no_progress (with_reducible apply keeps_mk <;> first | with_reducible exact rfl | with_reducible exact fun h => h | skip) | exact Nat.zero_le _ | dsimp only

end Sys2Proof.Machine
end

