-- ==== Sys2Proof/Laws/KeepsNodes.lean ====
section
/-! SUPPORT. Laws/KeepsNodes.lean: what each operation of Nodes.lean keeps. -/
namespace Sys2Proof.Machine

set_option linter.all false

theorem keepsO_execNodeRead {kb : Bool} {k0 : State} (q : CmdQ) (s : State) (hk : Keeps kb k0 s) :
    KeepsO kb k0 (execNodeRead q s) := by
  unfold execNodeRead; try dsimp only
  repeat' first | intro _ | with_reducible assumption | with_reducible apply keepsO_ite | with_reducible apply keepsO_next | with_reducible apply keeps_ite | with_reducible apply keepsO_runCmd | with_reducible apply keeps_finish | split | fail_if_no_progress (with_reducible apply keeps_mk <;> first | with_reducible exact rfl | with_reducible exact fun h => h | skip) | exact Nat.zero_le _ | dsimp only

theorem keeps_nodeWrite {kb : Bool} {k0 : State} (s : State) (id : Nat) (v : Word) (hk : Keeps kb k0 s) :
    Keeps kb k0 (State.nodeWrite s id v) := by
  unfold State.nodeWrite; try dsimp only
  repeat' first | intro _ | with_reducible assumption | with_reducible apply keeps_ite | with_reducible apply keeps_setHost | with_reducible apply keeps_wdFeed | with_reducible apply keeps_ledgerPut | with_reducible apply keeps_lateNote | with_reducible apply keeps_nodeSet | split | fail_if_no_progress (with_reducible apply keeps_mk <;> first | with_reducible exact rfl | with_reducible exact fun h => h | skip) | exact Nat.zero_le _ | dsimp only

theorem keepsO_execNodeWrite {kb : Bool} {k0 : State} (q : CmdQ) (s : State) (hk : Keeps kb k0 s) :
    KeepsO kb k0 (execNodeWrite q s) := by
  unfold execNodeWrite; try dsimp only
  repeat' first | intro _ | with_reducible assumption | with_reducible apply keepsO_ite | with_reducible apply keepsO_next | with_reducible apply keeps_ite | with_reducible apply keepsO_runCmd | with_reducible apply keeps_finish | with_reducible apply keeps_nodeWrite | split | fail_if_no_progress (with_reducible apply keeps_mk <;> first | with_reducible exact rfl | with_reducible exact fun h => h | skip) | exact Nat.zero_le _ | dsimp only

theorem keepsO_execNodeBlockLoad {kb : Bool} {k0 : State} (q : CmdQ) (s : State) (hk : Keeps kb k0 s) :
    KeepsO kb k0 (execNodeBlockLoad q s) := by
  unfold execNodeBlockLoad; try dsimp only
  repeat' first | intro _ | with_reducible assumption | with_reducible apply keepsO_ite | with_reducible apply keepsO_next | with_reducible apply keeps_ite | with_reducible apply keepsO_runCmd | with_reducible apply keeps_finish | with_reducible apply keeps_lopStart | split | fail_if_no_progress (with_reducible apply keeps_mk <;> first | with_reducible exact rfl | with_reducible exact fun h => h | skip) | exact Nat.zero_le _ | dsimp only

theorem keepsO_execNodeBlockStore {kb : Bool} {k0 : State} (q : CmdQ) (s : State) (hk : Keeps kb k0 s) :
    KeepsO kb k0 (execNodeBlockStore q s) := by
  unfold execNodeBlockStore; try dsimp only
  repeat' first | intro _ | with_reducible assumption | with_reducible apply keepsO_ite | with_reducible apply keepsO_next | with_reducible apply keeps_ite | with_reducible apply keepsO_runCmd | with_reducible apply keeps_finish | with_reducible apply keeps_lopStart | split | fail_if_no_progress (with_reducible apply keeps_mk <;> first | with_reducible exact rfl | with_reducible exact fun h => h | skip) | exact Nat.zero_le _ | dsimp only

theorem keeps_loadChunk {kb : Bool} {k0 : State} (s : State) (id : Nat) (data : List Word) (n : Nat) (hk : Keeps kb k0 s) :
    Keeps kb k0 (State.loadChunk s id data n) := by
  unfold State.loadChunk; try dsimp only
  repeat' first | intro _ | with_reducible assumption | with_reducible apply keeps_ite | with_reducible apply keeps_nodeWrite | with_reducible apply keeps_foldl | with_reducible apply keeps_foldPair | split | fail_if_no_progress (with_reducible apply keeps_mk <;> first | with_reducible exact rfl | with_reducible exact fun h => h | skip) | exact Nat.zero_le _ | dsimp only

theorem keeps_storeChunk {kb : Bool} {k0 : State} (s : State) (addr id n : Nat) (hk : Keeps kb k0 s) :
    Keeps kb k0 (State.storeChunk s addr id n) := by
  unfold State.storeChunk; try dsimp only
  repeat' first | intro _ | with_reducible assumption | with_reducible apply keeps_ite | with_reducible apply keeps_hostWrite | with_reducible apply keeps_foldl | with_reducible apply keeps_foldPair | split | fail_if_no_progress (with_reducible apply keeps_mk <;> first | with_reducible exact rfl | with_reducible exact fun h => h | skip) | exact Nat.zero_le _ | dsimp only

theorem keeps_blockNext {kb : Bool} {k0 : State} (s : State) (k : Fin 8) (more : Bool) (st : BitVec 8) (res : Nat) (hk : Keeps kb k0 s) :
    Keeps kb k0 (State.blockNext s k more st res) := by
  unfold State.blockNext; try dsimp only
  repeat' first | intro _ | with_reducible assumption | with_reducible apply keeps_ite | with_reducible apply keeps_modLop | with_reducible apply keeps_lopPause | with_reducible apply keeps_lopEnd | split | fail_if_no_progress (with_reducible apply keeps_mk <;> first | with_reducible exact rfl | with_reducible exact fun h => h | skip) | exact Nat.zero_le _ | dsimp only

theorem keepsO_execBlockChunkDone {kb : Bool} {k0 : State} (slot : Fin 8) (data : List Word) (t : Time) (s : State) (hk : Keeps kb k0 s) :
    KeepsO kb k0 (execBlockChunkDone slot data t s) := by
  unfold execBlockChunkDone; try dsimp only
  repeat' first | intro _ | with_reducible assumption | with_reducible apply keepsO_ite | with_reducible apply keepsO_next | with_reducible apply keeps_ite | with_reducible apply keeps_adv | with_reducible apply keeps_lopEnd | with_reducible apply keeps_loadChunk | with_reducible apply keeps_blockNext | with_reducible apply keeps_storeChunk | with_reducible apply keeps_modLop | split | fail_if_no_progress (with_reducible apply keeps_mk <;> first | with_reducible exact rfl | with_reducible exact fun h => h | skip) | exact Nat.zero_le _ | dsimp only

theorem keepsO_execNodeScrub {kb : Bool} {k0 : State} (id : BitVec 17) (uncorrectable : Bool) (t : Time) (s : State) (hk : Keeps kb k0 s) :
    KeepsO kb k0 (execNodeScrub id uncorrectable t s) := by
  unfold execNodeScrub; try dsimp only
  repeat' first | intro _ | with_reducible assumption | with_reducible apply keepsO_ite | with_reducible apply keepsO_next | with_reducible apply keeps_ite | with_reducible apply keeps_adv | with_reducible apply keeps_raise | with_reducible apply keeps_health | split | fail_if_no_progress (with_reducible apply keeps_mk <;> first | with_reducible exact rfl | with_reducible exact fun h => h | skip) | exact Nat.zero_le _ | dsimp only

end Sys2Proof.Machine
end

