-- ==== Sys2Proof/Laws/KeepsSilo.lean ====
section
/-! SUPPORT. Laws/KeepsSilo.lean: what each operation of Silo.lean keeps. -/
namespace Sys2Proof.Machine

set_option linter.all false

theorem keeps_siloEvent {kb : Bool} {k0 : State} (s : State) (c : Fin 16) (code extra : Nat) (t : Time) (hk : Keeps kb k0 s) :
    Keeps kb k0 (State.siloEvent s c code extra t) := by
  unfold State.siloEvent; try dsimp only
  repeat' first | intro _ | with_reducible assumption | with_reducible apply keeps_ite | with_reducible apply keeps_raise | split | fail_if_no_progress (with_reducible apply keeps_mk <;> first | with_reducible exact rfl | with_reducible exact fun h => h | skip) | exact Nat.zero_le _ | dsimp only

theorem keeps_siloTaps {kb : Bool} {k0 : State} (s : State) (sp : Bool) (b : Time) (hk : Keeps kb k0 s) :
    Keeps kb k0 (State.siloTaps s sp b) := by
  unfold State.siloTaps; try dsimp only
  repeat' first | intro _ | with_reducible assumption | with_reducible apply keeps_ite | with_reducible apply keeps_forFin | with_reducible apply keeps_siloRec | with_reducible apply keeps_forFin | with_reducible apply keeps_forFinPair | split | fail_if_no_progress (with_reducible apply keeps_mk <;> first | with_reducible exact rfl | with_reducible exact fun h => h | skip) | exact Nat.zero_le _ | dsimp only

theorem keeps_siloJudge {kb : Bool} {k0 : State} (s : State) (c : Fin 16) (b : Time) (hk : Keeps kb k0 s) :
    Keeps kb k0 (State.siloJudge s c b) := by
  unfold State.siloJudge; try dsimp only
  repeat' first | intro _ | with_reducible assumption | with_reducible apply keeps_ite | with_reducible apply keeps_modSilo | split | fail_if_no_progress (with_reducible apply keeps_mk <;> first | with_reducible exact rfl | with_reducible exact fun h => h | skip) | exact Nat.zero_le _ | dsimp only

theorem keeps_siloArm {kb : Bool} {k0 : State} (s : State) (c : Fin 16) (b : Time) (hk : Keeps kb k0 s) :
    Keeps kb k0 (State.siloArm s c b) := by
  unfold State.siloArm; try dsimp only
  repeat' first | intro _ | with_reducible assumption | with_reducible apply keeps_ite | with_reducible apply keeps_modSilo | with_reducible apply keeps_reset | split | fail_if_no_progress (with_reducible apply keeps_mk <;> first | with_reducible exact rfl | with_reducible exact fun h => h | skip) | exact Nat.zero_le _ | dsimp only

theorem keeps_siloFp {kb : Bool} {k0 : State} (s : State) (b : Time) (hk : Keeps kb k0 s) :
    Keeps kb k0 (State.siloFp s b) := by
  unfold State.siloFp; try dsimp only
  repeat' first | intro _ | with_reducible assumption | with_reducible apply keeps_ite | with_reducible apply keeps_forFin | with_reducible apply keeps_siloArm | with_reducible apply keeps_siloTaps | with_reducible apply keeps_siloJudge | with_reducible apply keeps_forFin | with_reducible apply keeps_forFinPair | split | fail_if_no_progress (with_reducible apply keeps_mk <;> first | with_reducible exact rfl | with_reducible exact fun h => h | skip) | exact Nat.zero_le _ | dsimp only

theorem keepsO_execTraceArm {kb : Bool} {k0 : State} (q : CmdQ) (s : State) (hk : Keeps kb k0 s) :
    KeepsO kb k0 (execTraceArm q s) := by
  unfold execTraceArm; try dsimp only
  repeat' first | intro _ | with_reducible assumption | with_reducible apply keepsO_ite | with_reducible apply keepsO_next | with_reducible apply keeps_ite | with_reducible apply keepsO_runCmd | with_reducible apply keeps_finish | with_reducible apply keeps_awaitAt | split | fail_if_no_progress (with_reducible apply keeps_mk <;> first | with_reducible exact rfl | with_reducible exact fun h => h | skip) | exact Nat.zero_le _ | dsimp only

theorem keepsO_execTraceArmed {kb : Bool} {k0 : State} (s : State) (hk : Keeps kb k0 s) :
    KeepsO kb k0 (execTraceArmed s) := by
  unfold execTraceArmed; try dsimp only
  repeat' first | intro _ | with_reducible assumption | with_reducible apply keepsO_ite | with_reducible apply keepsO_next | with_reducible apply keeps_ite | with_reducible apply keeps_adv | with_reducible apply keeps_forFin | with_reducible apply keeps_siloArm | with_reducible apply keeps_finishW | with_reducible apply keeps_forFin | with_reducible apply keeps_forFinPair | split | fail_if_no_progress (with_reducible apply keeps_mk <;> first | with_reducible exact rfl | with_reducible exact fun h => h | skip) | exact Nat.zero_le _ | dsimp only

theorem keepsO_execTraceTrigger {kb : Bool} {k0 : State} (c : Fin 16) (s : State) (hk : Keeps kb k0 s) :
    KeepsO kb k0 (execTraceTrigger c s) := by
  unfold execTraceTrigger; try dsimp only
  repeat' first | intro _ | with_reducible assumption | with_reducible apply keepsO_ite | with_reducible apply keepsO_next | with_reducible apply keeps_ite | with_reducible apply keeps_modSilo | with_reducible apply keeps_rcount | with_reducible apply keeps_siloEvent | split | fail_if_no_progress (with_reducible apply keeps_mk <;> first | with_reducible exact rfl | with_reducible exact fun h => h | skip) | exact Nat.zero_le _ | dsimp only

theorem keeps_siloDump {kb : Bool} {k0 : State} (s : State) (c : Fin 16) (post : Nat) (stop : Bool) (hk : Keeps kb k0 s) :
    Keeps kb k0 (State.siloDump s c post stop) := by
  unfold State.siloDump; try dsimp only
  repeat' first | intro _ | with_reducible assumption | with_reducible apply keeps_ite | with_reducible apply keeps_modSilo | with_reducible apply keeps_tqWrite | split | fail_if_no_progress (with_reducible apply keeps_mk <;> first | with_reducible exact rfl | with_reducible exact fun h => h | skip) | exact Nat.zero_le _ | dsimp only

theorem keepsO_execTraceWindowComplete {kb : Bool} {k0 : State} (c : Fin 16) (s : State) (hk : Keeps kb k0 s) :
    KeepsO kb k0 (execTraceWindowComplete c s) := by
  unfold execTraceWindowComplete; try dsimp only
  repeat' first | intro _ | with_reducible assumption | with_reducible apply keepsO_ite | with_reducible apply keepsO_next | with_reducible apply keeps_ite | with_reducible apply keeps_siloDump | split | fail_if_no_progress (with_reducible apply keeps_mk <;> first | with_reducible exact rfl | with_reducible exact fun h => h | skip) | exact Nat.zero_le _ | dsimp only

theorem keepsO_execTraceQuadDelivery {kb : Bool} {k0 : State} (q : Fin 4) (s : State) (hk : Keeps kb k0 s) :
    KeepsO kb k0 (execTraceQuadDelivery q s) := by
  unfold execTraceQuadDelivery; try dsimp only
  repeat' first | intro _ | with_reducible assumption | with_reducible apply keepsO_ite | with_reducible apply keepsO_next | with_reducible apply keeps_ite | with_reducible apply keeps_tqRing | with_reducible apply keeps_allTraceMarks | with_reducible apply keeps_fenceTry | split | fail_if_no_progress (with_reducible apply keeps_mk <;> first | with_reducible exact rfl | with_reducible exact fun h => h | skip) | exact Nat.zero_le _ | dsimp only

theorem keepsO_execTraceDone {kb : Bool} {k0 : State} (c : Fin 16) (s : State) (hk : Keeps kb k0 s) :
    KeepsO kb k0 (execTraceDone c s) := by
  unfold execTraceDone; try dsimp only
  repeat' first | intro _ | with_reducible assumption | with_reducible apply keepsO_ite | with_reducible apply keepsO_next | with_reducible apply keeps_ite | with_reducible apply keeps_modSilo | with_reducible apply keeps_siloEvent | split | fail_if_no_progress (with_reducible apply keeps_mk <;> first | with_reducible exact rfl | with_reducible exact fun h => h | skip) | exact Nat.zero_le _ | dsimp only

theorem keepsO_execTraceStop {kb : Bool} {k0 : State} (q : CmdQ) (s : State) (hk : Keeps kb k0 s) :
    KeepsO kb k0 (execTraceStop q s) := by
  unfold execTraceStop; try dsimp only
  repeat' first | intro _ | with_reducible assumption | with_reducible apply keepsO_ite | with_reducible apply keepsO_next | with_reducible apply keeps_ite | with_reducible apply keepsO_runCmd | with_reducible apply keeps_awaitAt | split | fail_if_no_progress (with_reducible apply keeps_mk <;> first | with_reducible exact rfl | with_reducible exact fun h => h | skip) | exact Nat.zero_le _ | dsimp only

theorem keeps_siloStop {kb : Bool} {k0 : State} (s : State) (c : Fin 16) (t : Time) (hk : Keeps kb k0 s) :
    Keeps kb k0 (State.siloStop s c t) := by
  unfold State.siloStop; try dsimp only
  repeat' first | intro _ | with_reducible assumption | with_reducible apply keeps_ite | with_reducible apply keeps_modSilo | with_reducible apply keeps_siloDump | with_reducible apply keeps_siloEvent | with_reducible apply keeps_siloShut | with_reducible apply keeps_tqWrite | split | fail_if_no_progress (with_reducible apply keeps_mk <;> first | with_reducible exact rfl | with_reducible exact fun h => h | skip) | exact Nat.zero_le _ | dsimp only

theorem keepsO_execStopped {kb : Bool} {k0 : State} (s : State) (hk : Keeps kb k0 s) :
    KeepsO kb k0 (execStopped s) := by
  unfold execStopped; try dsimp only
  repeat' first | intro _ | with_reducible assumption | with_reducible apply keepsO_ite | with_reducible apply keepsO_next | with_reducible apply keeps_ite | with_reducible apply keeps_adv | with_reducible apply keeps_forFin | with_reducible apply keeps_siloStop | with_reducible apply keeps_finishW | with_reducible apply keeps_forFin | with_reducible apply keeps_forFinPair | split | fail_if_no_progress (with_reducible apply keeps_mk <;> first | with_reducible exact rfl | with_reducible exact fun h => h | skip) | exact Nat.zero_le _ | dsimp only

theorem heldEvents_marked (l : List Held) (p : Held → Bool) (rs : List (Fin 4)) (e : Evt) (h : heldEvents l ≤ 256) :
    heldEvents (l.filter p ++ rs.map (fun r => Held.mark r e) ++ l.filter fun x => !p x) ≤ 256 := by
  have hm : heldEvents (rs.map fun r => Held.mark r e) = 0 := by
    induction rs with
    | nil => rfl
    | cons r rs ih => exact (heldEvents_append [Held.mark r e] (rs.map fun r => Held.mark r e)).trans (by rw [ih]; rfl)
  have hs : heldEvents l = heldEvents (l.filter p) + heldEvents (l.filter fun x => !p x) := by
    clear h hm
    induction l with
    | nil => rfl
    | cons x l ih =>
      have ex : ∀ m, heldEvents (x :: m) = heldEvents [x] + heldEvents m := fun m => heldEvents_append [x] m
      have e1 := ex l
      have e2 := ex (l.filter p)
      have e3 := ex (l.filter fun x => !p x)
      cases hp : p x <;> simp only [List.filter_cons, hp, Bool.not_true, Bool.not_false, if_true, if_false, Bool.false_eq_true] <;> omega
  rw [heldEvents_append, heldEvents_append, hm]; omega

theorem keepsO_execFenceMark {kb : Bool} {k0 : State} (n : Fin 16) (t : Time) (s : State) (hk : Keeps kb k0 s) :
    KeepsO kb k0 (execFenceMark n t s) := by
  unfold execFenceMark; try dsimp only
  repeat' first | intro _ | with_reducible assumption | with_reducible apply keepsO_ite | with_reducible apply keepsO_next | with_reducible apply keeps_ite | with_reducible apply keeps_adv | with_reducible apply keeps_traceMarks | with_reducible apply keeps_drain | with_reducible apply keeps_fenceTry | split | fail_if_no_progress (with_reducible apply keeps_mk <;> first | with_reducible exact rfl | with_reducible exact fun h => h | skip) | exact Nat.zero_le _ | dsimp only
  all_goals exact heldEvents_marked _ _ _ _ (by assumption)

theorem keepsO_execEventDrain {kb : Bool} {k0 : State} (t : Time) (s : State) (hk : Keeps kb k0 s) :
    KeepsO kb k0 (execEventDrain t s) := by
  unfold execEventDrain; try dsimp only
  repeat' first | intro _ | with_reducible assumption | with_reducible apply keepsO_ite | with_reducible apply keepsO_next | with_reducible apply keeps_ite | with_reducible apply keeps_adv | with_reducible apply keeps_drain | with_reducible apply keeps_fenceTry | split | fail_if_no_progress (with_reducible apply keeps_mk <;> first | with_reducible exact rfl | with_reducible exact fun h => h | skip) | exact Nat.zero_le _ | dsimp only

end Sys2Proof.Machine
end

