-- ==== Sys2Proof/Laws/KeepsBoundary.lean ====
section
/-! SUPPORT. Laws/KeepsBoundary.lean: what each operation of Boundary.lean keeps. -/
namespace Sys2Proof.Machine

set_option linter.all false

theorem keeps_endCut {kb : Bool} {k0 : State} (s : State) (g : Fin 8) (hk : Keeps kb k0 s) :
    Keeps kb k0 (State.endCut s g) := by
  unfold State.endCut; try dsimp only
  repeat' first | intro _ | with_reducible assumption | with_reducible apply keeps_ite | with_reducible apply keeps_cut | with_reducible apply keeps_rcount | with_reducible apply keeps_modGroup | with_reducible apply keeps_hizLatch | split | fail_if_no_progress (with_reducible apply keeps_mk <;> first | with_reducible exact rfl | with_reducible exact fun h => h | skip) | exact Nat.zero_le _ | dsimp only

theorem keeps_endChopCut {kb : Bool} {k0 : State} (s : State) (c : Fin 2) (hk : Keeps kb k0 s) :
    Keeps kb k0 (State.endChopCut s c) := by
  unfold State.endChopCut; try dsimp only
  repeat' first | intro _ | with_reducible assumption | with_reducible apply keeps_ite | with_reducible apply keeps_cut | with_reducible apply keeps_rcount | with_reducible apply keeps_modChop | split | fail_if_no_progress (with_reducible apply keeps_mk <;> first | with_reducible exact rfl | with_reducible exact fun h => h | skip) | exact Nat.zero_le _ | dsimp only

theorem keeps_endCuts {kb : Bool} {k0 : State} (s : State) (hk : Keeps kb k0 s) :
    Keeps kb k0 (State.endCuts s) := by
  unfold State.endCuts; try dsimp only
  repeat' first | intro _ | with_reducible assumption | with_reducible apply keeps_ite | with_reducible apply keeps_forFin | with_reducible apply keeps_endCut | with_reducible apply keeps_endChopCut | with_reducible apply keeps_modChan | with_reducible apply keeps_forFin | with_reducible apply keeps_forFinPair | split | fail_if_no_progress (with_reducible apply keeps_mk <;> first | with_reducible exact rfl | with_reducible exact fun h => h | skip) | exact Nat.zero_le _ | dsimp only | grind [ChanSt.turnOff, ChanSt.release, ChanSt.account]

theorem keeps_chargeAt {kb : Bool} {k0 : State} (s : State) (b : Time) (hk : Keeps kb k0 s) :
    Keeps kb k0 (State.chargeAt s b) := by
  unfold State.chargeAt; try dsimp only
  repeat' first | intro _ | with_reducible assumption | with_reducible apply keeps_ite | with_reducible apply keeps_forFin | with_reducible apply keeps_modChan | with_reducible apply keeps_countCharge | with_reducible apply keeps_forFin | with_reducible apply keeps_forFinPair | split | fail_if_no_progress (with_reducible apply keeps_mk <;> first | with_reducible exact rfl | with_reducible exact fun h => h | skip) | exact Nat.zero_le _ | dsimp only | grind [ChanSt.turnOff, ChanSt.release, ChanSt.account]

theorem keeps_takeFp {kb : Bool} {k0 : State} (s : State) (b : Time) (hk : Keeps kb k0 s) :
    Keeps kb k0 (State.takeFp s b) := by
  unfold State.takeFp; try dsimp only
  repeat' first | intro _ | with_reducible assumption | with_reducible apply keeps_ite | split | fail_if_no_progress (with_reducible apply keeps_mk <;> first | with_reducible exact rfl | with_reducible exact fun h => h | skip) | exact Nat.zero_le _ | dsimp only

theorem keeps_machFp {kb : Bool} {k0 : State} (s : State) (m : Fin 2) (hk : Keeps kb k0 s) :
    Keeps kb k0 (State.machFp s m) := by
  unfold State.machFp; try dsimp only
  repeat' first | intro _ | with_reducible assumption | with_reducible apply keeps_ite | with_reducible apply keeps_modMach | split | fail_if_no_progress (with_reducible apply keeps_mk <;> first | with_reducible exact rfl | with_reducible exact fun h => h | skip) | exact Nat.zero_le _ | dsimp only

theorem keeps_ascNowFp {kb : Bool} {k0 : State} (s : State) (m : Fin 2) (hk : Keeps kb k0 s) :
    Keeps kb k0 (State.ascNowFp s m) := by
  unfold State.ascNowFp; try dsimp only
  repeat' first | intro _ | with_reducible assumption | with_reducible apply keeps_ite | with_reducible apply keeps_modMach | split | fail_if_no_progress (with_reducible apply keeps_mk <;> first | with_reducible exact rfl | with_reducible exact fun h => h | skip) | exact Nat.zero_le _ | dsimp only

theorem keeps_probeFp {kb : Bool} {k0 : State} (s : State) (m : Fin 2) (b : Time) (hk : Keeps kb k0 s) :
    Keeps kb k0 (State.probeFp s m b) := by
  unfold State.probeFp; try dsimp only
  repeat' first | intro _ | with_reducible assumption | with_reducible apply keeps_ite | with_reducible apply keeps_probeStart | split | fail_if_no_progress (with_reducible apply keeps_mk <;> first | with_reducible exact rfl | with_reducible exact fun h => h | skip) | exact Nat.zero_le _ | dsimp only

theorem keeps_endSets {kb : Bool} {k0 : State} (s : State) (m : Fin 2) (b : Time) (hk : Keeps kb k0 s) :
    Keeps kb k0 (State.endSets s m b) := by
  unfold State.endSets; try dsimp only
  repeat' first | intro _ | with_reducible assumption | with_reducible apply keeps_ite | with_reducible apply keeps_offSet | with_reducible apply keeps_idleMach | with_reducible apply keeps_foldl | with_reducible apply keeps_foldPair | split | fail_if_no_progress (with_reducible apply keeps_mk <;> first | with_reducible exact rfl | with_reducible exact fun h => h | skip) | exact Nat.zero_le _ | dsimp only

theorem keeps_beginSet {kb : Bool} {k0 : State} (s : State) (w : Fin 8) (b : Time) (hk : Keeps kb k0 s) :
    Keeps kb k0 (State.beginSet s w b) := by
  unfold State.beginSet; try dsimp only
  repeat' first | intro _ | with_reducible assumption | with_reducible apply keeps_ite | with_reducible apply keeps_modSet | with_reducible apply keeps_enterSet | with_reducible apply keeps_lowGroup | split | fail_if_no_progress (with_reducible apply keeps_mk <;> first | with_reducible exact rfl | with_reducible exact fun h => h | skip) | exact Nat.zero_le _ | dsimp only

theorem keeps_takeOut {kb : Bool} {k0 : State} (s : State) (m : Fin 2) (b : Time) (hk : Keeps kb k0 s) :
    Keeps kb k0 (State.takeOut s m b) := by
  unfold State.takeOut; try dsimp only
  repeat' first | intro _ | with_reducible assumption | with_reducible apply keeps_ite | with_reducible apply keeps_modMach | with_reducible apply keeps_mcRun | with_reducible apply keeps_modSet | with_reducible apply keeps_foldl | with_reducible apply keeps_foldPair | split | fail_if_no_progress (with_reducible apply keeps_mk <;> first | with_reducible exact rfl | with_reducible exact fun h => h | skip) | exact Nat.zero_le _ | dsimp only

theorem keeps_turnTd {kb : Bool} {k0 : State} (s : State) (w : Fin 8) (b : Time) (hk : Keeps kb k0 s) :
    Keeps kb k0 (State.turnTd s w b) := by
  unfold State.turnTd; try dsimp only
  repeat' first | intro _ | with_reducible assumption | with_reducible apply keeps_ite | with_reducible apply keeps_modSet | split | fail_if_no_progress (with_reducible apply keeps_mk <;> first | with_reducible exact rfl | with_reducible exact fun h => h | skip) | exact Nat.zero_le _ | dsimp only

theorem keeps_obsFp {kb : Bool} {k0 : State} (s : State) (w : Fin 8) (b : Time) (hk : Keeps kb k0 s) :
    Keeps kb k0 (State.obsFp s w b) := by
  unfold State.obsFp; try dsimp only
  repeat' first | intro _ | with_reducible assumption | with_reducible apply keeps_ite | with_reducible apply keeps_modSet | split | fail_if_no_progress (with_reducible apply keeps_mk <;> first | with_reducible exact rfl | with_reducible exact fun h => h | skip) | exact Nat.zero_le _ | dsimp only

theorem keeps_obsSafe {kb : Bool} {k0 : State} (s : State) (m : Fin 2) (b : Time) (hk : Keeps kb k0 s) :
    Keeps kb k0 (State.obsSafe s m b) := by
  unfold State.obsSafe; try dsimp only
  repeat' first | intro _ | with_reducible assumption | with_reducible apply keeps_ite | with_reducible apply keeps_ascObserve | with_reducible apply keeps_modMach | split | fail_if_no_progress (with_reducible apply keeps_mk <;> first | with_reducible exact rfl | with_reducible exact fun h => h | skip) | exact Nat.zero_le _ | dsimp only

theorem keeps_rowPins {kb : Bool} {k0 : State} (s : State) (w : Fin 8) (b : Time) (hk : Keeps kb k0 s) :
    Keeps kb k0 (State.rowPins s w b) := by
  unfold State.rowPins; try dsimp only
  repeat' first | intro _ | with_reducible assumption | with_reducible apply keeps_ite | with_reducible apply keeps_ascPattern | with_reducible apply keeps_lowGroup | with_reducible apply keeps_modGroup | with_reducible apply keeps_releaseGroup | split | fail_if_no_progress (with_reducible apply keeps_mk <;> first | with_reducible exact rfl | with_reducible exact fun h => h | skip) | exact Nat.zero_le _ | dsimp only

theorem keeps_loadEdges {kb : Bool} {k0 : State} (s : State) (w : Fin 8) (b : Time) (hk : Keeps kb k0 s) :
    Keeps kb k0 (State.loadEdges s w b) := by
  unfold State.loadEdges; try dsimp only
  repeat' first | intro _ | with_reducible assumption | with_reducible apply keeps_ite | with_reducible apply keeps_reqSet | split | fail_if_no_progress (with_reducible apply keeps_mk <;> first | with_reducible exact rfl | with_reducible exact fun h => h | skip) | exact Nat.zero_le _ | dsimp only

theorem keeps_starveFp {kb : Bool} {k0 : State} (s : State) (w : Fin 8) (b : Time) (hk : Keeps kb k0 s) :
    Keeps kb k0 (State.starveFp s w b) := by
  unfold State.starveFp; try dsimp only
  repeat' first | intro _ | with_reducible assumption | with_reducible apply keeps_ite | with_reducible apply keeps_modSet | split | fail_if_no_progress (with_reducible apply keeps_mk <;> first | with_reducible exact rfl | with_reducible exact fun h => h | skip) | exact Nat.zero_le _ | dsimp only

theorem keeps_ov2Fp {kb : Bool} {k0 : State} (s : State) (x : Fin 2) (v : Rat) (b : Time) (hk : Keeps kb k0 s) :
    Keeps kb k0 (State.ov2Fp s x v b) := by
  unfold State.ov2Fp; try dsimp only
  repeat' first | intro _ | with_reducible assumption | with_reducible apply keeps_ite | with_reducible apply keeps_mbrk | with_reducible apply keeps_raise | with_reducible apply keeps_modMach | with_reducible apply keeps_foldl | with_reducible apply keeps_foldPair | split | fail_if_no_progress (with_reducible apply keeps_mk <;> first | with_reducible exact rfl | with_reducible exact fun h => h | skip) | exact Nat.zero_le _ | dsimp only

theorem keeps_ov1Fp {kb : Bool} {k0 : State} (s : State) (x : Fin 2) (v : Rat) (b : Time) (hk : Keeps kb k0 s) :
    Keeps kb k0 (State.ov1Fp s x v b) := by
  unfold State.ov1Fp; try dsimp only
  repeat' first | intro _ | with_reducible assumption | with_reducible apply keeps_ite | with_reducible apply keeps_raise | split | fail_if_no_progress (with_reducible apply keeps_mk <;> first | with_reducible exact rfl | with_reducible exact fun h => h | skip) | exact Nat.zero_le _ | dsimp only

theorem keeps_uvFp {kb : Bool} {k0 : State} (s : State) (x : Fin 2) (v : Rat) (hk : Keeps kb k0 s) :
    Keeps kb k0 (State.uvFp s x v) := by
  unfold State.uvFp; try dsimp only
  repeat' first | intro _ | with_reducible assumption | with_reducible apply keeps_ite | split | fail_if_no_progress (with_reducible apply keeps_mk <;> first | with_reducible exact rfl | with_reducible exact fun h => h | skip) | exact Nat.zero_le _ | dsimp only

theorem keeps_linkFp {kb : Bool} {k0 : State} (s : State) (x : Fin 2) (b : Time) (hk : Keeps kb k0 s) :
    Keeps kb k0 (State.linkFp s x b) := by
  unfold State.linkFp; try dsimp only
  repeat' first | intro _ | with_reducible assumption | with_reducible apply keeps_ite | with_reducible apply keeps_ov2Fp | with_reducible apply keeps_ov1Fp | with_reducible apply keeps_uvFp | split | fail_if_no_progress (with_reducible apply keeps_mk <;> first | with_reducible exact rfl | with_reducible exact fun h => h | skip) | exact Nat.zero_le _ | dsimp only

theorem keeps_chopFp {kb : Bool} {k0 : State} (s : State) (c : Fin 2) (b : Time) (hk : Keeps kb k0 s) :
    Keeps kb k0 (State.chopFp s c b) := by
  unfold State.chopFp; try dsimp only
  repeat' first | intro _ | with_reducible assumption | with_reducible apply keeps_ite | with_reducible apply keeps_modChop | with_reducible apply keeps_reqChop | split | fail_if_no_progress (with_reducible apply keeps_mk <;> first | with_reducible exact rfl | with_reducible exact fun h => h | skip) | exact Nat.zero_le _ | dsimp only

theorem keeps_kOvSp {kb : Bool} {k0 : State} (s : State) (x : Fin 2) (b : Time) (hk : Keeps kb k0 s) :
    Keeps kb k0 (State.kOvSp s x b) := by
  unfold State.kOvSp; try dsimp only
  repeat' first | intro _ | with_reducible assumption | with_reducible apply keeps_ite | with_reducible apply keeps_mbrk | split | fail_if_no_progress (with_reducible apply keeps_mk <;> first | with_reducible exact rfl | with_reducible exact fun h => h | skip) | exact Nat.zero_le _ | dsimp only

theorem keeps_fpEnd {kb : Bool} {k0 : State} (s : State) (b : Time) (hk : Keeps kb k0 s) :
    Keeps kb k0 (State.fpEnd s b) := by
  unfold State.fpEnd; try dsimp only
  repeat' first | intro _ | with_reducible assumption | with_reducible apply keeps_ite | with_reducible apply keeps_chargeAt | with_reducible apply keeps_endCuts | with_reducible apply keeps_machFp | with_reducible apply keeps_trkFp | with_reducible apply keeps_ascNowFp | with_reducible apply keeps_forFin | with_reducible apply keeps_linkFp | with_reducible apply keeps_foldl | with_reducible apply keeps_foldPair | with_reducible apply keeps_forFin | with_reducible apply keeps_forFinPair | split | fail_if_no_progress (with_reducible apply keeps_mk <;> first | with_reducible exact rfl | with_reducible exact fun h => h | skip) | exact Nat.zero_le _ | dsimp only

theorem keeps_fpBegin {kb : Bool} {k0 : State} (s : State) (b : Time) (hk : Keeps kb k0 s) :
    Keeps kb k0 (State.fpBegin s b) := by
  unfold State.fpBegin; try dsimp only
  repeat' first | intro _ | with_reducible assumption | with_reducible apply keeps_ite | with_reducible apply keeps_ascEnter | with_reducible apply keeps_takeOut | with_reducible apply keeps_endSets | with_reducible apply keeps_probeFp | with_reducible apply keeps_forFin | with_reducible apply keeps_turnTd | with_reducible apply keeps_obsFp | with_reducible apply keeps_obsSafe | with_reducible apply keeps_beginSet | with_reducible apply keeps_noteRot | with_reducible apply keeps_starveFp | with_reducible apply keeps_cellsFp | with_reducible apply keeps_rowPins | with_reducible apply keeps_retrip | with_reducible apply keeps_loadEdges | with_reducible apply keeps_chopFp | with_reducible apply keeps_foldl | with_reducible apply keeps_foldPair | with_reducible apply keeps_forFin | with_reducible apply keeps_forFinPair | split | fail_if_no_progress (with_reducible apply keeps_mk <;> first | with_reducible exact rfl | with_reducible exact fun h => h | skip) | exact Nat.zero_le _ | dsimp only

theorem keeps_ascRelSp {kb : Bool} {k0 : State} (s : State) (b : Time) (hk : Keeps kb k0 s) :
    Keeps kb k0 (State.ascRelSp s b) := by
  unfold State.ascRelSp; try dsimp only
  repeat' first | intro _ | with_reducible assumption | with_reducible apply keeps_ite | with_reducible apply keeps_forFin | with_reducible apply keeps_modMach | with_reducible apply keeps_modSet | with_reducible apply keeps_reset | with_reducible apply keeps_releaseGroup | with_reducible apply keeps_modGroup | with_reducible apply keeps_raise | with_reducible apply keeps_retrip | with_reducible apply keeps_foldl | with_reducible apply keeps_foldPair | with_reducible apply keeps_forFin | with_reducible apply keeps_forFinPair | split | fail_if_no_progress (with_reducible apply keeps_mk <;> first | with_reducible exact rfl | with_reducible exact fun h => h | skip) | exact Nat.zero_le _ | dsimp only

theorem keeps_rejoinSp {kb : Bool} {k0 : State} (s : State) (w : Fin 8) (b : Time) (hk : Keeps kb k0 s) :
    Keeps kb k0 (State.rejoinSp s w b) := by
  unfold State.rejoinSp; try dsimp only
  repeat' first | intro _ | with_reducible assumption | with_reducible apply keeps_ite | with_reducible apply keeps_modSet | with_reducible apply keeps_modGroup | with_reducible apply keeps_enterSet | with_reducible apply keeps_cellBegin | with_reducible apply keeps_cellPasses | with_reducible apply keeps_lowGroup | with_reducible apply keeps_retrip | with_reducible apply keeps_reqSet | split | fail_if_no_progress (with_reducible apply keeps_mk <;> first | with_reducible exact rfl | with_reducible exact fun h => h | skip) | exact Nat.zero_le _ | dsimp only

theorem keeps_mcShow {kb : Bool} {k0 : State} (s : State) (m : Fin 2) (b : Time) (hk : Keeps kb k0 s) :
    Keeps kb k0 (State.mcShow s m b) := by
  unfold State.mcShow; try dsimp only
  repeat' first | intro _ | with_reducible assumption | with_reducible apply keeps_ite | with_reducible apply keeps_modMach | split | fail_if_no_progress (with_reducible apply keeps_mk <;> first | with_reducible exact rfl | with_reducible exact fun h => h | skip) | exact Nat.zero_le _ | dsimp only

theorem keeps_spWork {kb : Bool} {k0 : State} (s : State) (b : Time) (hk : Keeps kb k0 s) :
    Keeps kb k0 (State.spWork s b) := by
  unfold State.spWork; try dsimp only
  repeat' first | intro _ | with_reducible assumption | with_reducible apply keeps_ite | with_reducible apply keeps_thmToCells | with_reducible apply keeps_forFin | with_reducible apply keeps_kOvSp | with_reducible apply keeps_ascRelSp | with_reducible apply keeps_rejoinSp | with_reducible apply keeps_mcShow | with_reducible apply keeps_mcRun | with_reducible apply keeps_forFin | with_reducible apply keeps_forFinPair | split | fail_if_no_progress (with_reducible apply keeps_mk <;> first | with_reducible exact rfl | with_reducible exact fun h => h | skip) | exact Nat.zero_le _ | dsimp only

end Sys2Proof.Machine
end

