-- ==== Sys2Proof/Laws/KeepsBaton.lean ====
section
/-! SUPPORT. Laws/KeepsBaton.lean: what each operation of Baton.lean keeps. -/
namespace Sys2Proof.Machine

set_option linter.all false

theorem keeps_batonSend {kb : Bool} {k0 : State} (s : State) (b : Time) (hk : Keeps kb k0 s) :
    Keeps kb k0 (State.batonSend s b) := by
  unfold State.batonSend; try dsimp only
  repeat' first | intro _ | with_reducible assumption | with_reducible apply keeps_ite | with_reducible apply keeps_sendFrame | split | fail_if_no_progress (with_reducible apply keeps_mk <;> first | with_reducible exact rfl | with_reducible exact fun h => h | skip) | exact Nat.zero_le _ | dsimp only

theorem keeps_trkCopy {kb : Bool} {k0 : State} (s : State) (x : BatonSt) (m : Fin 2) (b : Time) (hk : Keeps kb k0 s) :
    Keeps kb k0 (State.trkCopy s x m b) := by
  unfold State.trkCopy; try dsimp only
  repeat' first | intro _ | with_reducible assumption | with_reducible apply keeps_ite | with_reducible apply keeps_modMach | split | fail_if_no_progress (with_reducible apply keeps_mk <;> first | with_reducible exact rfl | with_reducible exact fun h => h | skip) | exact Nat.zero_le _ | dsimp only

theorem keeps_trkAdopt {kb : Bool} {k0 : State} (s : State) (x : BatonSt) (m : Fin 2) (b : Time) (hk : Keeps kb k0 s) :
    Keeps kb k0 (State.trkAdopt s x m b).1 := by
  unfold State.trkAdopt; try dsimp only
  repeat' first | intro _ | with_reducible assumption | with_reducible apply keeps_ite | with_reducible apply keeps_trkCopy | split | fail_if_no_progress (with_reducible apply keeps_mk <;> first | with_reducible exact rfl | with_reducible exact fun h => h | skip) | exact Nat.zero_le _ | dsimp only

theorem keeps_shadowSets {kb : Bool} {k0 : State} (s : State) (hk : Keeps kb k0 s) :
    Keeps kb k0 (State.shadowSets s) := by
  unfold State.shadowSets; try dsimp only
  repeat' first | intro _ | with_reducible assumption | with_reducible apply keeps_ite | with_reducible apply keeps_forFin | with_reducible apply keeps_modSet | with_reducible apply keeps_forFin | with_reducible apply keeps_forFinPair | split | fail_if_no_progress (with_reducible apply keeps_mk <;> first | with_reducible exact rfl | with_reducible exact fun h => h | skip) | exact Nat.zero_le _ | dsimp only

theorem keeps_setAdopt {kb : Bool} {k0 : State} (s : State) (x : BatonSt) (w : Fin 8) (b : Time) (hk : Keeps kb k0 s) :
    Keeps kb k0 (State.setAdopt s x w b) := by
  unfold State.setAdopt; try dsimp only
  repeat' first | intro _ | with_reducible assumption | with_reducible apply keeps_ite | with_reducible apply keeps_modGroup | with_reducible apply keeps_modSet | with_reducible apply keeps_enterSet | with_reducible apply keeps_offSet | split | fail_if_no_progress (with_reducible apply keeps_mk <;> first | with_reducible exact rfl | with_reducible exact fun h => h | skip) | exact Nat.zero_le _ | dsimp only

theorem keeps_setPrepare {kb : Bool} {k0 : State} (s : State) (x : BatonSt) (w : Fin 8) (b : Time) (hk : Keeps kb k0 s) :
    Keeps kb k0 (State.setPrepare s x w b) := by
  unfold State.setPrepare; try dsimp only
  repeat' first | intro _ | with_reducible assumption | with_reducible apply keeps_ite | with_reducible apply keeps_modSet | split | fail_if_no_progress (with_reducible apply keeps_mk <;> first | with_reducible exact rfl | with_reducible exact fun h => h | skip) | exact Nat.zero_le _ | dsimp only

theorem keeps_machAdopt {kb : Bool} {k0 : State} (s : State) (x : BatonSt) (m : Fin 2) (hk : Keeps kb k0 s) :
    Keeps kb k0 (State.machAdopt s x m) := by
  unfold State.machAdopt; try dsimp only
  repeat' first | intro _ | with_reducible assumption | with_reducible apply keeps_ite | with_reducible apply keeps_modMach | split | fail_if_no_progress (with_reducible apply keeps_mk <;> first | with_reducible exact rfl | with_reducible exact fun h => h | skip) | exact Nat.zero_le _ | dsimp only

theorem keeps_hoAdopt {kb : Bool} {k0 : State} (s : State) (x : BatonSt) (b : Time) (hk : Keeps kb k0 s) :
    Keeps kb k0 (State.hoAdopt s x b) := by
  unfold State.hoAdopt; try dsimp only
  repeat' first | intro _ | with_reducible assumption | with_reducible apply keeps_ite | with_reducible apply keeps_forFin | with_reducible apply keeps_setPrepare | with_reducible apply keeps_forFin | with_reducible apply keeps_forFinPair | split | fail_if_no_progress (with_reducible apply keeps_mk <;> first | with_reducible exact rfl | with_reducible exact fun h => h | skip) | exact Nat.zero_le _ | dsimp only

theorem keeps_adopt {kb : Bool} {k0 : State} (s : State) (x : BatonSt) (b : Time) (hk : Keeps kb k0 s) :
    Keeps kb k0 (State.adopt s x b) := by
  unfold State.adopt; try dsimp only
  repeat' first | intro _ | with_reducible assumption | with_reducible apply keeps_ite | with_reducible apply keeps_shadowSets | with_reducible apply keeps_mbrk | with_reducible apply keeps_forFin | with_reducible apply keeps_modChop | with_reducible apply keeps_machAdopt | with_reducible apply keeps_trkAdopt | with_reducible apply keeps_setAdopt | with_reducible apply keeps_hoAdopt | with_reducible apply keeps_rcount | with_reducible apply keeps_foldl | with_reducible apply keeps_foldPair | with_reducible apply keeps_forFin | with_reducible apply keeps_forFinPair | split | fail_if_no_progress (with_reducible apply keeps_mk <;> first | with_reducible exact rfl | with_reducible exact fun h => h | skip) | exact Nat.zero_le _ | dsimp only

theorem keepsO_execBatonAdoption {kb : Bool} {k0 : State} (s : State) (hk : Keeps kb k0 s) :
    KeepsO kb k0 (execBatonAdoption s) := by
  unfold execBatonAdoption; try dsimp only
  repeat' first | intro _ | with_reducible assumption | with_reducible apply keepsO_ite | with_reducible apply keepsO_next | with_reducible apply keeps_ite | with_reducible apply keeps_adv | with_reducible apply keeps_adopt | split | fail_if_no_progress (with_reducible apply keeps_mk <;> first | with_reducible exact rfl | with_reducible exact fun h => h | skip) | exact Nat.zero_le _ | dsimp only

theorem keepsO_execDivergence {kb : Bool} {k0 : State} (m : Fin 2) (s : State) (hk : Keeps kb k0 s) :
    KeepsO kb k0 (execDivergence m s) := by
  unfold execDivergence; try dsimp only
  repeat' first | intro _ | with_reducible assumption | with_reducible apply keepsO_ite | with_reducible apply keepsO_next | with_reducible apply keeps_ite | with_reducible apply keeps_raise | split | fail_if_no_progress (with_reducible apply keeps_mk <;> first | with_reducible exact rfl | with_reducible exact fun h => h | skip) | exact Nat.zero_le _ | dsimp only

theorem keeps_expectFp {kb : Bool} {k0 : State} (s : State) (b : Time) (hk : Keeps kb k0 s) :
    Keeps kb k0 (State.expectFp s b) := by
  unfold State.expectFp; try dsimp only
  repeat' first | intro _ | with_reducible assumption | with_reducible apply keeps_ite | with_reducible apply keeps_rcount | split | fail_if_no_progress (with_reducible apply keeps_mk <;> first | with_reducible exact rfl | with_reducible exact fun h => h | skip) | exact Nat.zero_le _ | dsimp only

theorem keeps_mcLoad {kb : Bool} {k0 : State} (s : State) (m : Fin 2) (b : Time) (hk : Keeps kb k0 s) :
    Keeps kb k0 (State.mcLoad s m b) := by
  unfold State.mcLoad; try dsimp only
  repeat' first | intro _ | with_reducible assumption | with_reducible apply keeps_ite | with_reducible apply keeps_modMach | with_reducible apply keeps_clampSet | with_reducible apply keeps_foldl | with_reducible apply keeps_foldPair | split | fail_if_no_progress (with_reducible apply keeps_mk <;> first | with_reducible exact rfl | with_reducible exact fun h => h | skip) | exact Nat.zero_le _ | dsimp only

theorem keeps_shadowSp {kb : Bool} {k0 : State} (s : State) (b : Time) (hk : Keeps kb k0 s) :
    Keeps kb k0 (State.shadowSp s b) := by
  unfold State.shadowSp; try dsimp only
  repeat' first | intro _ | with_reducible assumption | with_reducible apply keeps_ite | with_reducible apply keeps_mcLoad | with_reducible apply keeps_foldl | with_reducible apply keeps_foldPair | split | fail_if_no_progress (with_reducible apply keeps_mk <;> first | with_reducible exact rfl | with_reducible exact fun h => h | skip) | exact Nat.zero_le _ | dsimp only

end Sys2Proof.Machine
end

