-- ==== Sys2Proof/Laws/KeepsPair.lean ====
section
/-! SUPPORT. Laws/KeepsPair.lean: what each operation of Pair.lean keeps. -/
namespace Sys2Proof.Machine

set_option linter.all false

theorem keeps_pairEvt {kb : Bool} {k0 : State} (s : State) (detail : Nat) (t : Time) (hk : Keeps kb k0 s) :
    Keeps kb k0 (State.pairEvt s detail t) := by
  unfold State.pairEvt; try dsimp only
  repeat' first | intro _ | with_reducible assumption | with_reducible apply keeps_ite | with_reducible apply keeps_raise | split | fail_if_no_progress (with_reducible apply keeps_mk <;> first | with_reducible exact rfl | with_reducible exact fun h => h | skip) | exact Nat.zero_le _ | dsimp only

theorem keeps_claimNow {kb : Bool} {k0 : State} (s : State) (role : Role) (e : Word) (t2 : Time) (hk : Keeps kb k0 s) :
    Keeps kb k0 (State.claimNow s role e t2) := by
  unfold State.claimNow; try dsimp only
  repeat' first | intro _ | with_reducible assumption | with_reducible apply keeps_ite | with_reducible apply keeps_newEpoch | with_reducible apply keeps_sendFrame | split | fail_if_no_progress (with_reducible apply keeps_mk <;> first | with_reducible exact rfl | with_reducible exact fun h => h | skip) | exact Nat.zero_le _ | dsimp only

theorem keeps_takeDev {kb : Bool} {k0 : State} (s : State) (hk : Keeps kb k0 s) :
    Keeps kb k0 (State.takeDev s) := by
  unfold State.takeDev; try dsimp only
  repeat' first | intro _ | with_reducible assumption | with_reducible apply keeps_ite | split | fail_if_no_progress (with_reducible apply keeps_mk <;> first | with_reducible exact rfl | with_reducible exact fun h => h | skip) | exact Nat.zero_le _ | dsimp only

theorem keeps_relay {kb : Bool} {k0 : State} (s : State) (t : Time) (hk : Keeps kb k0 s) :
    Keeps kb k0 (State.relay s t) := by
  unfold State.relay; try dsimp only
  repeat' first | intro _ | with_reducible assumption | with_reducible apply keeps_ite | with_reducible apply keeps_freeNext | with_reducible apply keeps_claimNow | with_reducible apply keeps_takeDev | with_reducible apply keeps_localSafe | split | fail_if_no_progress (with_reducible apply keeps_mk <;> first | with_reducible exact rfl | with_reducible exact fun h => h | skip) | exact Nat.zero_le _ | dsimp only

theorem keeps_declareLost {kb : Bool} {k0 : State} (s : State) (cause : Nat) (t : Time) (hk : Keeps kb k0 s) :
    Keeps kb k0 (State.declareLost s cause t) := by
  unfold State.declareLost; try dsimp only
  repeat' first | intro _ | with_reducible assumption | with_reducible apply keeps_ite | with_reducible apply keeps_raise | with_reducible apply keeps_relay | with_reducible apply keeps_leaveDrive | split | fail_if_no_progress (with_reducible apply keeps_mk <;> first | with_reducible exact rfl | with_reducible exact fun h => h | skip) | exact Nat.zero_le _ | dsimp only

theorem keeps_activeToSolo {kb : Bool} {k0 : State} (s : State) (hk : Keeps kb k0 s) :
    Keeps kb k0 (State.activeToSolo s) := by
  unfold State.activeToSolo; try dsimp only
  repeat' first | intro _ | with_reducible assumption | with_reducible apply keeps_ite | with_reducible apply keeps_dropHandover | split | fail_if_no_progress (with_reducible apply keeps_mk <;> first | with_reducible exact rfl | with_reducible exact fun h => h | skip) | exact Nat.zero_le _ | dsimp only

theorem keeps_frameTaken {kb : Bool} {k0 : State} (s : State) (h : Quad) (hk : Keeps kb k0 s) : Keeps kb k0 (s.frameTaken h) := by
  unfold State.frameTaken
  extract_lets e r y s1 newer
  have h1 : Keeps kb k0 s1 := by apply keeps_mk hk <;> first | exact rfl | exact fun h => h
  clear_value s1 newer
  repeat' first | with_reducible assumption | with_reducible apply keeps_ite | with_reducible apply keeps_newEpoch | with_reducible apply keeps_declareLost | with_reducible apply keeps_depose | with_reducible apply keeps_activeToSolo | with_reducible apply keeps_dropHandover | with_reducible apply keeps_pairEvt | split | fail_if_no_progress (with_reducible apply keeps_mk <;> first | with_reducible exact rfl | with_reducible exact fun h => h | skip) | dsimp only

theorem keeps_frameCount {kb : Bool} {k0 : State} (s : State) (f : List Quad) (hk : Keeps kb k0 s) :
    Keeps kb k0 (State.frameCount s f) := by
  unfold State.frameCount; try dsimp only
  repeat' first | intro _ | with_reducible assumption | with_reducible apply keeps_ite | with_reducible apply keeps_rcount | split | fail_if_no_progress (with_reducible apply keeps_mk <;> first | with_reducible exact rfl | with_reducible exact fun h => h | skip) | exact Nat.zero_le _ | dsimp only

theorem keepsO_rx {kb : Bool} {k0 : State} (s : State) (f : List Quad) (type kind : Nat) (t : Time) (body : State → State)
    (hk : Keeps kb k0 s) (hf : ∀ u, Keeps kb k0 u → Keeps kb k0 (body u)) : KeepsO kb k0 (s.rx f type kind t body) := by
  unfold State.rx; dsimp only
  have h := keeps_adv s t hk
  exact keepsO_ite (keepsO_next h) (keepsO_ite (keepsO_next (hf _ (keeps_frameTaken _ _ h))) (keepsO_next (keeps_frameCount _ _ h)))

theorem keepsO_execBaton {kb : Bool} {k0 : State} (frame : List Quad) (t : Time) (s : State) (hk : Keeps kb k0 s) :
    KeepsO kb k0 (execBaton frame t s) := by
  unfold execBaton; try dsimp only
  repeat' first | intro _ | with_reducible assumption | with_reducible apply keepsO_ite | with_reducible apply keepsO_next | with_reducible apply keeps_ite | with_reducible apply keepsO_rx | split | fail_if_no_progress (with_reducible apply keeps_mk <;> first | with_reducible exact rfl | with_reducible exact fun h => h | skip) | exact Nat.zero_le _ | dsimp only

theorem keepsO_execHeartbeat {kb : Bool} {k0 : State} (frame : List Quad) (t : Time) (s : State) (hk : Keeps kb k0 s) :
    KeepsO kb k0 (execHeartbeat frame t s) := by
  unfold execHeartbeat; try dsimp only
  repeat' first | intro _ | with_reducible assumption | with_reducible apply keepsO_ite | with_reducible apply keepsO_next | with_reducible apply keeps_ite | with_reducible apply keepsO_rx | split | fail_if_no_progress (with_reducible apply keeps_mk <;> first | with_reducible exact rfl | with_reducible exact fun h => h | skip) | exact Nat.zero_le _ | dsimp only

theorem keepsO_execFrameDiscard {kb : Bool} {k0 : State} (frame : List Quad) (wellFramed : Bool) (t : Time) (s : State) (hk : Keeps kb k0 s) :
    KeepsO kb k0 (execFrameDiscard frame wellFramed t s) := by
  unfold execFrameDiscard; try dsimp only
  repeat' first | intro _ | with_reducible assumption | with_reducible apply keepsO_ite | with_reducible apply keepsO_next | with_reducible apply keeps_ite | with_reducible apply keeps_adv | with_reducible apply keeps_frameCount | split | fail_if_no_progress (with_reducible apply keeps_mk <;> first | with_reducible exact rfl | with_reducible exact fun h => h | skip) | exact Nat.zero_le _ | dsimp only

theorem keepsO_execRelayClaim {kb : Bool} {k0 : State} (frame : List Quad) (t : Time) (s : State) (hk : Keeps kb k0 s) :
    KeepsO kb k0 (execRelayClaim frame t s) := by
  unfold execRelayClaim; try dsimp only
  repeat' first | intro _ | with_reducible assumption | with_reducible apply keepsO_ite | with_reducible apply keepsO_next | with_reducible apply keeps_ite | with_reducible apply keepsO_rx | split | fail_if_no_progress (with_reducible apply keeps_mk <;> first | with_reducible exact rfl | with_reducible exact fun h => h | skip) | exact Nat.zero_le _ | dsimp only

theorem keepsO_execRelayYield {kb : Bool} {k0 : State} (frame : List Quad) (t : Time) (s : State) (hk : Keeps kb k0 s) :
    KeepsO kb k0 (execRelayYield frame t s) := by
  unfold execRelayYield; try dsimp only
  repeat' first | intro _ | with_reducible assumption | with_reducible apply keepsO_ite | with_reducible apply keepsO_next | with_reducible apply keeps_ite | with_reducible apply keepsO_rx | with_reducible apply keeps_declareLost | split | fail_if_no_progress (with_reducible apply keeps_mk <;> first | with_reducible exact rfl | with_reducible exact fun h => h | skip) | exact Nat.zero_le _ | dsimp only

theorem keeps_reply {kb : Bool} {k0 : State} (s : State) (kind reason : Nat) (hk : Keeps kb k0 s) :
    Keeps kb k0 (State.reply s kind reason) := by
  unfold State.reply; try dsimp only
  repeat' first | intro _ | with_reducible assumption | with_reducible apply keeps_ite | with_reducible apply keeps_sendSlow | split | fail_if_no_progress (with_reducible apply keeps_mk <;> first | with_reducible exact rfl | with_reducible exact fun h => h | skip) | exact Nat.zero_le _ | dsimp only

theorem keepsO_execRequestJoin {kb : Bool} {k0 : State} (frame : List Quad) (t : Time) (s : State) (hk : Keeps kb k0 s) :
    KeepsO kb k0 (execRequestJoin frame t s) := by
  unfold execRequestJoin; try dsimp only
  repeat' first | intro _ | with_reducible assumption | with_reducible apply keepsO_ite | with_reducible apply keepsO_next | with_reducible apply keeps_ite | with_reducible apply keepsO_rx | with_reducible apply keeps_reply | split | fail_if_no_progress (with_reducible apply keeps_mk <;> first | with_reducible exact rfl | with_reducible exact fun h => h | skip) | exact Nat.zero_le _ | dsimp only

theorem keepsO_execRequestHandover {kb : Bool} {k0 : State} (frame : List Quad) (t : Time) (s : State) (hk : Keeps kb k0 s) :
    KeepsO kb k0 (execRequestHandover frame t s) := by
  unfold execRequestHandover; try dsimp only
  repeat' first | intro _ | with_reducible assumption | with_reducible apply keepsO_ite | with_reducible apply keepsO_next | with_reducible apply keeps_ite | with_reducible apply keepsO_rx | with_reducible apply keeps_reply | split | fail_if_no_progress (with_reducible apply keeps_mk <;> first | with_reducible exact rfl | with_reducible exact fun h => h | skip) | exact Nat.zero_le _ | dsimp only

theorem keepsO_execRequestAttestNonce {kb : Bool} {k0 : State} (frame : List Quad) (t : Time) (s : State) (hk : Keeps kb k0 s) :
    KeepsO kb k0 (execRequestAttestNonce frame t s) := by
  unfold execRequestAttestNonce; try dsimp only
  repeat' first | intro _ | with_reducible assumption | with_reducible apply keepsO_ite | with_reducible apply keepsO_next | with_reducible apply keeps_ite | with_reducible apply keepsO_rx | split | fail_if_no_progress (with_reducible apply keeps_mk <;> first | with_reducible exact rfl | with_reducible exact fun h => h | skip) | exact Nat.zero_le _ | dsimp only

theorem keepsO_execReply {kb : Bool} {k0 : State} (frame : List Quad) (t : Time) (s : State) (hk : Keeps kb k0 s) :
    KeepsO kb k0 (execReply frame t s) := by
  unfold execReply; try dsimp only
  repeat' first | intro _ | with_reducible assumption | with_reducible apply keepsO_ite | with_reducible apply keepsO_next | with_reducible apply keeps_ite | with_reducible apply keepsO_rx | split | fail_if_no_progress (with_reducible apply keeps_mk <;> first | with_reducible exact rfl | with_reducible exact fun h => h | skip) | exact Nat.zero_le _ | dsimp only

theorem keepsO_execAttestFrame {kb : Bool} {k0 : State} (frame : List Quad) (t : Time) (s : State) (hk : Keeps kb k0 s) :
    KeepsO kb k0 (execAttestFrame frame t s) := by
  unfold execAttestFrame; try dsimp only
  repeat' first | intro _ | with_reducible assumption | with_reducible apply keepsO_ite | with_reducible apply keepsO_next | with_reducible apply keeps_ite | with_reducible apply keepsO_rx | split | fail_if_no_progress (with_reducible apply keeps_mk <;> first | with_reducible exact rfl | with_reducible exact fun h => h | skip) | exact Nat.zero_le _ | dsimp only

theorem keepsO_execHeartbeatSend {kb : Bool} {k0 : State} (t : Time) (s : State) (hk : Keeps kb k0 s) :
    KeepsO kb k0 (execHeartbeatSend t s) := by
  unfold execHeartbeatSend; try dsimp only
  repeat' first | intro _ | with_reducible assumption | with_reducible apply keepsO_ite | with_reducible apply keepsO_next | with_reducible apply keeps_ite | with_reducible apply keeps_adv | with_reducible apply keeps_sendFrame | split | fail_if_no_progress (with_reducible apply keeps_mk <;> first | with_reducible exact rfl | with_reducible exact fun h => h | skip) | exact Nat.zero_le _ | dsimp only

theorem keepsO_execSyncSend {kb : Bool} {k0 : State} (t : Time) (s : State) (hk : Keeps kb k0 s) :
    KeepsO kb k0 (execSyncSend t s) := by
  unfold execSyncSend; try dsimp only
  repeat' first | intro _ | with_reducible assumption | with_reducible apply keepsO_ite | with_reducible apply keepsO_next | with_reducible apply keeps_ite | with_reducible apply keeps_adv | with_reducible apply keeps_sendFrame | split | fail_if_no_progress (with_reducible apply keeps_mk <;> first | with_reducible exact rfl | with_reducible exact fun h => h | skip) | exact Nat.zero_le _ | dsimp only

theorem keeps_stepPac {kb : Bool} {k0 : State} (s : State) (d : Int) (hk : Keeps kb k0 s) :
    Keeps kb k0 (State.stepPac s d) := by
  unfold State.stepPac; try dsimp only
  repeat' first | intro _ | with_reducible assumption | with_reducible apply keeps_ite | with_reducible apply keeps_forFin | with_reducible apply keeps_modChan | with_reducible apply keeps_modMach | with_reducible apply keeps_rsetF | with_reducible apply keeps_forFin | with_reducible apply keeps_forFinPair | split | fail_if_no_progress (with_reducible apply keeps_mk <;> first | with_reducible exact rfl | with_reducible exact fun h => h | skip) | exact Nat.zero_le _ | dsimp only | grind [ChanSt.turnOff, ChanSt.release, ChanSt.account, ChanSt.shift]

theorem keepsO_execSync {kb : Bool} {k0 : State} (frame : List Quad) (t : Time) (s : State) (hk : Keeps kb k0 s) :
    KeepsO kb k0 (execSync frame t s) := by
  unfold execSync; try dsimp only
  repeat' first | intro _ | with_reducible assumption | with_reducible apply keepsO_ite | with_reducible apply keepsO_next | with_reducible apply keeps_ite | with_reducible apply keepsO_rx | with_reducible apply keeps_freeNext | with_reducible apply keeps_stepPac | split | fail_if_no_progress (with_reducible apply keeps_mk <;> first | with_reducible exact rfl | with_reducible exact fun h => h | skip) | exact Nat.zero_le _ | dsimp only

theorem keepsO_execPacerCorrection {kb : Bool} {k0 : State} (t : Time) (s : State) (hk : Keeps kb k0 s) :
    KeepsO kb k0 (execPacerCorrection t s) := by
  unfold execPacerCorrection; try dsimp only
  repeat' first | intro _ | with_reducible assumption | with_reducible apply keepsO_ite | with_reducible apply keepsO_next | with_reducible apply keeps_ite | with_reducible apply keeps_adv | split | fail_if_no_progress (with_reducible apply keeps_mk <;> first | with_reducible exact rfl | with_reducible exact fun h => h | skip) | exact Nat.zero_le _ | dsimp only

theorem keepsO_execAlignmentAcquired {kb : Bool} {k0 : State} (s : State) (hk : Keeps kb k0 s) :
    KeepsO kb k0 (execAlignmentAcquired s) := by
  unfold execAlignmentAcquired; try dsimp only
  repeat' first | intro _ | with_reducible assumption | with_reducible apply keepsO_ite | with_reducible apply keepsO_next | with_reducible apply keeps_ite | split | fail_if_no_progress (with_reducible apply keeps_mk <;> first | with_reducible exact rfl | with_reducible exact fun h => h | skip) | exact Nat.zero_le _ | dsimp only

theorem keepsO_execAlignLost {kb : Bool} {k0 : State} (s : State) (hk : Keeps kb k0 s) :
    KeepsO kb k0 (execAlignLost s) := by
  unfold execAlignLost; try dsimp only
  repeat' first | intro _ | with_reducible assumption | with_reducible apply keepsO_ite | with_reducible apply keepsO_next | with_reducible apply keeps_ite | with_reducible apply keeps_pairEvt | split | fail_if_no_progress (with_reducible apply keeps_mk <;> first | with_reducible exact rfl | with_reducible exact fun h => h | skip) | exact Nat.zero_le _ | dsimp only

theorem keepsO_execLaneBlockLock {kb : Bool} {k0 : State} (lane : Fin 2) (t : Time) (s : State) (hk : Keeps kb k0 s) :
    KeepsO kb k0 (execLaneBlockLock lane t s) := by
  unfold execLaneBlockLock; try dsimp only
  repeat' first | intro _ | with_reducible assumption | with_reducible apply keepsO_ite | with_reducible apply keepsO_next | with_reducible apply keeps_ite | with_reducible apply keeps_adv | split | fail_if_no_progress (with_reducible apply keeps_mk <;> first | with_reducible exact rfl | with_reducible exact fun h => h | skip) | exact Nat.zero_le _ | dsimp only

theorem keepsO_execLaneFail {kb : Bool} {k0 : State} (lane : Fin 2) (t : Time) (s : State) (hk : Keeps kb k0 s) :
    KeepsO kb k0 (execLaneFail lane t s) := by
  unfold execLaneFail; try dsimp only
  repeat' first | intro _ | with_reducible assumption | with_reducible apply keepsO_ite | with_reducible apply keepsO_next | with_reducible apply keeps_ite | with_reducible apply keeps_adv | with_reducible apply keeps_health | split | fail_if_no_progress (with_reducible apply keeps_mk <;> first | with_reducible exact rfl | with_reducible exact fun h => h | skip) | exact Nat.zero_le _ | dsimp only

theorem keepsO_execPartnerLost {kb : Bool} {k0 : State} (t : Time) (s : State) (hk : Keeps kb k0 s) :
    KeepsO kb k0 (execPartnerLost t s) := by
  unfold execPartnerLost; try dsimp only
  repeat' first | intro _ | with_reducible assumption | with_reducible apply keepsO_ite | with_reducible apply keepsO_next | with_reducible apply keeps_ite | with_reducible apply keeps_adv | with_reducible apply keeps_declareLost | with_reducible apply keeps_activeToSolo | split | fail_if_no_progress (with_reducible apply keeps_mk <;> first | with_reducible exact rfl | with_reducible exact fun h => h | skip) | exact Nat.zero_le _ | dsimp only

theorem keeps_setTakes {kb : Bool} {k0 : State} (s : State) (w : Fin 8) (t2 t : Time) (hk : Keeps kb k0 s) :
    Keeps kb k0 (State.setTakes s w t2 t) := by
  unfold State.setTakes; try dsimp only
  repeat' first | intro _ | with_reducible assumption | with_reducible apply keeps_ite | with_reducible apply keeps_modSet | split | fail_if_no_progress (with_reducible apply keeps_mk <;> first | with_reducible exact rfl | with_reducible exact fun h => h | skip) | exact Nat.zero_le _ | dsimp only

theorem keeps_takeoverSeqs {kb : Bool} {k0 : State} (s : State) (t : Time) (hk : Keeps kb k0 s) :
    Keeps kb k0 (State.takeoverSeqs s t) := by
  unfold State.takeoverSeqs; try dsimp only
  repeat' first | intro _ | with_reducible assumption | with_reducible apply keeps_ite | with_reducible apply keeps_forFin | with_reducible apply keeps_rset | with_reducible apply keeps_recoveryQuad | with_reducible apply keeps_forFin | with_reducible apply keeps_forFinPair | split | fail_if_no_progress (with_reducible apply keeps_mk <;> first | with_reducible exact rfl | with_reducible exact fun h => h | skip) | exact Nat.zero_le _ | dsimp only

theorem keeps_takeOver {kb : Bool} {k0 : State} (s : State) (t : Time) (hk : Keeps kb k0 s) :
    Keeps kb k0 (State.takeOver s t) := by
  unfold State.takeOver; try dsimp only
  repeat' first | intro _ | with_reducible assumption | with_reducible apply keeps_ite | with_reducible apply keeps_forFin | with_reducible apply keeps_setTakes | with_reducible apply keeps_modChan | with_reducible apply keeps_modMach | with_reducible apply keeps_mcRun | with_reducible apply keeps_pairEvt | with_reducible apply keeps_takeoverSeqs | with_reducible apply keeps_forFin | with_reducible apply keeps_forFinPair | split | fail_if_no_progress (with_reducible apply keeps_mk <;> first | with_reducible exact rfl | with_reducible exact fun h => h | skip) | exact Nat.zero_le _ | dsimp only | grind [ChanSt.turnOff, ChanSt.release, ChanSt.account]

theorem keepsO_execTakeover {kb : Bool} {k0 : State} (s : State) (hk : Keeps kb k0 s) :
    KeepsO kb k0 (execTakeover s) := by
  unfold execTakeover; try dsimp only
  repeat' first | intro _ | with_reducible assumption | with_reducible apply keepsO_ite | with_reducible apply keepsO_next | with_reducible apply keeps_ite | with_reducible apply keeps_adv | with_reducible apply keeps_takeOver | split | fail_if_no_progress (with_reducible apply keeps_mk <;> first | with_reducible exact rfl | with_reducible exact fun h => h | skip) | exact Nat.zero_le _ | dsimp only

theorem keepsO_execClaimBlocked {kb : Bool} {k0 : State} (t : Time) (s : State) (hk : Keeps kb k0 s) :
    KeepsO kb k0 (execClaimBlocked t s) := by
  unfold execClaimBlocked; try dsimp only
  repeat' first | intro _ | with_reducible assumption | with_reducible apply keepsO_ite | with_reducible apply keepsO_next | with_reducible apply keeps_ite | with_reducible apply keeps_adv | with_reducible apply keeps_pairEvt | split | fail_if_no_progress (with_reducible apply keeps_mk <;> first | with_reducible exact rfl | with_reducible exact fun h => h | skip) | exact Nat.zero_le _ | dsimp only

theorem keeps_collide {kb : Bool} {k0 : State} (s : State) (t : Time) (hk : Keeps kb k0 s) :
    Keeps kb k0 (State.collide s t) := by
  unfold State.collide; try dsimp only
  repeat' first | intro _ | with_reducible assumption | with_reducible apply keeps_ite | with_reducible apply keeps_newEpoch | with_reducible apply keeps_releaseAll | with_reducible apply keeps_pairEvt | split | fail_if_no_progress (with_reducible apply keeps_mk <;> first | with_reducible exact rfl | with_reducible exact fun h => h | skip) | exact Nat.zero_le _ | dsimp only

theorem keepsO_execYieldInRise {kb : Bool} {k0 : State} (t : Time) (s : State) (hk : Keeps kb k0 s) :
    KeepsO kb k0 (execYieldInRise t s) := by
  unfold execYieldInRise; try dsimp only
  repeat' first | intro _ | with_reducible assumption | with_reducible apply keepsO_ite | with_reducible apply keepsO_next | with_reducible apply keeps_ite | with_reducible apply keeps_adv | with_reducible apply keeps_rset | with_reducible apply keeps_releaseAll | with_reducible apply keeps_collide | with_reducible apply keeps_depose | split | fail_if_no_progress (with_reducible apply keeps_mk <;> first | with_reducible exact rfl | with_reducible exact fun h => h | skip) | exact Nat.zero_le _ | dsimp only

theorem keepsO_execYieldInFall {kb : Bool} {k0 : State} (t : Time) (s : State) (hk : Keeps kb k0 s) :
    KeepsO kb k0 (execYieldInFall t s) := by
  unfold execYieldInFall; try dsimp only
  repeat' first | intro _ | with_reducible assumption | with_reducible apply keepsO_ite | with_reducible apply keepsO_next | with_reducible apply keeps_ite | with_reducible apply keeps_adv | with_reducible apply keeps_takeOver | with_reducible apply keeps_retrip | split | fail_if_no_progress (with_reducible apply keeps_mk <;> first | with_reducible exact rfl | with_reducible exact fun h => h | skip) | exact Nat.zero_le _ | dsimp only

theorem keepsO_execCollisionReclaim {kb : Bool} {k0 : State} (t : Time) (s : State) (hk : Keeps kb k0 s) :
    KeepsO kb k0 (execCollisionReclaim t s) := by
  unfold execCollisionReclaim; try dsimp only
  repeat' first | intro _ | with_reducible assumption | with_reducible apply keepsO_ite | with_reducible apply keepsO_next | with_reducible apply keeps_ite | with_reducible apply keeps_adv | with_reducible apply keeps_claimNow | split | fail_if_no_progress (with_reducible apply keeps_mk <;> first | with_reducible exact rfl | with_reducible exact fun h => h | skip) | exact Nat.zero_le _ | dsimp only

theorem keepsO_execCollisionBackoffEnd {kb : Bool} {k0 : State} (t : Time) (s : State) (hk : Keeps kb k0 s) :
    KeepsO kb k0 (execCollisionBackoffEnd t s) := by
  unfold execCollisionBackoffEnd; try dsimp only
  repeat' first | intro _ | with_reducible assumption | with_reducible apply keepsO_ite | with_reducible apply keepsO_next | with_reducible apply keeps_ite | with_reducible apply keeps_adv | with_reducible apply keeps_leaveDrive | split | fail_if_no_progress (with_reducible apply keeps_mk <;> first | with_reducible exact rfl | with_reducible exact fun h => h | skip) | exact Nat.zero_le _ | dsimp only

theorem keepsO_execFitness {kb : Bool} {k0 : State} (s : State) (hk : Keeps kb k0 s) :
    KeepsO kb k0 (execFitness s) := by
  unfold execFitness; try dsimp only
  repeat' first | intro _ | with_reducible assumption | with_reducible apply keepsO_ite | with_reducible apply keepsO_next | with_reducible apply keeps_ite | with_reducible apply keeps_pairEvt | split | fail_if_no_progress (with_reducible apply keeps_mk <;> first | with_reducible exact rfl | with_reducible exact fun h => h | skip) | exact Nat.zero_le _ | dsimp only

theorem keepsO_execPairHandover {kb : Bool} {k0 : State} (q : CmdQ) (s : State) (hk : Keeps kb k0 s) :
    KeepsO kb k0 (execPairHandover q s) := by
  unfold execPairHandover; try dsimp only
  repeat' first | intro _ | with_reducible assumption | with_reducible apply keepsO_ite | with_reducible apply keepsO_next | with_reducible apply keeps_ite | with_reducible apply keepsO_runCmd | with_reducible apply keeps_ascObserve | with_reducible apply keeps_finish | with_reducible apply keeps_await | with_reducible apply keeps_sendSlow | split | fail_if_no_progress (with_reducible apply keeps_mk <;> first | with_reducible exact rfl | with_reducible exact fun h => h | skip) | exact Nat.zero_le _ | dsimp only

theorem keepsO_execHandoverReplyDeadline {kb : Bool} {k0 : State} (s : State) (hk : Keeps kb k0 s) :
    KeepsO kb k0 (execHandoverReplyDeadline s) := by
  unfold execHandoverReplyDeadline; try dsimp only
  repeat' first | intro _ | with_reducible assumption | with_reducible apply keepsO_ite | with_reducible apply keepsO_next | with_reducible apply keeps_ite | with_reducible apply keeps_adv | with_reducible apply keeps_dropHandover | split | fail_if_no_progress (with_reducible apply keeps_mk <;> first | with_reducible exact rfl | with_reducible exact fun h => h | skip) | exact Nat.zero_le _ | dsimp only

theorem keepsO_execHandoverClaimRelease {kb : Bool} {k0 : State} (s : State) (hk : Keeps kb k0 s) :
    KeepsO kb k0 (execHandoverClaimRelease s) := by
  unfold execHandoverClaimRelease; try dsimp only
  repeat' first | intro _ | with_reducible assumption | with_reducible apply keepsO_ite | with_reducible apply keepsO_next | with_reducible apply keeps_ite | with_reducible apply keeps_adv | split | fail_if_no_progress (with_reducible apply keeps_mk <;> first | with_reducible exact rfl | with_reducible exact fun h => h | skip) | exact Nat.zero_le _ | dsimp only

theorem keeps_exchange {kb : Bool} {k0 : State} (s : State) (b : Time) (hk : Keeps kb k0 s) :
    Keeps kb k0 (State.exchange s b) := by
  unfold State.exchange; try dsimp only
  repeat' first | intro _ | with_reducible assumption | with_reducible apply keeps_ite | with_reducible apply keeps_newEpoch | with_reducible apply keeps_releaseAll | with_reducible apply keeps_roleAborts | with_reducible apply keeps_takeDev | with_reducible apply keeps_localSafe | with_reducible apply keeps_finishW | with_reducible apply keeps_pairEvt | split | fail_if_no_progress (with_reducible apply keeps_mk <;> first | with_reducible exact rfl | with_reducible exact fun h => h | skip) | exact Nat.zero_le _ | dsimp only

theorem keepsO_execHandoverDone {kb : Bool} {k0 : State} (s : State) (hk : Keeps kb k0 s) :
    KeepsO kb k0 (execHandoverDone s) := by
  unfold execHandoverDone; try dsimp only
  repeat' first | intro _ | with_reducible assumption | with_reducible apply keepsO_ite | with_reducible apply keepsO_next | with_reducible apply keeps_ite | with_reducible apply keeps_adv | with_reducible apply keeps_exchange | split | fail_if_no_progress (with_reducible apply keeps_mk <;> first | with_reducible exact rfl | with_reducible exact fun h => h | skip) | exact Nat.zero_le _ | dsimp only

theorem keeps_rejoinEnter {kb : Bool} {k0 : State} (s : State) (k : Fin 8) (p : Nat) (hk : Keeps kb k0 s) :
    Keeps kb k0 (State.rejoinEnter s k p) := by
  unfold State.rejoinEnter; try dsimp only
  repeat' first | intro _ | with_reducible assumption | with_reducible apply keeps_ite | with_reducible apply keeps_modLop | with_reducible apply keeps_sendSlow | with_reducible apply keeps_freeNext | split | fail_if_no_progress (with_reducible apply keeps_mk <;> first | with_reducible exact rfl | with_reducible exact fun h => h | skip) | exact Nat.zero_le _ | dsimp only

theorem keepsO_execResume {kb : Bool} {k0 : State} (q : CmdQ) (s : State) (hk : Keeps kb k0 s) :
    KeepsO kb k0 (execResume q s) := by
  unfold execResume; try dsimp only
  repeat' first | intro _ | with_reducible assumption | with_reducible apply keepsO_ite | with_reducible apply keepsO_next | with_reducible apply keeps_ite | with_reducible apply keepsO_runCmd | with_reducible apply keeps_finish | with_reducible apply keeps_modLop | with_reducible apply keeps_burnResume | with_reducible apply keeps_closeAll | with_reducible apply keeps_rejoinEnter | with_reducible apply keeps_blockEnter | split | fail_if_no_progress (with_reducible apply keeps_mk <;> first | with_reducible exact rfl | with_reducible exact fun h => h | skip) | exact Nat.zero_le _ | dsimp only

theorem keepsO_execPairRejoin {kb : Bool} {k0 : State} (q : CmdQ) (s : State) (hk : Keeps kb k0 s) :
    KeepsO kb k0 (execPairRejoin q s) := by
  unfold execPairRejoin; try dsimp only
  repeat' first | intro _ | with_reducible assumption | with_reducible apply keepsO_ite | with_reducible apply keepsO_next | with_reducible apply keeps_ite | with_reducible apply keepsO_runCmd | with_reducible apply keeps_finish | with_reducible apply keeps_lopStart | with_reducible apply keeps_rejoinEnter | split | fail_if_no_progress (with_reducible apply keeps_mk <;> first | with_reducible exact rfl | with_reducible exact fun h => h | skip) | exact Nat.zero_le _ | dsimp only

theorem keeps_joined {kb : Bool} {k0 : State} (s : State) (k : Fin 8) (hk : Keeps kb k0 s) :
    Keeps kb k0 (State.joined s k) := by
  unfold State.joined; try dsimp only
  repeat' first | intro _ | with_reducible assumption | with_reducible apply keeps_ite | with_reducible apply keeps_pairEvt | with_reducible apply keeps_lopEnd | split | fail_if_no_progress (with_reducible apply keeps_mk <;> first | with_reducible exact rfl | with_reducible exact fun h => h | skip) | exact Nat.zero_le _ | dsimp only

theorem keeps_rejoinFail {kb : Bool} {k0 : State} (s : State) (k : Fin 8) (st : BitVec 8) (reason : Nat) (hk : Keeps kb k0 s) :
    Keeps kb k0 (State.rejoinFail s k st reason) := by
  unfold State.rejoinFail; try dsimp only
  repeat' first | intro _ | with_reducible assumption | with_reducible apply keeps_ite | with_reducible apply keeps_shadowOff | with_reducible apply keeps_pairEvt | with_reducible apply keeps_lopEnd | split | fail_if_no_progress (with_reducible apply keeps_mk <;> first | with_reducible exact rfl | with_reducible exact fun h => h | skip) | exact Nat.zero_le _ | dsimp only

theorem keeps_rejoinNext {kb : Bool} {k0 : State} (s : State) (k : Fin 8) (p : Nat) (hk : Keeps kb k0 s) :
    Keeps kb k0 (State.rejoinNext s k p) := by
  unfold State.rejoinNext; try dsimp only
  repeat' first | intro _ | with_reducible assumption | with_reducible apply keeps_ite | with_reducible apply keeps_modLop | with_reducible apply keeps_lopPause | with_reducible apply keeps_rejoinEnter | split | fail_if_no_progress (with_reducible apply keeps_mk <;> first | with_reducible exact rfl | with_reducible exact fun h => h | skip) | exact Nat.zero_le _ | dsimp only

theorem keeps_joinClaim {kb : Bool} {k0 : State} (s : State) (role : Role) (k : Fin 8) (hk : Keeps kb k0 s) :
    Keeps kb k0 (State.joinClaim s role k) := by
  unfold State.joinClaim; try dsimp only
  repeat' first | intro _ | with_reducible assumption | with_reducible apply keeps_ite | with_reducible apply keeps_claimNow | with_reducible apply keeps_localSafe | with_reducible apply keeps_retrip | with_reducible apply keeps_joined | split | fail_if_no_progress (with_reducible apply keeps_mk <;> first | with_reducible exact rfl | with_reducible exact fun h => h | skip) | exact Nat.zero_le _ | dsimp only

theorem keeps_lockoutEpoch {kb : Bool} {k0 : State} (s : State) (hk : Keeps kb k0 s) :
    Keeps kb k0 (State.lockoutEpoch s) := by
  unfold State.lockoutEpoch; try dsimp only
  repeat' first | intro _ | with_reducible assumption | with_reducible apply keeps_ite | with_reducible apply keeps_newEpoch | split | fail_if_no_progress (with_reducible apply keeps_mk <;> first | with_reducible exact rfl | with_reducible exact fun h => h | skip) | exact Nat.zero_le _ | dsimp only

theorem keepsO_execRejoinPhaseEnd {kb : Bool} {k0 : State} (t : Time) (s : State) (hk : Keeps kb k0 s) :
    KeepsO kb k0 (execRejoinPhaseEnd t s) := by
  unfold execRejoinPhaseEnd; try dsimp only
  repeat' first | intro _ | with_reducible assumption | with_reducible apply keepsO_ite | with_reducible apply keepsO_next | with_reducible apply keeps_ite | with_reducible apply keeps_adv | with_reducible apply keeps_rejoinNext | with_reducible apply keeps_rejoinFail | with_reducible apply keeps_lockoutEpoch | with_reducible apply keeps_joinClaim | with_reducible apply keeps_joined | split | fail_if_no_progress (with_reducible apply keeps_mk <;> first | with_reducible exact rfl | with_reducible exact fun h => h | skip) | exact Nat.zero_le _ | dsimp only

theorem keepsO_execRejoinPhaseTimeout {kb : Bool} {k0 : State} (s : State) (hk : Keeps kb k0 s) :
    KeepsO kb k0 (execRejoinPhaseTimeout s) := by
  unfold execRejoinPhaseTimeout; try dsimp only
  repeat' first | intro _ | with_reducible assumption | with_reducible apply keepsO_ite | with_reducible apply keepsO_next | with_reducible apply keeps_ite | with_reducible apply keeps_adv | with_reducible apply keeps_joinClaim | with_reducible apply keeps_rejoinFail | split | fail_if_no_progress (with_reducible apply keeps_mk <;> first | with_reducible exact rfl | with_reducible exact fun h => h | skip) | exact Nat.zero_le _ | dsimp only

end Sys2Proof.Machine
end

