-- ==== Sys2Proof/Laws/KeepsRings.lean ====
section
/-! SUPPORT. Laws/KeepsRings.lean: what each operation of Rings.lean keeps. -/
namespace Sys2Proof.Machine

set_option linter.all false

theorem keeps_ringStop {kb : Bool} {k0 : State} (s : State) (i : Fin 48) (cause : Nat) (t : Time) (hk : Keeps kb k0 s) :
    Keeps kb k0 (State.ringStop s i cause t) := by
  unfold State.ringStop; try dsimp only
  repeat' first | intro _ | with_reducible assumption | with_reducible apply keeps_ite | with_reducible apply keeps_modRing | with_reducible apply keeps_recoveryQuad | split | fail_if_no_progress (with_reducible apply keeps_mk <;> first | with_reducible exact rfl | with_reducible exact fun h => h | skip) | exact Nat.zero_le _ | dsimp only

theorem keeps_ringError {kb : Bool} {k0 : State} (s : State) (n : Fin 16) (cause : DmaCause) (hk : Keeps kb k0 s) :
    Keeps kb k0 (State.ringError s n cause) := by
  unfold State.ringError; try dsimp only
  repeat' first | intro _ | with_reducible assumption | with_reducible apply keeps_ite | with_reducible apply keeps_ringStop | split | fail_if_no_progress (with_reducible apply keeps_mk <;> first | with_reducible exact rfl | with_reducible exact fun h => h | skip) | exact Nat.zero_le _ | dsimp only

theorem keepsO_execCqTailDoorbell {kb : Bool} {k0 : State} (n : Fin 16) (v : Word) (t : Time) (s : State) (hk : Keeps kb k0 s) :
    KeepsO kb k0 (execCqTailDoorbell n v t s) := by
  unfold execCqTailDoorbell; try dsimp only
  repeat' first | intro _ | with_reducible assumption | with_reducible apply keepsO_ite | with_reducible apply keepsO_next | with_reducible apply keeps_ite | with_reducible apply keeps_adv | with_reducible apply keeps_modRing | with_reducible apply keeps_closeTry | with_reducible apply keeps_ringStop | split | fail_if_no_progress (with_reducible apply keeps_mk <;> first | with_reducible exact rfl | with_reducible exact fun h => h | skip) | exact Nat.zero_le _ | dsimp only

theorem keepsO_execHeadDoorbell {kb : Bool} {k0 : State} (i : Fin 32) (v : Word) (t : Time) (s : State) (hk : Keeps kb k0 s) :
    KeepsO kb k0 (execHeadDoorbell i v t s) := by
  unfold execHeadDoorbell; try dsimp only
  repeat' first | intro _ | with_reducible assumption | with_reducible apply keepsO_ite | with_reducible apply keepsO_next | with_reducible apply keeps_ite | with_reducible apply keeps_adv | with_reducible apply keeps_modRing | with_reducible apply keeps_pump | with_reducible apply keeps_ringStop | split | fail_if_no_progress (with_reducible apply keeps_mk <;> first | with_reducible exact rfl | with_reducible exact fun h => h | skip) | exact Nat.zero_le _ | dsimp only

theorem keepsO_execCommandFetchFail {kb : Bool} {k0 : State} (n : Fin 16) (cause : DmaCause) (t : Time) (s : State) (hk : Keeps kb k0 s) :
    KeepsO kb k0 (execCommandFetchFail n cause t s) := by
  unfold execCommandFetchFail; try dsimp only
  repeat' first | intro _ | with_reducible assumption | with_reducible apply keepsO_ite | with_reducible apply keepsO_next | with_reducible apply keeps_ite | with_reducible apply keeps_adv | with_reducible apply keeps_ringError | split | fail_if_no_progress (with_reducible apply keeps_mk <;> first | with_reducible exact rfl | with_reducible exact fun h => h | skip) | exact Nat.zero_le _ | dsimp only

theorem keepsO_execDmaError {kb : Bool} {k0 : State} (n : Fin 16) (cause : DmaCause) (t : Time) (s : State) (hk : Keeps kb k0 s) :
    KeepsO kb k0 (execDmaError n cause t s) := by
  unfold execDmaError; try dsimp only
  repeat' first | intro _ | with_reducible assumption | with_reducible apply keepsO_ite | with_reducible apply keepsO_next | with_reducible apply keeps_ite | with_reducible apply keeps_adv | with_reducible apply keeps_freeNext | with_reducible apply keeps_finishW | with_reducible apply keeps_ringError | with_reducible apply keeps_lopQuit | split | fail_if_no_progress (with_reducible apply keeps_mk <;> first | with_reducible exact rfl | with_reducible exact fun h => h | skip) | exact Nat.zero_le _ | dsimp only

theorem heldEvents_marks {α : Type} (l : List α) (r : Fin 4) (f : α → Evt) : heldEvents (l.map fun x => Held.mark r (f x)) = 0 := by
  induction l with
  | nil => rfl
  | cons a l ih => exact (heldEvents_append [Held.mark r (f a)] _).trans (by rw [ih]; rfl)

theorem heldEvents_restamp (t : Time) (l : List Held) : heldEvents (l.map (restamp t)) = heldEvents l := by
  induction l with
  | nil => rfl
  | cons a l ih =>
    have e : ∀ x (m : List Held), heldEvents (x :: m) = heldEvents [x] + heldEvents m := fun x m => heldEvents_append [x] m
    rw [List.map_cons, e, e a, ih]
    congr 1
    cases a <;> simp only [restamp] <;> (try split) <;> rfl

theorem keeps_firstEq {kb : Bool} {k0 : State} (s : State) (r : Fin 4) (t : Time) (hk : Keeps kb k0 s) :
    Keeps kb k0 (State.firstEq s r t) := by
  unfold State.firstEq; try dsimp only
  repeat' first | intro _ | with_reducible assumption | with_reducible apply keeps_ite | with_reducible apply keeps_report | with_reducible apply keeps_siloSees | with_reducible apply keeps_raise | with_reducible apply keeps_pairEvt | with_reducible apply keeps_drain | split | fail_if_no_progress (with_reducible apply keeps_mk <;> first | with_reducible exact rfl | with_reducible exact fun h => h | skip) | exact Nat.zero_le _ | dsimp only
  all_goals
    rw [heldEvents_append, heldEvents_append, heldEvents_marks, heldEvents_restamp]
    simpa [heldEvents] using ‹_›

theorem keeps_ringCfg {kb : Bool} {k0 : State} (s : State) (i : Fin 48) (v : Word) (hk : Keeps kb k0 s) :
    Keeps kb k0 (State.ringCfg s i v) := by
  unfold State.ringCfg; try dsimp only
  repeat' first | intro _ | with_reducible assumption | with_reducible apply keeps_ite | with_reducible apply keeps_rset | with_reducible apply keeps_writeReject | split | fail_if_no_progress (with_reducible apply keeps_mk <;> first | with_reducible exact rfl | with_reducible exact fun h => h | skip) | exact Nat.zero_le _ | dsimp only

theorem keeps_ringFixed {kb : Bool} {k0 : State} (s : State) (i : Fin 48) (v : Word) (hk : Keeps kb k0 s) :
    Keeps kb k0 (State.ringFixed s i v) := by
  unfold State.ringFixed; try dsimp only
  repeat' first | intro _ | with_reducible assumption | with_reducible apply keeps_ite | with_reducible apply keeps_writeReject | split | fail_if_no_progress (with_reducible apply keeps_mk <;> first | with_reducible exact rfl | with_reducible exact fun h => h | skip) | exact Nat.zero_le _ | dsimp only

theorem keeps_ringEnable {kb : Bool} {k0 : State} (s : State) (i : Fin 48) (v : Word) (t : Time) (hk : Keeps kb k0 s) :
    Keeps kb k0 (State.ringEnable s i v t) := by
  unfold State.ringEnable; try dsimp only
  repeat' first | intro _ | with_reducible assumption | with_reducible apply keeps_ite | with_reducible apply keeps_ringFixed | with_reducible apply keeps_ringCfg | with_reducible apply keeps_rsetF | with_reducible apply keeps_modRing | with_reducible apply keeps_firstEq | with_reducible apply keeps_pump | split | fail_if_no_progress (with_reducible apply keeps_mk <;> first | with_reducible exact rfl | with_reducible exact fun h => h | skip) | exact Nat.zero_le _ | dsimp only

theorem keeps_ringDisable {kb : Bool} {k0 : State} (s : State) (i : Fin 48) (v : Word) (hk : Keeps kb k0 s) :
    Keeps kb k0 (State.ringDisable s i v) := by
  unfold State.ringDisable; try dsimp only
  repeat' first | intro _ | with_reducible assumption | with_reducible apply keeps_ite | with_reducible apply keeps_ringCfg | with_reducible apply keeps_ringFixed | with_reducible apply keeps_writeReject | with_reducible apply keeps_modRing | with_reducible apply keeps_closeTry | with_reducible apply keeps_rsetF | split | fail_if_no_progress (with_reducible apply keeps_mk <;> first | with_reducible exact rfl | with_reducible exact fun h => h | skip) | exact Nat.zero_le _ | dsimp only

theorem keeps_ringClear {kb : Bool} {k0 : State} (s : State) (i : Fin 48) (hk : Keeps kb k0 s) :
    Keeps kb k0 (State.ringClear s i) := by
  unfold State.ringClear; try dsimp only
  repeat' first | intro _ | with_reducible assumption | with_reducible apply keeps_ite | with_reducible apply keeps_modRing | with_reducible apply keeps_rsetF | split | fail_if_no_progress (with_reducible apply keeps_mk <;> first | with_reducible exact rfl | with_reducible exact fun h => h | skip) | exact Nat.zero_le _ | dsimp only

theorem keeps_endFence {kb : Bool} {k0 : State} (s : State) (n : Fin 16) (hk : Keeps kb k0 s) :
    Keeps kb k0 (State.endFence s n) := by
  unfold State.endFence; try dsimp only
  repeat' first | intro _ | with_reducible assumption | with_reducible apply keeps_ite | with_reducible apply keeps_finish | split | fail_if_no_progress (with_reducible apply keeps_mk <;> first | with_reducible exact rfl | with_reducible exact fun h => h | skip) | exact Nat.zero_le _ | dsimp only

theorem keeps_pairReset {kb : Bool} {k0 : State} (s : State) (n : Fin 16) (t : Time) (hk : Keeps kb k0 s) :
    Keeps kb k0 (State.pairReset s n t) := by
  unfold State.pairReset; try dsimp only
  repeat' first | intro _ | with_reducible assumption | with_reducible apply keeps_ite | with_reducible apply keeps_endFence | with_reducible apply keeps_ringClear | with_reducible apply keeps_rset | with_reducible apply keeps_recordQuad | with_reducible apply keeps_foldl | with_reducible apply keeps_foldPair | split | fail_if_no_progress (with_reducible apply keeps_mk <;> first | with_reducible exact rfl | with_reducible exact fun h => h | skip) | exact Nat.zero_le _ | dsimp only

theorem keeps_ringResetW {kb : Bool} {k0 : State} (s : State) (i : Fin 48) (t : Time) (hk : Keeps kb k0 s) :
    Keeps kb k0 (State.ringResetW s i t) := by
  unfold State.ringResetW; try dsimp only
  repeat' first | intro _ | with_reducible assumption | with_reducible apply keeps_ite | with_reducible apply keeps_writeReject | with_reducible apply keeps_pairReset | with_reducible apply keeps_ringClear | with_reducible apply keeps_recoveryQuad | split | fail_if_no_progress (with_reducible apply keeps_mk <;> first | with_reducible exact rfl | with_reducible exact fun h => h | skip) | exact Nat.zero_le _ | dsimp only

theorem keeps_ringWrite {kb : Bool} {k0 : State} (s : State) (i : Fin 48) (v : Word) (t : Time) (hk : Keeps kb k0 s) :
    Keeps kb k0 (State.ringWrite s i v t) := by
  unfold State.ringWrite; try dsimp only
  repeat' first | intro _ | with_reducible assumption | with_reducible apply keeps_ite | with_reducible apply keeps_ringResetW | with_reducible apply keeps_ringEnable | with_reducible apply keeps_ringDisable | split | fail_if_no_progress (with_reducible apply keeps_mk <;> first | with_reducible exact rfl | with_reducible exact fun h => h | skip) | exact Nat.zero_le _ | dsimp only

theorem keepsO_execRingEnable {kb : Bool} {k0 : State} (i : Fin 48) (v : Word) (t : Time) (s : State) (hk : Keeps kb k0 s) :
    KeepsO kb k0 (execRingEnable i v t s) := by
  unfold execRingEnable; try dsimp only
  repeat' first | intro _ | with_reducible assumption | with_reducible apply keepsO_ite | with_reducible apply keepsO_next | with_reducible apply keeps_ite | with_reducible apply keeps_adv | with_reducible apply keeps_ringEnable | split | fail_if_no_progress (with_reducible apply keeps_mk <;> first | with_reducible exact rfl | with_reducible exact fun h => h | skip) | exact Nat.zero_le _ | dsimp only

theorem keepsO_execRingDisable {kb : Bool} {k0 : State} (i : Fin 48) (v : Word) (t : Time) (s : State) (hk : Keeps kb k0 s) :
    KeepsO kb k0 (execRingDisable i v t s) := by
  unfold execRingDisable; try dsimp only
  repeat' first | intro _ | with_reducible assumption | with_reducible apply keepsO_ite | with_reducible apply keepsO_next | with_reducible apply keeps_ite | with_reducible apply keeps_adv | with_reducible apply keeps_ringDisable | split | fail_if_no_progress (with_reducible apply keeps_mk <;> first | with_reducible exact rfl | with_reducible exact fun h => h | skip) | exact Nat.zero_le _ | dsimp only

theorem keepsO_execRingReset {kb : Bool} {k0 : State} (i : Fin 48) (v : Word) (t : Time) (s : State) (hk : Keeps kb k0 s) :
    KeepsO kb k0 (execRingReset i v t s) := by
  unfold execRingReset; try dsimp only
  repeat' first | intro _ | with_reducible assumption | with_reducible apply keepsO_ite | with_reducible apply keepsO_next | with_reducible apply keeps_ite | with_reducible apply keeps_adv | with_reducible apply keeps_ringResetW | split | fail_if_no_progress (with_reducible apply keeps_mk <;> first | with_reducible exact rfl | with_reducible exact fun h => h | skip) | exact Nat.zero_le _ | dsimp only

theorem keepsO_execModerationTimer {kb : Bool} {k0 : State} (i : Fin 48) (t : Time) (s : State) (hk : Keeps kb k0 s) :
    KeepsO kb k0 (execModerationTimer i t s) := by
  unfold execModerationTimer; try dsimp only
  repeat' first | intro _ | with_reducible assumption | with_reducible apply keepsO_ite | with_reducible apply keepsO_next | with_reducible apply keeps_ite | with_reducible apply keeps_adv | with_reducible apply keeps_ringSignal | split | fail_if_no_progress (with_reducible apply keeps_mk <;> first | with_reducible exact rfl | with_reducible exact fun h => h | skip) | exact Nat.zero_le _ | dsimp only

theorem keeps_busSet {kb : Bool} {k0 : State} (s : State) (bme d3hot link : Bool) (hk : Keeps kb k0 s) :
    Keeps kb k0 (State.busSet s bme d3hot link) := by
  unfold State.busSet; try dsimp only
  repeat' first | intro _ | with_reducible assumption | with_reducible apply keeps_ite | with_reducible apply keeps_forFin | with_reducible apply keeps_modRing | with_reducible apply keeps_pump | with_reducible apply keeps_forFin | with_reducible apply keeps_forFinPair | split | fail_if_no_progress (with_reducible apply keeps_mk <;> first | with_reducible exact rfl | with_reducible exact fun h => h | skip) | exact Nat.zero_le _ | dsimp only

theorem keepsO_execPciePowerState {kb : Bool} {k0 : State} (d3hot : Bool) (t : Time) (s : State) (hk : Keeps kb k0 s) :
    KeepsO kb k0 (execPciePowerState d3hot t s) := by
  unfold execPciePowerState; try dsimp only
  repeat' first | intro _ | with_reducible assumption | with_reducible apply keepsO_ite | with_reducible apply keepsO_next | with_reducible apply keeps_ite | with_reducible apply keeps_adv | with_reducible apply keeps_busSet | split | fail_if_no_progress (with_reducible apply keeps_mk <;> first | with_reducible exact rfl | with_reducible exact fun h => h | skip) | exact Nat.zero_le _ | dsimp only

theorem keepsO_execBusMasterEnable {kb : Bool} {k0 : State} (on : Bool) (t : Time) (s : State) (hk : Keeps kb k0 s) :
    KeepsO kb k0 (execBusMasterEnable on t s) := by
  unfold execBusMasterEnable; try dsimp only
  repeat' first | intro _ | with_reducible assumption | with_reducible apply keepsO_ite | with_reducible apply keepsO_next | with_reducible apply keeps_ite | with_reducible apply keeps_adv | with_reducible apply keeps_busSet | split | fail_if_no_progress (with_reducible apply keeps_mk <;> first | with_reducible exact rfl | with_reducible exact fun h => h | skip) | exact Nat.zero_le _ | dsimp only

theorem keepsO_execLinkDown {kb : Bool} {k0 : State} (t : Time) (s : State) (hk : Keeps kb k0 s) :
    KeepsO kb k0 (execLinkDown t s) := by
  unfold execLinkDown; try dsimp only
  repeat' first | intro _ | with_reducible assumption | with_reducible apply keepsO_ite | with_reducible apply keepsO_next | with_reducible apply keeps_ite | with_reducible apply keeps_adv | with_reducible apply keeps_busSet | split | fail_if_no_progress (with_reducible apply keeps_mk <;> first | with_reducible exact rfl | with_reducible exact fun h => h | skip) | exact Nat.zero_le _ | dsimp only

end Sys2Proof.Machine
end

