-- ==== Sys2Proof/Laws/KeepsPower.lean ====
section
/-! SUPPORT. Laws/KeepsPower.lean: what each operation of Power.lean keeps. -/
namespace Sys2Proof.Machine

set_option linter.all false

theorem chans_reset (n : Fin 48) : (State.reset.chans[n]).lvl = .rel := by
  show ((Vector.replicate 48 ChanSt.reset)[n.val]).lvl = .rel
  rw [Vector.getElem_replicate]; rfl

theorem otp_lost (x : OtpSt) (a b : Bool) : (x.lost a b).norm = x.norm ∧ (x.lost a b).marg = x.marg := by
  unfold OtpSt.lost; cases a <;> exact ⟨rfl, rfl⟩

theorem alRising_keepRegs (k : Keep) {l : List (Nat × Word)} (h : alRising l = true) : alRising (keepRegs k l) = true := by
  unfold keepRegs
  induction l with
  | nil => rfl
  | cons q l ih =>
    obtain ⟨a, w⟩ := q
    have hc := alRising_cons.1 h
    rw [List.filterMap_cons]
    split
    · exact ih hc.2
    · rename_i y hy
      have hk : ∀ (a : Nat) (w : Word) (z : Nat × Word), (match findReg a with
          | some (d, i, p) =>
            let m := maskPart (d.kept k) p
            let v := (d.resetAt i p &&& ~~~m) ||| (w &&& m)
            if v = d.resetAt i p then none else some (a, v)
          | none => none) = some z → z.1 = a := by
        intro a w z hz
        split at hz
        · dsimp only at hz
          split at hz
          · cases hz
          · cases hz; rfl
        · cases hz
      obtain ⟨b, v⟩ := y
      have hb : b = a := hk a w _ hy
      subst hb
      refine alRising_cons.2 ⟨fun p hp => ?_, ih hc.2⟩
      obtain ⟨⟨c, x⟩, hm, hz⟩ := List.mem_filterMap.1 hp
      have : p.1 = c := hk c x _ hz
      rw [this]; exact hc.1 _ hm

theorem keeps_strip {kb : Bool} {k0 : State} (s : State) (k : Keep) (shadow image alarms : Bool) (t : Time) (hk : Keeps kb k0 s) :
    Keeps kb k0 (s.strip k shadow image alarms t) := by
  have ho := otp_lost s.otp shadow k.b
  refine ⟨hk.queue, fun e => ⟨ho.1.trans (hk.fuses e).1, ho.2.trans (hk.fuses e).2⟩, fun i => ?_⟩
  have j := hk.inv i
  refine ⟨fun l hl => ?_, ?_, ?_, ?_, j.mem, ?_, ?_, ?_⟩
  · have h1 := hl.1
    have h2 := chans_reset ⟨2 * l.val, by omega⟩
    exact absurd (h2.symm.trans h1) (by decide)
  · show alRising (if k.f then s.nodes else []) = true ∧ ∀ p ∈ (if k.f then s.nodes else []), p.2 ≠ nodeInit p.1
    cases k.f
    · exact ⟨rfl, by simp⟩
    · exact j.nodes
  · show alRising (s.msr.lost shadow image).bar4 = true ∧ ∀ p ∈ (s.msr.lost shadow image).bar4, p.2 ≠ 0
    unfold MsrSt.lost; cases image <;> cases shadow <;> first | exact j.image | exact ⟨rfl, by simp [MsrSt.reset]⟩
  · exact alRising_keepRegs k j.regs
  · show (s.sup.lost k.b k.c).hist.length ≤ 16
    unfold SupSt.lost; cases k.b <;> first | exact j.hist | exact Nat.zero_le _
  · exact Nat.zero_le _
  · unfold State.fusesWf; rw [show (s.strip k shadow image alarms t).otp = s.otp.lost shadow k.b from rfl, ho.1, ho.2]; exact j.fuses

theorem keeps_lose {kb : Bool} {k0 : State} (s : State) (k : Keep) (shadow image alarms : Bool) (t : Time) (hk : Keeps kb k0 s) :
    Keeps kb k0 (State.lose s k shadow image alarms t) := by
  unfold State.lose; try dsimp only
  repeat' first | intro _ | with_reducible assumption | with_reducible apply keeps_ite | with_reducible apply keeps_strip | with_reducible apply keeps_lowerLevels | split | fail_if_no_progress (with_reducible apply keeps_mk <;> first | with_reducible exact rfl | with_reducible exact fun h => h | skip) | exact Nat.zero_le _ | dsimp only

theorem keeps_seenReset {kb : Bool} {k0 : State} (s : State) (kind : Nat) (hk : Keeps kb k0 s) :
    Keeps kb k0 (State.seenReset s kind) := by
  unfold State.seenReset; try dsimp only
  repeat' first | intro _ | with_reducible assumption | with_reducible apply keeps_ite | with_reducible apply keeps_rset | split | fail_if_no_progress (with_reducible apply keeps_mk <;> first | with_reducible exact rfl | with_reducible exact fun h => h | skip) | exact Nat.zero_le _ | dsimp only

theorem keeps_assertReset {kb : Bool} {k0 : State} (s : State) (kind : Nat) (t : Time) (hk : Keeps kb k0 s) :
    Keeps kb k0 (State.assertReset s kind t) := by
  unfold State.assertReset; try dsimp only
  repeat' first | intro _ | with_reducible assumption | with_reducible apply keeps_ite | with_reducible apply keeps_seenReset | with_reducible apply keeps_forFin | with_reducible apply keeps_burnCut | with_reducible apply keeps_discardRev | with_reducible apply keeps_lose | with_reducible apply keeps_forFin | with_reducible apply keeps_forFinPair | split | fail_if_no_progress (with_reducible apply keeps_mk <;> first | with_reducible exact rfl | with_reducible exact fun h => h | skip) | exact Nat.zero_le _ | dsimp only

theorem keepsO_execPor {kb : Bool} {k0 : State} (t : Time) (s : State) (hk : Keeps kb k0 s) :
    KeepsO kb k0 (execPor t s) := by
  unfold execPor; try dsimp only
  repeat' first | intro _ | with_reducible assumption | with_reducible apply keepsO_ite | with_reducible apply keepsO_next | with_reducible apply keeps_ite | with_reducible apply keeps_adv | with_reducible apply keeps_assertReset | split | fail_if_no_progress (with_reducible apply keeps_mk <;> first | with_reducible exact rfl | with_reducible exact fun h => h | skip) | exact Nat.zero_le _ | dsimp only

theorem keepsO_execBor {kb : Bool} {k0 : State} (rails : BitVec 4) (t : Time) (s : State) (hk : Keeps kb k0 s) :
    KeepsO kb k0 (execBor rails t s) := by
  unfold execBor; try dsimp only
  repeat' first | intro _ | with_reducible assumption | with_reducible apply keepsO_ite | with_reducible apply keepsO_next | with_reducible apply keeps_ite | with_reducible apply keeps_adv | with_reducible apply keeps_assertReset | split | fail_if_no_progress (with_reducible apply keeps_mk <;> first | with_reducible exact rfl | with_reducible exact fun h => h | skip) | exact Nat.zero_le _ | dsimp only

theorem keepsO_execPinReset {kb : Bool} {k0 : State} (t : Time) (s : State) (hk : Keeps kb k0 s) :
    KeepsO kb k0 (execPinReset t s) := by
  unfold execPinReset; try dsimp only
  repeat' first | intro _ | with_reducible assumption | with_reducible apply keepsO_ite | with_reducible apply keepsO_next | with_reducible apply keeps_ite | with_reducible apply keeps_adv | with_reducible apply keeps_assertReset | split | fail_if_no_progress (with_reducible apply keeps_mk <;> first | with_reducible exact rfl | with_reducible exact fun h => h | skip) | exact Nat.zero_le _ | dsimp only

theorem keeps_softWrite {kb : Bool} {k0 : State} (s : State) (port : Port) (key : BitVec 16) (t : Time) (hk : Keeps kb k0 s) :
    Keeps kb k0 (State.softWrite s port key t) := by
  unfold State.softWrite; try dsimp only
  repeat' first | intro _ | with_reducible assumption | with_reducible apply keeps_ite | with_reducible apply keeps_assertReset | with_reducible apply keeps_writeReject | split | fail_if_no_progress (with_reducible apply keeps_mk <;> first | with_reducible exact rfl | with_reducible exact fun h => h | skip) | exact Nat.zero_le _ | dsimp only

theorem keepsO_execSoftReset {kb : Bool} {k0 : State} (port : Port) (key : BitVec 16) (t : Time) (s : State) (hk : Keeps kb k0 s) :
    KeepsO kb k0 (execSoftReset port key t s) := by
  unfold execSoftReset; try dsimp only
  repeat' first | intro _ | with_reducible assumption | with_reducible apply keepsO_ite | with_reducible apply keepsO_next | with_reducible apply keeps_ite | with_reducible apply keeps_adv | with_reducible apply keeps_softWrite | split | fail_if_no_progress (with_reducible apply keeps_mk <;> first | with_reducible exact rfl | with_reducible exact fun h => h | skip) | exact Nat.zero_le _ | dsimp only

theorem keeps_leaveDeep {kb : Bool} {k0 : State} (s : State) (t : Time) (hk : Keeps kb k0 s) :
    Keeps kb k0 (State.leaveDeep s t) := by
  unfold State.leaveDeep; try dsimp only
  repeat' first | intro _ | with_reducible assumption | with_reducible apply keeps_ite | split | fail_if_no_progress (with_reducible apply keeps_mk <;> first | with_reducible exact rfl | with_reducible exact fun h => h | skip) | exact Nat.zero_le _ | dsimp only

theorem keepsO_execFlr {kb : Bool} {k0 : State} (kind : FlrKind) (t : Time) (s : State) (hk : Keeps kb k0 s) :
    KeepsO kb k0 (execFlr kind t s) := by
  unfold execFlr; try dsimp only
  repeat' first | intro _ | with_reducible assumption | with_reducible apply keepsO_ite | with_reducible apply keepsO_next | with_reducible apply keeps_ite | with_reducible apply keeps_leaveDeep | with_reducible apply keeps_adv | with_reducible apply keeps_assertReset | with_reducible apply keeps_rsetF | split | fail_if_no_progress (with_reducible apply keeps_mk <;> first | with_reducible exact rfl | with_reducible exact fun h => h | skip) | exact Nat.zero_le _ | dsimp only

theorem keeps_timeZero {kb : Bool} {k0 : State} (s : State) (hk : Keeps kb k0 s) :
    Keeps kb k0 (State.timeZero s) := by
  unfold State.timeZero; try dsimp only
  repeat' first | intro _ | with_reducible assumption | with_reducible apply keeps_ite | split | fail_if_no_progress (with_reducible apply keeps_mk <;> first | with_reducible exact rfl | with_reducible exact fun h => h | skip) | exact Nat.zero_le _ | dsimp only

theorem keeps_convBack {kb : Bool} {k0 : State} (s : State) (sched : Bool) (hk : Keeps kb k0 s) :
    Keeps kb k0 (State.convBack s sched) := by
  unfold State.convBack; try dsimp only
  repeat' first | intro _ | with_reducible assumption | with_reducible apply keeps_ite | split | fail_if_no_progress (with_reducible apply keeps_mk <;> first | with_reducible exact rfl | with_reducible exact fun h => h | skip) | exact Nat.zero_le _ | dsimp only

theorem keepsO_execResetRelease {kb : Bool} {k0 : State} (straps : BitVec 6) (t : Time) (s : State) (hk : Keeps kb k0 s) :
    KeepsO kb k0 (execResetRelease straps t s) := by
  unfold execResetRelease; try dsimp only
  repeat' first | intro _ | with_reducible assumption | with_reducible apply keepsO_ite | with_reducible apply keepsO_next | with_reducible apply keeps_ite | with_reducible apply keeps_adv | with_reducible apply keeps_timeZero | with_reducible apply keeps_convBack | with_reducible apply keeps_bootStart | with_reducible apply keeps_estopHit | with_reducible apply keeps_soloAlone | split | fail_if_no_progress (with_reducible apply keeps_mk <;> first | with_reducible exact rfl | with_reducible exact fun h => h | skip) | exact Nat.zero_le _ | dsimp only

theorem keepsO_execRailsSettled {kb : Bool} {k0 : State} (t : Time) (s : State) (hk : Keeps kb k0 s) :
    KeepsO kb k0 (execRailsSettled t s) := by
  unfold execRailsSettled; try dsimp only
  repeat' first | intro _ | with_reducible assumption | with_reducible apply keepsO_ite | with_reducible apply keepsO_next | with_reducible apply keeps_ite | with_reducible apply keeps_adv | split | fail_if_no_progress (with_reducible apply keeps_mk <;> first | with_reducible exact rfl | with_reducible exact fun h => h | skip) | exact Nat.zero_le _ | dsimp only

theorem keepsO_execWarnSet {kb : Bool} {k0 : State} (rail : Fin 4) (t : Time) (s : State) (hk : Keeps kb k0 s) :
    KeepsO kb k0 (execWarnSet rail t s) := by
  unfold execWarnSet; try dsimp only
  repeat' first | intro _ | with_reducible assumption | with_reducible apply keepsO_ite | with_reducible apply keepsO_next | with_reducible apply keeps_ite | with_reducible apply keeps_adv | with_reducible apply keeps_raise | with_reducible apply keeps_burnSupply | split | fail_if_no_progress (with_reducible apply keeps_mk <;> first | with_reducible exact rfl | with_reducible exact fun h => h | skip) | exact Nat.zero_le _ | dsimp only

theorem keepsO_execWarnClear {kb : Bool} {k0 : State} (rail : Fin 4) (t : Time) (s : State) (hk : Keeps kb k0 s) :
    KeepsO kb k0 (execWarnClear rail t s) := by
  unfold execWarnClear; try dsimp only
  repeat' first | intro _ | with_reducible assumption | with_reducible apply keepsO_ite | with_reducible apply keepsO_next | with_reducible apply keeps_ite | with_reducible apply keeps_adv | with_reducible apply keeps_rset | with_reducible apply keeps_raise | split | fail_if_no_progress (with_reducible apply keeps_mk <;> first | with_reducible exact rfl | with_reducible exact fun h => h | skip) | exact Nat.zero_le _ | dsimp only

theorem keeps_stopBegin {kb : Bool} {k0 : State} (s : State) (t : Time) (hk : Keeps kb k0 s) :
    Keeps kb k0 (State.stopBegin s t) := by
  unfold State.stopBegin; try dsimp only
  repeat' first | intro _ | with_reducible assumption | with_reducible apply keeps_ite | with_reducible apply keeps_yield238 | split | fail_if_no_progress (with_reducible apply keeps_mk <;> first | with_reducible exact rfl | with_reducible exact fun h => h | skip) | exact Nat.zero_le _ | dsimp only

theorem keepsO_execSupplyStop {kb : Bool} {k0 : State} (s : State) (hk : Keeps kb k0 s) :
    KeepsO kb k0 (execSupplyStop s) := by
  unfold execSupplyStop; try dsimp only
  repeat' first | intro _ | with_reducible assumption | with_reducible apply keepsO_ite | with_reducible apply keepsO_next | with_reducible apply keeps_ite | with_reducible apply keeps_adv | with_reducible apply keeps_raise | with_reducible apply keeps_mbrk | with_reducible apply keeps_stopBegin | split | fail_if_no_progress (with_reducible apply keeps_mk <;> first | with_reducible exact rfl | with_reducible exact fun h => h | skip) | exact Nat.zero_le _ | dsimp only

theorem keeps_stopStep {kb : Bool} {k0 : State} (s : State) (b : Time) (hk : Keeps kb k0 s) :
    Keeps kb k0 (State.stopStep s b) := by
  unfold State.stopStep; try dsimp only
  repeat' first | intro _ | with_reducible assumption | with_reducible apply keeps_ite | with_reducible apply keeps_stopOrSafe | with_reducible apply keeps_abortTests | with_reducible apply keeps_foldl | with_reducible apply keeps_foldPair | split | fail_if_no_progress (with_reducible apply keeps_mk <;> first | with_reducible exact rfl | with_reducible exact fun h => h | skip) | exact Nat.zero_le _ | dsimp only

theorem keepsO_execStopTmaxExpiry {kb : Bool} {k0 : State} (s : State) (hk : Keeps kb k0 s) :
    KeepsO kb k0 (execStopTmaxExpiry s) := by
  unfold execStopTmaxExpiry; try dsimp only
  repeat' first | intro _ | with_reducible assumption | with_reducible apply keepsO_ite | with_reducible apply keepsO_next | with_reducible apply keeps_ite | with_reducible apply keeps_adv | with_reducible apply keeps_machSafe | with_reducible apply keeps_foldl | with_reducible apply keeps_foldPair | split | fail_if_no_progress (with_reducible apply keeps_mk <;> first | with_reducible exact rfl | with_reducible exact fun h => h | skip) | exact Nat.zero_le _ | dsimp only

theorem keepsO_execStopDone {kb : Bool} {k0 : State} (t : Time) (s : State) (hk : Keeps kb k0 s) :
    KeepsO kb k0 (execStopDone t s) := by
  unfold execStopDone; try dsimp only
  repeat' first | intro _ | with_reducible assumption | with_reducible apply keepsO_ite | with_reducible apply keepsO_next | with_reducible apply keeps_ite | with_reducible apply keeps_adv | with_reducible apply keeps_raise | split | fail_if_no_progress (with_reducible apply keeps_mk <;> first | with_reducible exact rfl | with_reducible exact fun h => h | skip) | exact Nat.zero_le _ | dsimp only

theorem keeps_clockFault {kb : Bool} {k0 : State} (s : State) (count : Bool) (t : Time) (hk : Keeps kb k0 s) :
    Keeps kb k0 (State.clockFault s count t) := by
  unfold State.clockFault; try dsimp only
  repeat' first | intro _ | with_reducible assumption | with_reducible apply keeps_ite | with_reducible apply keeps_raise | with_reducible apply keeps_reactF5 | split | fail_if_no_progress (with_reducible apply keeps_mk <;> first | with_reducible exact rfl | with_reducible exact fun h => h | skip) | exact Nat.zero_le _ | dsimp only

theorem keepsO_execClockFault {kb : Bool} {k0 : State} (src : ClkSrc) (t : Time) (s : State) (hk : Keeps kb k0 s) :
    KeepsO kb k0 (execClockFault src t s) := by
  unfold execClockFault; try dsimp only
  repeat' first | intro _ | with_reducible assumption | with_reducible apply keepsO_ite | with_reducible apply keepsO_next | with_reducible apply keeps_ite | with_reducible apply keeps_adv | with_reducible apply keeps_clockFault | split | fail_if_no_progress (with_reducible apply keeps_mk <;> first | with_reducible exact rfl | with_reducible exact fun h => h | skip) | exact Nat.zero_le _ | dsimp only

theorem keepsO_execPowerState {kb : Bool} {k0 : State} (q : CmdQ) (s : State) (hk : Keeps kb k0 s) :
    KeepsO kb k0 (execPowerState q s) := by
  unfold execPowerState; try dsimp only
  repeat' first | intro _ | with_reducible assumption | with_reducible apply keepsO_ite | with_reducible apply keepsO_next | with_reducible apply keeps_ite | with_reducible apply keepsO_runCmd | with_reducible apply keeps_finish | with_reducible apply keeps_awaitAt | split | fail_if_no_progress (with_reducible apply keeps_mk <;> first | with_reducible exact rfl | with_reducible exact fun h => h | skip) | exact Nat.zero_le _ | dsimp only

theorem keeps_powerTo {kb : Bool} {k0 : State} (s : State) (n : Nat) (t : Time) (hk : Keeps kb k0 s) :
    Keeps kb k0 (State.powerTo s n t) := by
  unfold State.powerTo; try dsimp only
  repeat' first | intro _ | with_reducible assumption | with_reducible apply keeps_ite | with_reducible apply keeps_closeAll | with_reducible apply keeps_releaseAll | split | fail_if_no_progress (with_reducible apply keeps_mk <;> first | with_reducible exact rfl | with_reducible exact fun h => h | skip) | exact Nat.zero_le _ | dsimp only

theorem keeps_powerEnd {kb : Bool} {k0 : State} (s : State) (n : Nat) (t : Time) (hk : Keeps kb k0 s) :
    Keeps kb k0 (State.powerEnd s n t) := by
  unfold State.powerEnd; try dsimp only
  repeat' first | intro _ | with_reducible assumption | with_reducible apply keeps_ite | with_reducible apply keeps_convBack | with_reducible apply keeps_forFin | with_reducible apply keeps_modMach | with_reducible apply keeps_raise | with_reducible apply keeps_finishW | with_reducible apply keeps_forFin | with_reducible apply keeps_forFinPair | split | fail_if_no_progress (with_reducible apply keeps_mk <;> first | with_reducible exact rfl | with_reducible exact fun h => h | skip) | exact Nat.zero_le _ | dsimp only

theorem keepsO_execPowerChanged {kb : Bool} {k0 : State} (s : State) (hk : Keeps kb k0 s) :
    KeepsO kb k0 (execPowerChanged s) := by
  unfold execPowerChanged; try dsimp only
  repeat' first | intro _ | with_reducible assumption | with_reducible apply keepsO_ite | with_reducible apply keepsO_next | with_reducible apply keeps_ite | with_reducible apply keeps_adv | with_reducible apply keeps_finishW | with_reducible apply keeps_powerTo | with_reducible apply keeps_powerEnd | split | fail_if_no_progress (with_reducible apply keeps_mk <;> first | with_reducible exact rfl | with_reducible exact fun h => h | skip) | exact Nat.zero_le _ | dsimp only

theorem keepsO_execPowerTransitDone {kb : Bool} {k0 : State} (t : Time) (s : State) (hk : Keeps kb k0 s) :
    KeepsO kb k0 (execPowerTransitDone t s) := by
  unfold execPowerTransitDone; try dsimp only
  repeat' first | intro _ | with_reducible assumption | with_reducible apply keepsO_ite | with_reducible apply keepsO_next | with_reducible apply keeps_ite | with_reducible apply keeps_adv | with_reducible apply keeps_powerEnd | with_reducible apply keeps_retrip | split | fail_if_no_progress (with_reducible apply keeps_mk <;> first | with_reducible exact rfl | with_reducible exact fun h => h | skip) | exact Nat.zero_le _ | dsimp only

theorem lowerLevels_msr (s : State) : s.lowerLevels.msr = s.msr := by
  unfold State.lowerLevels
  generalize List.range 4 = l
  induction l generalizing s with
  | nil => rfl
  | cons k l ih => refine (ih _).trans ?_; dsimp only; split <;> rfl

theorem lose_bar4 (s : State) (k : Keep) (al : Bool) (t : Time) : (s.lose k true true al t).msr.bar4 = s.msr.bar4 := by
  unfold State.lose; dsimp only; split
  · rw [lowerLevels_msr]; rfl
  · rfl

theorem keepsO_execDeepEntry {kb : Bool} {k0 : State} (t : Time) (s : State) (hk : Keeps kb k0 s) :
    KeepsO kb k0 (execDeepEntry t s) := by
  unfold execDeepEntry; try dsimp only
  repeat' first | intro _ | with_reducible assumption | with_reducible apply keepsO_ite | with_reducible apply keepsO_next | with_reducible apply keeps_ite | with_reducible apply keeps_adv | with_reducible apply keeps_closeAll | with_reducible apply keeps_pump | with_reducible apply keeps_lose | split | fail_if_no_progress (with_reducible apply keeps_mk <;> first | with_reducible exact rfl | with_reducible exact fun h => h | skip) | exact Nat.zero_le _ | dsimp only
  all_goals (rename_i a; rw [lose_bar4] at a; exact a)

theorem keeps_wakeUp {kb : Bool} {k0 : State} (s : State) (src : Nat) (t : Time) (hk : Keeps kb k0 s) :
    Keeps kb k0 (State.wakeUp s src t) := by
  unfold State.wakeUp; try dsimp only
  repeat' first | intro _ | with_reducible assumption | with_reducible apply keeps_ite | with_reducible apply keeps_leaveDeep | with_reducible apply keeps_rsetF | with_reducible apply keeps_convBack | with_reducible apply keeps_raise | split | fail_if_no_progress (with_reducible apply keeps_mk <;> first | with_reducible exact rfl | with_reducible exact fun h => h | skip) | exact Nat.zero_le _ | dsimp only

theorem keepsO_execWake {kb : Bool} {k0 : State} (t : Time) (s : State) (hk : Keeps kb k0 s) :
    KeepsO kb k0 (execWake t s) := by
  unfold execWake; try dsimp only
  repeat' first | intro _ | with_reducible assumption | with_reducible apply keepsO_ite | with_reducible apply keepsO_next | with_reducible apply keeps_ite | with_reducible apply keeps_wakeUp | split | fail_if_no_progress (with_reducible apply keeps_mk <;> first | with_reducible exact rfl | with_reducible exact fun h => h | skip) | exact Nat.zero_le _ | dsimp only

theorem keepsO_execWakeTimerExpiry {kb : Bool} {k0 : State} (t : Time) (s : State) (hk : Keeps kb k0 s) :
    KeepsO kb k0 (execWakeTimerExpiry t s) := by
  unfold execWakeTimerExpiry; try dsimp only
  repeat' first | intro _ | with_reducible assumption | with_reducible apply keepsO_ite | with_reducible apply keepsO_next | with_reducible apply keeps_ite | with_reducible apply keeps_wakeUp | split | fail_if_no_progress (with_reducible apply keeps_mk <;> first | with_reducible exact rfl | with_reducible exact fun h => h | skip) | exact Nat.zero_le _ | dsimp only

end Sys2Proof.Machine
end

