-- ==== Sys2Proof/Laws/KeepsRounds.lean ====
section
/-! SUPPORT. Laws/KeepsRounds.lean: what each operation of Rounds.lean keeps. -/
namespace Sys2Proof.Machine

set_option linter.all false

theorem keeps_fpBoundary {kb : Bool} {k0 : State} (s : State) (b : Time) (hk : Keeps kb k0 s) :
    Keeps kb k0 (State.fpBoundary s b) := by
  unfold State.fpBoundary; try dsimp only
  repeat' first | intro _ | with_reducible assumption | with_reducible apply keeps_ite | with_reducible apply keeps_adv | with_reducible apply keeps_takeFp | with_reducible apply keeps_expectFp | with_reducible apply keeps_fpEnd | with_reducible apply keeps_fpBegin | with_reducible apply keeps_thmStep | with_reducible apply keeps_stopStep | with_reducible apply keeps_batonSend | with_reducible apply keeps_siloFp | split | fail_if_no_progress (with_reducible apply keeps_mk <;> first | with_reducible exact rfl | with_reducible exact fun h => h | skip) | exact Nat.zero_le _ | dsimp only

theorem keepsO_execFpBoundary {kb : Bool} {k0 : State} (s : State) (hk : Keeps kb k0 s) :
    KeepsO kb k0 (execFpBoundary s) := by
  unfold execFpBoundary; try dsimp only
  repeat' first | intro _ | with_reducible assumption | with_reducible apply keepsO_ite | with_reducible apply keepsO_next | with_reducible apply keeps_ite | with_reducible apply keeps_fpBoundary | split | fail_if_no_progress (with_reducible apply keeps_mk <;> first | with_reducible exact rfl | with_reducible exact fun h => h | skip) | exact Nat.zero_le _ | dsimp only

theorem keeps_spBoundary {kb : Bool} {k0 : State} (s : State) (b : Time) (hk : Keeps kb k0 s) :
    Keeps kb k0 (State.spBoundary s b) := by
  unfold State.spBoundary; try dsimp only
  repeat' first | intro _ | with_reducible assumption | with_reducible apply keeps_ite | with_reducible apply keeps_adv | with_reducible apply keeps_spWork | with_reducible apply keeps_shadowSp | with_reducible apply keeps_siloFp | with_reducible apply keeps_siloTaps | split | fail_if_no_progress (with_reducible apply keeps_mk <;> first | with_reducible exact rfl | with_reducible exact fun h => h | skip) | exact Nat.zero_le _ | dsimp only

theorem keepsO_execSpBoundary {kb : Bool} {k0 : State} (s : State) (hk : Keeps kb k0 s) :
    KeepsO kb k0 (execSpBoundary s) := by
  unfold execSpBoundary; try dsimp only
  repeat' first | intro _ | with_reducible assumption | with_reducible apply keepsO_ite | with_reducible apply keepsO_next | with_reducible apply keeps_ite | with_reducible apply keeps_spBoundary | split | fail_if_no_progress (with_reducible apply keeps_mk <;> first | with_reducible exact rfl | with_reducible exact fun h => h | skip) | exact Nat.zero_le _ | dsimp only

theorem keeps_healthAgain {kb : Bool} {k0 : State} (s : State) (bit block : Nat) (insts : List (Nat × Nat)) (t : Time) (hk : Keeps kb k0 s) :
    Keeps kb k0 (State.healthAgain s bit block insts t) := by
  unfold State.healthAgain; try dsimp only
  repeat' first | intro _ | with_reducible assumption | with_reducible apply keeps_ite | with_reducible apply keeps_health | with_reducible apply keeps_foldl | with_reducible apply keeps_foldPair | split | fail_if_no_progress (with_reducible apply keeps_mk <;> first | with_reducible exact rfl | with_reducible exact fun h => h | skip) | exact Nat.zero_le _ | dsimp only

theorem keeps_healthRound {kb : Bool} {k0 : State} (s : State) (t : Time) (hk : Keeps kb k0 s) :
    Keeps kb k0 (State.healthRound s t) := by
  unfold State.healthRound; try dsimp only
  repeat' first | intro _ | with_reducible assumption | with_reducible apply keeps_ite | with_reducible apply keeps_healthAgain | split | fail_if_no_progress (with_reducible apply keeps_mk <;> first | with_reducible exact rfl | with_reducible exact fun h => h | skip) | exact Nat.zero_le _ | dsimp only

theorem keeps_hrRound {kb : Bool} {k0 : State} (s : State) (mgt ctl : Nat) (b : Time) (hk : Keeps kb k0 s) :
    Keeps kb k0 (State.hrRound s mgt ctl b) := by
  unfold State.hrRound; try dsimp only
  repeat' first | intro _ | with_reducible assumption | with_reducible apply keeps_ite | with_reducible apply keeps_adv | with_reducible apply keeps_rset | with_reducible apply keeps_clockFault | with_reducible apply keeps_healthRound | with_reducible apply keeps_wearAll | with_reducible apply keeps_memberRound | with_reducible apply keeps_forFin | with_reducible apply keeps_modSet | with_reducible apply keeps_modGlk | with_reducible apply keeps_forFin | with_reducible apply keeps_forFinPair | split | fail_if_no_progress (with_reducible apply keeps_mk <;> first | with_reducible exact rfl | with_reducible exact fun h => h | skip) | exact Nat.zero_le _ | dsimp only

theorem keepsO_execHousekeepingRound {kb : Bool} {k0 : State} (mgt ctl : BitVec 19) (s : State) (hk : Keeps kb k0 s) :
    KeepsO kb k0 (execHousekeepingRound mgt ctl s) := by
  unfold execHousekeepingRound; try dsimp only
  repeat' first | intro _ | with_reducible assumption | with_reducible apply keepsO_ite | with_reducible apply keepsO_next | with_reducible apply keeps_ite | with_reducible apply keeps_hrRound | split | fail_if_no_progress (with_reducible apply keeps_mk <;> first | with_reducible exact rfl | with_reducible exact fun h => h | skip) | exact Nat.zero_le _ | dsimp only

end Sys2Proof.Machine
end

