-- ==== Sys2Proof/Laws/KeepsLinkTest.lean ====
section
/-! SUPPORT. Laws/KeepsLinkTest.lean: what each operation of LinkTest.lean keeps. -/
namespace Sys2Proof.Machine

set_option linter.all false

theorem keeps_linkCount {kb : Bool} {k0 : State} (s : State) (link : Fin 13) (errs : Nat) (t : Time) (hk : Keeps kb k0 s) :
    Keeps kb k0 (State.linkCount s link errs t) := by
  unfold State.linkCount; try dsimp only
  repeat' first | intro _ | with_reducible assumption | with_reducible apply keeps_ite | with_reducible apply keeps_modLink | split | fail_if_no_progress (with_reducible apply keeps_mk <;> first | with_reducible exact rfl | with_reducible exact fun h => h | skip) | exact Nat.zero_le _ | dsimp only

theorem keepsO_execCheckerLocked {kb : Bool} {k0 : State} (link : Fin 13) (t : Time) (s : State) (hk : Keeps kb k0 s) :
    KeepsO kb k0 (execCheckerLocked link t s) := by
  unfold execCheckerLocked; try dsimp only
  repeat' first | intro _ | with_reducible assumption | with_reducible apply keepsO_ite | with_reducible apply keepsO_next | with_reducible apply keeps_ite | with_reducible apply keeps_adv | with_reducible apply keeps_modLink | split | fail_if_no_progress (with_reducible apply keeps_mk <;> first | with_reducible exact rfl | with_reducible exact fun h => h | skip) | exact Nat.zero_le _ | dsimp only

theorem keepsO_execCheckerLockLost {kb : Bool} {k0 : State} (link : Fin 13) (errs : Nat) (t : Time) (s : State) (hk : Keeps kb k0 s) :
    KeepsO kb k0 (execCheckerLockLost link errs t s) := by
  unfold execCheckerLockLost; try dsimp only
  repeat' first | intro _ | with_reducible assumption | with_reducible apply keepsO_ite | with_reducible apply keepsO_next | with_reducible apply keeps_ite | with_reducible apply keeps_adv | with_reducible apply keeps_linkCount | with_reducible apply keeps_modLink | split | fail_if_no_progress (with_reducible apply keeps_mk <;> first | with_reducible exact rfl | with_reducible exact fun h => h | skip) | exact Nat.zero_le _ | dsimp only

theorem keepsO_execLinkTest {kb : Bool} {k0 : State} (q : CmdQ) (s : State) (hk : Keeps kb k0 s) :
    KeepsO kb k0 (execLinkTest q s) := by
  unfold execLinkTest; try dsimp only
  repeat' first | intro _ | with_reducible assumption | with_reducible apply keepsO_ite | with_reducible apply keepsO_next | with_reducible apply keeps_ite | with_reducible apply keepsO_runCmd | with_reducible apply keeps_finish | with_reducible apply keeps_lopStart | with_reducible apply keeps_modLink | with_reducible apply keeps_reset | split | fail_if_no_progress (with_reducible apply keeps_mk <;> first | with_reducible exact rfl | with_reducible exact fun h => h | skip) | exact Nat.zero_le _ | dsimp only

theorem keeps_readback {kb : Bool} {k0 : State} (s : State) (words : Nat) (hdrBad digestOk : Bool) (hk : Keeps kb k0 s) :
    Keeps kb k0 (State.readback s words hdrBad digestOk) := by
  unfold State.readback; try dsimp only
  repeat' first | intro _ | with_reducible assumption | with_reducible apply keeps_ite | with_reducible apply keeps_freeNext | with_reducible apply keeps_modLink | split | fail_if_no_progress (with_reducible apply keeps_mk <;> first | with_reducible exact rfl | with_reducible exact fun h => h | skip) | exact Nat.zero_le _ | dsimp only

theorem keeps_linkEnd {kb : Bool} {k0 : State} (s : State) (k : Fin 8) (link : Fin 13) (hk : Keeps kb k0 s) :
    Keeps kb k0 (State.linkEnd s k link) := by
  unfold State.linkEnd; try dsimp only
  repeat' first | intro _ | with_reducible assumption | with_reducible apply keeps_ite | with_reducible apply keeps_modLink | with_reducible apply keeps_lopEnd | split | fail_if_no_progress (with_reducible apply keeps_mk <;> first | with_reducible exact rfl | with_reducible exact fun h => h | skip) | exact Nat.zero_le _ | dsimp only

theorem keepsO_execLinkTestDone {kb : Bool} {k0 : State} (link : Fin 13) (errs : Nat) (hdrBad digestOk : Bool) (t : Time) (s : State) (hk : Keeps kb k0 s) :
    KeepsO kb k0 (execLinkTestDone link errs hdrBad digestOk t s) := by
  unfold execLinkTestDone; try dsimp only
  repeat' first | intro _ | with_reducible assumption | with_reducible apply keepsO_ite | with_reducible apply keepsO_next | with_reducible apply keeps_ite | with_reducible apply keeps_adv | with_reducible apply keeps_readback | with_reducible apply keeps_linkCount | with_reducible apply keeps_modLop | with_reducible apply keeps_lopPause | with_reducible apply keeps_modLink | with_reducible apply keeps_linkEnd | split | fail_if_no_progress (with_reducible apply keeps_mk <;> first | with_reducible exact rfl | with_reducible exact fun h => h | skip) | exact Nat.zero_le _ | dsimp only

theorem keeps_pcieGo {kb : Bool} {k0 : State} (s : State) (hk : Keeps kb k0 s) :
    Keeps kb k0 (State.pcieGo s) := by
  unfold State.pcieGo; try dsimp only
  repeat' first | intro _ | with_reducible assumption | with_reducible apply keeps_ite | with_reducible apply keeps_writeReject | with_reducible apply keeps_modLink | with_reducible apply keeps_reset | split | fail_if_no_progress (with_reducible apply keeps_mk <;> first | with_reducible exact rfl | with_reducible exact fun h => h | skip) | exact Nat.zero_le _ | dsimp only

theorem keepsO_execPcieLoopbackGo {kb : Bool} {k0 : State} (t : Time) (s : State) (hk : Keeps kb k0 s) :
    KeepsO kb k0 (execPcieLoopbackGo t s) := by
  unfold execPcieLoopbackGo; try dsimp only
  repeat' first | intro _ | with_reducible assumption | with_reducible apply keepsO_ite | with_reducible apply keepsO_next | with_reducible apply keeps_ite | with_reducible apply keepsO_onRegs | with_reducible apply keeps_pcieGo | split | fail_if_no_progress (with_reducible apply keeps_mk <;> first | with_reducible exact rfl | with_reducible exact fun h => h | skip) | exact Nat.zero_le _ | dsimp only

theorem keepsO_execPcieLoopbackDone {kb : Bool} {k0 : State} (errs : Nat) (s : State) (hk : Keeps kb k0 s) :
    KeepsO kb k0 (execPcieLoopbackDone errs s) := by
  unfold execPcieLoopbackDone; try dsimp only
  repeat' first | intro _ | with_reducible assumption | with_reducible apply keepsO_ite | with_reducible apply keepsO_next | with_reducible apply keeps_ite | with_reducible apply keeps_adv | with_reducible apply keeps_linkCount | with_reducible apply keeps_modLink | with_reducible apply keeps_pump | split | fail_if_no_progress (with_reducible apply keeps_mk <;> first | with_reducible exact rfl | with_reducible exact fun h => h | skip) | exact Nat.zero_le _ | dsimp only

theorem keepsO_execSelfTest {kb : Bool} {k0 : State} (q : CmdQ) (s : State) (hk : Keeps kb k0 s) :
    KeepsO kb k0 (execSelfTest q s) := by
  unfold execSelfTest; try dsimp only
  repeat' first | intro _ | with_reducible assumption | with_reducible apply keepsO_ite | with_reducible apply keepsO_next | with_reducible apply keeps_ite | with_reducible apply keepsO_runCmd | with_reducible apply keeps_finish | with_reducible apply keeps_lopStart | with_reducible apply keeps_modLop | with_reducible apply keeps_blockEnter | split | fail_if_no_progress (with_reducible apply keeps_mk <;> first | with_reducible exact rfl | with_reducible exact fun h => h | skip) | exact Nat.zero_le _ | dsimp only

theorem keepsO_execSelfTestBlockDone {kb : Bool} {k0 : State} (conv : List (Fin 44 × Int × Int)) (win : List (Fin 20 × Int × Int × Bool)) (chan : List (Fin 50 × Int × Bool)) (t : Time) (s : State) (hk : Keeps kb k0 s) :
    KeepsO kb k0 (execSelfTestBlockDone conv win chan t s) := by
  unfold execSelfTestBlockDone; try dsimp only
  repeat' first | intro _ | with_reducible assumption | with_reducible apply keepsO_ite | with_reducible apply keepsO_next | with_reducible apply keeps_ite | with_reducible apply keeps_adv | with_reducible apply keeps_gridStart | with_reducible apply keeps_retrip | with_reducible apply keeps_lopEnd | with_reducible apply keeps_testEnd | with_reducible apply keeps_modLop | with_reducible apply keeps_lopPause | with_reducible apply keeps_blockEnter | with_reducible apply keeps_foldl | with_reducible apply keeps_foldPair | split | fail_if_no_progress (with_reducible apply keeps_mk <;> first | with_reducible exact rfl | with_reducible exact fun h => h | skip) | exact Nat.zero_le _ | dsimp only

theorem keeps_tapLoad {kb : Bool} {k0 : State} (s : State) (code : Nat) (t : Time) (hk : Keeps kb k0 s) :
    Keeps kb k0 (State.tapLoad s code t) := by
  unfold State.tapLoad; try dsimp only
  repeat' first | intro _ | with_reducible assumption | with_reducible apply keeps_ite | with_reducible apply keeps_assertReset | split | fail_if_no_progress (with_reducible apply keeps_mk <;> first | with_reducible exact rfl | with_reducible exact fun h => h | skip) | exact Nat.zero_le _ | dsimp only

theorem keepsO_execExtest {kb : Bool} {k0 : State} (t : Time) (s : State) (hk : Keeps kb k0 s) :
    KeepsO kb k0 (execExtest t s) := by
  unfold execExtest; try dsimp only
  repeat' first | intro _ | with_reducible assumption | with_reducible apply keepsO_ite | with_reducible apply keepsO_next | with_reducible apply keeps_ite | with_reducible apply keeps_adv | with_reducible apply keeps_tapLoad | split | fail_if_no_progress (with_reducible apply keeps_mk <;> first | with_reducible exact rfl | with_reducible exact fun h => h | skip) | exact Nat.zero_le _ | dsimp only

theorem keepsO_execIdcode {kb : Bool} {k0 : State} (t : Time) (s : State) (hk : Keeps kb k0 s) :
    KeepsO kb k0 (execIdcode t s) := by
  unfold execIdcode; try dsimp only
  repeat' first | intro _ | with_reducible assumption | with_reducible apply keepsO_ite | with_reducible apply keepsO_next | with_reducible apply keeps_ite | with_reducible apply keeps_adv | with_reducible apply keeps_tapLoad | split | fail_if_no_progress (with_reducible apply keeps_mk <;> first | with_reducible exact rfl | with_reducible exact fun h => h | skip) | exact Nat.zero_le _ | dsimp only

theorem keepsO_execSamplePreload {kb : Bool} {k0 : State} (_preload : Bool) (v : BitVec 32) (t : Time) (s : State) (hk : Keeps kb k0 s) :
    KeepsO kb k0 (execSamplePreload _preload v t s) := by
  unfold execSamplePreload; try dsimp only
  repeat' first | intro _ | with_reducible assumption | with_reducible apply keepsO_ite | with_reducible apply keepsO_next | with_reducible apply keeps_ite | with_reducible apply keeps_adv | with_reducible apply keeps_tapLoad | split | fail_if_no_progress (with_reducible apply keeps_mk <;> first | with_reducible exact rfl | with_reducible exact fun h => h | skip) | exact Nat.zero_le _ | dsimp only

theorem keepsO_execHighz {kb : Bool} {k0 : State} (t : Time) (s : State) (hk : Keeps kb k0 s) :
    KeepsO kb k0 (execHighz t s) := by
  unfold execHighz; try dsimp only
  repeat' first | intro _ | with_reducible assumption | with_reducible apply keepsO_ite | with_reducible apply keepsO_next | with_reducible apply keeps_ite | with_reducible apply keeps_adv | with_reducible apply keeps_tapLoad | split | fail_if_no_progress (with_reducible apply keeps_mk <;> first | with_reducible exact rfl | with_reducible exact fun h => h | skip) | exact Nat.zero_le _ | dsimp only

theorem keepsO_execClamp {kb : Bool} {k0 : State} (t : Time) (s : State) (hk : Keeps kb k0 s) :
    KeepsO kb k0 (execClamp t s) := by
  unfold execClamp; try dsimp only
  repeat' first | intro _ | with_reducible assumption | with_reducible apply keepsO_ite | with_reducible apply keepsO_next | with_reducible apply keeps_ite | with_reducible apply keeps_adv | with_reducible apply keeps_tapLoad | split | fail_if_no_progress (with_reducible apply keeps_mk <;> first | with_reducible exact rfl | with_reducible exact fun h => h | skip) | exact Nat.zero_le _ | dsimp only

theorem keepsO_execBypass {kb : Bool} {k0 : State} (t : Time) (s : State) (hk : Keeps kb k0 s) :
    KeepsO kb k0 (execBypass t s) := by
  unfold execBypass; try dsimp only
  repeat' first | intro _ | with_reducible assumption | with_reducible apply keepsO_ite | with_reducible apply keepsO_next | with_reducible apply keeps_ite | with_reducible apply keeps_adv | with_reducible apply keeps_tapLoad | split | fail_if_no_progress (with_reducible apply keeps_mk <;> first | with_reducible exact rfl | with_reducible exact fun h => h | skip) | exact Nat.zero_le _ | dsimp only

theorem keepsO_execVendorTestInstruction {kb : Bool} {k0 : State} (code : BitVec 8) (t : Time) (s : State) (hk : Keeps kb k0 s) :
    KeepsO kb k0 (execVendorTestInstruction code t s) := by
  unfold execVendorTestInstruction; try dsimp only
  repeat' first | with_reducible apply keepsO_refused | intro _ | with_reducible assumption | with_reducible apply keepsO_ite | with_reducible apply keepsO_next | with_reducible apply keeps_ite | with_reducible apply keeps_adv | with_reducible apply keeps_tapLoad | split | fail_if_no_progress (with_reducible apply keeps_mk <;> first | with_reducible exact rfl | with_reducible exact fun h => h | skip) | exact Nat.zero_le _ | dsimp only

theorem keepsO_execTapInstructionExit {kb : Bool} {k0 : State} (t : Time) (s : State) (hk : Keeps kb k0 s) :
    KeepsO kb k0 (execTapInstructionExit t s) := by
  unfold execTapInstructionExit; try dsimp only
  repeat' first | intro _ | with_reducible assumption | with_reducible apply keepsO_ite | with_reducible apply keepsO_next | with_reducible apply keeps_ite | with_reducible apply keeps_adv | with_reducible apply keeps_tapLoad | split | fail_if_no_progress (with_reducible apply keeps_mk <;> first | with_reducible exact rfl | with_reducible exact fun h => h | skip) | exact Nat.zero_le _ | dsimp only

end Sys2Proof.Machine
end

