-- ==== Sys2Proof/Laws/KeepsRegs.lean ====
section
/-! SUPPORT. Laws/KeepsRegs.lean: what each operation of Regs.lean keeps. -/
namespace Sys2Proof.Machine

set_option linter.all false

theorem keeps_setLatch {kb : Bool} {k0 : State} (s : State) (port : Port) (l : Option (Nat × Nat)) (hk : Keeps kb k0 s) :
    Keeps kb k0 (State.setLatch s port l) := by
  unfold State.setLatch; try dsimp only
  repeat' first | intro _ | with_reducible assumption | with_reducible apply keeps_ite | split | fail_if_no_progress (with_reducible apply keeps_mk <;> first | with_reducible exact rfl | with_reducible exact fun h => h | skip) | exact Nat.zero_le _ | dsimp only

theorem keeps_setRead {kb : Bool} {k0 : State} (s : State) (port : Port) (w : Word) (hk : Keeps kb k0 s) :
    Keeps kb k0 (State.setRead s port w) := by
  unfold State.setRead; try dsimp only
  repeat' first | intro _ | with_reducible assumption | with_reducible apply keeps_ite | split | fail_if_no_progress (with_reducible apply keeps_mk <;> first | with_reducible exact rfl | with_reducible exact fun h => h | skip) | exact Nat.zero_le _ | dsimp only

theorem keeps_readLow {kb : Bool} {k0 : State} (s : State) (port : Port) (d : RegDesc) (i base k : Nat) (hk : Keeps kb k0 s) :
    Keeps kb k0 (State.readLow s port d i base k) := by
  unfold State.readLow; try dsimp only
  repeat' first | intro _ | with_reducible assumption | with_reducible apply keeps_ite | with_reducible apply keeps_setLatch | with_reducible apply keeps_setRead | split | fail_if_no_progress (with_reducible apply keeps_mk <;> first | with_reducible exact rfl | with_reducible exact fun h => h | skip) | exact Nat.zero_le _ | dsimp only

theorem keeps_readHigh {kb : Bool} {k0 : State} (s : State) (port : Port) (d : RegDesc) (i base k : Nat) (hk : Keeps kb k0 s) :
    Keeps kb k0 (State.readHigh s port d i base k) := by
  unfold State.readHigh; try dsimp only
  repeat' first | intro _ | with_reducible assumption | with_reducible apply keeps_ite | with_reducible apply keeps_setRead | with_reducible apply keeps_setLatch | with_reducible apply keeps_rsetF | split | fail_if_no_progress (with_reducible apply keeps_mk <;> first | with_reducible exact rfl | with_reducible exact fun h => h | skip) | exact Nat.zero_le _ | dsimp only

theorem keeps_portRead {kb : Bool} {k0 : State} (s : State) (port : Port) (off : Nat) (hk : Keeps kb k0 s) :
    Keeps kb k0 (State.portRead s port off) := by
  unfold State.portRead; try dsimp only
  repeat' first | intro _ | with_reducible assumption | with_reducible apply keeps_ite | with_reducible apply keeps_readLow | with_reducible apply keeps_readHigh | with_reducible apply keeps_setRead | split | fail_if_no_progress (with_reducible apply keeps_mk <;> first | with_reducible exact rfl | with_reducible exact fun h => h | skip) | exact Nat.zero_le _ | dsimp only

theorem keepsO_execLowPartRead {kb : Bool} {k0 : State} (port : Port) (off : BitVec 18) (t : Time) (s : State) (hk : Keeps kb k0 s) :
    KeepsO kb k0 (execLowPartRead port off t s) := by
  unfold execLowPartRead; try dsimp only
  repeat' first | with_reducible apply keepsO_refused | intro _ | with_reducible assumption | with_reducible apply keepsO_ite | with_reducible apply keepsO_next | with_reducible apply keeps_ite | with_reducible apply keeps_adv | with_reducible apply keeps_readLow | with_reducible apply keeps_setRead | split | fail_if_no_progress (with_reducible apply keeps_mk <;> first | with_reducible exact rfl | with_reducible exact fun h => h | skip) | exact Nat.zero_le _ | dsimp only

theorem keepsO_execHighPartRead {kb : Bool} {k0 : State} (port : Port) (off : BitVec 18) (t : Time) (s : State) (hk : Keeps kb k0 s) :
    KeepsO kb k0 (execHighPartRead port off t s) := by
  unfold execHighPartRead; try dsimp only
  repeat' first | intro _ | with_reducible assumption | with_reducible apply keepsO_ite | with_reducible apply keepsO_next | with_reducible apply keeps_ite | with_reducible apply keeps_adv | with_reducible apply keeps_readHigh | split | fail_if_no_progress (with_reducible apply keeps_mk <;> first | with_reducible exact rfl | with_reducible exact fun h => h | skip) | exact Nat.zero_le _ | dsimp only

theorem keeps_writeTied {kb : Bool} {k0 : State} (s : State) (d : RegDesc) (i p : Nat) (v : Word) (hk : Keeps kb k0 s) :
    Keeps kb k0 (State.writeTied s d i p v) := by
  unfold State.writeTied; try dsimp only
  repeat' first | intro _ | with_reducible assumption | with_reducible apply keeps_ite | with_reducible apply keeps_writeReject | with_reducible apply keeps_writeWord | split | fail_if_no_progress (with_reducible apply keeps_mk <;> first | with_reducible exact rfl | with_reducible exact fun h => h | skip) | exact Nat.zero_le _ | dsimp only

theorem keeps_writeMsx {kb : Bool} {k0 : State} (s : State) (i : Nat) (v : Word) (hk : Keeps kb k0 s) :
    Keeps kb k0 (State.writeMsx s i v) := by
  unfold State.writeMsx; try dsimp only
  repeat' first | intro _ | with_reducible assumption | with_reducible apply keeps_ite | with_reducible apply keeps_rset | with_reducible apply keeps_msixPump | split | fail_if_no_progress (with_reducible apply keeps_mk <;> first | with_reducible exact rfl | with_reducible exact fun h => h | skip) | exact Nat.zero_le _ | dsimp only

theorem keeps_writeFp {kb : Bool} {k0 : State} (s : State) (d : RegDesc) (v : Word) (hk : Keeps kb k0 s) :
    Keeps kb k0 (State.writeFp s d v) := by
  unfold State.writeFp; try dsimp only
  repeat' first | intro _ | with_reducible assumption | with_reducible apply keeps_ite | with_reducible apply keeps_writeWord | split | fail_if_no_progress (with_reducible apply keeps_mk <;> first | with_reducible exact rfl | with_reducible exact fun h => h | skip) | exact Nat.zero_le _ | dsimp only

theorem keeps_writeStaged {kb : Bool} {k0 : State} (s : State) (d : RegDesc) (i : Nat) (v : Word) (edge : Bool) (hk : Keeps kb k0 s) :
    Keeps kb k0 (State.writeStaged s d i v edge) := by
  unfold State.writeStaged; try dsimp only
  repeat' first | intro _ | with_reducible assumption | with_reducible apply keeps_ite | with_reducible apply keeps_writeWord | split | fail_if_no_progress (with_reducible apply keeps_mk <;> first | with_reducible exact rfl | with_reducible exact fun h => h | skip) | exact Nat.zero_le _ | dsimp only

theorem keeps_writeMap {kb : Bool} {k0 : State} (s : State) (d : RegDesc) (i : Nat) (v : Word) (hk : Keeps kb k0 s) :
    Keeps kb k0 (State.writeMap s d i v) := by
  unfold State.writeMap; try dsimp only
  repeat' first | intro _ | with_reducible assumption | with_reducible apply keeps_ite | with_reducible apply keeps_writeWord | with_reducible apply keeps_closeChan | with_reducible apply keeps_modPair | split | fail_if_no_progress (with_reducible apply keeps_mk <;> first | with_reducible exact rfl | with_reducible exact fun h => h | skip) | exact Nat.zero_le _ | dsimp only

theorem keeps_writeTrc {kb : Bool} {k0 : State} (s : State) (d : RegDesc) (i : Nat) (v : Word) (hk : Keeps kb k0 s) :
    Keeps kb k0 (State.writeTrc s d i v) := by
  unfold State.writeTrc; try dsimp only
  repeat' first | intro _ | with_reducible assumption | with_reducible apply keeps_ite | with_reducible apply keeps_writeReject | with_reducible apply keeps_writeTied | split | fail_if_no_progress (with_reducible apply keeps_mk <;> first | with_reducible exact rfl | with_reducible exact fun h => h | skip) | exact Nat.zero_le _ | dsimp only

theorem keeps_writeWdCfg {kb : Bool} {k0 : State} (s : State) (v : Word) (t : Time) (hk : Keeps kb k0 s) :
    Keeps kb k0 (State.writeWdCfg s v t) := by
  unfold State.writeWdCfg; try dsimp only
  repeat' first | intro _ | with_reducible assumption | with_reducible apply keeps_ite | with_reducible apply keeps_writeWord | split | fail_if_no_progress (with_reducible apply keeps_mk <;> first | with_reducible exact rfl | with_reducible exact fun h => h | skip) | exact Nat.zero_le _ | dsimp only

theorem keeps_writeOtpCmd {kb : Bool} {k0 : State} (s : State) (v : Word) (hk : Keeps kb k0 s) :
    Keeps kb k0 (State.writeOtpCmd s v) := by
  unfold State.writeOtpCmd; try dsimp only
  repeat' first | intro _ | with_reducible assumption | with_reducible apply keeps_ite | with_reducible apply keeps_otpCmdRead | with_reducible apply keeps_otpCmdProgram | with_reducible apply keeps_writeReject | split | fail_if_no_progress (with_reducible apply keeps_mk <;> first | with_reducible exact rfl | with_reducible exact fun h => h | skip) | exact Nat.zero_le _ | dsimp only

theorem keeps_writePcieCtl {kb : Bool} {k0 : State} (s : State) (d : RegDesc) (v : Word) (hk : Keeps kb k0 s) :
    Keeps kb k0 (State.writePcieCtl s d v) := by
  unfold State.writePcieCtl; try dsimp only
  repeat' first | intro _ | with_reducible assumption | with_reducible apply keeps_ite | with_reducible apply keeps_writeWord | with_reducible apply keeps_pcieGo | with_reducible apply keeps_writeReject | split | fail_if_no_progress (with_reducible apply keeps_mk <;> first | with_reducible exact rfl | with_reducible exact fun h => h | skip) | exact Nat.zero_le _ | dsimp only

theorem keeps_writeReg {kb : Bool} {k0 : State} (s : State) (port : Port) (d : RegDesc) (i p : Nat) (v : Word) (t : Time) (hk : Keeps kb k0 s) :
    Keeps kb k0 (State.writeReg s port d i p v t) := by
  unfold State.writeReg; try dsimp only
  repeat' first | intro _ | with_reducible assumption | with_reducible apply keeps_ite | with_reducible apply keeps_writeWord | with_reducible apply keeps_bootGo | with_reducible apply keeps_softWrite | with_reducible apply keeps_writeFp | with_reducible apply keeps_wakeUp | with_reducible apply keeps_writeReject | with_reducible apply keeps_ringWrite | with_reducible apply keeps_writeMsx | with_reducible apply keeps_writeCalTag | with_reducible apply keeps_writeMap | with_reducible apply keeps_writeFactor | with_reducible apply keeps_reBound | with_reducible apply keeps_writeHk | with_reducible apply keeps_writeSlot | with_reducible apply keeps_writeWindow | with_reducible apply keeps_writeStaged | with_reducible apply keeps_writeTied | with_reducible apply keeps_retrip | with_reducible apply keeps_commitNow | with_reducible apply keeps_writeTrc | with_reducible apply keeps_writeOtpCmd | with_reducible apply keeps_writeGlkCmd | with_reducible apply keeps_writePcieCtl | with_reducible apply keeps_writeWdCfg | split | fail_if_no_progress (with_reducible apply keeps_mk <;> first | with_reducible exact rfl | with_reducible exact fun h => h | skip) | exact Nat.zero_le _ | dsimp only

theorem keeps_writeOff {kb : Bool} {k0 : State} (s : State) (port : Port) (off : Nat) (v : Word) (t : Time) (hk : Keeps kb k0 s) :
    Keeps kb k0 (State.writeOff s port off v t) := by
  unfold State.writeOff; try dsimp only
  repeat' first | intro _ | with_reducible assumption | with_reducible apply keeps_ite | with_reducible apply keeps_writeReg | split | fail_if_no_progress (with_reducible apply keeps_mk <;> first | with_reducible exact rfl | with_reducible exact fun h => h | skip) | exact Nat.zero_le _ | dsimp only

theorem keepsO_execRegisterWrite {kb : Bool} {k0 : State} (port : Port) (off : BitVec 18) (v : BitVec 64) (wide full : Bool) (t : Time) (s : State) (hk : Keeps kb k0 s) :
    KeepsO kb k0 (execRegisterWrite port off v wide full t s) := by
  unfold execRegisterWrite; try dsimp only
  repeat' first | with_reducible apply keepsO_refused | intro _ | with_reducible assumption | with_reducible apply keepsO_ite | with_reducible apply keepsO_next | with_reducible apply keeps_ite | with_reducible apply keeps_adv | with_reducible apply keeps_writeReject | with_reducible apply keeps_writeOff | split | fail_if_no_progress (with_reducible apply keeps_mk <;> first | with_reducible exact rfl | with_reducible exact fun h => h | skip) | exact Nat.zero_le _ | dsimp only

theorem keepsO_execHealthClear {kb : Bool} {k0 : State} (v : Word) (t : Time) (s : State) (hk : Keeps kb k0 s) :
    KeepsO kb k0 (execHealthClear v t s) := by
  unfold execHealthClear; try dsimp only
  repeat' first | intro _ | with_reducible assumption | with_reducible apply keepsO_ite | with_reducible apply keepsO_next | with_reducible apply keeps_ite | with_reducible apply keepsO_onRegs | with_reducible apply keeps_writeWord | split | fail_if_no_progress (with_reducible apply keeps_mk <;> first | with_reducible exact rfl | with_reducible exact fun h => h | skip) | exact Nat.zero_le _ | dsimp only

end Sys2Proof.Machine
end

