-- ==== Sys2Proof/Laws/KeepsService.lean ====
section
/-! SUPPORT. Laws/KeepsService.lean: what each operation of Service.lean keeps. -/
namespace Sys2Proof.Machine

set_option linter.all false

theorem keeps_frameEnd {kb : Bool} {k0 : State} (s : State) (err : Bool) (data : BitVec 16) (hk : Keeps kb k0 s) :
    Keeps kb k0 (State.frameEnd s err data) := by
  unfold State.frameEnd; try dsimp only
  repeat' first | intro _ | with_reducible assumption | with_reducible apply keeps_ite | with_reducible apply keeps_rsetF | split | fail_if_no_progress (with_reducible apply keeps_mk <;> first | with_reducible exact rfl | with_reducible exact fun h => h | skip) | exact Nat.zero_le _ | dsimp only

theorem keeps_frameStart {kb : Bool} {k0 : State} (s : State) (mosi : BitVec 16) (t : Time) (hk : Keeps kb k0 s) :
    Keeps kb k0 (State.frameStart s mosi t).1 := by
  unfold State.frameStart; try dsimp only
  repeat' first | intro _ | with_reducible assumption | with_reducible apply keeps_ite | with_reducible apply keeps_adv | with_reducible apply keeps_wakeUp | with_reducible apply keeps_frameEnd | with_reducible apply keeps_modLink | split | fail_if_no_progress (with_reducible apply keeps_mk <;> first | with_reducible exact rfl | with_reducible exact fun h => h | skip) | exact Nat.zero_le _ | dsimp only

theorem keepsO_execServiceReadFrame {kb : Bool} {k0 : State} (index : BitVec 15) (data : BitVec 16) (t : Time) (s : State) (hk : Keeps kb k0 s) :
    KeepsO kb k0 (execServiceReadFrame index data t s) := by
  unfold execServiceReadFrame; try dsimp only
  repeat' first | with_reducible apply keepsO_refused | intro _ | with_reducible assumption | with_reducible apply keepsO_ite | with_reducible apply keepsO_next | with_reducible apply keeps_ite | with_reducible apply keeps_frameStart | with_reducible apply keeps_frameEnd | with_reducible apply keeps_portRead | split | fail_if_no_progress (with_reducible apply keeps_mk <;> first | with_reducible exact rfl | with_reducible exact fun h => h | skip) | exact Nat.zero_le _ | dsimp only

theorem keeps_svcSafe {kb : Bool} {k0 : State} (s : State) (v : Word) (t : Time) (hk : Keeps kb k0 s) :
    Keeps kb k0 (State.svcSafe s v t).1 := by
  unfold State.svcSafe; try dsimp only
  repeat' first | intro _ | with_reducible assumption | with_reducible apply keeps_ite | with_reducible apply keeps_askSafe | split | fail_if_no_progress (with_reducible apply keeps_mk <;> first | with_reducible exact rfl | with_reducible exact fun h => h | skip) | exact Nat.zero_le _ | dsimp only

theorem keeps_rollWd {kb : Bool} {k0 : State} (s : State) (t : Time) (hk : Keeps kb k0 s) :
    Keeps kb k0 (State.rollWd s t) := by
  unfold State.rollWd; try dsimp only
  repeat' first | intro _ | with_reducible assumption | with_reducible apply keeps_ite | split | fail_if_no_progress (with_reducible apply keeps_mk <;> first | with_reducible exact rfl | with_reducible exact fun h => h | skip) | exact Nat.zero_le _ | dsimp only

theorem keeps_svcKick {kb : Bool} {k0 : State} (s : State) (v : BitVec 8) (t : Time) (hk : Keeps kb k0 s) :
    Keeps kb k0 (State.svcKick s v t) := by
  unfold State.svcKick; try dsimp only
  repeat' first | intro _ | with_reducible assumption | with_reducible apply keeps_ite | with_reducible apply keeps_rollWd | split | fail_if_no_progress (with_reducible apply keeps_mk <;> first | with_reducible exact rfl | with_reducible exact fun h => h | skip) | exact Nat.zero_le _ | dsimp only

theorem keeps_svcWrite {kb : Bool} {k0 : State} (s : State) (o : Nat) (v : Word) (t : Time) (hk : Keeps kb k0 s) :
    Keeps kb k0 (State.svcWrite s o v t).1 := by
  unfold State.svcWrite; try dsimp only
  repeat' first | intro _ | with_reducible assumption | with_reducible apply keeps_ite | with_reducible apply keeps_writeWord | with_reducible apply keeps_writeWdCfg | with_reducible apply keeps_svcKick | with_reducible apply keeps_svcSafe | with_reducible apply keeps_svcAttest | split | fail_if_no_progress (with_reducible apply keeps_mk <;> first | with_reducible exact rfl | with_reducible exact fun h => h | skip) | exact Nat.zero_le _ | dsimp only

theorem keeps_svcNonce {kb : Bool} {k0 : State} (s : State) (h : Nat) (v : BitVec 16) (hk : Keeps kb k0 s) :
    Keeps kb k0 (State.svcNonce s h v) := by
  unfold State.svcNonce; try dsimp only
  repeat' first | intro _ | with_reducible assumption | with_reducible apply keeps_ite | split | fail_if_no_progress (with_reducible apply keeps_mk <;> first | with_reducible exact rfl | with_reducible exact fun h => h | skip) | exact Nat.zero_le _ | dsimp only

theorem keeps_writeFrame {kb : Bool} {k0 : State} (s : State) (o : Nat) (v : BitVec 16) (t : Time) (hk : Keeps kb k0 s) :
    Keeps kb k0 (State.writeFrame s o v t) := by
  unfold State.writeFrame; try dsimp only
  repeat' first | intro _ | with_reducible assumption | with_reducible apply keeps_ite | with_reducible apply keeps_frameStart | with_reducible apply keeps_svcNonce | with_reducible apply keeps_frameEnd | with_reducible apply keeps_svcWrite | split | fail_if_no_progress (with_reducible apply keeps_mk <;> first | with_reducible exact rfl | with_reducible exact fun h => h | skip) | exact Nat.zero_le _ | dsimp only

theorem keepsO_execServiceWriteFrame {kb : Bool} {k0 : State} (index : BitVec 15) (data : BitVec 16) (t : Time) (s : State) (hk : Keeps kb k0 s) :
    KeepsO kb k0 (execServiceWriteFrame index data t s) := by
  unfold execServiceWriteFrame; try dsimp only
  repeat' first | intro _ | with_reducible assumption | with_reducible apply keepsO_ite | with_reducible apply keepsO_next | with_reducible apply keeps_ite | with_reducible apply keeps_writeFrame | split | fail_if_no_progress (with_reducible apply keeps_mk <;> first | with_reducible exact rfl | with_reducible exact fun h => h | skip) | exact Nat.zero_le _ | dsimp only

theorem keepsO_execServiceFrameError {kb : Bool} {k0 : State} (clocks : Nat) (t : Time) (s : State) (hk : Keeps kb k0 s) :
    KeepsO kb k0 (execServiceFrameError clocks t s) := by
  unfold execServiceFrameError; try dsimp only
  repeat' first | intro _ | with_reducible assumption | with_reducible apply keepsO_ite | with_reducible apply keepsO_next | with_reducible apply keeps_ite | with_reducible apply keeps_adv | with_reducible apply keeps_modLink | with_reducible apply keeps_frameEnd | split | fail_if_no_progress (with_reducible apply keeps_mk <;> first | with_reducible exact rfl | with_reducible exact fun h => h | skip) | exact Nat.zero_le _ | dsimp only

theorem keepsO_execSvcSafe {kb : Bool} {k0 : State} (v : BitVec 16) (t : Time) (s : State) (hk : Keeps kb k0 s) :
    KeepsO kb k0 (execSvcSafe v t s) := by
  unfold execSvcSafe; try dsimp only
  repeat' first | intro _ | with_reducible assumption | with_reducible apply keepsO_ite | with_reducible apply keepsO_next | with_reducible apply keeps_ite | with_reducible apply keeps_writeFrame | split | fail_if_no_progress (with_reducible apply keeps_mk <;> first | with_reducible exact rfl | with_reducible exact fun h => h | skip) | exact Nat.zero_le _ | dsimp only

theorem keepsO_execSvcWdEnable {kb : Bool} {k0 : State} (v : BitVec 16) (t : Time) (s : State) (hk : Keeps kb k0 s) :
    KeepsO kb k0 (execSvcWdEnable v t s) := by
  unfold execSvcWdEnable; try dsimp only
  repeat' first | intro _ | with_reducible assumption | with_reducible apply keepsO_ite | with_reducible apply keepsO_next | with_reducible apply keeps_ite | with_reducible apply keeps_writeFrame | split | fail_if_no_progress (with_reducible apply keeps_mk <;> first | with_reducible exact rfl | with_reducible exact fun h => h | skip) | exact Nat.zero_le _ | dsimp only

theorem keepsO_execSvcWdKick {kb : Bool} {k0 : State} (v : BitVec 16) (t : Time) (s : State) (hk : Keeps kb k0 s) :
    KeepsO kb k0 (execSvcWdKick v t s) := by
  unfold execSvcWdKick; try dsimp only
  repeat' first | intro _ | with_reducible assumption | with_reducible apply keepsO_ite | with_reducible apply keepsO_next | with_reducible apply keeps_ite | with_reducible apply keeps_writeFrame | split | fail_if_no_progress (with_reducible apply keeps_mk <;> first | with_reducible exact rfl | with_reducible exact fun h => h | skip) | exact Nat.zero_le _ | dsimp only

theorem keepsO_execSvcAttestGo {kb : Bool} {k0 : State} (t : Time) (s : State) (hk : Keeps kb k0 s) :
    KeepsO kb k0 (execSvcAttestGo t s) := by
  unfold execSvcAttestGo; try dsimp only
  repeat' first | intro _ | with_reducible assumption | with_reducible apply keepsO_ite | with_reducible apply keepsO_next | with_reducible apply keeps_ite | with_reducible apply keeps_writeFrame | split | fail_if_no_progress (with_reducible apply keeps_mk <;> first | with_reducible exact rfl | with_reducible exact fun h => h | skip) | exact Nat.zero_le _ | dsimp only

theorem keepsO_execWdiEdge {kb : Bool} {k0 : State} (t : Time) (s : State) (hk : Keeps kb k0 s) :
    KeepsO kb k0 (execWdiEdge t s) := by
  unfold execWdiEdge; try dsimp only
  repeat' first | intro _ | with_reducible assumption | with_reducible apply keepsO_ite | with_reducible apply keepsO_next | with_reducible apply keeps_ite | with_reducible apply keeps_adv | with_reducible apply keeps_rollWd | split | fail_if_no_progress (with_reducible apply keeps_mk <;> first | with_reducible exact rfl | with_reducible exact fun h => h | skip) | exact Nat.zero_le _ | dsimp only

theorem keepsO_execServiceWatchdogExpiry {kb : Bool} {k0 : State} (t : Time) (s : State) (hk : Keeps kb k0 s) :
    KeepsO kb k0 (execServiceWatchdogExpiry t s) := by
  unfold execServiceWatchdogExpiry; try dsimp only
  repeat' first | intro _ | with_reducible assumption | with_reducible apply keepsO_ite | with_reducible apply keepsO_next | with_reducible apply keeps_ite | with_reducible apply keeps_adv | with_reducible apply keeps_rollWd | with_reducible apply keeps_rsetF | with_reducible apply keeps_askSafe | split | fail_if_no_progress (with_reducible apply keeps_mk <;> first | with_reducible exact rfl | with_reducible exact fun h => h | skip) | exact Nat.zero_le _ | dsimp only

end Sys2Proof.Machine
end

