-- ==== Sys2Proof/Laws/PerInstr.lean ====
section
/-! SUPPORT. Laws/PerInstr.lean: per command, the OPC it carries is one of Table 12.6, unless it is BAD_OPCODE. -/

/-- A well-formed command's OPC is an opcode of Table 12.6 exactly when the command is not BAD_OPCODE. -/
def Sys2Proof.Laws.Opcode.Statement (i : Sys2Proof.Instr) : Prop :=
  i.wf = true → ∀ o, i.opcode = some o → (Sys2Proof.Instr.defined.contains o = true ↔ ∀ q p, i ≠ .badOpcode q p)

theorem Sys2Proof.Laws.Opcode.nop (q) : Sys2Proof.Laws.Opcode.Statement (.nop q) := by
  intro _ o e; cases e; exact ⟨fun _ _ _ => nofun, fun _ => rfl⟩
theorem Sys2Proof.Laws.Opcode.badOpcode (q) (opc) : Sys2Proof.Laws.Opcode.Statement (.badOpcode q opc) := by
  intro h o e; simp_all [Sys2Proof.Instr.wf, Sys2Proof.Instr.opcode]
theorem Sys2Proof.Laws.Opcode.fence (q) : Sys2Proof.Laws.Opcode.Statement (.fence q) := by
  intro _ o e; cases e; exact ⟨fun _ _ _ => nofun, fun _ => rfl⟩
theorem Sys2Proof.Laws.Opcode.suspend (q) : Sys2Proof.Laws.Opcode.Statement (.suspend q) := by
  intro _ o e; cases e; exact ⟨fun _ _ _ => nofun, fun _ => rfl⟩
theorem Sys2Proof.Laws.Opcode.resume (q) : Sys2Proof.Laws.Opcode.Statement (.resume q) := by
  intro _ o e; cases e; exact ⟨fun _ _ _ => nofun, fun _ => rfl⟩
theorem Sys2Proof.Laws.Opcode.cancel (q) : Sys2Proof.Laws.Opcode.Statement (.cancel q) := by
  intro _ o e; cases e; exact ⟨fun _ _ _ => nofun, fun _ => rfl⟩
theorem Sys2Proof.Laws.Opcode.nodeRead (q) : Sys2Proof.Laws.Opcode.Statement (.nodeRead q) := by
  intro _ o e; cases e; exact ⟨fun _ _ _ => nofun, fun _ => rfl⟩
theorem Sys2Proof.Laws.Opcode.nodeWrite (q) : Sys2Proof.Laws.Opcode.Statement (.nodeWrite q) := by
  intro _ o e; cases e; exact ⟨fun _ _ _ => nofun, fun _ => rfl⟩
theorem Sys2Proof.Laws.Opcode.nodeBlockLoad (q) : Sys2Proof.Laws.Opcode.Statement (.nodeBlockLoad q) := by
  intro _ o e; cases e; exact ⟨fun _ _ _ => nofun, fun _ => rfl⟩
theorem Sys2Proof.Laws.Opcode.nodeBlockStore (q) : Sys2Proof.Laws.Opcode.Statement (.nodeBlockStore q) := by
  intro _ o e; cases e; exact ⟨fun _ _ _ => nofun, fun _ => rfl⟩
theorem Sys2Proof.Laws.Opcode.blockChunkDone (slot) (data) (t) : Sys2Proof.Laws.Opcode.Statement (.blockChunkDone slot data t) := by
  intro _ o e; cases e
theorem Sys2Proof.Laws.Opcode.bankSwap (q) : Sys2Proof.Laws.Opcode.Statement (.bankSwap q) := by
  intro _ o e; cases e; exact ⟨fun _ _ _ => nofun, fun _ => rfl⟩
theorem Sys2Proof.Laws.Opcode.bankSwapped  : Sys2Proof.Laws.Opcode.Statement (.bankSwapped) := by
  intro _ o e; cases e
theorem Sys2Proof.Laws.Opcode.setpoint (q) : Sys2Proof.Laws.Opcode.Statement (.setpoint q) := by
  intro _ o e; cases e; exact ⟨fun _ _ _ => nofun, fun _ => rfl⟩
theorem Sys2Proof.Laws.Opcode.modeSelect (q) : Sys2Proof.Laws.Opcode.Statement (.modeSelect q) := by
  intro _ o e; cases e; exact ⟨fun _ _ _ => nofun, fun _ => rfl⟩
theorem Sys2Proof.Laws.Opcode.modeSelectJudged  : Sys2Proof.Laws.Opcode.Statement (.modeSelectJudged) := by
  intro _ o e; cases e
theorem Sys2Proof.Laws.Opcode.driveStart (q) : Sys2Proof.Laws.Opcode.Statement (.driveStart q) := by
  intro _ o e; cases e; exact ⟨fun _ _ _ => nofun, fun _ => rfl⟩
theorem Sys2Proof.Laws.Opcode.driveStartActs  : Sys2Proof.Laws.Opcode.Statement (.driveStartActs) := by
  intro _ o e; cases e
theorem Sys2Proof.Laws.Opcode.driveStop (q) : Sys2Proof.Laws.Opcode.Statement (.driveStop q) := by
  intro _ o e; cases e; exact ⟨fun _ _ _ => nofun, fun _ => rfl⟩
theorem Sys2Proof.Laws.Opcode.driveStopActs  : Sys2Proof.Laws.Opcode.Statement (.driveStopActs) := by
  intro _ o e; cases e
theorem Sys2Proof.Laws.Opcode.reverse (q) : Sys2Proof.Laws.Opcode.Statement (.reverse q) := by
  intro _ o e; cases e; exact ⟨fun _ _ _ => nofun, fun _ => rfl⟩
theorem Sys2Proof.Laws.Opcode.reverseJudged  : Sys2Proof.Laws.Opcode.Statement (.reverseJudged) := by
  intro _ o e; cases e
theorem Sys2Proof.Laws.Opcode.safeState (q) : Sys2Proof.Laws.Opcode.Statement (.safeState q) := by
  intro _ o e; cases e; exact ⟨fun _ _ _ => nofun, fun _ => rfl⟩
theorem Sys2Proof.Laws.Opcode.safeApplied  : Sys2Proof.Laws.Opcode.Statement (.safeApplied) := by
  intro _ o e; cases e
theorem Sys2Proof.Laws.Opcode.faultClear (q) : Sys2Proof.Laws.Opcode.Statement (.faultClear q) := by
  intro _ o e; cases e; exact ⟨fun _ _ _ => nofun, fun _ => rfl⟩
theorem Sys2Proof.Laws.Opcode.faultCleared  : Sys2Proof.Laws.Opcode.Statement (.faultCleared) := by
  intro _ o e; cases e
theorem Sys2Proof.Laws.Opcode.pgDirect (q) : Sys2Proof.Laws.Opcode.Statement (.pgDirect q) := by
  intro _ o e; cases e; exact ⟨fun _ _ _ => nofun, fun _ => rfl⟩
theorem Sys2Proof.Laws.Opcode.directEnter  : Sys2Proof.Laws.Opcode.Statement (.directEnter) := by
  intro _ o e; cases e
theorem Sys2Proof.Laws.Opcode.directLeave  : Sys2Proof.Laws.Opcode.Statement (.directLeave) := by
  intro _ o e; cases e
theorem Sys2Proof.Laws.Opcode.directBoundary  : Sys2Proof.Laws.Opcode.Statement (.directBoundary) := by
  intro _ o e; cases e
theorem Sys2Proof.Laws.Opcode.commit (t) : Sys2Proof.Laws.Opcode.Statement (.commit t) := by
  intro _ o e; cases e
theorem Sys2Proof.Laws.Opcode.adcCalibrate (q) : Sys2Proof.Laws.Opcode.Statement (.adcCalibrate q) := by
  intro _ o e; cases e; exact ⟨fun _ _ _ => nofun, fun _ => rfl⟩
theorem Sys2Proof.Laws.Opcode.calPhaseEnd (vals) (t) : Sys2Proof.Laws.Opcode.Statement (.calPhaseEnd vals t) := by
  intro _ o e; cases e
theorem Sys2Proof.Laws.Opcode.resumeLimitExpiry (slot) (t) : Sys2Proof.Laws.Opcode.Statement (.resumeLimitExpiry slot t) := by
  intro _ o e; cases e
theorem Sys2Proof.Laws.Opcode.adcUrgent (q) : Sys2Proof.Laws.Opcode.Statement (.adcUrgent q) := by
  intro _ o e; cases e; exact ⟨fun _ _ _ => nofun, fun _ => rfl⟩
theorem Sys2Proof.Laws.Opcode.traceArm (q) : Sys2Proof.Laws.Opcode.Statement (.traceArm q) := by
  intro _ o e; cases e; exact ⟨fun _ _ _ => nofun, fun _ => rfl⟩
theorem Sys2Proof.Laws.Opcode.traceArmed  : Sys2Proof.Laws.Opcode.Statement (.traceArmed) := by
  intro _ o e; cases e
theorem Sys2Proof.Laws.Opcode.traceStop (q) : Sys2Proof.Laws.Opcode.Statement (.traceStop q) := by
  intro _ o e; cases e; exact ⟨fun _ _ _ => nofun, fun _ => rfl⟩
theorem Sys2Proof.Laws.Opcode.stopped  : Sys2Proof.Laws.Opcode.Statement (.stopped) := by
  intro _ o e; cases e
theorem Sys2Proof.Laws.Opcode.otpProgram (q) (data) : Sys2Proof.Laws.Opcode.Statement (.otpProgram q data) := by
  intro _ o e; cases e; exact ⟨fun _ _ _ => nofun, fun _ => rfl⟩
theorem Sys2Proof.Laws.Opcode.otpBurnRound (normal) (margin) (t) : Sys2Proof.Laws.Opcode.Statement (.otpBurnRound normal margin t) := by
  intro _ o e; cases e
theorem Sys2Proof.Laws.Opcode.otpLock (q) : Sys2Proof.Laws.Opcode.Statement (.otpLock q) := by
  intro _ o e; cases e; exact ⟨fun _ _ _ => nofun, fun _ => rfl⟩
theorem Sys2Proof.Laws.Opcode.otpMarginScan (q) : Sys2Proof.Laws.Opcode.Statement (.otpMarginScan q) := by
  intro _ o e; cases e; exact ⟨fun _ _ _ => nofun, fun _ => rfl⟩
theorem Sys2Proof.Laws.Opcode.scanRegionDone (t) : Sys2Proof.Laws.Opcode.Statement (.scanRegionDone t) := by
  intro _ o e; cases e
theorem Sys2Proof.Laws.Opcode.lifecycleAdvance (q) : Sys2Proof.Laws.Opcode.Statement (.lifecycleAdvance q) := by
  intro _ o e; cases e; exact ⟨fun _ _ _ => nofun, fun _ => rfl⟩
theorem Sys2Proof.Laws.Opcode.otpCmdRead (t) : Sys2Proof.Laws.Opcode.Statement (.otpCmdRead t) := by
  intro _ o e; cases e
theorem Sys2Proof.Laws.Opcode.otpCmdMargin (t) : Sys2Proof.Laws.Opcode.Statement (.otpCmdMargin t) := by
  intro _ o e; cases e
theorem Sys2Proof.Laws.Opcode.otpCmdProgram (t) : Sys2Proof.Laws.Opcode.Statement (.otpCmdProgram t) := by
  intro _ o e; cases e
theorem Sys2Proof.Laws.Opcode.gleanerScanDue (t) : Sys2Proof.Laws.Opcode.Statement (.gleanerScanDue t) := by
  intro _ o e; cases e
theorem Sys2Proof.Laws.Opcode.attest (q) (nonce) : Sys2Proof.Laws.Opcode.Statement (.attest q nonce) := by
  intro _ o e; cases e; exact ⟨fun _ _ _ => nofun, fun _ => rfl⟩
theorem Sys2Proof.Laws.Opcode.attestReportDone (t) : Sys2Proof.Laws.Opcode.Statement (.attestReportDone t) := by
  intro _ o e; cases e
theorem Sys2Proof.Laws.Opcode.selfTest (q) : Sys2Proof.Laws.Opcode.Statement (.selfTest q) := by
  intro _ o e; cases e; exact ⟨fun _ _ _ => nofun, fun _ => rfl⟩
theorem Sys2Proof.Laws.Opcode.selfTestBlockDone (conv) (win) (chan) (t) : Sys2Proof.Laws.Opcode.Statement (.selfTestBlockDone conv win chan t) := by
  intro _ o e; cases e
theorem Sys2Proof.Laws.Opcode.linkTest (q) : Sys2Proof.Laws.Opcode.Statement (.linkTest q) := by
  intro _ o e; cases e; exact ⟨fun _ _ _ => nofun, fun _ => rfl⟩
theorem Sys2Proof.Laws.Opcode.linkTestDone (link) (errs) (hdrBad) (digestOk) (t) : Sys2Proof.Laws.Opcode.Statement (.linkTestDone link errs hdrBad digestOk t) := by
  intro _ o e; cases e
theorem Sys2Proof.Laws.Opcode.checkerLocked (link) (t) : Sys2Proof.Laws.Opcode.Statement (.checkerLocked link t) := by
  intro _ o e; cases e
theorem Sys2Proof.Laws.Opcode.checkerLockLost (link) (errs) (t) : Sys2Proof.Laws.Opcode.Statement (.checkerLockLost link errs t) := by
  intro _ o e; cases e
theorem Sys2Proof.Laws.Opcode.pcieLoopbackGo (t) : Sys2Proof.Laws.Opcode.Statement (.pcieLoopbackGo t) := by
  intro _ o e; cases e
theorem Sys2Proof.Laws.Opcode.pcieLoopbackDone (errs) : Sys2Proof.Laws.Opcode.Statement (.pcieLoopbackDone errs) := by
  intro _ o e; cases e
theorem Sys2Proof.Laws.Opcode.pairHandover (q) : Sys2Proof.Laws.Opcode.Statement (.pairHandover q) := by
  intro _ o e; cases e; exact ⟨fun _ _ _ => nofun, fun _ => rfl⟩
theorem Sys2Proof.Laws.Opcode.handoverReplyDeadline  : Sys2Proof.Laws.Opcode.Statement (.handoverReplyDeadline) := by
  intro _ o e; cases e
theorem Sys2Proof.Laws.Opcode.handoverClaimRelease  : Sys2Proof.Laws.Opcode.Statement (.handoverClaimRelease) := by
  intro _ o e; cases e
theorem Sys2Proof.Laws.Opcode.handoverDone  : Sys2Proof.Laws.Opcode.Statement (.handoverDone) := by
  intro _ o e; cases e
theorem Sys2Proof.Laws.Opcode.pairRejoin (q) : Sys2Proof.Laws.Opcode.Statement (.pairRejoin q) := by
  intro _ o e; cases e; exact ⟨fun _ _ _ => nofun, fun _ => rfl⟩
theorem Sys2Proof.Laws.Opcode.rejoinPhaseEnd (t) : Sys2Proof.Laws.Opcode.Statement (.rejoinPhaseEnd t) := by
  intro _ o e; cases e
theorem Sys2Proof.Laws.Opcode.rejoinPhaseTimeout  : Sys2Proof.Laws.Opcode.Statement (.rejoinPhaseTimeout) := by
  intro _ o e; cases e
theorem Sys2Proof.Laws.Opcode.powerState (q) : Sys2Proof.Laws.Opcode.Statement (.powerState q) := by
  intro _ o e; cases e; exact ⟨fun _ _ _ => nofun, fun _ => rfl⟩
theorem Sys2Proof.Laws.Opcode.powerChanged  : Sys2Proof.Laws.Opcode.Statement (.powerChanged) := by
  intro _ o e; cases e
theorem Sys2Proof.Laws.Opcode.powerTransitDone (t) : Sys2Proof.Laws.Opcode.Statement (.powerTransitDone t) := by
  intro _ o e; cases e
theorem Sys2Proof.Laws.Opcode.deepEntry (t) : Sys2Proof.Laws.Opcode.Statement (.deepEntry t) := by
  intro _ o e; cases e
theorem Sys2Proof.Laws.Opcode.wake (t) : Sys2Proof.Laws.Opcode.Statement (.wake t) := by
  intro _ o e; cases e
theorem Sys2Proof.Laws.Opcode.wakeTimerExpiry (t) : Sys2Proof.Laws.Opcode.Statement (.wakeTimerExpiry t) := by
  intro _ o e; cases e
theorem Sys2Proof.Laws.Opcode.cqTailDoorbell (n) (v) (t) : Sys2Proof.Laws.Opcode.Statement (.cqTailDoorbell n v t) := by
  intro _ o e; cases e
theorem Sys2Proof.Laws.Opcode.headDoorbell (i) (v) (t) : Sys2Proof.Laws.Opcode.Statement (.headDoorbell i v t) := by
  intro _ o e; cases e
theorem Sys2Proof.Laws.Opcode.commandFetchFail (n) (cause) (t) : Sys2Proof.Laws.Opcode.Statement (.commandFetchFail n cause t) := by
  intro _ o e; cases e
theorem Sys2Proof.Laws.Opcode.ringEnable (i) (v) (t) : Sys2Proof.Laws.Opcode.Statement (.ringEnable i v t) := by
  intro _ o e; cases e
theorem Sys2Proof.Laws.Opcode.ringDisable (i) (v) (t) : Sys2Proof.Laws.Opcode.Statement (.ringDisable i v t) := by
  intro _ o e; cases e
theorem Sys2Proof.Laws.Opcode.ringReset (i) (v) (t) : Sys2Proof.Laws.Opcode.Statement (.ringReset i v t) := by
  intro _ o e; cases e
theorem Sys2Proof.Laws.Opcode.eventDrain (t) : Sys2Proof.Laws.Opcode.Statement (.eventDrain t) := by
  intro _ o e; cases e
theorem Sys2Proof.Laws.Opcode.fenceMark (n) (t) : Sys2Proof.Laws.Opcode.Statement (.fenceMark n t) := by
  intro _ o e; cases e
theorem Sys2Proof.Laws.Opcode.moderationTimer (i) (t) : Sys2Proof.Laws.Opcode.Statement (.moderationTimer i t) := by
  intro _ o e; cases e
theorem Sys2Proof.Laws.Opcode.pciePowerState (d3hot) (t) : Sys2Proof.Laws.Opcode.Statement (.pciePowerState d3hot t) := by
  intro _ o e; cases e
theorem Sys2Proof.Laws.Opcode.linkSpeedChange (gen) (t) : Sys2Proof.Laws.Opcode.Statement (.linkSpeedChange gen t) := by
  intro _ o e; cases e
theorem Sys2Proof.Laws.Opcode.linkDown (t) : Sys2Proof.Laws.Opcode.Statement (.linkDown t) := by
  intro _ o e; cases e
theorem Sys2Proof.Laws.Opcode.streamSlotWrite (slot) (v) (t) : Sys2Proof.Laws.Opcode.Statement (.streamSlotWrite slot v t) := by
  intro _ o e; cases e
theorem Sys2Proof.Laws.Opcode.lowPartRead (port) (off) (t) : Sys2Proof.Laws.Opcode.Statement (.lowPartRead port off t) := by
  intro _ o e; cases e
theorem Sys2Proof.Laws.Opcode.highPartRead (port) (off) (t) : Sys2Proof.Laws.Opcode.Statement (.highPartRead port off t) := by
  intro _ o e; cases e
theorem Sys2Proof.Laws.Opcode.registerWrite (port) (off) (v) (wide) (full) (t) : Sys2Proof.Laws.Opcode.Statement (.registerWrite port off v wide full t) := by
  intro _ o e; cases e
theorem Sys2Proof.Laws.Opcode.healthClear (v) (t) : Sys2Proof.Laws.Opcode.Statement (.healthClear v t) := by
  intro _ o e; cases e
theorem Sys2Proof.Laws.Opcode.calTagWrite (v) (t) : Sys2Proof.Laws.Opcode.Statement (.calTagWrite v t) := by
  intro _ o e; cases e
theorem Sys2Proof.Laws.Opcode.calFactorWrite (f) (v) (t) : Sys2Proof.Laws.Opcode.Statement (.calFactorWrite f v t) := by
  intro _ o e; cases e
theorem Sys2Proof.Laws.Opcode.windowConfigWrite (n) (v) (t) : Sys2Proof.Laws.Opcode.Statement (.windowConfigWrite n v t) := by
  intro _ o e; cases e
theorem Sys2Proof.Laws.Opcode.glkCmdGo (g) (v) (t) : Sys2Proof.Laws.Opcode.Statement (.glkCmdGo g v t) := by
  intro _ o e; cases e
theorem Sys2Proof.Laws.Opcode.cmdFail (g) : Sys2Proof.Laws.Opcode.Statement (.cmdFail g) := by
  intro _ o e; cases e
theorem Sys2Proof.Laws.Opcode.bootGo (t) : Sys2Proof.Laws.Opcode.Statement (.bootGo t) := by
  intro _ o e; cases e
theorem Sys2Proof.Laws.Opcode.firmwareWindowWrite (off) (v) (t) : Sys2Proof.Laws.Opcode.Statement (.firmwareWindowWrite off v t) := by
  intro _ o e; cases e
theorem Sys2Proof.Laws.Opcode.qspiImageRead (first) (second) (t) : Sys2Proof.Laws.Opcode.Statement (.qspiImageRead first second t) := by
  intro _ o e; cases e
theorem Sys2Proof.Laws.Opcode.firmwareRunning (t) : Sys2Proof.Laws.Opcode.Statement (.firmwareRunning t) := by
  intro _ o e; cases e
theorem Sys2Proof.Laws.Opcode.serviceReadFrame (index) (data) (t) : Sys2Proof.Laws.Opcode.Statement (.serviceReadFrame index data t) := by
  intro _ o e; cases e
theorem Sys2Proof.Laws.Opcode.serviceWriteFrame (index) (data) (t) : Sys2Proof.Laws.Opcode.Statement (.serviceWriteFrame index data t) := by
  intro _ o e; cases e
theorem Sys2Proof.Laws.Opcode.serviceFrameError (clocks) (t) : Sys2Proof.Laws.Opcode.Statement (.serviceFrameError clocks t) := by
  intro _ o e; cases e
theorem Sys2Proof.Laws.Opcode.svcSafe (v) (t) : Sys2Proof.Laws.Opcode.Statement (.svcSafe v t) := by
  intro _ o e; cases e
theorem Sys2Proof.Laws.Opcode.svcWdEnable (v) (t) : Sys2Proof.Laws.Opcode.Statement (.svcWdEnable v t) := by
  intro _ o e; cases e
theorem Sys2Proof.Laws.Opcode.svcWdKick (v) (t) : Sys2Proof.Laws.Opcode.Statement (.svcWdKick v t) := by
  intro _ o e; cases e
theorem Sys2Proof.Laws.Opcode.wdiEdge (t) : Sys2Proof.Laws.Opcode.Statement (.wdiEdge t) := by
  intro _ o e; cases e
theorem Sys2Proof.Laws.Opcode.serviceWatchdogExpiry (t) : Sys2Proof.Laws.Opcode.Statement (.serviceWatchdogExpiry t) := by
  intro _ o e; cases e
theorem Sys2Proof.Laws.Opcode.svcAttestGo (t) : Sys2Proof.Laws.Opcode.Statement (.svcAttestGo t) := by
  intro _ o e; cases e
theorem Sys2Proof.Laws.Opcode.por (t) : Sys2Proof.Laws.Opcode.Statement (.por t) := by
  intro _ o e; cases e
theorem Sys2Proof.Laws.Opcode.bor (rails) (t) : Sys2Proof.Laws.Opcode.Statement (.bor rails t) := by
  intro _ o e; cases e
theorem Sys2Proof.Laws.Opcode.pinReset (t) : Sys2Proof.Laws.Opcode.Statement (.pinReset t) := by
  intro _ o e; cases e
theorem Sys2Proof.Laws.Opcode.softReset (port) (key) (t) : Sys2Proof.Laws.Opcode.Statement (.softReset port key t) := by
  intro _ o e; cases e
theorem Sys2Proof.Laws.Opcode.flr (kind) (t) : Sys2Proof.Laws.Opcode.Statement (.flr kind t) := by
  intro _ o e; cases e
theorem Sys2Proof.Laws.Opcode.resetRelease (straps) (t) : Sys2Proof.Laws.Opcode.Statement (.resetRelease straps t) := by
  intro _ o e; cases e
theorem Sys2Proof.Laws.Opcode.otpShadowLoad (t) : Sys2Proof.Laws.Opcode.Statement (.otpShadowLoad t) := by
  intro _ o e; cases e
theorem Sys2Proof.Laws.Opcode.railsSettled (t) : Sys2Proof.Laws.Opcode.Statement (.railsSettled t) := by
  intro _ o e; cases e
theorem Sys2Proof.Laws.Opcode.mgmtWatchdogExpiry (t) : Sys2Proof.Laws.Opcode.Statement (.mgmtWatchdogExpiry t) := by
  intro _ o e; cases e
theorem Sys2Proof.Laws.Opcode.lockstepMismatch (correctable) (t) : Sys2Proof.Laws.Opcode.Statement (.lockstepMismatch correctable t) := by
  intro _ o e; cases e
theorem Sys2Proof.Laws.Opcode.mgrResumed (t) : Sys2Proof.Laws.Opcode.Statement (.mgrResumed t) := by
  intro _ o e; cases e
theorem Sys2Proof.Laws.Opcode.warnSet (rail) (t) : Sys2Proof.Laws.Opcode.Statement (.warnSet rail t) := by
  intro _ o e; cases e
theorem Sys2Proof.Laws.Opcode.warnClear (rail) (t) : Sys2Proof.Laws.Opcode.Statement (.warnClear rail t) := by
  intro _ o e; cases e
theorem Sys2Proof.Laws.Opcode.supplyStop  : Sys2Proof.Laws.Opcode.Statement (.supplyStop) := by
  intro _ o e; cases e
theorem Sys2Proof.Laws.Opcode.stopTmaxExpiry  : Sys2Proof.Laws.Opcode.Statement (.stopTmaxExpiry) := by
  intro _ o e; cases e
theorem Sys2Proof.Laws.Opcode.stopDone (t) : Sys2Proof.Laws.Opcode.Statement (.stopDone t) := by
  intro _ o e; cases e
theorem Sys2Proof.Laws.Opcode.clockFault (src) (t) : Sys2Proof.Laws.Opcode.Statement (.clockFault src t) := by
  intro _ o e; cases e
theorem Sys2Proof.Laws.Opcode.fpBoundary  : Sys2Proof.Laws.Opcode.Statement (.fpBoundary) := by
  intro _ o e; cases e
theorem Sys2Proof.Laws.Opcode.engOverrun (w) : Sys2Proof.Laws.Opcode.Statement (.engOverrun w) := by
  intro _ o e; cases e
theorem Sys2Proof.Laws.Opcode.spBoundary  : Sys2Proof.Laws.Opcode.Statement (.spBoundary) := by
  intro _ o e; cases e
theorem Sys2Proof.Laws.Opcode.mcOverrun (m) : Sys2Proof.Laws.Opcode.Statement (.mcOverrun m) := by
  intro _ o e; cases e
theorem Sys2Proof.Laws.Opcode.housekeepingRound (mgt) (ctl) : Sys2Proof.Laws.Opcode.Statement (.housekeepingRound mgt ctl) := by
  intro _ o e; cases e
theorem Sys2Proof.Laws.Opcode.scheduledEdge  : Sys2Proof.Laws.Opcode.Statement (.scheduledEdge) := by
  intro _ o e; cases e
theorem Sys2Proof.Laws.Opcode.pendingChangeApplied (ch) : Sys2Proof.Laws.Opcode.Statement (.pendingChangeApplied ch) := by
  intro _ o e; cases e
theorem Sys2Proof.Laws.Opcode.commutation (w) : Sys2Proof.Laws.Opcode.Statement (.commutation w) := by
  intro _ o e; cases e
theorem Sys2Proof.Laws.Opcode.tdDecayEnd (w) (t) : Sys2Proof.Laws.Opcode.Statement (.tdDecayEnd w t) := by
  intro _ o e; cases e
theorem Sys2Proof.Laws.Opcode.sampleResult (c) (raw) (beyond2) (track) : Sys2Proof.Laws.Opcode.Statement (.sampleResult c raw beyond2 track) := by
  intro _ o e; cases e
theorem Sys2Proof.Laws.Opcode.floatingPhaseSample (w) (raw) (track) : Sys2Proof.Laws.Opcode.Statement (.floatingPhaseSample w raw track) := by
  intro _ o e; cases e
theorem Sys2Proof.Laws.Opcode.missed (w) (t) : Sys2Proof.Laws.Opcode.Statement (.missed w t) := by
  intro _ o e; cases e
theorem Sys2Proof.Laws.Opcode.listenConversion (w) (uPrev) (uNext) (v) (wPrev) (wNext) (track) : Sys2Proof.Laws.Opcode.Statement (.listenConversion w uPrev uNext v wPrev wNext track) := by
  intro _ o e; cases e
theorem Sys2Proof.Laws.Opcode.catchListenExpiry (m) : Sys2Proof.Laws.Opcode.Statement (.catchListenExpiry m) := by
  intro _ o e; cases e
theorem Sys2Proof.Laws.Opcode.probePulseEnd (m) (t) : Sys2Proof.Laws.Opcode.Statement (.probePulseEnd m t) := by
  intro _ o e; cases e
theorem Sys2Proof.Laws.Opcode.probeSlotEnd (m) (t) : Sys2Proof.Laws.Opcode.Statement (.probeSlotEnd m t) := by
  intro _ o e; cases e
theorem Sys2Proof.Laws.Opcode.startFail (m) : Sys2Proof.Laws.Opcode.Statement (.startFail m) := by
  intro _ o e; cases e
theorem Sys2Proof.Laws.Opcode.locked (m) : Sys2Proof.Laws.Opcode.Statement (.locked m) := by
  intro _ o e; cases e
theorem Sys2Proof.Laws.Opcode.rotorLost (m) : Sys2Proof.Laws.Opcode.Statement (.rotorLost m) := by
  intro _ o e; cases e
theorem Sys2Proof.Laws.Opcode.lowRestart (m) : Sys2Proof.Laws.Opcode.Statement (.lowRestart m) := by
  intro _ o e; cases e
theorem Sys2Proof.Laws.Opcode.lostDecayDone (m) (t) : Sys2Proof.Laws.Opcode.Statement (.lostDecayDone m t) := by
  intro _ o e; cases e
theorem Sys2Proof.Laws.Opcode.ascSettleEnd (m) : Sys2Proof.Laws.Opcode.Statement (.ascSettleEnd m) := by
  intro _ o e; cases e
theorem Sys2Proof.Laws.Opcode.ascWindowEnd (w) : Sys2Proof.Laws.Opcode.Statement (.ascWindowEnd w) := by
  intro _ o e; cases e
theorem Sys2Proof.Laws.Opcode.reacquired (m) : Sys2Proof.Laws.Opcode.Statement (.reacquired m) := by
  intro _ o e; cases e
theorem Sys2Proof.Laws.Opcode.hallEdge (m) (levels) (t) : Sys2Proof.Laws.Opcode.Statement (.hallEdge m levels t) := by
  intro _ o e; cases e
theorem Sys2Proof.Laws.Opcode.hallFault (m) : Sys2Proof.Laws.Opcode.Statement (.hallFault m) := by
  intro _ o e; cases e
theorem Sys2Proof.Laws.Opcode.encoderEdge (m) (up) (t) : Sys2Proof.Laws.Opcode.Statement (.encoderEdge m up t) := by
  intro _ o e; cases e
theorem Sys2Proof.Laws.Opcode.encZEdge (m) (t) : Sys2Proof.Laws.Opcode.Statement (.encZEdge m t) := by
  intro _ o e; cases e
theorem Sys2Proof.Laws.Opcode.encFault (m) : Sys2Proof.Laws.Opcode.Statement (.encFault m) := by
  intro _ o e; cases e
theorem Sys2Proof.Laws.Opcode.pspMeasurement (m) (period) (high) (t) : Sys2Proof.Laws.Opcode.Statement (.pspMeasurement m period high t) := by
  intro _ o e; cases e
theorem Sys2Proof.Laws.Opcode.setpointInput (m) (psp) : Sys2Proof.Laws.Opcode.Statement (.setpointInput m psp) := by
  intro _ o e; cases e
theorem Sys2Proof.Laws.Opcode.setpointMismatch (m) : Sys2Proof.Laws.Opcode.Statement (.setpointMismatch m) := by
  intro _ o e; cases e
theorem Sys2Proof.Laws.Opcode.hostWatchdogExpiry (m) : Sys2Proof.Laws.Opcode.Statement (.hostWatchdogExpiry m) := by
  intro _ o e; cases e
theorem Sys2Proof.Laws.Opcode.winnerChanged (m) : Sys2Proof.Laws.Opcode.Statement (.winnerChanged m) := by
  intro _ o e; cases e
theorem Sys2Proof.Laws.Opcode.adaptWindowClose (w) : Sys2Proof.Laws.Opcode.Statement (.adaptWindowClose w) := by
  intro _ o e; cases e
theorem Sys2Proof.Laws.Opcode.decelHoldLong (m) : Sys2Proof.Laws.Opcode.Statement (.decelHoldLong m) := by
  intro _ o e; cases e
theorem Sys2Proof.Laws.Opcode.dcOvAsc (m) : Sys2Proof.Laws.Opcode.Statement (.dcOvAsc m) := by
  intro _ o e; cases e
theorem Sys2Proof.Laws.Opcode.vdcUv (x) : Sys2Proof.Laws.Opcode.Statement (.vdcUv x) := by
  intro _ o e; cases e
theorem Sys2Proof.Laws.Opcode.chopperCheckConversion (c) (raw) (track) : Sys2Proof.Laws.Opcode.Statement (.chopperCheckConversion c raw track) := by
  intro _ o e; cases e
theorem Sys2Proof.Laws.Opcode.chopperOpen (c) : Sys2Proof.Laws.Opcode.Statement (.chopperOpen c) := by
  intro _ o e; cases e
theorem Sys2Proof.Laws.Opcode.chopperShort (c) : Sys2Proof.Laws.Opcode.Statement (.chopperShort c) := by
  intro _ o e; cases e
theorem Sys2Proof.Laws.Opcode.windowOut (n) (e) : Sys2Proof.Laws.Opcode.Statement (.windowOut n e) := by
  intro _ o e; cases e
theorem Sys2Proof.Laws.Opcode.windowIn (n) (e) : Sys2Proof.Laws.Opcode.Statement (.windowIn n e) := by
  intro _ o e; cases e
theorem Sys2Proof.Laws.Opcode.tripEscalated (g) : Sys2Proof.Laws.Opcode.Statement (.tripEscalated g) := by
  intro _ o e; cases e
theorem Sys2Proof.Laws.Opcode.chpEscalated (c) : Sys2Proof.Laws.Opcode.Statement (.chpEscalated c) := by
  intro _ o e; cases e
theorem Sys2Proof.Laws.Opcode.tripRate (w) : Sys2Proof.Laws.Opcode.Statement (.tripRate w) := by
  intro _ o e; cases e
theorem Sys2Proof.Laws.Opcode.fltNLow (g) (stays) (t) : Sys2Proof.Laws.Opcode.Statement (.fltNLow g stays t) := by
  intro _ o e; cases e
theorem Sys2Proof.Laws.Opcode.estop (stays) (t) : Sys2Proof.Laws.Opcode.Statement (.estop stays t) := by
  intro _ o e; cases e
theorem Sys2Proof.Laws.Opcode.yieldInRise (t) : Sys2Proof.Laws.Opcode.Statement (.yieldInRise t) := by
  intro _ o e; cases e
theorem Sys2Proof.Laws.Opcode.collisionReclaim (t) : Sys2Proof.Laws.Opcode.Statement (.collisionReclaim t) := by
  intro _ o e; cases e
theorem Sys2Proof.Laws.Opcode.collisionBackoffEnd (t) : Sys2Proof.Laws.Opcode.Statement (.collisionBackoffEnd t) := by
  intro _ o e; cases e
theorem Sys2Proof.Laws.Opcode.plausibility (w) : Sys2Proof.Laws.Opcode.Statement (.plausibility w) := by
  intro _ o e; cases e
theorem Sys2Proof.Laws.Opcode.plStarved (w) : Sys2Proof.Laws.Opcode.Statement (.plStarved w) := by
  intro _ o e; cases e
theorem Sys2Proof.Laws.Opcode.followingError (m) : Sys2Proof.Laws.Opcode.Statement (.followingError m) := by
  intro _ o e; cases e
theorem Sys2Proof.Laws.Opcode.telemetryFrame (g) (frame) (midOk) (t) : Sys2Proof.Laws.Opcode.Statement (.telemetryFrame g frame midOk t) := by
  intro _ o e; cases e
theorem Sys2Proof.Laws.Opcode.gateMismatch (sw) : Sys2Proof.Laws.Opcode.Statement (.gateMismatch sw) := by
  intro _ o e; cases e
theorem Sys2Proof.Laws.Opcode.modTsd (l) : Sys2Proof.Laws.Opcode.Statement (.modTsd l) := by
  intro _ o e; cases e
theorem Sys2Proof.Laws.Opcode.glkLost (g) (t) : Sys2Proof.Laws.Opcode.Statement (.glkLost g t) := by
  intro _ o e; cases e
theorem Sys2Proof.Laws.Opcode.glkError (g) : Sys2Proof.Laws.Opcode.Statement (.glkError g) := by
  intro _ o e; cases e
theorem Sys2Proof.Laws.Opcode.gateLinkFrameSend (g) (t) : Sys2Proof.Laws.Opcode.Statement (.gateLinkFrameSend g t) := by
  intro _ o e; cases e
theorem Sys2Proof.Laws.Opcode.thermalReading (counts) : Sys2Proof.Laws.Opcode.Statement (.thermalReading counts) := by
  intro _ o e; cases e
theorem Sys2Proof.Laws.Opcode.tw1Set (z) : Sys2Proof.Laws.Opcode.Statement (.tw1Set z) := by
  intro _ o e; cases e
theorem Sys2Proof.Laws.Opcode.tw1Clear (z) : Sys2Proof.Laws.Opcode.Statement (.tw1Clear z) := by
  intro _ o e; cases e
theorem Sys2Proof.Laws.Opcode.tsd (z) : Sys2Proof.Laws.Opcode.Statement (.tsd z) := by
  intro _ o e; cases e
theorem Sys2Proof.Laws.Opcode.tsdAlarmRelease (z) : Sys2Proof.Laws.Opcode.Statement (.tsdAlarmRelease z) := by
  intro _ o e; cases e
theorem Sys2Proof.Laws.Opcode.tsdTmaxExpiry  : Sys2Proof.Laws.Opcode.Statement (.tsdTmaxExpiry) := by
  intro _ o e; cases e
theorem Sys2Proof.Laws.Opcode.shutdownDone (t) : Sys2Proof.Laws.Opcode.Statement (.shutdownDone t) := by
  intro _ o e; cases e
theorem Sys2Proof.Laws.Opcode.exitMet  : Sys2Proof.Laws.Opcode.Statement (.exitMet) := by
  intro _ o e; cases e
theorem Sys2Proof.Laws.Opcode.trackUpdate (p) : Sys2Proof.Laws.Opcode.Statement (.trackUpdate p) := by
  intro _ o e; cases e
theorem Sys2Proof.Laws.Opcode.pairDivergeRun (p) : Sys2Proof.Laws.Opcode.Statement (.pairDivergeRun p) := by
  intro _ o e; cases e
theorem Sys2Proof.Laws.Opcode.referenceCheck (p) (even) (odd) : Sys2Proof.Laws.Opcode.Statement (.referenceCheck p even odd) := by
  intro _ o e; cases e
theorem Sys2Proof.Laws.Opcode.memberFailure (p) (odd) (stuck) (t) : Sys2Proof.Laws.Opcode.Statement (.memberFailure p odd stuck t) := by
  intro _ o e; cases e
theorem Sys2Proof.Laws.Opcode.housekeepingConversion (chan) (raw) (track) : Sys2Proof.Laws.Opcode.Statement (.housekeepingConversion chan raw track) := by
  intro _ o e; cases e
theorem Sys2Proof.Laws.Opcode.traceTrigger (c) : Sys2Proof.Laws.Opcode.Statement (.traceTrigger c) := by
  intro _ o e; cases e
theorem Sys2Proof.Laws.Opcode.traceWindowComplete (c) : Sys2Proof.Laws.Opcode.Statement (.traceWindowComplete c) := by
  intro _ o e; cases e
theorem Sys2Proof.Laws.Opcode.traceQuadDelivery (q) : Sys2Proof.Laws.Opcode.Statement (.traceQuadDelivery q) := by
  intro _ o e; cases e
theorem Sys2Proof.Laws.Opcode.traceDone (c) : Sys2Proof.Laws.Opcode.Statement (.traceDone c) := by
  intro _ o e; cases e
theorem Sys2Proof.Laws.Opcode.nodeScrub (id) (uncorrectable) (t) : Sys2Proof.Laws.Opcode.Statement (.nodeScrub id uncorrectable t) := by
  intro _ o e; cases e
theorem Sys2Proof.Laws.Opcode.heartbeatSend (t) : Sys2Proof.Laws.Opcode.Statement (.heartbeatSend t) := by
  intro _ o e; cases e
theorem Sys2Proof.Laws.Opcode.syncSend (t) : Sys2Proof.Laws.Opcode.Statement (.syncSend t) := by
  intro _ o e; cases e
theorem Sys2Proof.Laws.Opcode.baton (frame) (t) : Sys2Proof.Laws.Opcode.Statement (.baton frame t) := by
  intro _ o e; cases e
theorem Sys2Proof.Laws.Opcode.batonAdoption  : Sys2Proof.Laws.Opcode.Statement (.batonAdoption) := by
  intro _ o e; cases e
theorem Sys2Proof.Laws.Opcode.divergence (m) : Sys2Proof.Laws.Opcode.Statement (.divergence m) := by
  intro _ o e; cases e
theorem Sys2Proof.Laws.Opcode.heartbeat (frame) (t) : Sys2Proof.Laws.Opcode.Statement (.heartbeat frame t) := by
  intro _ o e; cases e
theorem Sys2Proof.Laws.Opcode.sync (frame) (t) : Sys2Proof.Laws.Opcode.Statement (.sync frame t) := by
  intro _ o e; cases e
theorem Sys2Proof.Laws.Opcode.pacerCorrection (t) : Sys2Proof.Laws.Opcode.Statement (.pacerCorrection t) := by
  intro _ o e; cases e
theorem Sys2Proof.Laws.Opcode.alignmentAcquired  : Sys2Proof.Laws.Opcode.Statement (.alignmentAcquired) := by
  intro _ o e; cases e
theorem Sys2Proof.Laws.Opcode.alignLost  : Sys2Proof.Laws.Opcode.Statement (.alignLost) := by
  intro _ o e; cases e
theorem Sys2Proof.Laws.Opcode.requestJoin (frame) (t) : Sys2Proof.Laws.Opcode.Statement (.requestJoin frame t) := by
  intro _ o e; cases e
theorem Sys2Proof.Laws.Opcode.requestHandover (frame) (t) : Sys2Proof.Laws.Opcode.Statement (.requestHandover frame t) := by
  intro _ o e; cases e
theorem Sys2Proof.Laws.Opcode.requestAttestNonce (frame) (t) : Sys2Proof.Laws.Opcode.Statement (.requestAttestNonce frame t) := by
  intro _ o e; cases e
theorem Sys2Proof.Laws.Opcode.reply (frame) (t) : Sys2Proof.Laws.Opcode.Statement (.reply frame t) := by
  intro _ o e; cases e
theorem Sys2Proof.Laws.Opcode.attestFrame (frame) (t) : Sys2Proof.Laws.Opcode.Statement (.attestFrame frame t) := by
  intro _ o e; cases e
theorem Sys2Proof.Laws.Opcode.relayClaim (frame) (t) : Sys2Proof.Laws.Opcode.Statement (.relayClaim frame t) := by
  intro _ o e; cases e
theorem Sys2Proof.Laws.Opcode.relayYield (frame) (t) : Sys2Proof.Laws.Opcode.Statement (.relayYield frame t) := by
  intro _ o e; cases e
theorem Sys2Proof.Laws.Opcode.frameDiscard (frame) (wellFramed) (t) : Sys2Proof.Laws.Opcode.Statement (.frameDiscard frame wellFramed t) := by
  intro _ o e; cases e
theorem Sys2Proof.Laws.Opcode.partnerLost (t) : Sys2Proof.Laws.Opcode.Statement (.partnerLost t) := by
  intro _ o e; cases e
theorem Sys2Proof.Laws.Opcode.takeover  : Sys2Proof.Laws.Opcode.Statement (.takeover) := by
  intro _ o e; cases e
theorem Sys2Proof.Laws.Opcode.claimBlocked (t) : Sys2Proof.Laws.Opcode.Statement (.claimBlocked t) := by
  intro _ o e; cases e
theorem Sys2Proof.Laws.Opcode.laneFail (lane) (t) : Sys2Proof.Laws.Opcode.Statement (.laneFail lane t) := by
  intro _ o e; cases e
theorem Sys2Proof.Laws.Opcode.fitness  : Sys2Proof.Laws.Opcode.Statement (.fitness) := by
  intro _ o e; cases e
theorem Sys2Proof.Laws.Opcode.extest (t) : Sys2Proof.Laws.Opcode.Statement (.extest t) := by
  intro _ o e; cases e
theorem Sys2Proof.Laws.Opcode.idcode (t) : Sys2Proof.Laws.Opcode.Statement (.idcode t) := by
  intro _ o e; cases e
theorem Sys2Proof.Laws.Opcode.samplePreload (preload) (v) (t) : Sys2Proof.Laws.Opcode.Statement (.samplePreload preload v t) := by
  intro _ o e; cases e
theorem Sys2Proof.Laws.Opcode.highz (t) : Sys2Proof.Laws.Opcode.Statement (.highz t) := by
  intro _ o e; cases e
theorem Sys2Proof.Laws.Opcode.clamp (t) : Sys2Proof.Laws.Opcode.Statement (.clamp t) := by
  intro _ o e; cases e
theorem Sys2Proof.Laws.Opcode.bypass (t) : Sys2Proof.Laws.Opcode.Statement (.bypass t) := by
  intro _ o e; cases e
theorem Sys2Proof.Laws.Opcode.vendorTestInstruction (code) (t) : Sys2Proof.Laws.Opcode.Statement (.vendorTestInstruction code t) := by
  intro _ o e; cases e
theorem Sys2Proof.Laws.Opcode.tapInstructionExit (t) : Sys2Proof.Laws.Opcode.Statement (.tapInstructionExit t) := by
  intro _ o e; cases e
theorem Sys2Proof.Laws.Opcode.yieldInFall (t) : Sys2Proof.Laws.Opcode.Statement (.yieldInFall t) := by
  intro _ o e; cases e
theorem Sys2Proof.Laws.Opcode.dmaError (n) (cause) (t) : Sys2Proof.Laws.Opcode.Statement (.dmaError n cause t) := by
  intro _ o e; cases e
theorem Sys2Proof.Laws.Opcode.busMasterEnable (on) (t) : Sys2Proof.Laws.Opcode.Statement (.busMasterEnable on t) := by
  intro _ o e; cases e
theorem Sys2Proof.Laws.Opcode.laneBlockLock (lane) (t) : Sys2Proof.Laws.Opcode.Statement (.laneBlockLock lane t) := by
  intro _ o e; cases e
end

