-- ==== Sys2Proof/Laws/State.lean ====
section
/-! SUPPORT. Laws/State.lean: each named update of State changes its own field and no other. -/
namespace Sys2Proof.Machine
set_option linter.all false

@[simp] theorem State.modMach_time (s : State) (m : Fin 2) (f : MachSt → MachSt) : (s.modMach m f).time = s.time := rfl
@[simp] theorem State.modMach_freeCtr (s : State) (m : Fin 2) (f : MachSt → MachSt) : (s.modMach m f).freeCtr = s.freeCtr := rfl
@[simp] theorem State.modMach_pending (s : State) (m : Fin 2) (f : MachSt → MachSt) : (s.modMach m f).pending = s.pending := rfl
@[simp] theorem State.modMach_fpSteps (s : State) (m : Fin 2) (f : MachSt → MachSt) : (s.modMach m f).fpSteps = s.fpSteps := rfl
@[simp] theorem State.modMach_fpNewAt (s : State) (m : Fin 2) (f : MachSt → MachSt) : (s.modMach m f).fpNewAt = s.fpNewAt := rfl
@[simp] theorem State.modMach_lastFp (s : State) (m : Fin 2) (f : MachSt → MachSt) : (s.modMach m f).lastFp = s.lastFp := rfl
@[simp] theorem State.modMach_lastSp (s : State) (m : Fin 2) (f : MachSt → MachSt) : (s.modMach m f).lastSp = s.lastSp := rfl
@[simp] theorem State.modMach_lastHr (s : State) (m : Fin 2) (f : MachSt → MachSt) : (s.modMach m f).lastHr = s.lastHr := rfl
@[simp] theorem State.modMach_started (s : State) (m : Fin 2) (f : MachSt → MachSt) : (s.modMach m f).started = s.started := rfl
@[simp] theorem State.modMach_regs (s : State) (m : Fin 2) (f : MachSt → MachSt) : (s.modMach m f).regs = s.regs := rfl
@[simp] theorem State.modMach_nodes (s : State) (m : Fin 2) (f : MachSt → MachSt) : (s.modMach m f).nodes = s.nodes := rfl
@[simp] theorem State.modMach_ecc (s : State) (m : Fin 2) (f : MachSt → MachSt) : (s.modMach m f).ecc = s.ecc := rfl
@[simp] theorem State.modMach_late (s : State) (m : Fin 2) (f : MachSt → MachSt) : (s.modMach m f).late = s.late := rfl
@[simp] theorem State.modMach_sets (s : State) (m : Fin 2) (f : MachSt → MachSt) : (s.modMach m f).sets = s.sets := rfl
@[simp] theorem State.modMach_chans (s : State) (m : Fin 2) (f : MachSt → MachSt) : (s.modMach m f).chans = s.chans := rfl
@[simp] theorem State.modMach_edges (s : State) (m : Fin 2) (f : MachSt → MachSt) : (s.modMach m f).edges = s.edges := rfl
@[simp] theorem State.modMach_groups (s : State) (m : Fin 2) (f : MachSt → MachSt) : (s.modMach m f).groups = s.groups := rfl
@[simp] theorem State.modMach_direct (s : State) (m : Fin 2) (f : MachSt → MachSt) : (s.modMach m f).direct = s.direct := rfl
@[simp] theorem State.modMach_chops (s : State) (m : Fin 2) (f : MachSt → MachSt) : (s.modMach m f).chops = s.chops := rfl
@[simp] theorem State.modMach_acq (s : State) (m : Fin 2) (f : MachSt → MachSt) : (s.modMach m f).acq = s.acq := rfl
@[simp] theorem State.modMach_winOut (s : State) (m : Fin 2) (f : MachSt → MachSt) : (s.modMach m f).winOut = s.winOut := rfl
@[simp] theorem State.modMach_flt (s : State) (m : Fin 2) (f : MachSt → MachSt) : (s.modMach m f).flt = s.flt := rfl
@[simp] theorem State.modMach_estop (s : State) (m : Fin 2) (f : MachSt → MachSt) : (s.modMach m f).estop = s.estop := rfl
@[simp] theorem State.modMach_sup (s : State) (m : Fin 2) (f : MachSt → MachSt) : (s.modMach m f).sup = s.sup := rfl
@[simp] theorem State.modMach_thm (s : State) (m : Fin 2) (f : MachSt → MachSt) : (s.modMach m f).thm = s.thm := rfl
@[simp] theorem State.modMach_host (s : State) (m : Fin 2) (f : MachSt → MachSt) : (s.modMach m f).host = s.host := rfl
@[simp] theorem State.modMach_silo (s : State) (m : Fin 2) (f : MachSt → MachSt) : (s.modMach m f).silo = s.silo := rfl
@[simp] theorem State.modMach_otp (s : State) (m : Fin 2) (f : MachSt → MachSt) : (s.modMach m f).otp = s.otp := rfl
@[simp] theorem State.modMach_msr (s : State) (m : Fin 2) (f : MachSt → MachSt) : (s.modMach m f).msr = s.msr := rfl
@[simp] theorem State.modMach_pcr (s : State) (m : Fin 2) (f : MachSt → MachSt) : (s.modMach m f).pcr = s.pcr := rfl
@[simp] theorem State.modMach_lts (s : State) (m : Fin 2) (f : MachSt → MachSt) : (s.modMach m f).lts = s.lts := rfl
@[simp] theorem State.modMach_ypl (s : State) (m : Fin 2) (f : MachSt → MachSt) : (s.modMach m f).ypl = s.ypl := rfl
@[simp] theorem State.modMach_svc (s : State) (m : Fin 2) (f : MachSt → MachSt) : (s.modMach m f).svc = s.svc := rfl

@[simp] theorem State.modSet_time (s : State) (w : Fin 8) (f : SetSt → SetSt) : (s.modSet w f).time = s.time := rfl
@[simp] theorem State.modSet_freeCtr (s : State) (w : Fin 8) (f : SetSt → SetSt) : (s.modSet w f).freeCtr = s.freeCtr := rfl
@[simp] theorem State.modSet_pending (s : State) (w : Fin 8) (f : SetSt → SetSt) : (s.modSet w f).pending = s.pending := rfl
@[simp] theorem State.modSet_fpSteps (s : State) (w : Fin 8) (f : SetSt → SetSt) : (s.modSet w f).fpSteps = s.fpSteps := rfl
@[simp] theorem State.modSet_fpNewAt (s : State) (w : Fin 8) (f : SetSt → SetSt) : (s.modSet w f).fpNewAt = s.fpNewAt := rfl
@[simp] theorem State.modSet_lastFp (s : State) (w : Fin 8) (f : SetSt → SetSt) : (s.modSet w f).lastFp = s.lastFp := rfl
@[simp] theorem State.modSet_lastSp (s : State) (w : Fin 8) (f : SetSt → SetSt) : (s.modSet w f).lastSp = s.lastSp := rfl
@[simp] theorem State.modSet_lastHr (s : State) (w : Fin 8) (f : SetSt → SetSt) : (s.modSet w f).lastHr = s.lastHr := rfl
@[simp] theorem State.modSet_started (s : State) (w : Fin 8) (f : SetSt → SetSt) : (s.modSet w f).started = s.started := rfl
@[simp] theorem State.modSet_regs (s : State) (w : Fin 8) (f : SetSt → SetSt) : (s.modSet w f).regs = s.regs := rfl
@[simp] theorem State.modSet_nodes (s : State) (w : Fin 8) (f : SetSt → SetSt) : (s.modSet w f).nodes = s.nodes := rfl
@[simp] theorem State.modSet_ecc (s : State) (w : Fin 8) (f : SetSt → SetSt) : (s.modSet w f).ecc = s.ecc := rfl
@[simp] theorem State.modSet_late (s : State) (w : Fin 8) (f : SetSt → SetSt) : (s.modSet w f).late = s.late := rfl
@[simp] theorem State.modSet_mach (s : State) (w : Fin 8) (f : SetSt → SetSt) : (s.modSet w f).mach = s.mach := rfl
@[simp] theorem State.modSet_chans (s : State) (w : Fin 8) (f : SetSt → SetSt) : (s.modSet w f).chans = s.chans := rfl
@[simp] theorem State.modSet_edges (s : State) (w : Fin 8) (f : SetSt → SetSt) : (s.modSet w f).edges = s.edges := rfl
@[simp] theorem State.modSet_groups (s : State) (w : Fin 8) (f : SetSt → SetSt) : (s.modSet w f).groups = s.groups := rfl
@[simp] theorem State.modSet_direct (s : State) (w : Fin 8) (f : SetSt → SetSt) : (s.modSet w f).direct = s.direct := rfl
@[simp] theorem State.modSet_chops (s : State) (w : Fin 8) (f : SetSt → SetSt) : (s.modSet w f).chops = s.chops := rfl
@[simp] theorem State.modSet_acq (s : State) (w : Fin 8) (f : SetSt → SetSt) : (s.modSet w f).acq = s.acq := rfl
@[simp] theorem State.modSet_winOut (s : State) (w : Fin 8) (f : SetSt → SetSt) : (s.modSet w f).winOut = s.winOut := rfl
@[simp] theorem State.modSet_flt (s : State) (w : Fin 8) (f : SetSt → SetSt) : (s.modSet w f).flt = s.flt := rfl
@[simp] theorem State.modSet_estop (s : State) (w : Fin 8) (f : SetSt → SetSt) : (s.modSet w f).estop = s.estop := rfl
@[simp] theorem State.modSet_sup (s : State) (w : Fin 8) (f : SetSt → SetSt) : (s.modSet w f).sup = s.sup := rfl
@[simp] theorem State.modSet_thm (s : State) (w : Fin 8) (f : SetSt → SetSt) : (s.modSet w f).thm = s.thm := rfl
@[simp] theorem State.modSet_host (s : State) (w : Fin 8) (f : SetSt → SetSt) : (s.modSet w f).host = s.host := rfl
@[simp] theorem State.modSet_silo (s : State) (w : Fin 8) (f : SetSt → SetSt) : (s.modSet w f).silo = s.silo := rfl
@[simp] theorem State.modSet_otp (s : State) (w : Fin 8) (f : SetSt → SetSt) : (s.modSet w f).otp = s.otp := rfl
@[simp] theorem State.modSet_msr (s : State) (w : Fin 8) (f : SetSt → SetSt) : (s.modSet w f).msr = s.msr := rfl
@[simp] theorem State.modSet_pcr (s : State) (w : Fin 8) (f : SetSt → SetSt) : (s.modSet w f).pcr = s.pcr := rfl
@[simp] theorem State.modSet_lts (s : State) (w : Fin 8) (f : SetSt → SetSt) : (s.modSet w f).lts = s.lts := rfl
@[simp] theorem State.modSet_ypl (s : State) (w : Fin 8) (f : SetSt → SetSt) : (s.modSet w f).ypl = s.ypl := rfl
@[simp] theorem State.modSet_svc (s : State) (w : Fin 8) (f : SetSt → SetSt) : (s.modSet w f).svc = s.svc := rfl

@[simp] theorem State.modChan_time (s : State) (n : Fin 48) (f : ChanSt → ChanSt) : (s.modChan n f).time = s.time := rfl
@[simp] theorem State.modChan_freeCtr (s : State) (n : Fin 48) (f : ChanSt → ChanSt) : (s.modChan n f).freeCtr = s.freeCtr := rfl
@[simp] theorem State.modChan_pending (s : State) (n : Fin 48) (f : ChanSt → ChanSt) : (s.modChan n f).pending = s.pending := rfl
@[simp] theorem State.modChan_fpSteps (s : State) (n : Fin 48) (f : ChanSt → ChanSt) : (s.modChan n f).fpSteps = s.fpSteps := rfl
@[simp] theorem State.modChan_fpNewAt (s : State) (n : Fin 48) (f : ChanSt → ChanSt) : (s.modChan n f).fpNewAt = s.fpNewAt := rfl
@[simp] theorem State.modChan_lastFp (s : State) (n : Fin 48) (f : ChanSt → ChanSt) : (s.modChan n f).lastFp = s.lastFp := rfl
@[simp] theorem State.modChan_lastSp (s : State) (n : Fin 48) (f : ChanSt → ChanSt) : (s.modChan n f).lastSp = s.lastSp := rfl
@[simp] theorem State.modChan_lastHr (s : State) (n : Fin 48) (f : ChanSt → ChanSt) : (s.modChan n f).lastHr = s.lastHr := rfl
@[simp] theorem State.modChan_started (s : State) (n : Fin 48) (f : ChanSt → ChanSt) : (s.modChan n f).started = s.started := rfl
@[simp] theorem State.modChan_regs (s : State) (n : Fin 48) (f : ChanSt → ChanSt) : (s.modChan n f).regs = s.regs := rfl
@[simp] theorem State.modChan_nodes (s : State) (n : Fin 48) (f : ChanSt → ChanSt) : (s.modChan n f).nodes = s.nodes := rfl
@[simp] theorem State.modChan_ecc (s : State) (n : Fin 48) (f : ChanSt → ChanSt) : (s.modChan n f).ecc = s.ecc := rfl
@[simp] theorem State.modChan_late (s : State) (n : Fin 48) (f : ChanSt → ChanSt) : (s.modChan n f).late = s.late := rfl
@[simp] theorem State.modChan_mach (s : State) (n : Fin 48) (f : ChanSt → ChanSt) : (s.modChan n f).mach = s.mach := rfl
@[simp] theorem State.modChan_sets (s : State) (n : Fin 48) (f : ChanSt → ChanSt) : (s.modChan n f).sets = s.sets := rfl
@[simp] theorem State.modChan_edges (s : State) (n : Fin 48) (f : ChanSt → ChanSt) : (s.modChan n f).edges = s.edges := rfl
@[simp] theorem State.modChan_groups (s : State) (n : Fin 48) (f : ChanSt → ChanSt) : (s.modChan n f).groups = s.groups := rfl
@[simp] theorem State.modChan_direct (s : State) (n : Fin 48) (f : ChanSt → ChanSt) : (s.modChan n f).direct = s.direct := rfl
@[simp] theorem State.modChan_chops (s : State) (n : Fin 48) (f : ChanSt → ChanSt) : (s.modChan n f).chops = s.chops := rfl
@[simp] theorem State.modChan_acq (s : State) (n : Fin 48) (f : ChanSt → ChanSt) : (s.modChan n f).acq = s.acq := rfl
@[simp] theorem State.modChan_winOut (s : State) (n : Fin 48) (f : ChanSt → ChanSt) : (s.modChan n f).winOut = s.winOut := rfl
@[simp] theorem State.modChan_flt (s : State) (n : Fin 48) (f : ChanSt → ChanSt) : (s.modChan n f).flt = s.flt := rfl
@[simp] theorem State.modChan_estop (s : State) (n : Fin 48) (f : ChanSt → ChanSt) : (s.modChan n f).estop = s.estop := rfl
@[simp] theorem State.modChan_sup (s : State) (n : Fin 48) (f : ChanSt → ChanSt) : (s.modChan n f).sup = s.sup := rfl
@[simp] theorem State.modChan_thm (s : State) (n : Fin 48) (f : ChanSt → ChanSt) : (s.modChan n f).thm = s.thm := rfl
@[simp] theorem State.modChan_host (s : State) (n : Fin 48) (f : ChanSt → ChanSt) : (s.modChan n f).host = s.host := rfl
@[simp] theorem State.modChan_silo (s : State) (n : Fin 48) (f : ChanSt → ChanSt) : (s.modChan n f).silo = s.silo := rfl
@[simp] theorem State.modChan_otp (s : State) (n : Fin 48) (f : ChanSt → ChanSt) : (s.modChan n f).otp = s.otp := rfl
@[simp] theorem State.modChan_msr (s : State) (n : Fin 48) (f : ChanSt → ChanSt) : (s.modChan n f).msr = s.msr := rfl
@[simp] theorem State.modChan_pcr (s : State) (n : Fin 48) (f : ChanSt → ChanSt) : (s.modChan n f).pcr = s.pcr := rfl
@[simp] theorem State.modChan_lts (s : State) (n : Fin 48) (f : ChanSt → ChanSt) : (s.modChan n f).lts = s.lts := rfl
@[simp] theorem State.modChan_ypl (s : State) (n : Fin 48) (f : ChanSt → ChanSt) : (s.modChan n f).ypl = s.ypl := rfl
@[simp] theorem State.modChan_svc (s : State) (n : Fin 48) (f : ChanSt → ChanSt) : (s.modChan n f).svc = s.svc := rfl

@[simp] theorem State.modGroup_time (s : State) (g : Fin 8) (f : GroupSt → GroupSt) : (s.modGroup g f).time = s.time := rfl
@[simp] theorem State.modGroup_freeCtr (s : State) (g : Fin 8) (f : GroupSt → GroupSt) : (s.modGroup g f).freeCtr = s.freeCtr := rfl
@[simp] theorem State.modGroup_pending (s : State) (g : Fin 8) (f : GroupSt → GroupSt) : (s.modGroup g f).pending = s.pending := rfl
@[simp] theorem State.modGroup_fpSteps (s : State) (g : Fin 8) (f : GroupSt → GroupSt) : (s.modGroup g f).fpSteps = s.fpSteps := rfl
@[simp] theorem State.modGroup_fpNewAt (s : State) (g : Fin 8) (f : GroupSt → GroupSt) : (s.modGroup g f).fpNewAt = s.fpNewAt := rfl
@[simp] theorem State.modGroup_lastFp (s : State) (g : Fin 8) (f : GroupSt → GroupSt) : (s.modGroup g f).lastFp = s.lastFp := rfl
@[simp] theorem State.modGroup_lastSp (s : State) (g : Fin 8) (f : GroupSt → GroupSt) : (s.modGroup g f).lastSp = s.lastSp := rfl
@[simp] theorem State.modGroup_lastHr (s : State) (g : Fin 8) (f : GroupSt → GroupSt) : (s.modGroup g f).lastHr = s.lastHr := rfl
@[simp] theorem State.modGroup_started (s : State) (g : Fin 8) (f : GroupSt → GroupSt) : (s.modGroup g f).started = s.started := rfl
@[simp] theorem State.modGroup_regs (s : State) (g : Fin 8) (f : GroupSt → GroupSt) : (s.modGroup g f).regs = s.regs := rfl
@[simp] theorem State.modGroup_nodes (s : State) (g : Fin 8) (f : GroupSt → GroupSt) : (s.modGroup g f).nodes = s.nodes := rfl
@[simp] theorem State.modGroup_ecc (s : State) (g : Fin 8) (f : GroupSt → GroupSt) : (s.modGroup g f).ecc = s.ecc := rfl
@[simp] theorem State.modGroup_late (s : State) (g : Fin 8) (f : GroupSt → GroupSt) : (s.modGroup g f).late = s.late := rfl
@[simp] theorem State.modGroup_mach (s : State) (g : Fin 8) (f : GroupSt → GroupSt) : (s.modGroup g f).mach = s.mach := rfl
@[simp] theorem State.modGroup_sets (s : State) (g : Fin 8) (f : GroupSt → GroupSt) : (s.modGroup g f).sets = s.sets := rfl
@[simp] theorem State.modGroup_chans (s : State) (g : Fin 8) (f : GroupSt → GroupSt) : (s.modGroup g f).chans = s.chans := rfl
@[simp] theorem State.modGroup_edges (s : State) (g : Fin 8) (f : GroupSt → GroupSt) : (s.modGroup g f).edges = s.edges := rfl
@[simp] theorem State.modGroup_direct (s : State) (g : Fin 8) (f : GroupSt → GroupSt) : (s.modGroup g f).direct = s.direct := rfl
@[simp] theorem State.modGroup_chops (s : State) (g : Fin 8) (f : GroupSt → GroupSt) : (s.modGroup g f).chops = s.chops := rfl
@[simp] theorem State.modGroup_acq (s : State) (g : Fin 8) (f : GroupSt → GroupSt) : (s.modGroup g f).acq = s.acq := rfl
@[simp] theorem State.modGroup_winOut (s : State) (g : Fin 8) (f : GroupSt → GroupSt) : (s.modGroup g f).winOut = s.winOut := rfl
@[simp] theorem State.modGroup_flt (s : State) (g : Fin 8) (f : GroupSt → GroupSt) : (s.modGroup g f).flt = s.flt := rfl
@[simp] theorem State.modGroup_estop (s : State) (g : Fin 8) (f : GroupSt → GroupSt) : (s.modGroup g f).estop = s.estop := rfl
@[simp] theorem State.modGroup_sup (s : State) (g : Fin 8) (f : GroupSt → GroupSt) : (s.modGroup g f).sup = s.sup := rfl
@[simp] theorem State.modGroup_thm (s : State) (g : Fin 8) (f : GroupSt → GroupSt) : (s.modGroup g f).thm = s.thm := rfl
@[simp] theorem State.modGroup_host (s : State) (g : Fin 8) (f : GroupSt → GroupSt) : (s.modGroup g f).host = s.host := rfl
@[simp] theorem State.modGroup_silo (s : State) (g : Fin 8) (f : GroupSt → GroupSt) : (s.modGroup g f).silo = s.silo := rfl
@[simp] theorem State.modGroup_otp (s : State) (g : Fin 8) (f : GroupSt → GroupSt) : (s.modGroup g f).otp = s.otp := rfl
@[simp] theorem State.modGroup_msr (s : State) (g : Fin 8) (f : GroupSt → GroupSt) : (s.modGroup g f).msr = s.msr := rfl
@[simp] theorem State.modGroup_pcr (s : State) (g : Fin 8) (f : GroupSt → GroupSt) : (s.modGroup g f).pcr = s.pcr := rfl
@[simp] theorem State.modGroup_lts (s : State) (g : Fin 8) (f : GroupSt → GroupSt) : (s.modGroup g f).lts = s.lts := rfl
@[simp] theorem State.modGroup_ypl (s : State) (g : Fin 8) (f : GroupSt → GroupSt) : (s.modGroup g f).ypl = s.ypl := rfl
@[simp] theorem State.modGroup_svc (s : State) (g : Fin 8) (f : GroupSt → GroupSt) : (s.modGroup g f).svc = s.svc := rfl

@[simp] theorem State.modChop_time (s : State) (c : Fin 2) (f : ChopSt → ChopSt) : (s.modChop c f).time = s.time := rfl
@[simp] theorem State.modChop_freeCtr (s : State) (c : Fin 2) (f : ChopSt → ChopSt) : (s.modChop c f).freeCtr = s.freeCtr := rfl
@[simp] theorem State.modChop_pending (s : State) (c : Fin 2) (f : ChopSt → ChopSt) : (s.modChop c f).pending = s.pending := rfl
@[simp] theorem State.modChop_fpSteps (s : State) (c : Fin 2) (f : ChopSt → ChopSt) : (s.modChop c f).fpSteps = s.fpSteps := rfl
@[simp] theorem State.modChop_fpNewAt (s : State) (c : Fin 2) (f : ChopSt → ChopSt) : (s.modChop c f).fpNewAt = s.fpNewAt := rfl
@[simp] theorem State.modChop_lastFp (s : State) (c : Fin 2) (f : ChopSt → ChopSt) : (s.modChop c f).lastFp = s.lastFp := rfl
@[simp] theorem State.modChop_lastSp (s : State) (c : Fin 2) (f : ChopSt → ChopSt) : (s.modChop c f).lastSp = s.lastSp := rfl
@[simp] theorem State.modChop_lastHr (s : State) (c : Fin 2) (f : ChopSt → ChopSt) : (s.modChop c f).lastHr = s.lastHr := rfl
@[simp] theorem State.modChop_started (s : State) (c : Fin 2) (f : ChopSt → ChopSt) : (s.modChop c f).started = s.started := rfl
@[simp] theorem State.modChop_regs (s : State) (c : Fin 2) (f : ChopSt → ChopSt) : (s.modChop c f).regs = s.regs := rfl
@[simp] theorem State.modChop_nodes (s : State) (c : Fin 2) (f : ChopSt → ChopSt) : (s.modChop c f).nodes = s.nodes := rfl
@[simp] theorem State.modChop_ecc (s : State) (c : Fin 2) (f : ChopSt → ChopSt) : (s.modChop c f).ecc = s.ecc := rfl
@[simp] theorem State.modChop_late (s : State) (c : Fin 2) (f : ChopSt → ChopSt) : (s.modChop c f).late = s.late := rfl
@[simp] theorem State.modChop_mach (s : State) (c : Fin 2) (f : ChopSt → ChopSt) : (s.modChop c f).mach = s.mach := rfl
@[simp] theorem State.modChop_sets (s : State) (c : Fin 2) (f : ChopSt → ChopSt) : (s.modChop c f).sets = s.sets := rfl
@[simp] theorem State.modChop_chans (s : State) (c : Fin 2) (f : ChopSt → ChopSt) : (s.modChop c f).chans = s.chans := rfl
@[simp] theorem State.modChop_edges (s : State) (c : Fin 2) (f : ChopSt → ChopSt) : (s.modChop c f).edges = s.edges := rfl
@[simp] theorem State.modChop_groups (s : State) (c : Fin 2) (f : ChopSt → ChopSt) : (s.modChop c f).groups = s.groups := rfl
@[simp] theorem State.modChop_direct (s : State) (c : Fin 2) (f : ChopSt → ChopSt) : (s.modChop c f).direct = s.direct := rfl
@[simp] theorem State.modChop_acq (s : State) (c : Fin 2) (f : ChopSt → ChopSt) : (s.modChop c f).acq = s.acq := rfl
@[simp] theorem State.modChop_winOut (s : State) (c : Fin 2) (f : ChopSt → ChopSt) : (s.modChop c f).winOut = s.winOut := rfl
@[simp] theorem State.modChop_flt (s : State) (c : Fin 2) (f : ChopSt → ChopSt) : (s.modChop c f).flt = s.flt := rfl
@[simp] theorem State.modChop_estop (s : State) (c : Fin 2) (f : ChopSt → ChopSt) : (s.modChop c f).estop = s.estop := rfl
@[simp] theorem State.modChop_sup (s : State) (c : Fin 2) (f : ChopSt → ChopSt) : (s.modChop c f).sup = s.sup := rfl
@[simp] theorem State.modChop_thm (s : State) (c : Fin 2) (f : ChopSt → ChopSt) : (s.modChop c f).thm = s.thm := rfl
@[simp] theorem State.modChop_host (s : State) (c : Fin 2) (f : ChopSt → ChopSt) : (s.modChop c f).host = s.host := rfl
@[simp] theorem State.modChop_silo (s : State) (c : Fin 2) (f : ChopSt → ChopSt) : (s.modChop c f).silo = s.silo := rfl
@[simp] theorem State.modChop_otp (s : State) (c : Fin 2) (f : ChopSt → ChopSt) : (s.modChop c f).otp = s.otp := rfl
@[simp] theorem State.modChop_msr (s : State) (c : Fin 2) (f : ChopSt → ChopSt) : (s.modChop c f).msr = s.msr := rfl
@[simp] theorem State.modChop_pcr (s : State) (c : Fin 2) (f : ChopSt → ChopSt) : (s.modChop c f).pcr = s.pcr := rfl
@[simp] theorem State.modChop_lts (s : State) (c : Fin 2) (f : ChopSt → ChopSt) : (s.modChop c f).lts = s.lts := rfl
@[simp] theorem State.modChop_ypl (s : State) (c : Fin 2) (f : ChopSt → ChopSt) : (s.modChop c f).ypl = s.ypl := rfl
@[simp] theorem State.modChop_svc (s : State) (c : Fin 2) (f : ChopSt → ChopSt) : (s.modChop c f).svc = s.svc := rfl

@[simp] theorem State.modPair_time (s : State) (p : Fin 16) (f : PairSt → PairSt) : (s.modPair p f).time = s.time := rfl
@[simp] theorem State.modPair_freeCtr (s : State) (p : Fin 16) (f : PairSt → PairSt) : (s.modPair p f).freeCtr = s.freeCtr := rfl
@[simp] theorem State.modPair_pending (s : State) (p : Fin 16) (f : PairSt → PairSt) : (s.modPair p f).pending = s.pending := rfl
@[simp] theorem State.modPair_fpSteps (s : State) (p : Fin 16) (f : PairSt → PairSt) : (s.modPair p f).fpSteps = s.fpSteps := rfl
@[simp] theorem State.modPair_fpNewAt (s : State) (p : Fin 16) (f : PairSt → PairSt) : (s.modPair p f).fpNewAt = s.fpNewAt := rfl
@[simp] theorem State.modPair_lastFp (s : State) (p : Fin 16) (f : PairSt → PairSt) : (s.modPair p f).lastFp = s.lastFp := rfl
@[simp] theorem State.modPair_lastSp (s : State) (p : Fin 16) (f : PairSt → PairSt) : (s.modPair p f).lastSp = s.lastSp := rfl
@[simp] theorem State.modPair_lastHr (s : State) (p : Fin 16) (f : PairSt → PairSt) : (s.modPair p f).lastHr = s.lastHr := rfl
@[simp] theorem State.modPair_started (s : State) (p : Fin 16) (f : PairSt → PairSt) : (s.modPair p f).started = s.started := rfl
@[simp] theorem State.modPair_regs (s : State) (p : Fin 16) (f : PairSt → PairSt) : (s.modPair p f).regs = s.regs := rfl
@[simp] theorem State.modPair_nodes (s : State) (p : Fin 16) (f : PairSt → PairSt) : (s.modPair p f).nodes = s.nodes := rfl
@[simp] theorem State.modPair_ecc (s : State) (p : Fin 16) (f : PairSt → PairSt) : (s.modPair p f).ecc = s.ecc := rfl
@[simp] theorem State.modPair_late (s : State) (p : Fin 16) (f : PairSt → PairSt) : (s.modPair p f).late = s.late := rfl
@[simp] theorem State.modPair_mach (s : State) (p : Fin 16) (f : PairSt → PairSt) : (s.modPair p f).mach = s.mach := rfl
@[simp] theorem State.modPair_sets (s : State) (p : Fin 16) (f : PairSt → PairSt) : (s.modPair p f).sets = s.sets := rfl
@[simp] theorem State.modPair_chans (s : State) (p : Fin 16) (f : PairSt → PairSt) : (s.modPair p f).chans = s.chans := rfl
@[simp] theorem State.modPair_edges (s : State) (p : Fin 16) (f : PairSt → PairSt) : (s.modPair p f).edges = s.edges := rfl
@[simp] theorem State.modPair_groups (s : State) (p : Fin 16) (f : PairSt → PairSt) : (s.modPair p f).groups = s.groups := rfl
@[simp] theorem State.modPair_direct (s : State) (p : Fin 16) (f : PairSt → PairSt) : (s.modPair p f).direct = s.direct := rfl
@[simp] theorem State.modPair_chops (s : State) (p : Fin 16) (f : PairSt → PairSt) : (s.modPair p f).chops = s.chops := rfl
@[simp] theorem State.modPair_winOut (s : State) (p : Fin 16) (f : PairSt → PairSt) : (s.modPair p f).winOut = s.winOut := rfl
@[simp] theorem State.modPair_flt (s : State) (p : Fin 16) (f : PairSt → PairSt) : (s.modPair p f).flt = s.flt := rfl
@[simp] theorem State.modPair_estop (s : State) (p : Fin 16) (f : PairSt → PairSt) : (s.modPair p f).estop = s.estop := rfl
@[simp] theorem State.modPair_sup (s : State) (p : Fin 16) (f : PairSt → PairSt) : (s.modPair p f).sup = s.sup := rfl
@[simp] theorem State.modPair_thm (s : State) (p : Fin 16) (f : PairSt → PairSt) : (s.modPair p f).thm = s.thm := rfl
@[simp] theorem State.modPair_host (s : State) (p : Fin 16) (f : PairSt → PairSt) : (s.modPair p f).host = s.host := rfl
@[simp] theorem State.modPair_silo (s : State) (p : Fin 16) (f : PairSt → PairSt) : (s.modPair p f).silo = s.silo := rfl
@[simp] theorem State.modPair_otp (s : State) (p : Fin 16) (f : PairSt → PairSt) : (s.modPair p f).otp = s.otp := rfl
@[simp] theorem State.modPair_msr (s : State) (p : Fin 16) (f : PairSt → PairSt) : (s.modPair p f).msr = s.msr := rfl
@[simp] theorem State.modPair_pcr (s : State) (p : Fin 16) (f : PairSt → PairSt) : (s.modPair p f).pcr = s.pcr := rfl
@[simp] theorem State.modPair_lts (s : State) (p : Fin 16) (f : PairSt → PairSt) : (s.modPair p f).lts = s.lts := rfl
@[simp] theorem State.modPair_ypl (s : State) (p : Fin 16) (f : PairSt → PairSt) : (s.modPair p f).ypl = s.ypl := rfl
@[simp] theorem State.modPair_svc (s : State) (p : Fin 16) (f : PairSt → PairSt) : (s.modPair p f).svc = s.svc := rfl

@[simp] theorem State.modStream_time (s : State) (i : Fin 32) (f : StreamSt → StreamSt) : (s.modStream i f).time = s.time := rfl
@[simp] theorem State.modStream_freeCtr (s : State) (i : Fin 32) (f : StreamSt → StreamSt) : (s.modStream i f).freeCtr = s.freeCtr := rfl
@[simp] theorem State.modStream_pending (s : State) (i : Fin 32) (f : StreamSt → StreamSt) : (s.modStream i f).pending = s.pending := rfl
@[simp] theorem State.modStream_fpSteps (s : State) (i : Fin 32) (f : StreamSt → StreamSt) : (s.modStream i f).fpSteps = s.fpSteps := rfl
@[simp] theorem State.modStream_fpNewAt (s : State) (i : Fin 32) (f : StreamSt → StreamSt) : (s.modStream i f).fpNewAt = s.fpNewAt := rfl
@[simp] theorem State.modStream_lastFp (s : State) (i : Fin 32) (f : StreamSt → StreamSt) : (s.modStream i f).lastFp = s.lastFp := rfl
@[simp] theorem State.modStream_lastSp (s : State) (i : Fin 32) (f : StreamSt → StreamSt) : (s.modStream i f).lastSp = s.lastSp := rfl
@[simp] theorem State.modStream_lastHr (s : State) (i : Fin 32) (f : StreamSt → StreamSt) : (s.modStream i f).lastHr = s.lastHr := rfl
@[simp] theorem State.modStream_started (s : State) (i : Fin 32) (f : StreamSt → StreamSt) : (s.modStream i f).started = s.started := rfl
@[simp] theorem State.modStream_regs (s : State) (i : Fin 32) (f : StreamSt → StreamSt) : (s.modStream i f).regs = s.regs := rfl
@[simp] theorem State.modStream_nodes (s : State) (i : Fin 32) (f : StreamSt → StreamSt) : (s.modStream i f).nodes = s.nodes := rfl
@[simp] theorem State.modStream_ecc (s : State) (i : Fin 32) (f : StreamSt → StreamSt) : (s.modStream i f).ecc = s.ecc := rfl
@[simp] theorem State.modStream_late (s : State) (i : Fin 32) (f : StreamSt → StreamSt) : (s.modStream i f).late = s.late := rfl
@[simp] theorem State.modStream_mach (s : State) (i : Fin 32) (f : StreamSt → StreamSt) : (s.modStream i f).mach = s.mach := rfl
@[simp] theorem State.modStream_sets (s : State) (i : Fin 32) (f : StreamSt → StreamSt) : (s.modStream i f).sets = s.sets := rfl
@[simp] theorem State.modStream_chans (s : State) (i : Fin 32) (f : StreamSt → StreamSt) : (s.modStream i f).chans = s.chans := rfl
@[simp] theorem State.modStream_edges (s : State) (i : Fin 32) (f : StreamSt → StreamSt) : (s.modStream i f).edges = s.edges := rfl
@[simp] theorem State.modStream_groups (s : State) (i : Fin 32) (f : StreamSt → StreamSt) : (s.modStream i f).groups = s.groups := rfl
@[simp] theorem State.modStream_direct (s : State) (i : Fin 32) (f : StreamSt → StreamSt) : (s.modStream i f).direct = s.direct := rfl
@[simp] theorem State.modStream_chops (s : State) (i : Fin 32) (f : StreamSt → StreamSt) : (s.modStream i f).chops = s.chops := rfl
@[simp] theorem State.modStream_winOut (s : State) (i : Fin 32) (f : StreamSt → StreamSt) : (s.modStream i f).winOut = s.winOut := rfl
@[simp] theorem State.modStream_flt (s : State) (i : Fin 32) (f : StreamSt → StreamSt) : (s.modStream i f).flt = s.flt := rfl
@[simp] theorem State.modStream_estop (s : State) (i : Fin 32) (f : StreamSt → StreamSt) : (s.modStream i f).estop = s.estop := rfl
@[simp] theorem State.modStream_sup (s : State) (i : Fin 32) (f : StreamSt → StreamSt) : (s.modStream i f).sup = s.sup := rfl
@[simp] theorem State.modStream_thm (s : State) (i : Fin 32) (f : StreamSt → StreamSt) : (s.modStream i f).thm = s.thm := rfl
@[simp] theorem State.modStream_host (s : State) (i : Fin 32) (f : StreamSt → StreamSt) : (s.modStream i f).host = s.host := rfl
@[simp] theorem State.modStream_silo (s : State) (i : Fin 32) (f : StreamSt → StreamSt) : (s.modStream i f).silo = s.silo := rfl
@[simp] theorem State.modStream_otp (s : State) (i : Fin 32) (f : StreamSt → StreamSt) : (s.modStream i f).otp = s.otp := rfl
@[simp] theorem State.modStream_msr (s : State) (i : Fin 32) (f : StreamSt → StreamSt) : (s.modStream i f).msr = s.msr := rfl
@[simp] theorem State.modStream_pcr (s : State) (i : Fin 32) (f : StreamSt → StreamSt) : (s.modStream i f).pcr = s.pcr := rfl
@[simp] theorem State.modStream_lts (s : State) (i : Fin 32) (f : StreamSt → StreamSt) : (s.modStream i f).lts = s.lts := rfl
@[simp] theorem State.modStream_ypl (s : State) (i : Fin 32) (f : StreamSt → StreamSt) : (s.modStream i f).ypl = s.ypl := rfl
@[simp] theorem State.modStream_svc (s : State) (i : Fin 32) (f : StreamSt → StreamSt) : (s.modStream i f).svc = s.svc := rfl

@[simp] theorem State.modGlk_time (s : State) (g : Fin 8) (f : GlkSt → GlkSt) : (s.modGlk g f).time = s.time := rfl
@[simp] theorem State.modGlk_freeCtr (s : State) (g : Fin 8) (f : GlkSt → GlkSt) : (s.modGlk g f).freeCtr = s.freeCtr := rfl
@[simp] theorem State.modGlk_pending (s : State) (g : Fin 8) (f : GlkSt → GlkSt) : (s.modGlk g f).pending = s.pending := rfl
@[simp] theorem State.modGlk_fpSteps (s : State) (g : Fin 8) (f : GlkSt → GlkSt) : (s.modGlk g f).fpSteps = s.fpSteps := rfl
@[simp] theorem State.modGlk_fpNewAt (s : State) (g : Fin 8) (f : GlkSt → GlkSt) : (s.modGlk g f).fpNewAt = s.fpNewAt := rfl
@[simp] theorem State.modGlk_lastFp (s : State) (g : Fin 8) (f : GlkSt → GlkSt) : (s.modGlk g f).lastFp = s.lastFp := rfl
@[simp] theorem State.modGlk_lastSp (s : State) (g : Fin 8) (f : GlkSt → GlkSt) : (s.modGlk g f).lastSp = s.lastSp := rfl
@[simp] theorem State.modGlk_lastHr (s : State) (g : Fin 8) (f : GlkSt → GlkSt) : (s.modGlk g f).lastHr = s.lastHr := rfl
@[simp] theorem State.modGlk_started (s : State) (g : Fin 8) (f : GlkSt → GlkSt) : (s.modGlk g f).started = s.started := rfl
@[simp] theorem State.modGlk_regs (s : State) (g : Fin 8) (f : GlkSt → GlkSt) : (s.modGlk g f).regs = s.regs := rfl
@[simp] theorem State.modGlk_nodes (s : State) (g : Fin 8) (f : GlkSt → GlkSt) : (s.modGlk g f).nodes = s.nodes := rfl
@[simp] theorem State.modGlk_ecc (s : State) (g : Fin 8) (f : GlkSt → GlkSt) : (s.modGlk g f).ecc = s.ecc := rfl
@[simp] theorem State.modGlk_late (s : State) (g : Fin 8) (f : GlkSt → GlkSt) : (s.modGlk g f).late = s.late := rfl
@[simp] theorem State.modGlk_mach (s : State) (g : Fin 8) (f : GlkSt → GlkSt) : (s.modGlk g f).mach = s.mach := rfl
@[simp] theorem State.modGlk_sets (s : State) (g : Fin 8) (f : GlkSt → GlkSt) : (s.modGlk g f).sets = s.sets := rfl
@[simp] theorem State.modGlk_chans (s : State) (g : Fin 8) (f : GlkSt → GlkSt) : (s.modGlk g f).chans = s.chans := rfl
@[simp] theorem State.modGlk_edges (s : State) (g : Fin 8) (f : GlkSt → GlkSt) : (s.modGlk g f).edges = s.edges := rfl
@[simp] theorem State.modGlk_groups (s : State) (g : Fin 8) (f : GlkSt → GlkSt) : (s.modGlk g f).groups = s.groups := rfl
@[simp] theorem State.modGlk_direct (s : State) (g : Fin 8) (f : GlkSt → GlkSt) : (s.modGlk g f).direct = s.direct := rfl
@[simp] theorem State.modGlk_chops (s : State) (g : Fin 8) (f : GlkSt → GlkSt) : (s.modGlk g f).chops = s.chops := rfl
@[simp] theorem State.modGlk_acq (s : State) (g : Fin 8) (f : GlkSt → GlkSt) : (s.modGlk g f).acq = s.acq := rfl
@[simp] theorem State.modGlk_winOut (s : State) (g : Fin 8) (f : GlkSt → GlkSt) : (s.modGlk g f).winOut = s.winOut := rfl
@[simp] theorem State.modGlk_flt (s : State) (g : Fin 8) (f : GlkSt → GlkSt) : (s.modGlk g f).flt = s.flt := rfl
@[simp] theorem State.modGlk_estop (s : State) (g : Fin 8) (f : GlkSt → GlkSt) : (s.modGlk g f).estop = s.estop := rfl
@[simp] theorem State.modGlk_thm (s : State) (g : Fin 8) (f : GlkSt → GlkSt) : (s.modGlk g f).thm = s.thm := rfl
@[simp] theorem State.modGlk_host (s : State) (g : Fin 8) (f : GlkSt → GlkSt) : (s.modGlk g f).host = s.host := rfl
@[simp] theorem State.modGlk_silo (s : State) (g : Fin 8) (f : GlkSt → GlkSt) : (s.modGlk g f).silo = s.silo := rfl
@[simp] theorem State.modGlk_otp (s : State) (g : Fin 8) (f : GlkSt → GlkSt) : (s.modGlk g f).otp = s.otp := rfl
@[simp] theorem State.modGlk_msr (s : State) (g : Fin 8) (f : GlkSt → GlkSt) : (s.modGlk g f).msr = s.msr := rfl
@[simp] theorem State.modGlk_pcr (s : State) (g : Fin 8) (f : GlkSt → GlkSt) : (s.modGlk g f).pcr = s.pcr := rfl
@[simp] theorem State.modGlk_lts (s : State) (g : Fin 8) (f : GlkSt → GlkSt) : (s.modGlk g f).lts = s.lts := rfl
@[simp] theorem State.modGlk_ypl (s : State) (g : Fin 8) (f : GlkSt → GlkSt) : (s.modGlk g f).ypl = s.ypl := rfl
@[simp] theorem State.modGlk_svc (s : State) (g : Fin 8) (f : GlkSt → GlkSt) : (s.modGlk g f).svc = s.svc := rfl

@[simp] theorem State.modSilo_time (s : State) (c : Fin 16) (f : SiloCh → SiloCh) : (s.modSilo c f).time = s.time := rfl
@[simp] theorem State.modSilo_freeCtr (s : State) (c : Fin 16) (f : SiloCh → SiloCh) : (s.modSilo c f).freeCtr = s.freeCtr := rfl
@[simp] theorem State.modSilo_pending (s : State) (c : Fin 16) (f : SiloCh → SiloCh) : (s.modSilo c f).pending = s.pending := rfl
@[simp] theorem State.modSilo_fpSteps (s : State) (c : Fin 16) (f : SiloCh → SiloCh) : (s.modSilo c f).fpSteps = s.fpSteps := rfl
@[simp] theorem State.modSilo_fpNewAt (s : State) (c : Fin 16) (f : SiloCh → SiloCh) : (s.modSilo c f).fpNewAt = s.fpNewAt := rfl
@[simp] theorem State.modSilo_lastFp (s : State) (c : Fin 16) (f : SiloCh → SiloCh) : (s.modSilo c f).lastFp = s.lastFp := rfl
@[simp] theorem State.modSilo_lastSp (s : State) (c : Fin 16) (f : SiloCh → SiloCh) : (s.modSilo c f).lastSp = s.lastSp := rfl
@[simp] theorem State.modSilo_lastHr (s : State) (c : Fin 16) (f : SiloCh → SiloCh) : (s.modSilo c f).lastHr = s.lastHr := rfl
@[simp] theorem State.modSilo_started (s : State) (c : Fin 16) (f : SiloCh → SiloCh) : (s.modSilo c f).started = s.started := rfl
@[simp] theorem State.modSilo_regs (s : State) (c : Fin 16) (f : SiloCh → SiloCh) : (s.modSilo c f).regs = s.regs := rfl
@[simp] theorem State.modSilo_nodes (s : State) (c : Fin 16) (f : SiloCh → SiloCh) : (s.modSilo c f).nodes = s.nodes := rfl
@[simp] theorem State.modSilo_ecc (s : State) (c : Fin 16) (f : SiloCh → SiloCh) : (s.modSilo c f).ecc = s.ecc := rfl
@[simp] theorem State.modSilo_late (s : State) (c : Fin 16) (f : SiloCh → SiloCh) : (s.modSilo c f).late = s.late := rfl
@[simp] theorem State.modSilo_mach (s : State) (c : Fin 16) (f : SiloCh → SiloCh) : (s.modSilo c f).mach = s.mach := rfl
@[simp] theorem State.modSilo_sets (s : State) (c : Fin 16) (f : SiloCh → SiloCh) : (s.modSilo c f).sets = s.sets := rfl
@[simp] theorem State.modSilo_chans (s : State) (c : Fin 16) (f : SiloCh → SiloCh) : (s.modSilo c f).chans = s.chans := rfl
@[simp] theorem State.modSilo_edges (s : State) (c : Fin 16) (f : SiloCh → SiloCh) : (s.modSilo c f).edges = s.edges := rfl
@[simp] theorem State.modSilo_groups (s : State) (c : Fin 16) (f : SiloCh → SiloCh) : (s.modSilo c f).groups = s.groups := rfl
@[simp] theorem State.modSilo_direct (s : State) (c : Fin 16) (f : SiloCh → SiloCh) : (s.modSilo c f).direct = s.direct := rfl
@[simp] theorem State.modSilo_chops (s : State) (c : Fin 16) (f : SiloCh → SiloCh) : (s.modSilo c f).chops = s.chops := rfl
@[simp] theorem State.modSilo_acq (s : State) (c : Fin 16) (f : SiloCh → SiloCh) : (s.modSilo c f).acq = s.acq := rfl
@[simp] theorem State.modSilo_winOut (s : State) (c : Fin 16) (f : SiloCh → SiloCh) : (s.modSilo c f).winOut = s.winOut := rfl
@[simp] theorem State.modSilo_flt (s : State) (c : Fin 16) (f : SiloCh → SiloCh) : (s.modSilo c f).flt = s.flt := rfl
@[simp] theorem State.modSilo_estop (s : State) (c : Fin 16) (f : SiloCh → SiloCh) : (s.modSilo c f).estop = s.estop := rfl
@[simp] theorem State.modSilo_sup (s : State) (c : Fin 16) (f : SiloCh → SiloCh) : (s.modSilo c f).sup = s.sup := rfl
@[simp] theorem State.modSilo_thm (s : State) (c : Fin 16) (f : SiloCh → SiloCh) : (s.modSilo c f).thm = s.thm := rfl
@[simp] theorem State.modSilo_host (s : State) (c : Fin 16) (f : SiloCh → SiloCh) : (s.modSilo c f).host = s.host := rfl
@[simp] theorem State.modSilo_otp (s : State) (c : Fin 16) (f : SiloCh → SiloCh) : (s.modSilo c f).otp = s.otp := rfl
@[simp] theorem State.modSilo_msr (s : State) (c : Fin 16) (f : SiloCh → SiloCh) : (s.modSilo c f).msr = s.msr := rfl
@[simp] theorem State.modSilo_pcr (s : State) (c : Fin 16) (f : SiloCh → SiloCh) : (s.modSilo c f).pcr = s.pcr := rfl
@[simp] theorem State.modSilo_lts (s : State) (c : Fin 16) (f : SiloCh → SiloCh) : (s.modSilo c f).lts = s.lts := rfl
@[simp] theorem State.modSilo_ypl (s : State) (c : Fin 16) (f : SiloCh → SiloCh) : (s.modSilo c f).ypl = s.ypl := rfl
@[simp] theorem State.modSilo_svc (s : State) (c : Fin 16) (f : SiloCh → SiloCh) : (s.modSilo c f).svc = s.svc := rfl

@[simp] theorem State.modRing_time (s : State) (i : Fin 48) (f : RingSt → RingSt) : (s.modRing i f).time = s.time := rfl
@[simp] theorem State.modRing_freeCtr (s : State) (i : Fin 48) (f : RingSt → RingSt) : (s.modRing i f).freeCtr = s.freeCtr := rfl
@[simp] theorem State.modRing_pending (s : State) (i : Fin 48) (f : RingSt → RingSt) : (s.modRing i f).pending = s.pending := rfl
@[simp] theorem State.modRing_fpSteps (s : State) (i : Fin 48) (f : RingSt → RingSt) : (s.modRing i f).fpSteps = s.fpSteps := rfl
@[simp] theorem State.modRing_fpNewAt (s : State) (i : Fin 48) (f : RingSt → RingSt) : (s.modRing i f).fpNewAt = s.fpNewAt := rfl
@[simp] theorem State.modRing_lastFp (s : State) (i : Fin 48) (f : RingSt → RingSt) : (s.modRing i f).lastFp = s.lastFp := rfl
@[simp] theorem State.modRing_lastSp (s : State) (i : Fin 48) (f : RingSt → RingSt) : (s.modRing i f).lastSp = s.lastSp := rfl
@[simp] theorem State.modRing_lastHr (s : State) (i : Fin 48) (f : RingSt → RingSt) : (s.modRing i f).lastHr = s.lastHr := rfl
@[simp] theorem State.modRing_started (s : State) (i : Fin 48) (f : RingSt → RingSt) : (s.modRing i f).started = s.started := rfl
@[simp] theorem State.modRing_regs (s : State) (i : Fin 48) (f : RingSt → RingSt) : (s.modRing i f).regs = s.regs := rfl
@[simp] theorem State.modRing_nodes (s : State) (i : Fin 48) (f : RingSt → RingSt) : (s.modRing i f).nodes = s.nodes := rfl
@[simp] theorem State.modRing_ecc (s : State) (i : Fin 48) (f : RingSt → RingSt) : (s.modRing i f).ecc = s.ecc := rfl
@[simp] theorem State.modRing_late (s : State) (i : Fin 48) (f : RingSt → RingSt) : (s.modRing i f).late = s.late := rfl
@[simp] theorem State.modRing_mach (s : State) (i : Fin 48) (f : RingSt → RingSt) : (s.modRing i f).mach = s.mach := rfl
@[simp] theorem State.modRing_sets (s : State) (i : Fin 48) (f : RingSt → RingSt) : (s.modRing i f).sets = s.sets := rfl
@[simp] theorem State.modRing_chans (s : State) (i : Fin 48) (f : RingSt → RingSt) : (s.modRing i f).chans = s.chans := rfl
@[simp] theorem State.modRing_edges (s : State) (i : Fin 48) (f : RingSt → RingSt) : (s.modRing i f).edges = s.edges := rfl
@[simp] theorem State.modRing_groups (s : State) (i : Fin 48) (f : RingSt → RingSt) : (s.modRing i f).groups = s.groups := rfl
@[simp] theorem State.modRing_direct (s : State) (i : Fin 48) (f : RingSt → RingSt) : (s.modRing i f).direct = s.direct := rfl
@[simp] theorem State.modRing_chops (s : State) (i : Fin 48) (f : RingSt → RingSt) : (s.modRing i f).chops = s.chops := rfl
@[simp] theorem State.modRing_acq (s : State) (i : Fin 48) (f : RingSt → RingSt) : (s.modRing i f).acq = s.acq := rfl
@[simp] theorem State.modRing_winOut (s : State) (i : Fin 48) (f : RingSt → RingSt) : (s.modRing i f).winOut = s.winOut := rfl
@[simp] theorem State.modRing_flt (s : State) (i : Fin 48) (f : RingSt → RingSt) : (s.modRing i f).flt = s.flt := rfl
@[simp] theorem State.modRing_estop (s : State) (i : Fin 48) (f : RingSt → RingSt) : (s.modRing i f).estop = s.estop := rfl
@[simp] theorem State.modRing_sup (s : State) (i : Fin 48) (f : RingSt → RingSt) : (s.modRing i f).sup = s.sup := rfl
@[simp] theorem State.modRing_thm (s : State) (i : Fin 48) (f : RingSt → RingSt) : (s.modRing i f).thm = s.thm := rfl
@[simp] theorem State.modRing_silo (s : State) (i : Fin 48) (f : RingSt → RingSt) : (s.modRing i f).silo = s.silo := rfl
@[simp] theorem State.modRing_otp (s : State) (i : Fin 48) (f : RingSt → RingSt) : (s.modRing i f).otp = s.otp := rfl
@[simp] theorem State.modRing_msr (s : State) (i : Fin 48) (f : RingSt → RingSt) : (s.modRing i f).msr = s.msr := rfl
@[simp] theorem State.modRing_pcr (s : State) (i : Fin 48) (f : RingSt → RingSt) : (s.modRing i f).pcr = s.pcr := rfl
@[simp] theorem State.modRing_lts (s : State) (i : Fin 48) (f : RingSt → RingSt) : (s.modRing i f).lts = s.lts := rfl
@[simp] theorem State.modRing_ypl (s : State) (i : Fin 48) (f : RingSt → RingSt) : (s.modRing i f).ypl = s.ypl := rfl
@[simp] theorem State.modRing_svc (s : State) (i : Fin 48) (f : RingSt → RingSt) : (s.modRing i f).svc = s.svc := rfl

@[simp] theorem State.modLop_time (s : State) (k : Fin 8) (f : Lop → Lop) : (s.modLop k f).time = s.time := rfl
@[simp] theorem State.modLop_freeCtr (s : State) (k : Fin 8) (f : Lop → Lop) : (s.modLop k f).freeCtr = s.freeCtr := rfl
@[simp] theorem State.modLop_pending (s : State) (k : Fin 8) (f : Lop → Lop) : (s.modLop k f).pending = s.pending := rfl
@[simp] theorem State.modLop_fpSteps (s : State) (k : Fin 8) (f : Lop → Lop) : (s.modLop k f).fpSteps = s.fpSteps := rfl
@[simp] theorem State.modLop_fpNewAt (s : State) (k : Fin 8) (f : Lop → Lop) : (s.modLop k f).fpNewAt = s.fpNewAt := rfl
@[simp] theorem State.modLop_lastFp (s : State) (k : Fin 8) (f : Lop → Lop) : (s.modLop k f).lastFp = s.lastFp := rfl
@[simp] theorem State.modLop_lastSp (s : State) (k : Fin 8) (f : Lop → Lop) : (s.modLop k f).lastSp = s.lastSp := rfl
@[simp] theorem State.modLop_lastHr (s : State) (k : Fin 8) (f : Lop → Lop) : (s.modLop k f).lastHr = s.lastHr := rfl
@[simp] theorem State.modLop_started (s : State) (k : Fin 8) (f : Lop → Lop) : (s.modLop k f).started = s.started := rfl
@[simp] theorem State.modLop_regs (s : State) (k : Fin 8) (f : Lop → Lop) : (s.modLop k f).regs = s.regs := rfl
@[simp] theorem State.modLop_nodes (s : State) (k : Fin 8) (f : Lop → Lop) : (s.modLop k f).nodes = s.nodes := rfl
@[simp] theorem State.modLop_ecc (s : State) (k : Fin 8) (f : Lop → Lop) : (s.modLop k f).ecc = s.ecc := rfl
@[simp] theorem State.modLop_late (s : State) (k : Fin 8) (f : Lop → Lop) : (s.modLop k f).late = s.late := rfl
@[simp] theorem State.modLop_mach (s : State) (k : Fin 8) (f : Lop → Lop) : (s.modLop k f).mach = s.mach := rfl
@[simp] theorem State.modLop_sets (s : State) (k : Fin 8) (f : Lop → Lop) : (s.modLop k f).sets = s.sets := rfl
@[simp] theorem State.modLop_chans (s : State) (k : Fin 8) (f : Lop → Lop) : (s.modLop k f).chans = s.chans := rfl
@[simp] theorem State.modLop_edges (s : State) (k : Fin 8) (f : Lop → Lop) : (s.modLop k f).edges = s.edges := rfl
@[simp] theorem State.modLop_groups (s : State) (k : Fin 8) (f : Lop → Lop) : (s.modLop k f).groups = s.groups := rfl
@[simp] theorem State.modLop_direct (s : State) (k : Fin 8) (f : Lop → Lop) : (s.modLop k f).direct = s.direct := rfl
@[simp] theorem State.modLop_chops (s : State) (k : Fin 8) (f : Lop → Lop) : (s.modLop k f).chops = s.chops := rfl
@[simp] theorem State.modLop_acq (s : State) (k : Fin 8) (f : Lop → Lop) : (s.modLop k f).acq = s.acq := rfl
@[simp] theorem State.modLop_winOut (s : State) (k : Fin 8) (f : Lop → Lop) : (s.modLop k f).winOut = s.winOut := rfl
@[simp] theorem State.modLop_flt (s : State) (k : Fin 8) (f : Lop → Lop) : (s.modLop k f).flt = s.flt := rfl
@[simp] theorem State.modLop_estop (s : State) (k : Fin 8) (f : Lop → Lop) : (s.modLop k f).estop = s.estop := rfl
@[simp] theorem State.modLop_sup (s : State) (k : Fin 8) (f : Lop → Lop) : (s.modLop k f).sup = s.sup := rfl
@[simp] theorem State.modLop_thm (s : State) (k : Fin 8) (f : Lop → Lop) : (s.modLop k f).thm = s.thm := rfl
@[simp] theorem State.modLop_silo (s : State) (k : Fin 8) (f : Lop → Lop) : (s.modLop k f).silo = s.silo := rfl
@[simp] theorem State.modLop_otp (s : State) (k : Fin 8) (f : Lop → Lop) : (s.modLop k f).otp = s.otp := rfl
@[simp] theorem State.modLop_msr (s : State) (k : Fin 8) (f : Lop → Lop) : (s.modLop k f).msr = s.msr := rfl
@[simp] theorem State.modLop_pcr (s : State) (k : Fin 8) (f : Lop → Lop) : (s.modLop k f).pcr = s.pcr := rfl
@[simp] theorem State.modLop_lts (s : State) (k : Fin 8) (f : Lop → Lop) : (s.modLop k f).lts = s.lts := rfl
@[simp] theorem State.modLop_ypl (s : State) (k : Fin 8) (f : Lop → Lop) : (s.modLop k f).ypl = s.ypl := rfl
@[simp] theorem State.modLop_svc (s : State) (k : Fin 8) (f : Lop → Lop) : (s.modLop k f).svc = s.svc := rfl

@[simp] theorem State.modZone_time (s : State) (z : Fin 8) (f : ZoneSt → ZoneSt) : (s.modZone z f).time = s.time := rfl
@[simp] theorem State.modZone_freeCtr (s : State) (z : Fin 8) (f : ZoneSt → ZoneSt) : (s.modZone z f).freeCtr = s.freeCtr := rfl
@[simp] theorem State.modZone_pending (s : State) (z : Fin 8) (f : ZoneSt → ZoneSt) : (s.modZone z f).pending = s.pending := rfl
@[simp] theorem State.modZone_fpSteps (s : State) (z : Fin 8) (f : ZoneSt → ZoneSt) : (s.modZone z f).fpSteps = s.fpSteps := rfl
@[simp] theorem State.modZone_fpNewAt (s : State) (z : Fin 8) (f : ZoneSt → ZoneSt) : (s.modZone z f).fpNewAt = s.fpNewAt := rfl
@[simp] theorem State.modZone_lastFp (s : State) (z : Fin 8) (f : ZoneSt → ZoneSt) : (s.modZone z f).lastFp = s.lastFp := rfl
@[simp] theorem State.modZone_lastSp (s : State) (z : Fin 8) (f : ZoneSt → ZoneSt) : (s.modZone z f).lastSp = s.lastSp := rfl
@[simp] theorem State.modZone_lastHr (s : State) (z : Fin 8) (f : ZoneSt → ZoneSt) : (s.modZone z f).lastHr = s.lastHr := rfl
@[simp] theorem State.modZone_started (s : State) (z : Fin 8) (f : ZoneSt → ZoneSt) : (s.modZone z f).started = s.started := rfl
@[simp] theorem State.modZone_regs (s : State) (z : Fin 8) (f : ZoneSt → ZoneSt) : (s.modZone z f).regs = s.regs := rfl
@[simp] theorem State.modZone_nodes (s : State) (z : Fin 8) (f : ZoneSt → ZoneSt) : (s.modZone z f).nodes = s.nodes := rfl
@[simp] theorem State.modZone_ecc (s : State) (z : Fin 8) (f : ZoneSt → ZoneSt) : (s.modZone z f).ecc = s.ecc := rfl
@[simp] theorem State.modZone_late (s : State) (z : Fin 8) (f : ZoneSt → ZoneSt) : (s.modZone z f).late = s.late := rfl
@[simp] theorem State.modZone_mach (s : State) (z : Fin 8) (f : ZoneSt → ZoneSt) : (s.modZone z f).mach = s.mach := rfl
@[simp] theorem State.modZone_sets (s : State) (z : Fin 8) (f : ZoneSt → ZoneSt) : (s.modZone z f).sets = s.sets := rfl
@[simp] theorem State.modZone_chans (s : State) (z : Fin 8) (f : ZoneSt → ZoneSt) : (s.modZone z f).chans = s.chans := rfl
@[simp] theorem State.modZone_edges (s : State) (z : Fin 8) (f : ZoneSt → ZoneSt) : (s.modZone z f).edges = s.edges := rfl
@[simp] theorem State.modZone_groups (s : State) (z : Fin 8) (f : ZoneSt → ZoneSt) : (s.modZone z f).groups = s.groups := rfl
@[simp] theorem State.modZone_direct (s : State) (z : Fin 8) (f : ZoneSt → ZoneSt) : (s.modZone z f).direct = s.direct := rfl
@[simp] theorem State.modZone_chops (s : State) (z : Fin 8) (f : ZoneSt → ZoneSt) : (s.modZone z f).chops = s.chops := rfl
@[simp] theorem State.modZone_acq (s : State) (z : Fin 8) (f : ZoneSt → ZoneSt) : (s.modZone z f).acq = s.acq := rfl
@[simp] theorem State.modZone_winOut (s : State) (z : Fin 8) (f : ZoneSt → ZoneSt) : (s.modZone z f).winOut = s.winOut := rfl
@[simp] theorem State.modZone_flt (s : State) (z : Fin 8) (f : ZoneSt → ZoneSt) : (s.modZone z f).flt = s.flt := rfl
@[simp] theorem State.modZone_estop (s : State) (z : Fin 8) (f : ZoneSt → ZoneSt) : (s.modZone z f).estop = s.estop := rfl
@[simp] theorem State.modZone_sup (s : State) (z : Fin 8) (f : ZoneSt → ZoneSt) : (s.modZone z f).sup = s.sup := rfl
@[simp] theorem State.modZone_host (s : State) (z : Fin 8) (f : ZoneSt → ZoneSt) : (s.modZone z f).host = s.host := rfl
@[simp] theorem State.modZone_silo (s : State) (z : Fin 8) (f : ZoneSt → ZoneSt) : (s.modZone z f).silo = s.silo := rfl
@[simp] theorem State.modZone_otp (s : State) (z : Fin 8) (f : ZoneSt → ZoneSt) : (s.modZone z f).otp = s.otp := rfl
@[simp] theorem State.modZone_msr (s : State) (z : Fin 8) (f : ZoneSt → ZoneSt) : (s.modZone z f).msr = s.msr := rfl
@[simp] theorem State.modZone_pcr (s : State) (z : Fin 8) (f : ZoneSt → ZoneSt) : (s.modZone z f).pcr = s.pcr := rfl
@[simp] theorem State.modZone_lts (s : State) (z : Fin 8) (f : ZoneSt → ZoneSt) : (s.modZone z f).lts = s.lts := rfl
@[simp] theorem State.modZone_ypl (s : State) (z : Fin 8) (f : ZoneSt → ZoneSt) : (s.modZone z f).ypl = s.ypl := rfl
@[simp] theorem State.modZone_svc (s : State) (z : Fin 8) (f : ZoneSt → ZoneSt) : (s.modZone z f).svc = s.svc := rfl

@[simp] theorem State.modLink_time (s : State) (k : Fin 13) (f : LinkSt → LinkSt) : (s.modLink k f).time = s.time := rfl
@[simp] theorem State.modLink_freeCtr (s : State) (k : Fin 13) (f : LinkSt → LinkSt) : (s.modLink k f).freeCtr = s.freeCtr := rfl
@[simp] theorem State.modLink_pending (s : State) (k : Fin 13) (f : LinkSt → LinkSt) : (s.modLink k f).pending = s.pending := rfl
@[simp] theorem State.modLink_fpSteps (s : State) (k : Fin 13) (f : LinkSt → LinkSt) : (s.modLink k f).fpSteps = s.fpSteps := rfl
@[simp] theorem State.modLink_fpNewAt (s : State) (k : Fin 13) (f : LinkSt → LinkSt) : (s.modLink k f).fpNewAt = s.fpNewAt := rfl
@[simp] theorem State.modLink_lastFp (s : State) (k : Fin 13) (f : LinkSt → LinkSt) : (s.modLink k f).lastFp = s.lastFp := rfl
@[simp] theorem State.modLink_lastSp (s : State) (k : Fin 13) (f : LinkSt → LinkSt) : (s.modLink k f).lastSp = s.lastSp := rfl
@[simp] theorem State.modLink_lastHr (s : State) (k : Fin 13) (f : LinkSt → LinkSt) : (s.modLink k f).lastHr = s.lastHr := rfl
@[simp] theorem State.modLink_started (s : State) (k : Fin 13) (f : LinkSt → LinkSt) : (s.modLink k f).started = s.started := rfl
@[simp] theorem State.modLink_regs (s : State) (k : Fin 13) (f : LinkSt → LinkSt) : (s.modLink k f).regs = s.regs := rfl
@[simp] theorem State.modLink_nodes (s : State) (k : Fin 13) (f : LinkSt → LinkSt) : (s.modLink k f).nodes = s.nodes := rfl
@[simp] theorem State.modLink_ecc (s : State) (k : Fin 13) (f : LinkSt → LinkSt) : (s.modLink k f).ecc = s.ecc := rfl
@[simp] theorem State.modLink_late (s : State) (k : Fin 13) (f : LinkSt → LinkSt) : (s.modLink k f).late = s.late := rfl
@[simp] theorem State.modLink_mach (s : State) (k : Fin 13) (f : LinkSt → LinkSt) : (s.modLink k f).mach = s.mach := rfl
@[simp] theorem State.modLink_sets (s : State) (k : Fin 13) (f : LinkSt → LinkSt) : (s.modLink k f).sets = s.sets := rfl
@[simp] theorem State.modLink_chans (s : State) (k : Fin 13) (f : LinkSt → LinkSt) : (s.modLink k f).chans = s.chans := rfl
@[simp] theorem State.modLink_edges (s : State) (k : Fin 13) (f : LinkSt → LinkSt) : (s.modLink k f).edges = s.edges := rfl
@[simp] theorem State.modLink_groups (s : State) (k : Fin 13) (f : LinkSt → LinkSt) : (s.modLink k f).groups = s.groups := rfl
@[simp] theorem State.modLink_direct (s : State) (k : Fin 13) (f : LinkSt → LinkSt) : (s.modLink k f).direct = s.direct := rfl
@[simp] theorem State.modLink_chops (s : State) (k : Fin 13) (f : LinkSt → LinkSt) : (s.modLink k f).chops = s.chops := rfl
@[simp] theorem State.modLink_acq (s : State) (k : Fin 13) (f : LinkSt → LinkSt) : (s.modLink k f).acq = s.acq := rfl
@[simp] theorem State.modLink_winOut (s : State) (k : Fin 13) (f : LinkSt → LinkSt) : (s.modLink k f).winOut = s.winOut := rfl
@[simp] theorem State.modLink_flt (s : State) (k : Fin 13) (f : LinkSt → LinkSt) : (s.modLink k f).flt = s.flt := rfl
@[simp] theorem State.modLink_estop (s : State) (k : Fin 13) (f : LinkSt → LinkSt) : (s.modLink k f).estop = s.estop := rfl
@[simp] theorem State.modLink_sup (s : State) (k : Fin 13) (f : LinkSt → LinkSt) : (s.modLink k f).sup = s.sup := rfl
@[simp] theorem State.modLink_thm (s : State) (k : Fin 13) (f : LinkSt → LinkSt) : (s.modLink k f).thm = s.thm := rfl
@[simp] theorem State.modLink_host (s : State) (k : Fin 13) (f : LinkSt → LinkSt) : (s.modLink k f).host = s.host := rfl
@[simp] theorem State.modLink_silo (s : State) (k : Fin 13) (f : LinkSt → LinkSt) : (s.modLink k f).silo = s.silo := rfl
@[simp] theorem State.modLink_otp (s : State) (k : Fin 13) (f : LinkSt → LinkSt) : (s.modLink k f).otp = s.otp := rfl
@[simp] theorem State.modLink_msr (s : State) (k : Fin 13) (f : LinkSt → LinkSt) : (s.modLink k f).msr = s.msr := rfl
@[simp] theorem State.modLink_pcr (s : State) (k : Fin 13) (f : LinkSt → LinkSt) : (s.modLink k f).pcr = s.pcr := rfl
@[simp] theorem State.modLink_ypl (s : State) (k : Fin 13) (f : LinkSt → LinkSt) : (s.modLink k f).ypl = s.ypl := rfl
@[simp] theorem State.modLink_svc (s : State) (k : Fin 13) (f : LinkSt → LinkSt) : (s.modLink k f).svc = s.svc := rfl

@[simp] theorem State.modRegion_time (s : State) (r : Fin 16) (f : RegionSt → RegionSt) : (s.modRegion r f).time = s.time := rfl
@[simp] theorem State.modRegion_freeCtr (s : State) (r : Fin 16) (f : RegionSt → RegionSt) : (s.modRegion r f).freeCtr = s.freeCtr := rfl
@[simp] theorem State.modRegion_pending (s : State) (r : Fin 16) (f : RegionSt → RegionSt) : (s.modRegion r f).pending = s.pending := rfl
@[simp] theorem State.modRegion_fpSteps (s : State) (r : Fin 16) (f : RegionSt → RegionSt) : (s.modRegion r f).fpSteps = s.fpSteps := rfl
@[simp] theorem State.modRegion_fpNewAt (s : State) (r : Fin 16) (f : RegionSt → RegionSt) : (s.modRegion r f).fpNewAt = s.fpNewAt := rfl
@[simp] theorem State.modRegion_lastFp (s : State) (r : Fin 16) (f : RegionSt → RegionSt) : (s.modRegion r f).lastFp = s.lastFp := rfl
@[simp] theorem State.modRegion_lastSp (s : State) (r : Fin 16) (f : RegionSt → RegionSt) : (s.modRegion r f).lastSp = s.lastSp := rfl
@[simp] theorem State.modRegion_lastHr (s : State) (r : Fin 16) (f : RegionSt → RegionSt) : (s.modRegion r f).lastHr = s.lastHr := rfl
@[simp] theorem State.modRegion_started (s : State) (r : Fin 16) (f : RegionSt → RegionSt) : (s.modRegion r f).started = s.started := rfl
@[simp] theorem State.modRegion_regs (s : State) (r : Fin 16) (f : RegionSt → RegionSt) : (s.modRegion r f).regs = s.regs := rfl
@[simp] theorem State.modRegion_nodes (s : State) (r : Fin 16) (f : RegionSt → RegionSt) : (s.modRegion r f).nodes = s.nodes := rfl
@[simp] theorem State.modRegion_ecc (s : State) (r : Fin 16) (f : RegionSt → RegionSt) : (s.modRegion r f).ecc = s.ecc := rfl
@[simp] theorem State.modRegion_late (s : State) (r : Fin 16) (f : RegionSt → RegionSt) : (s.modRegion r f).late = s.late := rfl
@[simp] theorem State.modRegion_mach (s : State) (r : Fin 16) (f : RegionSt → RegionSt) : (s.modRegion r f).mach = s.mach := rfl
@[simp] theorem State.modRegion_sets (s : State) (r : Fin 16) (f : RegionSt → RegionSt) : (s.modRegion r f).sets = s.sets := rfl
@[simp] theorem State.modRegion_chans (s : State) (r : Fin 16) (f : RegionSt → RegionSt) : (s.modRegion r f).chans = s.chans := rfl
@[simp] theorem State.modRegion_edges (s : State) (r : Fin 16) (f : RegionSt → RegionSt) : (s.modRegion r f).edges = s.edges := rfl
@[simp] theorem State.modRegion_groups (s : State) (r : Fin 16) (f : RegionSt → RegionSt) : (s.modRegion r f).groups = s.groups := rfl
@[simp] theorem State.modRegion_direct (s : State) (r : Fin 16) (f : RegionSt → RegionSt) : (s.modRegion r f).direct = s.direct := rfl
@[simp] theorem State.modRegion_chops (s : State) (r : Fin 16) (f : RegionSt → RegionSt) : (s.modRegion r f).chops = s.chops := rfl
@[simp] theorem State.modRegion_acq (s : State) (r : Fin 16) (f : RegionSt → RegionSt) : (s.modRegion r f).acq = s.acq := rfl
@[simp] theorem State.modRegion_winOut (s : State) (r : Fin 16) (f : RegionSt → RegionSt) : (s.modRegion r f).winOut = s.winOut := rfl
@[simp] theorem State.modRegion_flt (s : State) (r : Fin 16) (f : RegionSt → RegionSt) : (s.modRegion r f).flt = s.flt := rfl
@[simp] theorem State.modRegion_estop (s : State) (r : Fin 16) (f : RegionSt → RegionSt) : (s.modRegion r f).estop = s.estop := rfl
@[simp] theorem State.modRegion_sup (s : State) (r : Fin 16) (f : RegionSt → RegionSt) : (s.modRegion r f).sup = s.sup := rfl
@[simp] theorem State.modRegion_thm (s : State) (r : Fin 16) (f : RegionSt → RegionSt) : (s.modRegion r f).thm = s.thm := rfl
@[simp] theorem State.modRegion_host (s : State) (r : Fin 16) (f : RegionSt → RegionSt) : (s.modRegion r f).host = s.host := rfl
@[simp] theorem State.modRegion_silo (s : State) (r : Fin 16) (f : RegionSt → RegionSt) : (s.modRegion r f).silo = s.silo := rfl
@[simp] theorem State.modRegion_msr (s : State) (r : Fin 16) (f : RegionSt → RegionSt) : (s.modRegion r f).msr = s.msr := rfl
@[simp] theorem State.modRegion_pcr (s : State) (r : Fin 16) (f : RegionSt → RegionSt) : (s.modRegion r f).pcr = s.pcr := rfl
@[simp] theorem State.modRegion_lts (s : State) (r : Fin 16) (f : RegionSt → RegionSt) : (s.modRegion r f).lts = s.lts := rfl
@[simp] theorem State.modRegion_ypl (s : State) (r : Fin 16) (f : RegionSt → RegionSt) : (s.modRegion r f).ypl = s.ypl := rfl
@[simp] theorem State.modRegion_svc (s : State) (r : Fin 16) (f : RegionSt → RegionSt) : (s.modRegion r f).svc = s.svc := rfl

@[simp] theorem State.adv_freeCtr (s : State) (t : Time) : (s.adv t).freeCtr = s.freeCtr := rfl
@[simp] theorem State.adv_pending (s : State) (t : Time) : (s.adv t).pending = s.pending := rfl
@[simp] theorem State.adv_fpSteps (s : State) (t : Time) : (s.adv t).fpSteps = s.fpSteps := rfl
@[simp] theorem State.adv_fpNewAt (s : State) (t : Time) : (s.adv t).fpNewAt = s.fpNewAt := rfl
@[simp] theorem State.adv_lastFp (s : State) (t : Time) : (s.adv t).lastFp = s.lastFp := rfl
@[simp] theorem State.adv_lastSp (s : State) (t : Time) : (s.adv t).lastSp = s.lastSp := rfl
@[simp] theorem State.adv_lastHr (s : State) (t : Time) : (s.adv t).lastHr = s.lastHr := rfl
@[simp] theorem State.adv_started (s : State) (t : Time) : (s.adv t).started = s.started := rfl
@[simp] theorem State.adv_regs (s : State) (t : Time) : (s.adv t).regs = s.regs := rfl
@[simp] theorem State.adv_nodes (s : State) (t : Time) : (s.adv t).nodes = s.nodes := rfl
@[simp] theorem State.adv_ecc (s : State) (t : Time) : (s.adv t).ecc = s.ecc := rfl
@[simp] theorem State.adv_late (s : State) (t : Time) : (s.adv t).late = s.late := rfl
@[simp] theorem State.adv_mach (s : State) (t : Time) : (s.adv t).mach = s.mach := rfl
@[simp] theorem State.adv_sets (s : State) (t : Time) : (s.adv t).sets = s.sets := rfl
@[simp] theorem State.adv_chans (s : State) (t : Time) : (s.adv t).chans = s.chans := rfl
@[simp] theorem State.adv_edges (s : State) (t : Time) : (s.adv t).edges = s.edges := rfl
@[simp] theorem State.adv_groups (s : State) (t : Time) : (s.adv t).groups = s.groups := rfl
@[simp] theorem State.adv_direct (s : State) (t : Time) : (s.adv t).direct = s.direct := rfl
@[simp] theorem State.adv_chops (s : State) (t : Time) : (s.adv t).chops = s.chops := rfl
@[simp] theorem State.adv_acq (s : State) (t : Time) : (s.adv t).acq = s.acq := rfl
@[simp] theorem State.adv_winOut (s : State) (t : Time) : (s.adv t).winOut = s.winOut := rfl
@[simp] theorem State.adv_flt (s : State) (t : Time) : (s.adv t).flt = s.flt := rfl
@[simp] theorem State.adv_estop (s : State) (t : Time) : (s.adv t).estop = s.estop := rfl
@[simp] theorem State.adv_sup (s : State) (t : Time) : (s.adv t).sup = s.sup := rfl
@[simp] theorem State.adv_thm (s : State) (t : Time) : (s.adv t).thm = s.thm := rfl
@[simp] theorem State.adv_host (s : State) (t : Time) : (s.adv t).host = s.host := rfl
@[simp] theorem State.adv_silo (s : State) (t : Time) : (s.adv t).silo = s.silo := rfl
@[simp] theorem State.adv_otp (s : State) (t : Time) : (s.adv t).otp = s.otp := rfl
@[simp] theorem State.adv_msr (s : State) (t : Time) : (s.adv t).msr = s.msr := rfl
@[simp] theorem State.adv_pcr (s : State) (t : Time) : (s.adv t).pcr = s.pcr := rfl
@[simp] theorem State.adv_lts (s : State) (t : Time) : (s.adv t).lts = s.lts := rfl
@[simp] theorem State.adv_ypl (s : State) (t : Time) : (s.adv t).ypl = s.ypl := rfl
@[simp] theorem State.adv_svc (s : State) (t : Time) : (s.adv t).svc = s.svc := rfl

@[simp] theorem State.freeNext_time (s : State) : (s.freeNext).time = s.time := rfl
@[simp] theorem State.freeNext_pending (s : State) : (s.freeNext).pending = s.pending := rfl
@[simp] theorem State.freeNext_fpSteps (s : State) : (s.freeNext).fpSteps = s.fpSteps := rfl
@[simp] theorem State.freeNext_fpNewAt (s : State) : (s.freeNext).fpNewAt = s.fpNewAt := rfl
@[simp] theorem State.freeNext_lastFp (s : State) : (s.freeNext).lastFp = s.lastFp := rfl
@[simp] theorem State.freeNext_lastSp (s : State) : (s.freeNext).lastSp = s.lastSp := rfl
@[simp] theorem State.freeNext_lastHr (s : State) : (s.freeNext).lastHr = s.lastHr := rfl
@[simp] theorem State.freeNext_started (s : State) : (s.freeNext).started = s.started := rfl
@[simp] theorem State.freeNext_regs (s : State) : (s.freeNext).regs = s.regs := rfl
@[simp] theorem State.freeNext_nodes (s : State) : (s.freeNext).nodes = s.nodes := rfl
@[simp] theorem State.freeNext_ecc (s : State) : (s.freeNext).ecc = s.ecc := rfl
@[simp] theorem State.freeNext_late (s : State) : (s.freeNext).late = s.late := rfl
@[simp] theorem State.freeNext_mach (s : State) : (s.freeNext).mach = s.mach := rfl
@[simp] theorem State.freeNext_sets (s : State) : (s.freeNext).sets = s.sets := rfl
@[simp] theorem State.freeNext_chans (s : State) : (s.freeNext).chans = s.chans := rfl
@[simp] theorem State.freeNext_edges (s : State) : (s.freeNext).edges = s.edges := rfl
@[simp] theorem State.freeNext_groups (s : State) : (s.freeNext).groups = s.groups := rfl
@[simp] theorem State.freeNext_direct (s : State) : (s.freeNext).direct = s.direct := rfl
@[simp] theorem State.freeNext_chops (s : State) : (s.freeNext).chops = s.chops := rfl
@[simp] theorem State.freeNext_acq (s : State) : (s.freeNext).acq = s.acq := rfl
@[simp] theorem State.freeNext_winOut (s : State) : (s.freeNext).winOut = s.winOut := rfl
@[simp] theorem State.freeNext_flt (s : State) : (s.freeNext).flt = s.flt := rfl
@[simp] theorem State.freeNext_estop (s : State) : (s.freeNext).estop = s.estop := rfl
@[simp] theorem State.freeNext_sup (s : State) : (s.freeNext).sup = s.sup := rfl
@[simp] theorem State.freeNext_thm (s : State) : (s.freeNext).thm = s.thm := rfl
@[simp] theorem State.freeNext_host (s : State) : (s.freeNext).host = s.host := rfl
@[simp] theorem State.freeNext_silo (s : State) : (s.freeNext).silo = s.silo := rfl
@[simp] theorem State.freeNext_otp (s : State) : (s.freeNext).otp = s.otp := rfl
@[simp] theorem State.freeNext_msr (s : State) : (s.freeNext).msr = s.msr := rfl
@[simp] theorem State.freeNext_pcr (s : State) : (s.freeNext).pcr = s.pcr := rfl
@[simp] theorem State.freeNext_lts (s : State) : (s.freeNext).lts = s.lts := rfl
@[simp] theorem State.freeNext_ypl (s : State) : (s.freeNext).ypl = s.ypl := rfl
@[simp] theorem State.freeNext_svc (s : State) : (s.freeNext).svc = s.svc := rfl

@[simp] theorem State.rsetP_time (s : State) (d : RegDesc) (i part : Nat) (w : Word) : (s.rsetP d i part w).time = s.time := rfl
@[simp] theorem State.rsetP_freeCtr (s : State) (d : RegDesc) (i part : Nat) (w : Word) : (s.rsetP d i part w).freeCtr = s.freeCtr := rfl
@[simp] theorem State.rsetP_pending (s : State) (d : RegDesc) (i part : Nat) (w : Word) : (s.rsetP d i part w).pending = s.pending := rfl
@[simp] theorem State.rsetP_fpSteps (s : State) (d : RegDesc) (i part : Nat) (w : Word) : (s.rsetP d i part w).fpSteps = s.fpSteps := rfl
@[simp] theorem State.rsetP_fpNewAt (s : State) (d : RegDesc) (i part : Nat) (w : Word) : (s.rsetP d i part w).fpNewAt = s.fpNewAt := rfl
@[simp] theorem State.rsetP_lastFp (s : State) (d : RegDesc) (i part : Nat) (w : Word) : (s.rsetP d i part w).lastFp = s.lastFp := rfl
@[simp] theorem State.rsetP_lastSp (s : State) (d : RegDesc) (i part : Nat) (w : Word) : (s.rsetP d i part w).lastSp = s.lastSp := rfl
@[simp] theorem State.rsetP_lastHr (s : State) (d : RegDesc) (i part : Nat) (w : Word) : (s.rsetP d i part w).lastHr = s.lastHr := rfl
@[simp] theorem State.rsetP_started (s : State) (d : RegDesc) (i part : Nat) (w : Word) : (s.rsetP d i part w).started = s.started := rfl
@[simp] theorem State.rsetP_nodes (s : State) (d : RegDesc) (i part : Nat) (w : Word) : (s.rsetP d i part w).nodes = s.nodes := rfl
@[simp] theorem State.rsetP_ecc (s : State) (d : RegDesc) (i part : Nat) (w : Word) : (s.rsetP d i part w).ecc = s.ecc := rfl
@[simp] theorem State.rsetP_late (s : State) (d : RegDesc) (i part : Nat) (w : Word) : (s.rsetP d i part w).late = s.late := rfl
@[simp] theorem State.rsetP_mach (s : State) (d : RegDesc) (i part : Nat) (w : Word) : (s.rsetP d i part w).mach = s.mach := rfl
@[simp] theorem State.rsetP_sets (s : State) (d : RegDesc) (i part : Nat) (w : Word) : (s.rsetP d i part w).sets = s.sets := rfl
@[simp] theorem State.rsetP_chans (s : State) (d : RegDesc) (i part : Nat) (w : Word) : (s.rsetP d i part w).chans = s.chans := rfl
@[simp] theorem State.rsetP_edges (s : State) (d : RegDesc) (i part : Nat) (w : Word) : (s.rsetP d i part w).edges = s.edges := rfl
@[simp] theorem State.rsetP_groups (s : State) (d : RegDesc) (i part : Nat) (w : Word) : (s.rsetP d i part w).groups = s.groups := rfl
@[simp] theorem State.rsetP_direct (s : State) (d : RegDesc) (i part : Nat) (w : Word) : (s.rsetP d i part w).direct = s.direct := rfl
@[simp] theorem State.rsetP_chops (s : State) (d : RegDesc) (i part : Nat) (w : Word) : (s.rsetP d i part w).chops = s.chops := rfl
@[simp] theorem State.rsetP_acq (s : State) (d : RegDesc) (i part : Nat) (w : Word) : (s.rsetP d i part w).acq = s.acq := rfl
@[simp] theorem State.rsetP_winOut (s : State) (d : RegDesc) (i part : Nat) (w : Word) : (s.rsetP d i part w).winOut = s.winOut := rfl
@[simp] theorem State.rsetP_flt (s : State) (d : RegDesc) (i part : Nat) (w : Word) : (s.rsetP d i part w).flt = s.flt := rfl
@[simp] theorem State.rsetP_estop (s : State) (d : RegDesc) (i part : Nat) (w : Word) : (s.rsetP d i part w).estop = s.estop := rfl
@[simp] theorem State.rsetP_sup (s : State) (d : RegDesc) (i part : Nat) (w : Word) : (s.rsetP d i part w).sup = s.sup := rfl
@[simp] theorem State.rsetP_thm (s : State) (d : RegDesc) (i part : Nat) (w : Word) : (s.rsetP d i part w).thm = s.thm := rfl
@[simp] theorem State.rsetP_host (s : State) (d : RegDesc) (i part : Nat) (w : Word) : (s.rsetP d i part w).host = s.host := rfl
@[simp] theorem State.rsetP_silo (s : State) (d : RegDesc) (i part : Nat) (w : Word) : (s.rsetP d i part w).silo = s.silo := rfl
@[simp] theorem State.rsetP_otp (s : State) (d : RegDesc) (i part : Nat) (w : Word) : (s.rsetP d i part w).otp = s.otp := rfl
@[simp] theorem State.rsetP_msr (s : State) (d : RegDesc) (i part : Nat) (w : Word) : (s.rsetP d i part w).msr = s.msr := rfl
@[simp] theorem State.rsetP_pcr (s : State) (d : RegDesc) (i part : Nat) (w : Word) : (s.rsetP d i part w).pcr = s.pcr := rfl
@[simp] theorem State.rsetP_lts (s : State) (d : RegDesc) (i part : Nat) (w : Word) : (s.rsetP d i part w).lts = s.lts := rfl
@[simp] theorem State.rsetP_ypl (s : State) (d : RegDesc) (i part : Nat) (w : Word) : (s.rsetP d i part w).ypl = s.ypl := rfl
@[simp] theorem State.rsetP_svc (s : State) (d : RegDesc) (i part : Nat) (w : Word) : (s.rsetP d i part w).svc = s.svc := rfl

@[simp] theorem State.rset_time (s : State) (d : RegDesc) (i : Nat) (w : Word) : (s.rset d i w).time = s.time := rfl
@[simp] theorem State.rset_freeCtr (s : State) (d : RegDesc) (i : Nat) (w : Word) : (s.rset d i w).freeCtr = s.freeCtr := rfl
@[simp] theorem State.rset_pending (s : State) (d : RegDesc) (i : Nat) (w : Word) : (s.rset d i w).pending = s.pending := rfl
@[simp] theorem State.rset_fpSteps (s : State) (d : RegDesc) (i : Nat) (w : Word) : (s.rset d i w).fpSteps = s.fpSteps := rfl
@[simp] theorem State.rset_fpNewAt (s : State) (d : RegDesc) (i : Nat) (w : Word) : (s.rset d i w).fpNewAt = s.fpNewAt := rfl
@[simp] theorem State.rset_lastFp (s : State) (d : RegDesc) (i : Nat) (w : Word) : (s.rset d i w).lastFp = s.lastFp := rfl
@[simp] theorem State.rset_lastSp (s : State) (d : RegDesc) (i : Nat) (w : Word) : (s.rset d i w).lastSp = s.lastSp := rfl
@[simp] theorem State.rset_lastHr (s : State) (d : RegDesc) (i : Nat) (w : Word) : (s.rset d i w).lastHr = s.lastHr := rfl
@[simp] theorem State.rset_started (s : State) (d : RegDesc) (i : Nat) (w : Word) : (s.rset d i w).started = s.started := rfl
@[simp] theorem State.rset_nodes (s : State) (d : RegDesc) (i : Nat) (w : Word) : (s.rset d i w).nodes = s.nodes := rfl
@[simp] theorem State.rset_ecc (s : State) (d : RegDesc) (i : Nat) (w : Word) : (s.rset d i w).ecc = s.ecc := rfl
@[simp] theorem State.rset_late (s : State) (d : RegDesc) (i : Nat) (w : Word) : (s.rset d i w).late = s.late := rfl
@[simp] theorem State.rset_mach (s : State) (d : RegDesc) (i : Nat) (w : Word) : (s.rset d i w).mach = s.mach := rfl
@[simp] theorem State.rset_sets (s : State) (d : RegDesc) (i : Nat) (w : Word) : (s.rset d i w).sets = s.sets := rfl
@[simp] theorem State.rset_chans (s : State) (d : RegDesc) (i : Nat) (w : Word) : (s.rset d i w).chans = s.chans := rfl
@[simp] theorem State.rset_edges (s : State) (d : RegDesc) (i : Nat) (w : Word) : (s.rset d i w).edges = s.edges := rfl
@[simp] theorem State.rset_groups (s : State) (d : RegDesc) (i : Nat) (w : Word) : (s.rset d i w).groups = s.groups := rfl
@[simp] theorem State.rset_direct (s : State) (d : RegDesc) (i : Nat) (w : Word) : (s.rset d i w).direct = s.direct := rfl
@[simp] theorem State.rset_chops (s : State) (d : RegDesc) (i : Nat) (w : Word) : (s.rset d i w).chops = s.chops := rfl
@[simp] theorem State.rset_acq (s : State) (d : RegDesc) (i : Nat) (w : Word) : (s.rset d i w).acq = s.acq := rfl
@[simp] theorem State.rset_winOut (s : State) (d : RegDesc) (i : Nat) (w : Word) : (s.rset d i w).winOut = s.winOut := rfl
@[simp] theorem State.rset_flt (s : State) (d : RegDesc) (i : Nat) (w : Word) : (s.rset d i w).flt = s.flt := rfl
@[simp] theorem State.rset_estop (s : State) (d : RegDesc) (i : Nat) (w : Word) : (s.rset d i w).estop = s.estop := rfl
@[simp] theorem State.rset_sup (s : State) (d : RegDesc) (i : Nat) (w : Word) : (s.rset d i w).sup = s.sup := rfl
@[simp] theorem State.rset_thm (s : State) (d : RegDesc) (i : Nat) (w : Word) : (s.rset d i w).thm = s.thm := rfl
@[simp] theorem State.rset_host (s : State) (d : RegDesc) (i : Nat) (w : Word) : (s.rset d i w).host = s.host := rfl
@[simp] theorem State.rset_silo (s : State) (d : RegDesc) (i : Nat) (w : Word) : (s.rset d i w).silo = s.silo := rfl
@[simp] theorem State.rset_otp (s : State) (d : RegDesc) (i : Nat) (w : Word) : (s.rset d i w).otp = s.otp := rfl
@[simp] theorem State.rset_msr (s : State) (d : RegDesc) (i : Nat) (w : Word) : (s.rset d i w).msr = s.msr := rfl
@[simp] theorem State.rset_pcr (s : State) (d : RegDesc) (i : Nat) (w : Word) : (s.rset d i w).pcr = s.pcr := rfl
@[simp] theorem State.rset_lts (s : State) (d : RegDesc) (i : Nat) (w : Word) : (s.rset d i w).lts = s.lts := rfl
@[simp] theorem State.rset_ypl (s : State) (d : RegDesc) (i : Nat) (w : Word) : (s.rset d i w).ypl = s.ypl := rfl
@[simp] theorem State.rset_svc (s : State) (d : RegDesc) (i : Nat) (w : Word) : (s.rset d i w).svc = s.svc := rfl

@[simp] theorem State.rsetF_time (s : State) (d : RegDesc) (i hi lo v : Nat) : (s.rsetF d i hi lo v).time = s.time := rfl
@[simp] theorem State.rsetF_freeCtr (s : State) (d : RegDesc) (i hi lo v : Nat) : (s.rsetF d i hi lo v).freeCtr = s.freeCtr := rfl
@[simp] theorem State.rsetF_pending (s : State) (d : RegDesc) (i hi lo v : Nat) : (s.rsetF d i hi lo v).pending = s.pending := rfl
@[simp] theorem State.rsetF_fpSteps (s : State) (d : RegDesc) (i hi lo v : Nat) : (s.rsetF d i hi lo v).fpSteps = s.fpSteps := rfl
@[simp] theorem State.rsetF_fpNewAt (s : State) (d : RegDesc) (i hi lo v : Nat) : (s.rsetF d i hi lo v).fpNewAt = s.fpNewAt := rfl
@[simp] theorem State.rsetF_lastFp (s : State) (d : RegDesc) (i hi lo v : Nat) : (s.rsetF d i hi lo v).lastFp = s.lastFp := rfl
@[simp] theorem State.rsetF_lastSp (s : State) (d : RegDesc) (i hi lo v : Nat) : (s.rsetF d i hi lo v).lastSp = s.lastSp := rfl
@[simp] theorem State.rsetF_lastHr (s : State) (d : RegDesc) (i hi lo v : Nat) : (s.rsetF d i hi lo v).lastHr = s.lastHr := rfl
@[simp] theorem State.rsetF_started (s : State) (d : RegDesc) (i hi lo v : Nat) : (s.rsetF d i hi lo v).started = s.started := rfl
@[simp] theorem State.rsetF_nodes (s : State) (d : RegDesc) (i hi lo v : Nat) : (s.rsetF d i hi lo v).nodes = s.nodes := rfl
@[simp] theorem State.rsetF_ecc (s : State) (d : RegDesc) (i hi lo v : Nat) : (s.rsetF d i hi lo v).ecc = s.ecc := rfl
@[simp] theorem State.rsetF_late (s : State) (d : RegDesc) (i hi lo v : Nat) : (s.rsetF d i hi lo v).late = s.late := rfl
@[simp] theorem State.rsetF_mach (s : State) (d : RegDesc) (i hi lo v : Nat) : (s.rsetF d i hi lo v).mach = s.mach := rfl
@[simp] theorem State.rsetF_sets (s : State) (d : RegDesc) (i hi lo v : Nat) : (s.rsetF d i hi lo v).sets = s.sets := rfl
@[simp] theorem State.rsetF_chans (s : State) (d : RegDesc) (i hi lo v : Nat) : (s.rsetF d i hi lo v).chans = s.chans := rfl
@[simp] theorem State.rsetF_edges (s : State) (d : RegDesc) (i hi lo v : Nat) : (s.rsetF d i hi lo v).edges = s.edges := rfl
@[simp] theorem State.rsetF_groups (s : State) (d : RegDesc) (i hi lo v : Nat) : (s.rsetF d i hi lo v).groups = s.groups := rfl
@[simp] theorem State.rsetF_direct (s : State) (d : RegDesc) (i hi lo v : Nat) : (s.rsetF d i hi lo v).direct = s.direct := rfl
@[simp] theorem State.rsetF_chops (s : State) (d : RegDesc) (i hi lo v : Nat) : (s.rsetF d i hi lo v).chops = s.chops := rfl
@[simp] theorem State.rsetF_acq (s : State) (d : RegDesc) (i hi lo v : Nat) : (s.rsetF d i hi lo v).acq = s.acq := rfl
@[simp] theorem State.rsetF_winOut (s : State) (d : RegDesc) (i hi lo v : Nat) : (s.rsetF d i hi lo v).winOut = s.winOut := rfl
@[simp] theorem State.rsetF_flt (s : State) (d : RegDesc) (i hi lo v : Nat) : (s.rsetF d i hi lo v).flt = s.flt := rfl
@[simp] theorem State.rsetF_estop (s : State) (d : RegDesc) (i hi lo v : Nat) : (s.rsetF d i hi lo v).estop = s.estop := rfl
@[simp] theorem State.rsetF_sup (s : State) (d : RegDesc) (i hi lo v : Nat) : (s.rsetF d i hi lo v).sup = s.sup := rfl
@[simp] theorem State.rsetF_thm (s : State) (d : RegDesc) (i hi lo v : Nat) : (s.rsetF d i hi lo v).thm = s.thm := rfl
@[simp] theorem State.rsetF_host (s : State) (d : RegDesc) (i hi lo v : Nat) : (s.rsetF d i hi lo v).host = s.host := rfl
@[simp] theorem State.rsetF_silo (s : State) (d : RegDesc) (i hi lo v : Nat) : (s.rsetF d i hi lo v).silo = s.silo := rfl
@[simp] theorem State.rsetF_otp (s : State) (d : RegDesc) (i hi lo v : Nat) : (s.rsetF d i hi lo v).otp = s.otp := rfl
@[simp] theorem State.rsetF_msr (s : State) (d : RegDesc) (i hi lo v : Nat) : (s.rsetF d i hi lo v).msr = s.msr := rfl
@[simp] theorem State.rsetF_pcr (s : State) (d : RegDesc) (i hi lo v : Nat) : (s.rsetF d i hi lo v).pcr = s.pcr := rfl
@[simp] theorem State.rsetF_lts (s : State) (d : RegDesc) (i hi lo v : Nat) : (s.rsetF d i hi lo v).lts = s.lts := rfl
@[simp] theorem State.rsetF_ypl (s : State) (d : RegDesc) (i hi lo v : Nat) : (s.rsetF d i hi lo v).ypl = s.ypl := rfl
@[simp] theorem State.rsetF_svc (s : State) (d : RegDesc) (i hi lo v : Nat) : (s.rsetF d i hi lo v).svc = s.svc := rfl

@[simp] theorem State.rcount_time (s : State) (d : RegDesc) (i hi lo n : Nat) : (s.rcount d i hi lo n).time = s.time := rfl
@[simp] theorem State.rcount_freeCtr (s : State) (d : RegDesc) (i hi lo n : Nat) : (s.rcount d i hi lo n).freeCtr = s.freeCtr := rfl
@[simp] theorem State.rcount_pending (s : State) (d : RegDesc) (i hi lo n : Nat) : (s.rcount d i hi lo n).pending = s.pending := rfl
@[simp] theorem State.rcount_fpSteps (s : State) (d : RegDesc) (i hi lo n : Nat) : (s.rcount d i hi lo n).fpSteps = s.fpSteps := rfl
@[simp] theorem State.rcount_fpNewAt (s : State) (d : RegDesc) (i hi lo n : Nat) : (s.rcount d i hi lo n).fpNewAt = s.fpNewAt := rfl
@[simp] theorem State.rcount_lastFp (s : State) (d : RegDesc) (i hi lo n : Nat) : (s.rcount d i hi lo n).lastFp = s.lastFp := rfl
@[simp] theorem State.rcount_lastSp (s : State) (d : RegDesc) (i hi lo n : Nat) : (s.rcount d i hi lo n).lastSp = s.lastSp := rfl
@[simp] theorem State.rcount_lastHr (s : State) (d : RegDesc) (i hi lo n : Nat) : (s.rcount d i hi lo n).lastHr = s.lastHr := rfl
@[simp] theorem State.rcount_started (s : State) (d : RegDesc) (i hi lo n : Nat) : (s.rcount d i hi lo n).started = s.started := rfl
@[simp] theorem State.rcount_nodes (s : State) (d : RegDesc) (i hi lo n : Nat) : (s.rcount d i hi lo n).nodes = s.nodes := rfl
@[simp] theorem State.rcount_ecc (s : State) (d : RegDesc) (i hi lo n : Nat) : (s.rcount d i hi lo n).ecc = s.ecc := rfl
@[simp] theorem State.rcount_late (s : State) (d : RegDesc) (i hi lo n : Nat) : (s.rcount d i hi lo n).late = s.late := rfl
@[simp] theorem State.rcount_mach (s : State) (d : RegDesc) (i hi lo n : Nat) : (s.rcount d i hi lo n).mach = s.mach := rfl
@[simp] theorem State.rcount_sets (s : State) (d : RegDesc) (i hi lo n : Nat) : (s.rcount d i hi lo n).sets = s.sets := rfl
@[simp] theorem State.rcount_chans (s : State) (d : RegDesc) (i hi lo n : Nat) : (s.rcount d i hi lo n).chans = s.chans := rfl
@[simp] theorem State.rcount_edges (s : State) (d : RegDesc) (i hi lo n : Nat) : (s.rcount d i hi lo n).edges = s.edges := rfl
@[simp] theorem State.rcount_groups (s : State) (d : RegDesc) (i hi lo n : Nat) : (s.rcount d i hi lo n).groups = s.groups := rfl
@[simp] theorem State.rcount_direct (s : State) (d : RegDesc) (i hi lo n : Nat) : (s.rcount d i hi lo n).direct = s.direct := rfl
@[simp] theorem State.rcount_chops (s : State) (d : RegDesc) (i hi lo n : Nat) : (s.rcount d i hi lo n).chops = s.chops := rfl
@[simp] theorem State.rcount_acq (s : State) (d : RegDesc) (i hi lo n : Nat) : (s.rcount d i hi lo n).acq = s.acq := rfl
@[simp] theorem State.rcount_winOut (s : State) (d : RegDesc) (i hi lo n : Nat) : (s.rcount d i hi lo n).winOut = s.winOut := rfl
@[simp] theorem State.rcount_flt (s : State) (d : RegDesc) (i hi lo n : Nat) : (s.rcount d i hi lo n).flt = s.flt := rfl
@[simp] theorem State.rcount_estop (s : State) (d : RegDesc) (i hi lo n : Nat) : (s.rcount d i hi lo n).estop = s.estop := rfl
@[simp] theorem State.rcount_sup (s : State) (d : RegDesc) (i hi lo n : Nat) : (s.rcount d i hi lo n).sup = s.sup := rfl
@[simp] theorem State.rcount_thm (s : State) (d : RegDesc) (i hi lo n : Nat) : (s.rcount d i hi lo n).thm = s.thm := rfl
@[simp] theorem State.rcount_host (s : State) (d : RegDesc) (i hi lo n : Nat) : (s.rcount d i hi lo n).host = s.host := rfl
@[simp] theorem State.rcount_silo (s : State) (d : RegDesc) (i hi lo n : Nat) : (s.rcount d i hi lo n).silo = s.silo := rfl
@[simp] theorem State.rcount_otp (s : State) (d : RegDesc) (i hi lo n : Nat) : (s.rcount d i hi lo n).otp = s.otp := rfl
@[simp] theorem State.rcount_msr (s : State) (d : RegDesc) (i hi lo n : Nat) : (s.rcount d i hi lo n).msr = s.msr := rfl
@[simp] theorem State.rcount_pcr (s : State) (d : RegDesc) (i hi lo n : Nat) : (s.rcount d i hi lo n).pcr = s.pcr := rfl
@[simp] theorem State.rcount_lts (s : State) (d : RegDesc) (i hi lo n : Nat) : (s.rcount d i hi lo n).lts = s.lts := rfl
@[simp] theorem State.rcount_ypl (s : State) (d : RegDesc) (i hi lo n : Nat) : (s.rcount d i hi lo n).ypl = s.ypl := rfl
@[simp] theorem State.rcount_svc (s : State) (d : RegDesc) (i hi lo n : Nat) : (s.rcount d i hi lo n).svc = s.svc := rfl

@[simp] theorem State.writeReject_time (s : State) : (s.writeReject).time = s.time := rfl
@[simp] theorem State.writeReject_freeCtr (s : State) : (s.writeReject).freeCtr = s.freeCtr := rfl
@[simp] theorem State.writeReject_pending (s : State) : (s.writeReject).pending = s.pending := rfl
@[simp] theorem State.writeReject_fpSteps (s : State) : (s.writeReject).fpSteps = s.fpSteps := rfl
@[simp] theorem State.writeReject_fpNewAt (s : State) : (s.writeReject).fpNewAt = s.fpNewAt := rfl
@[simp] theorem State.writeReject_lastFp (s : State) : (s.writeReject).lastFp = s.lastFp := rfl
@[simp] theorem State.writeReject_lastSp (s : State) : (s.writeReject).lastSp = s.lastSp := rfl
@[simp] theorem State.writeReject_lastHr (s : State) : (s.writeReject).lastHr = s.lastHr := rfl
@[simp] theorem State.writeReject_started (s : State) : (s.writeReject).started = s.started := rfl
@[simp] theorem State.writeReject_nodes (s : State) : (s.writeReject).nodes = s.nodes := rfl
@[simp] theorem State.writeReject_ecc (s : State) : (s.writeReject).ecc = s.ecc := rfl
@[simp] theorem State.writeReject_late (s : State) : (s.writeReject).late = s.late := rfl
@[simp] theorem State.writeReject_mach (s : State) : (s.writeReject).mach = s.mach := rfl
@[simp] theorem State.writeReject_sets (s : State) : (s.writeReject).sets = s.sets := rfl
@[simp] theorem State.writeReject_chans (s : State) : (s.writeReject).chans = s.chans := rfl
@[simp] theorem State.writeReject_edges (s : State) : (s.writeReject).edges = s.edges := rfl
@[simp] theorem State.writeReject_groups (s : State) : (s.writeReject).groups = s.groups := rfl
@[simp] theorem State.writeReject_direct (s : State) : (s.writeReject).direct = s.direct := rfl
@[simp] theorem State.writeReject_chops (s : State) : (s.writeReject).chops = s.chops := rfl
@[simp] theorem State.writeReject_acq (s : State) : (s.writeReject).acq = s.acq := rfl
@[simp] theorem State.writeReject_winOut (s : State) : (s.writeReject).winOut = s.winOut := rfl
@[simp] theorem State.writeReject_flt (s : State) : (s.writeReject).flt = s.flt := rfl
@[simp] theorem State.writeReject_estop (s : State) : (s.writeReject).estop = s.estop := rfl
@[simp] theorem State.writeReject_sup (s : State) : (s.writeReject).sup = s.sup := rfl
@[simp] theorem State.writeReject_thm (s : State) : (s.writeReject).thm = s.thm := rfl
@[simp] theorem State.writeReject_host (s : State) : (s.writeReject).host = s.host := rfl
@[simp] theorem State.writeReject_silo (s : State) : (s.writeReject).silo = s.silo := rfl
@[simp] theorem State.writeReject_otp (s : State) : (s.writeReject).otp = s.otp := rfl
@[simp] theorem State.writeReject_msr (s : State) : (s.writeReject).msr = s.msr := rfl
@[simp] theorem State.writeReject_pcr (s : State) : (s.writeReject).pcr = s.pcr := rfl
@[simp] theorem State.writeReject_lts (s : State) : (s.writeReject).lts = s.lts := rfl
@[simp] theorem State.writeReject_ypl (s : State) : (s.writeReject).ypl = s.ypl := rfl
@[simp] theorem State.writeReject_svc (s : State) : (s.writeReject).svc = s.svc := rfl

@[simp] theorem State.hostWrite_time (s : State) (a : Nat) (w : Word) : (s.hostWrite a w).time = s.time := rfl
@[simp] theorem State.hostWrite_freeCtr (s : State) (a : Nat) (w : Word) : (s.hostWrite a w).freeCtr = s.freeCtr := rfl
@[simp] theorem State.hostWrite_pending (s : State) (a : Nat) (w : Word) : (s.hostWrite a w).pending = s.pending := rfl
@[simp] theorem State.hostWrite_fpSteps (s : State) (a : Nat) (w : Word) : (s.hostWrite a w).fpSteps = s.fpSteps := rfl
@[simp] theorem State.hostWrite_fpNewAt (s : State) (a : Nat) (w : Word) : (s.hostWrite a w).fpNewAt = s.fpNewAt := rfl
@[simp] theorem State.hostWrite_lastFp (s : State) (a : Nat) (w : Word) : (s.hostWrite a w).lastFp = s.lastFp := rfl
@[simp] theorem State.hostWrite_lastSp (s : State) (a : Nat) (w : Word) : (s.hostWrite a w).lastSp = s.lastSp := rfl
@[simp] theorem State.hostWrite_lastHr (s : State) (a : Nat) (w : Word) : (s.hostWrite a w).lastHr = s.lastHr := rfl
@[simp] theorem State.hostWrite_started (s : State) (a : Nat) (w : Word) : (s.hostWrite a w).started = s.started := rfl
@[simp] theorem State.hostWrite_regs (s : State) (a : Nat) (w : Word) : (s.hostWrite a w).regs = s.regs := rfl
@[simp] theorem State.hostWrite_nodes (s : State) (a : Nat) (w : Word) : (s.hostWrite a w).nodes = s.nodes := rfl
@[simp] theorem State.hostWrite_ecc (s : State) (a : Nat) (w : Word) : (s.hostWrite a w).ecc = s.ecc := rfl
@[simp] theorem State.hostWrite_late (s : State) (a : Nat) (w : Word) : (s.hostWrite a w).late = s.late := rfl
@[simp] theorem State.hostWrite_mach (s : State) (a : Nat) (w : Word) : (s.hostWrite a w).mach = s.mach := rfl
@[simp] theorem State.hostWrite_sets (s : State) (a : Nat) (w : Word) : (s.hostWrite a w).sets = s.sets := rfl
@[simp] theorem State.hostWrite_chans (s : State) (a : Nat) (w : Word) : (s.hostWrite a w).chans = s.chans := rfl
@[simp] theorem State.hostWrite_edges (s : State) (a : Nat) (w : Word) : (s.hostWrite a w).edges = s.edges := rfl
@[simp] theorem State.hostWrite_groups (s : State) (a : Nat) (w : Word) : (s.hostWrite a w).groups = s.groups := rfl
@[simp] theorem State.hostWrite_direct (s : State) (a : Nat) (w : Word) : (s.hostWrite a w).direct = s.direct := rfl
@[simp] theorem State.hostWrite_chops (s : State) (a : Nat) (w : Word) : (s.hostWrite a w).chops = s.chops := rfl
@[simp] theorem State.hostWrite_acq (s : State) (a : Nat) (w : Word) : (s.hostWrite a w).acq = s.acq := rfl
@[simp] theorem State.hostWrite_winOut (s : State) (a : Nat) (w : Word) : (s.hostWrite a w).winOut = s.winOut := rfl
@[simp] theorem State.hostWrite_flt (s : State) (a : Nat) (w : Word) : (s.hostWrite a w).flt = s.flt := rfl
@[simp] theorem State.hostWrite_estop (s : State) (a : Nat) (w : Word) : (s.hostWrite a w).estop = s.estop := rfl
@[simp] theorem State.hostWrite_sup (s : State) (a : Nat) (w : Word) : (s.hostWrite a w).sup = s.sup := rfl
@[simp] theorem State.hostWrite_thm (s : State) (a : Nat) (w : Word) : (s.hostWrite a w).thm = s.thm := rfl
@[simp] theorem State.hostWrite_silo (s : State) (a : Nat) (w : Word) : (s.hostWrite a w).silo = s.silo := rfl
@[simp] theorem State.hostWrite_otp (s : State) (a : Nat) (w : Word) : (s.hostWrite a w).otp = s.otp := rfl
@[simp] theorem State.hostWrite_msr (s : State) (a : Nat) (w : Word) : (s.hostWrite a w).msr = s.msr := rfl
@[simp] theorem State.hostWrite_pcr (s : State) (a : Nat) (w : Word) : (s.hostWrite a w).pcr = s.pcr := rfl
@[simp] theorem State.hostWrite_lts (s : State) (a : Nat) (w : Word) : (s.hostWrite a w).lts = s.lts := rfl
@[simp] theorem State.hostWrite_ypl (s : State) (a : Nat) (w : Word) : (s.hostWrite a w).ypl = s.ypl := rfl
@[simp] theorem State.hostWrite_svc (s : State) (a : Nat) (w : Word) : (s.hostWrite a w).svc = s.svc := rfl

@[simp] theorem State.hostWriteQuad_time (s : State) (a : Nat) (q : Quad) : (s.hostWriteQuad a q).time = s.time := by
  simp only [State.hostWriteQuad, State.hostWrite_time]
@[simp] theorem State.hostWriteQuad_freeCtr (s : State) (a : Nat) (q : Quad) : (s.hostWriteQuad a q).freeCtr = s.freeCtr := by
  simp only [State.hostWriteQuad, State.hostWrite_freeCtr]
@[simp] theorem State.hostWriteQuad_pending (s : State) (a : Nat) (q : Quad) : (s.hostWriteQuad a q).pending = s.pending := by
  simp only [State.hostWriteQuad, State.hostWrite_pending]
@[simp] theorem State.hostWriteQuad_fpSteps (s : State) (a : Nat) (q : Quad) : (s.hostWriteQuad a q).fpSteps = s.fpSteps := by
  simp only [State.hostWriteQuad, State.hostWrite_fpSteps]
@[simp] theorem State.hostWriteQuad_fpNewAt (s : State) (a : Nat) (q : Quad) : (s.hostWriteQuad a q).fpNewAt = s.fpNewAt := by
  simp only [State.hostWriteQuad, State.hostWrite_fpNewAt]
@[simp] theorem State.hostWriteQuad_lastFp (s : State) (a : Nat) (q : Quad) : (s.hostWriteQuad a q).lastFp = s.lastFp := by
  simp only [State.hostWriteQuad, State.hostWrite_lastFp]
@[simp] theorem State.hostWriteQuad_lastSp (s : State) (a : Nat) (q : Quad) : (s.hostWriteQuad a q).lastSp = s.lastSp := by
  simp only [State.hostWriteQuad, State.hostWrite_lastSp]
@[simp] theorem State.hostWriteQuad_lastHr (s : State) (a : Nat) (q : Quad) : (s.hostWriteQuad a q).lastHr = s.lastHr := by
  simp only [State.hostWriteQuad, State.hostWrite_lastHr]
@[simp] theorem State.hostWriteQuad_started (s : State) (a : Nat) (q : Quad) : (s.hostWriteQuad a q).started = s.started := by
  simp only [State.hostWriteQuad, State.hostWrite_started]
@[simp] theorem State.hostWriteQuad_regs (s : State) (a : Nat) (q : Quad) : (s.hostWriteQuad a q).regs = s.regs := by
  simp only [State.hostWriteQuad, State.hostWrite_regs]
@[simp] theorem State.hostWriteQuad_nodes (s : State) (a : Nat) (q : Quad) : (s.hostWriteQuad a q).nodes = s.nodes := by
  simp only [State.hostWriteQuad, State.hostWrite_nodes]
@[simp] theorem State.hostWriteQuad_ecc (s : State) (a : Nat) (q : Quad) : (s.hostWriteQuad a q).ecc = s.ecc := by
  simp only [State.hostWriteQuad, State.hostWrite_ecc]
@[simp] theorem State.hostWriteQuad_late (s : State) (a : Nat) (q : Quad) : (s.hostWriteQuad a q).late = s.late := by
  simp only [State.hostWriteQuad, State.hostWrite_late]
@[simp] theorem State.hostWriteQuad_mach (s : State) (a : Nat) (q : Quad) : (s.hostWriteQuad a q).mach = s.mach := by
  simp only [State.hostWriteQuad, State.hostWrite_mach]
@[simp] theorem State.hostWriteQuad_sets (s : State) (a : Nat) (q : Quad) : (s.hostWriteQuad a q).sets = s.sets := by
  simp only [State.hostWriteQuad, State.hostWrite_sets]
@[simp] theorem State.hostWriteQuad_chans (s : State) (a : Nat) (q : Quad) : (s.hostWriteQuad a q).chans = s.chans := by
  simp only [State.hostWriteQuad, State.hostWrite_chans]
@[simp] theorem State.hostWriteQuad_edges (s : State) (a : Nat) (q : Quad) : (s.hostWriteQuad a q).edges = s.edges := by
  simp only [State.hostWriteQuad, State.hostWrite_edges]
@[simp] theorem State.hostWriteQuad_groups (s : State) (a : Nat) (q : Quad) : (s.hostWriteQuad a q).groups = s.groups := by
  simp only [State.hostWriteQuad, State.hostWrite_groups]
@[simp] theorem State.hostWriteQuad_direct (s : State) (a : Nat) (q : Quad) : (s.hostWriteQuad a q).direct = s.direct := by
  simp only [State.hostWriteQuad, State.hostWrite_direct]
@[simp] theorem State.hostWriteQuad_chops (s : State) (a : Nat) (q : Quad) : (s.hostWriteQuad a q).chops = s.chops := by
  simp only [State.hostWriteQuad, State.hostWrite_chops]
@[simp] theorem State.hostWriteQuad_acq (s : State) (a : Nat) (q : Quad) : (s.hostWriteQuad a q).acq = s.acq := by
  simp only [State.hostWriteQuad, State.hostWrite_acq]
@[simp] theorem State.hostWriteQuad_winOut (s : State) (a : Nat) (q : Quad) : (s.hostWriteQuad a q).winOut = s.winOut := by
  simp only [State.hostWriteQuad, State.hostWrite_winOut]
@[simp] theorem State.hostWriteQuad_flt (s : State) (a : Nat) (q : Quad) : (s.hostWriteQuad a q).flt = s.flt := by
  simp only [State.hostWriteQuad, State.hostWrite_flt]
@[simp] theorem State.hostWriteQuad_estop (s : State) (a : Nat) (q : Quad) : (s.hostWriteQuad a q).estop = s.estop := by
  simp only [State.hostWriteQuad, State.hostWrite_estop]
@[simp] theorem State.hostWriteQuad_sup (s : State) (a : Nat) (q : Quad) : (s.hostWriteQuad a q).sup = s.sup := by
  simp only [State.hostWriteQuad, State.hostWrite_sup]
@[simp] theorem State.hostWriteQuad_thm (s : State) (a : Nat) (q : Quad) : (s.hostWriteQuad a q).thm = s.thm := by
  simp only [State.hostWriteQuad, State.hostWrite_thm]
@[simp] theorem State.hostWriteQuad_silo (s : State) (a : Nat) (q : Quad) : (s.hostWriteQuad a q).silo = s.silo := by
  simp only [State.hostWriteQuad, State.hostWrite_silo]
@[simp] theorem State.hostWriteQuad_otp (s : State) (a : Nat) (q : Quad) : (s.hostWriteQuad a q).otp = s.otp := by
  simp only [State.hostWriteQuad, State.hostWrite_otp]
@[simp] theorem State.hostWriteQuad_msr (s : State) (a : Nat) (q : Quad) : (s.hostWriteQuad a q).msr = s.msr := by
  simp only [State.hostWriteQuad, State.hostWrite_msr]
@[simp] theorem State.hostWriteQuad_pcr (s : State) (a : Nat) (q : Quad) : (s.hostWriteQuad a q).pcr = s.pcr := by
  simp only [State.hostWriteQuad, State.hostWrite_pcr]
@[simp] theorem State.hostWriteQuad_lts (s : State) (a : Nat) (q : Quad) : (s.hostWriteQuad a q).lts = s.lts := by
  simp only [State.hostWriteQuad, State.hostWrite_lts]
@[simp] theorem State.hostWriteQuad_ypl (s : State) (a : Nat) (q : Quad) : (s.hostWriteQuad a q).ypl = s.ypl := by
  simp only [State.hostWriteQuad, State.hostWrite_ypl]
@[simp] theorem State.hostWriteQuad_svc (s : State) (a : Nat) (q : Quad) : (s.hostWriteQuad a q).svc = s.svc := by
  simp only [State.hostWriteQuad, State.hostWrite_svc]

@[simp] theorem State.nodeSet_time (s : State) (id : Nat) (w : Word) : (s.nodeSet id w).time = s.time := rfl
@[simp] theorem State.nodeSet_freeCtr (s : State) (id : Nat) (w : Word) : (s.nodeSet id w).freeCtr = s.freeCtr := rfl
@[simp] theorem State.nodeSet_pending (s : State) (id : Nat) (w : Word) : (s.nodeSet id w).pending = s.pending := rfl
@[simp] theorem State.nodeSet_fpSteps (s : State) (id : Nat) (w : Word) : (s.nodeSet id w).fpSteps = s.fpSteps := rfl
@[simp] theorem State.nodeSet_fpNewAt (s : State) (id : Nat) (w : Word) : (s.nodeSet id w).fpNewAt = s.fpNewAt := rfl
@[simp] theorem State.nodeSet_lastFp (s : State) (id : Nat) (w : Word) : (s.nodeSet id w).lastFp = s.lastFp := rfl
@[simp] theorem State.nodeSet_lastSp (s : State) (id : Nat) (w : Word) : (s.nodeSet id w).lastSp = s.lastSp := rfl
@[simp] theorem State.nodeSet_lastHr (s : State) (id : Nat) (w : Word) : (s.nodeSet id w).lastHr = s.lastHr := rfl
@[simp] theorem State.nodeSet_started (s : State) (id : Nat) (w : Word) : (s.nodeSet id w).started = s.started := rfl
@[simp] theorem State.nodeSet_regs (s : State) (id : Nat) (w : Word) : (s.nodeSet id w).regs = s.regs := rfl
@[simp] theorem State.nodeSet_ecc (s : State) (id : Nat) (w : Word) : (s.nodeSet id w).ecc = s.ecc := rfl
@[simp] theorem State.nodeSet_late (s : State) (id : Nat) (w : Word) : (s.nodeSet id w).late = s.late := rfl
@[simp] theorem State.nodeSet_mach (s : State) (id : Nat) (w : Word) : (s.nodeSet id w).mach = s.mach := rfl
@[simp] theorem State.nodeSet_sets (s : State) (id : Nat) (w : Word) : (s.nodeSet id w).sets = s.sets := rfl
@[simp] theorem State.nodeSet_chans (s : State) (id : Nat) (w : Word) : (s.nodeSet id w).chans = s.chans := rfl
@[simp] theorem State.nodeSet_edges (s : State) (id : Nat) (w : Word) : (s.nodeSet id w).edges = s.edges := rfl
@[simp] theorem State.nodeSet_groups (s : State) (id : Nat) (w : Word) : (s.nodeSet id w).groups = s.groups := rfl
@[simp] theorem State.nodeSet_direct (s : State) (id : Nat) (w : Word) : (s.nodeSet id w).direct = s.direct := rfl
@[simp] theorem State.nodeSet_chops (s : State) (id : Nat) (w : Word) : (s.nodeSet id w).chops = s.chops := rfl
@[simp] theorem State.nodeSet_acq (s : State) (id : Nat) (w : Word) : (s.nodeSet id w).acq = s.acq := rfl
@[simp] theorem State.nodeSet_winOut (s : State) (id : Nat) (w : Word) : (s.nodeSet id w).winOut = s.winOut := rfl
@[simp] theorem State.nodeSet_flt (s : State) (id : Nat) (w : Word) : (s.nodeSet id w).flt = s.flt := rfl
@[simp] theorem State.nodeSet_estop (s : State) (id : Nat) (w : Word) : (s.nodeSet id w).estop = s.estop := rfl
@[simp] theorem State.nodeSet_sup (s : State) (id : Nat) (w : Word) : (s.nodeSet id w).sup = s.sup := rfl
@[simp] theorem State.nodeSet_thm (s : State) (id : Nat) (w : Word) : (s.nodeSet id w).thm = s.thm := rfl
@[simp] theorem State.nodeSet_host (s : State) (id : Nat) (w : Word) : (s.nodeSet id w).host = s.host := rfl
@[simp] theorem State.nodeSet_silo (s : State) (id : Nat) (w : Word) : (s.nodeSet id w).silo = s.silo := rfl
@[simp] theorem State.nodeSet_otp (s : State) (id : Nat) (w : Word) : (s.nodeSet id w).otp = s.otp := rfl
@[simp] theorem State.nodeSet_msr (s : State) (id : Nat) (w : Word) : (s.nodeSet id w).msr = s.msr := rfl
@[simp] theorem State.nodeSet_pcr (s : State) (id : Nat) (w : Word) : (s.nodeSet id w).pcr = s.pcr := rfl
@[simp] theorem State.nodeSet_lts (s : State) (id : Nat) (w : Word) : (s.nodeSet id w).lts = s.lts := rfl
@[simp] theorem State.nodeSet_ypl (s : State) (id : Nat) (w : Word) : (s.nodeSet id w).ypl = s.ypl := rfl
@[simp] theorem State.nodeSet_svc (s : State) (id : Nat) (w : Word) : (s.nodeSet id w).svc = s.svc := rfl

@[simp] theorem State.lateNote_time (s : State) (id : Nat) (w : Word) : (s.lateNote id w).time = s.time := rfl
@[simp] theorem State.lateNote_freeCtr (s : State) (id : Nat) (w : Word) : (s.lateNote id w).freeCtr = s.freeCtr := rfl
@[simp] theorem State.lateNote_pending (s : State) (id : Nat) (w : Word) : (s.lateNote id w).pending = s.pending := rfl
@[simp] theorem State.lateNote_fpSteps (s : State) (id : Nat) (w : Word) : (s.lateNote id w).fpSteps = s.fpSteps := rfl
@[simp] theorem State.lateNote_fpNewAt (s : State) (id : Nat) (w : Word) : (s.lateNote id w).fpNewAt = s.fpNewAt := rfl
@[simp] theorem State.lateNote_lastFp (s : State) (id : Nat) (w : Word) : (s.lateNote id w).lastFp = s.lastFp := rfl
@[simp] theorem State.lateNote_lastSp (s : State) (id : Nat) (w : Word) : (s.lateNote id w).lastSp = s.lastSp := rfl
@[simp] theorem State.lateNote_lastHr (s : State) (id : Nat) (w : Word) : (s.lateNote id w).lastHr = s.lastHr := rfl
@[simp] theorem State.lateNote_started (s : State) (id : Nat) (w : Word) : (s.lateNote id w).started = s.started := rfl
@[simp] theorem State.lateNote_regs (s : State) (id : Nat) (w : Word) : (s.lateNote id w).regs = s.regs := rfl
@[simp] theorem State.lateNote_nodes (s : State) (id : Nat) (w : Word) : (s.lateNote id w).nodes = s.nodes := rfl
@[simp] theorem State.lateNote_ecc (s : State) (id : Nat) (w : Word) : (s.lateNote id w).ecc = s.ecc := rfl
@[simp] theorem State.lateNote_mach (s : State) (id : Nat) (w : Word) : (s.lateNote id w).mach = s.mach := rfl
@[simp] theorem State.lateNote_sets (s : State) (id : Nat) (w : Word) : (s.lateNote id w).sets = s.sets := rfl
@[simp] theorem State.lateNote_chans (s : State) (id : Nat) (w : Word) : (s.lateNote id w).chans = s.chans := rfl
@[simp] theorem State.lateNote_edges (s : State) (id : Nat) (w : Word) : (s.lateNote id w).edges = s.edges := rfl
@[simp] theorem State.lateNote_groups (s : State) (id : Nat) (w : Word) : (s.lateNote id w).groups = s.groups := rfl
@[simp] theorem State.lateNote_direct (s : State) (id : Nat) (w : Word) : (s.lateNote id w).direct = s.direct := rfl
@[simp] theorem State.lateNote_chops (s : State) (id : Nat) (w : Word) : (s.lateNote id w).chops = s.chops := rfl
@[simp] theorem State.lateNote_acq (s : State) (id : Nat) (w : Word) : (s.lateNote id w).acq = s.acq := rfl
@[simp] theorem State.lateNote_winOut (s : State) (id : Nat) (w : Word) : (s.lateNote id w).winOut = s.winOut := rfl
@[simp] theorem State.lateNote_flt (s : State) (id : Nat) (w : Word) : (s.lateNote id w).flt = s.flt := rfl
@[simp] theorem State.lateNote_estop (s : State) (id : Nat) (w : Word) : (s.lateNote id w).estop = s.estop := rfl
@[simp] theorem State.lateNote_sup (s : State) (id : Nat) (w : Word) : (s.lateNote id w).sup = s.sup := rfl
@[simp] theorem State.lateNote_thm (s : State) (id : Nat) (w : Word) : (s.lateNote id w).thm = s.thm := rfl
@[simp] theorem State.lateNote_host (s : State) (id : Nat) (w : Word) : (s.lateNote id w).host = s.host := rfl
@[simp] theorem State.lateNote_silo (s : State) (id : Nat) (w : Word) : (s.lateNote id w).silo = s.silo := rfl
@[simp] theorem State.lateNote_otp (s : State) (id : Nat) (w : Word) : (s.lateNote id w).otp = s.otp := rfl
@[simp] theorem State.lateNote_msr (s : State) (id : Nat) (w : Word) : (s.lateNote id w).msr = s.msr := rfl
@[simp] theorem State.lateNote_pcr (s : State) (id : Nat) (w : Word) : (s.lateNote id w).pcr = s.pcr := rfl
@[simp] theorem State.lateNote_lts (s : State) (id : Nat) (w : Word) : (s.lateNote id w).lts = s.lts := rfl
@[simp] theorem State.lateNote_ypl (s : State) (id : Nat) (w : Word) : (s.lateNote id w).ypl = s.ypl := rfl
@[simp] theorem State.lateNote_svc (s : State) (id : Nat) (w : Word) : (s.lateNote id w).svc = s.svc := rfl

@[simp] theorem State.ledgerPut_time (s : State) (id : Nat) (w : Word) : (s.ledgerPut id w).time = s.time := rfl
@[simp] theorem State.ledgerPut_freeCtr (s : State) (id : Nat) (w : Word) : (s.ledgerPut id w).freeCtr = s.freeCtr := rfl
@[simp] theorem State.ledgerPut_pending (s : State) (id : Nat) (w : Word) : (s.ledgerPut id w).pending = s.pending := rfl
@[simp] theorem State.ledgerPut_fpSteps (s : State) (id : Nat) (w : Word) : (s.ledgerPut id w).fpSteps = s.fpSteps := rfl
@[simp] theorem State.ledgerPut_fpNewAt (s : State) (id : Nat) (w : Word) : (s.ledgerPut id w).fpNewAt = s.fpNewAt := rfl
@[simp] theorem State.ledgerPut_lastFp (s : State) (id : Nat) (w : Word) : (s.ledgerPut id w).lastFp = s.lastFp := rfl
@[simp] theorem State.ledgerPut_lastSp (s : State) (id : Nat) (w : Word) : (s.ledgerPut id w).lastSp = s.lastSp := rfl
@[simp] theorem State.ledgerPut_lastHr (s : State) (id : Nat) (w : Word) : (s.ledgerPut id w).lastHr = s.lastHr := rfl
@[simp] theorem State.ledgerPut_started (s : State) (id : Nat) (w : Word) : (s.ledgerPut id w).started = s.started := rfl
@[simp] theorem State.ledgerPut_regs (s : State) (id : Nat) (w : Word) : (s.ledgerPut id w).regs = s.regs := rfl
@[simp] theorem State.ledgerPut_nodes (s : State) (id : Nat) (w : Word) : (s.ledgerPut id w).nodes = (s.nodeSet id w).nodes := rfl
@[simp] theorem State.ledgerPut_ecc (s : State) (id : Nat) (w : Word) : (s.ledgerPut id w).ecc = s.ecc := rfl
@[simp] theorem State.ledgerPut_mach (s : State) (id : Nat) (w : Word) : (s.ledgerPut id w).mach = s.mach := rfl
@[simp] theorem State.ledgerPut_sets (s : State) (id : Nat) (w : Word) : (s.ledgerPut id w).sets = s.sets := rfl
@[simp] theorem State.ledgerPut_chans (s : State) (id : Nat) (w : Word) : (s.ledgerPut id w).chans = s.chans := rfl
@[simp] theorem State.ledgerPut_edges (s : State) (id : Nat) (w : Word) : (s.ledgerPut id w).edges = s.edges := rfl
@[simp] theorem State.ledgerPut_groups (s : State) (id : Nat) (w : Word) : (s.ledgerPut id w).groups = s.groups := rfl
@[simp] theorem State.ledgerPut_direct (s : State) (id : Nat) (w : Word) : (s.ledgerPut id w).direct = s.direct := rfl
@[simp] theorem State.ledgerPut_chops (s : State) (id : Nat) (w : Word) : (s.ledgerPut id w).chops = s.chops := rfl
@[simp] theorem State.ledgerPut_acq (s : State) (id : Nat) (w : Word) : (s.ledgerPut id w).acq = s.acq := rfl
@[simp] theorem State.ledgerPut_winOut (s : State) (id : Nat) (w : Word) : (s.ledgerPut id w).winOut = s.winOut := rfl
@[simp] theorem State.ledgerPut_flt (s : State) (id : Nat) (w : Word) : (s.ledgerPut id w).flt = s.flt := rfl
@[simp] theorem State.ledgerPut_estop (s : State) (id : Nat) (w : Word) : (s.ledgerPut id w).estop = s.estop := rfl
@[simp] theorem State.ledgerPut_sup (s : State) (id : Nat) (w : Word) : (s.ledgerPut id w).sup = s.sup := rfl
@[simp] theorem State.ledgerPut_thm (s : State) (id : Nat) (w : Word) : (s.ledgerPut id w).thm = s.thm := rfl
@[simp] theorem State.ledgerPut_host (s : State) (id : Nat) (w : Word) : (s.ledgerPut id w).host = s.host := rfl
@[simp] theorem State.ledgerPut_silo (s : State) (id : Nat) (w : Word) : (s.ledgerPut id w).silo = s.silo := rfl
@[simp] theorem State.ledgerPut_otp (s : State) (id : Nat) (w : Word) : (s.ledgerPut id w).otp = s.otp := rfl
@[simp] theorem State.ledgerPut_msr (s : State) (id : Nat) (w : Word) : (s.ledgerPut id w).msr = s.msr := rfl
@[simp] theorem State.ledgerPut_pcr (s : State) (id : Nat) (w : Word) : (s.ledgerPut id w).pcr = s.pcr := rfl
@[simp] theorem State.ledgerPut_lts (s : State) (id : Nat) (w : Word) : (s.ledgerPut id w).lts = s.lts := rfl
@[simp] theorem State.ledgerPut_ypl (s : State) (id : Nat) (w : Word) : (s.ledgerPut id w).ypl = s.ypl := rfl
@[simp] theorem State.ledgerPut_svc (s : State) (id : Nat) (w : Word) : (s.ledgerPut id w).svc = s.svc := rfl

@[simp] theorem State.await_time (s : State) (c : Waiting) : (s.await c).time = s.time := rfl
@[simp] theorem State.await_freeCtr (s : State) (c : Waiting) : (s.await c).freeCtr = s.freeCtr := rfl
@[simp] theorem State.await_pending (s : State) (c : Waiting) : (s.await c).pending = s.pending := rfl
@[simp] theorem State.await_fpSteps (s : State) (c : Waiting) : (s.await c).fpSteps = s.fpSteps := rfl
@[simp] theorem State.await_fpNewAt (s : State) (c : Waiting) : (s.await c).fpNewAt = s.fpNewAt := rfl
@[simp] theorem State.await_lastFp (s : State) (c : Waiting) : (s.await c).lastFp = s.lastFp := rfl
@[simp] theorem State.await_lastSp (s : State) (c : Waiting) : (s.await c).lastSp = s.lastSp := rfl
@[simp] theorem State.await_lastHr (s : State) (c : Waiting) : (s.await c).lastHr = s.lastHr := rfl
@[simp] theorem State.await_started (s : State) (c : Waiting) : (s.await c).started = s.started := rfl
@[simp] theorem State.await_regs (s : State) (c : Waiting) : (s.await c).regs = s.regs := rfl
@[simp] theorem State.await_nodes (s : State) (c : Waiting) : (s.await c).nodes = s.nodes := rfl
@[simp] theorem State.await_ecc (s : State) (c : Waiting) : (s.await c).ecc = s.ecc := rfl
@[simp] theorem State.await_late (s : State) (c : Waiting) : (s.await c).late = s.late := rfl
@[simp] theorem State.await_mach (s : State) (c : Waiting) : (s.await c).mach = s.mach := rfl
@[simp] theorem State.await_sets (s : State) (c : Waiting) : (s.await c).sets = s.sets := rfl
@[simp] theorem State.await_chans (s : State) (c : Waiting) : (s.await c).chans = s.chans := rfl
@[simp] theorem State.await_edges (s : State) (c : Waiting) : (s.await c).edges = s.edges := rfl
@[simp] theorem State.await_groups (s : State) (c : Waiting) : (s.await c).groups = s.groups := rfl
@[simp] theorem State.await_direct (s : State) (c : Waiting) : (s.await c).direct = s.direct := rfl
@[simp] theorem State.await_chops (s : State) (c : Waiting) : (s.await c).chops = s.chops := rfl
@[simp] theorem State.await_acq (s : State) (c : Waiting) : (s.await c).acq = s.acq := rfl
@[simp] theorem State.await_winOut (s : State) (c : Waiting) : (s.await c).winOut = s.winOut := rfl
@[simp] theorem State.await_flt (s : State) (c : Waiting) : (s.await c).flt = s.flt := rfl
@[simp] theorem State.await_estop (s : State) (c : Waiting) : (s.await c).estop = s.estop := rfl
@[simp] theorem State.await_sup (s : State) (c : Waiting) : (s.await c).sup = s.sup := rfl
@[simp] theorem State.await_thm (s : State) (c : Waiting) : (s.await c).thm = s.thm := rfl
@[simp] theorem State.await_silo (s : State) (c : Waiting) : (s.await c).silo = s.silo := rfl
@[simp] theorem State.await_otp (s : State) (c : Waiting) : (s.await c).otp = s.otp := rfl
@[simp] theorem State.await_msr (s : State) (c : Waiting) : (s.await c).msr = s.msr := rfl
@[simp] theorem State.await_pcr (s : State) (c : Waiting) : (s.await c).pcr = s.pcr := rfl
@[simp] theorem State.await_lts (s : State) (c : Waiting) : (s.await c).lts = s.lts := rfl
@[simp] theorem State.await_ypl (s : State) (c : Waiting) : (s.await c).ypl = s.ypl := rfl
@[simp] theorem State.await_svc (s : State) (c : Waiting) : (s.await c).svc = s.svc := rfl

@[simp] theorem State.takeCmd_time (s : State) (n : Fin 16) : (s.takeCmd n).time = s.time := rfl
@[simp] theorem State.takeCmd_freeCtr (s : State) (n : Fin 16) : (s.takeCmd n).freeCtr = s.freeCtr := rfl
@[simp] theorem State.takeCmd_pending (s : State) (n : Fin 16) : (s.takeCmd n).pending = s.pending := rfl
@[simp] theorem State.takeCmd_fpSteps (s : State) (n : Fin 16) : (s.takeCmd n).fpSteps = s.fpSteps := rfl
@[simp] theorem State.takeCmd_fpNewAt (s : State) (n : Fin 16) : (s.takeCmd n).fpNewAt = s.fpNewAt := rfl
@[simp] theorem State.takeCmd_lastFp (s : State) (n : Fin 16) : (s.takeCmd n).lastFp = s.lastFp := rfl
@[simp] theorem State.takeCmd_lastSp (s : State) (n : Fin 16) : (s.takeCmd n).lastSp = s.lastSp := rfl
@[simp] theorem State.takeCmd_lastHr (s : State) (n : Fin 16) : (s.takeCmd n).lastHr = s.lastHr := rfl
@[simp] theorem State.takeCmd_started (s : State) (n : Fin 16) : (s.takeCmd n).started = s.started := rfl
@[simp] theorem State.takeCmd_nodes (s : State) (n : Fin 16) : (s.takeCmd n).nodes = s.nodes := rfl
@[simp] theorem State.takeCmd_ecc (s : State) (n : Fin 16) : (s.takeCmd n).ecc = s.ecc := rfl
@[simp] theorem State.takeCmd_late (s : State) (n : Fin 16) : (s.takeCmd n).late = s.late := rfl
@[simp] theorem State.takeCmd_mach (s : State) (n : Fin 16) : (s.takeCmd n).mach = s.mach := rfl
@[simp] theorem State.takeCmd_sets (s : State) (n : Fin 16) : (s.takeCmd n).sets = s.sets := rfl
@[simp] theorem State.takeCmd_chans (s : State) (n : Fin 16) : (s.takeCmd n).chans = s.chans := rfl
@[simp] theorem State.takeCmd_edges (s : State) (n : Fin 16) : (s.takeCmd n).edges = s.edges := rfl
@[simp] theorem State.takeCmd_groups (s : State) (n : Fin 16) : (s.takeCmd n).groups = s.groups := rfl
@[simp] theorem State.takeCmd_direct (s : State) (n : Fin 16) : (s.takeCmd n).direct = s.direct := rfl
@[simp] theorem State.takeCmd_chops (s : State) (n : Fin 16) : (s.takeCmd n).chops = s.chops := rfl
@[simp] theorem State.takeCmd_acq (s : State) (n : Fin 16) : (s.takeCmd n).acq = s.acq := rfl
@[simp] theorem State.takeCmd_winOut (s : State) (n : Fin 16) : (s.takeCmd n).winOut = s.winOut := rfl
@[simp] theorem State.takeCmd_flt (s : State) (n : Fin 16) : (s.takeCmd n).flt = s.flt := rfl
@[simp] theorem State.takeCmd_estop (s : State) (n : Fin 16) : (s.takeCmd n).estop = s.estop := rfl
@[simp] theorem State.takeCmd_sup (s : State) (n : Fin 16) : (s.takeCmd n).sup = s.sup := rfl
@[simp] theorem State.takeCmd_thm (s : State) (n : Fin 16) : (s.takeCmd n).thm = s.thm := rfl
@[simp] theorem State.takeCmd_silo (s : State) (n : Fin 16) : (s.takeCmd n).silo = s.silo := rfl
@[simp] theorem State.takeCmd_otp (s : State) (n : Fin 16) : (s.takeCmd n).otp = s.otp := rfl
@[simp] theorem State.takeCmd_msr (s : State) (n : Fin 16) : (s.takeCmd n).msr = s.msr := rfl
@[simp] theorem State.takeCmd_pcr (s : State) (n : Fin 16) : (s.takeCmd n).pcr = s.pcr := rfl
@[simp] theorem State.takeCmd_lts (s : State) (n : Fin 16) : (s.takeCmd n).lts = s.lts := rfl
@[simp] theorem State.takeCmd_ypl (s : State) (n : Fin 16) : (s.takeCmd n).ypl = s.ypl := rfl
@[simp] theorem State.takeCmd_svc (s : State) (n : Fin 16) : (s.takeCmd n).svc = s.svc := rfl

@[simp] theorem State.adv_time (s : State) (t : Time) : (s.adv t).time = max s.time t := rfl
@[simp] theorem State.freeNext_freeCtr (s : State) : s.freeNext.freeCtr = s.freeCtr + 1 := rfl
@[simp] theorem State.await_waiting (s : State) (c : Waiting) : (s.await c).host.waiting = s.host.waiting ++ [c] := rfl
@[simp] theorem State.await_rings (s : State) (c : Waiting) : (s.await c).host.rings = s.host.rings := rfl

theorem vmod_at {α : Type} {n : Nat} (v : Vector α n) (i : Fin n) (f : α → α) : (vmod v i f)[i] = f v[i] := by
  simp [vmod]

theorem vmod_other {α : Type} {n : Nat} (v : Vector α n) (i j : Fin n) (f : α → α) (h : i ≠ j) : (vmod v i f)[j] = v[j] := by
  have : i.val ≠ j.val := fun e => h (Fin.ext e)
  simp [vmod, Vector.getElem_set, this]

end Sys2Proof.Machine
end

