-- ==== Sys2Proof/Laws/Samples.lean ====
section
/-! SUPPORT. what delivering a sample leaves alone, and what a taken fast sample does to its input's history. -/
namespace Sys2Proof.Machine

theorem quiet_forFin {n : Nat} {s : State} {f : State → Fin n → State} (hf : ∀ u x, Quiet u (f u x)) : Quiet s (forFin n s f) :=
  quiet_foldl hf

theorem quiet_modSilo (s : State) (c : Fin 16) (f : SiloCh → SiloCh) : Quiet s (s.modSilo c f) := rfl

theorem quiet_tqWrite (c : Fin 16) (l : List TQuad) (s : State) : Quiet s (State.tqWrite c l s) := by
  induction l generalizing s with
  | nil => exact quiet_modSilo _ _ _
  | cons q l ih =>
    unfold State.tqWrite; split
    · dsimp only; exact ((quiet_ringPut s _ _ _ _ _).trans (quiet_modSilo _ c _)).trans (ih _)
    · exact quiet_modSilo _ _ _

theorem quiet_siloPush (s : State) (c : Fin 16) (rs : List Rec) : Quiet s (s.siloPush c rs) := by
  unfold State.siloPush; dsimp only; split
  · rfl
  · split
    · exact quiet_modSilo s c _
    · have h := ((quiet_rcount s regTrcCount c 31 16 1).trans (quiet_rcount _ regTrcLost 0 31 0 1)).trans
        (quiet_modSilo _ c fun x => { x with gap := true, losing := true })
      split
      · exact h.trans (quiet_raise _ _ _ _ _ _ _)
      · exact h

theorem quiet_siloClose (s : State) (c : Fin 16) : Quiet s (s.siloClose c) :=
  ((quiet_modSilo s c _).trans (quiet_siloPush _ c _)).trans (quiet_tqWrite c _ _)

theorem quiet_siloRing (s : State) (c : Fin 16) (r : Rec) : Quiet s (s.siloRing c r) := by
  have h : ∀ u : State, Quiet u (if (u.modSilo c fun x => { x with recs := r :: x.recs }).perQuad c ≤
      (u.modSilo c fun x => { x with recs := r :: x.recs }).silo[c].recs.length then
        (u.modSilo c fun x => { x with recs := r :: x.recs }).siloClose c else u.modSilo c fun x => { x with recs := r :: x.recs }) := by
    intro u; split
    · exact (quiet_modSilo u c _).trans (quiet_siloClose _ c)
    · exact quiet_modSilo u c _
  unfold State.siloRing; dsimp only
  refine Quiet.trans ?_ (h _)
  split
  · exact quiet_siloClose s c
  · rfl

theorem quiet_siloShot (s : State) (c : Fin 16) (r : Rec) : Quiet s (s.siloShot c r) := by
  unfold State.siloShot; dsimp only; split
  · rfl
  · exact quiet_modSilo s c _

theorem quiet_siloRec (s : State) (c : Fin 16) (r : Rec) : Quiet s (s.siloRec c r) := by
  have h : ∀ (u : State) (k : Nat), Quiet u (if k ≤ s.silo[c].dec + 1 then (if u.silo[c].state = 5 then u.siloRing c r else u.siloShot c r) else u) := by
    intro u k; split
    · split
      · exact quiet_siloRing u c r
      · exact quiet_siloShot u c r
    · rfl
  unfold State.siloRec; dsimp only
  generalize hx : (if s.trcCfg c 15 0 ≤ s.silo[c].dec + 1 then 0 else s.silo[c].dec + 1) = d
  refine dite (s.silo[c].takes = true) (fun e => ?_) (fun e => ?_)
  · rw [if_neg (by rw [e]; decide)]
    exact (quiet_modSilo s c _).trans (h _ _)
  · rw [if_pos (by simpa using e)]; rfl

theorem quiet_siloSample (s : State) (chan : Nat) (t : Time) (code : Int) (flags : BitVec 5) : Quiet s (s.siloSample chan t code flags) := by
  unfold State.siloSample
  refine quiet_forFin fun u c => ?_
  split
  · exact quiet_siloRec u c _
  · rfl

/-- Closing a quad of a stream leaves every pair's history alone. -/
theorem closeQuad_pairs (s : State) (i : Fin 32) : (s.closeQuad i).acq.pairs = s.acq.pairs := by
  unfold State.closeQuad; dsimp only
  split
  · rfl
  · split
    · rw [(quiet_ringPut _ _ _ _ _ _).acq_eq]; rfl
    · split
      · rfl
      · rw [(quiet_raise _ _ _ _ _ _ _).acq_eq]; rfl

theorem foldl_pairs {α : Type} {l : List α} {f : State → α → State} (hf : ∀ u x, (f u x).acq.pairs = u.acq.pairs) (s : State) :
    (l.foldl f s).acq.pairs = s.acq.pairs := by
  induction l generalizing s with
  | nil => rfl
  | cons a l ih => exact (ih _).trans (hf s a)

theorem streamSample_pairs (s : State) (c n : Nat) (x : Sample) : (s.streamSample c n x).acq.pairs = s.acq.pairs := by
  unfold State.streamSample forFin
  refine foldl_pairs (fun u i => ?_) s
  split
  · dsimp only; split
    · split
      · exact closeQuad_pairs _ i
      · rfl
    · rfl
  · rfl

/-- Delivering a sample leaves every pair as it is. -/
theorem deliver_pairs (s : State) (c n : Nat) (x : Sample) : (s.deliver c n x).acq.pairs = s.acq.pairs := by
  unfold State.deliver; dsimp only
  rw [(quiet_siloSample _ _ _ _ _).acq_eq, streamSample_pairs]

/-- A change of one pair that keeps its history keeps its history. -/
theorem modPair_hist (s : State) (p : Fin 16) (f : PairSt → PairSt) (h : ∀ y, (f y).hist = y.hist) :
    (s.modPair p f).acq.pairs[p].hist = s.acq.pairs[p].hist :=
  by unfold State.modPair; dsimp only; rw [vmod_at]; exact h _

theorem trackPair_hist (s : State) (p : Fin 16) (r : Rat × Rat × BitVec 5) : (s.trackPair p r).acq.pairs[p].hist = s.acq.pairs[p].hist := by
  unfold State.trackPair
  refine modPair_hist s p _ (fun y => ?_)
  dsimp only; split <;> split <;> rfl

/-- A fast result at an instant that its member takes becomes the newest of its input (R185, R191). -/
theorem fastSample_hist (s : State) (p : Fin 16) (odd : Bool) (raw : Int) (t : Time) (h : s.takesInstant p odd t = true) :
    ∃ x : Sample, x.t = t ∧ (s.fastSample p odd raw t).acq.pairs[p].hist = (x :: s.acq.pairs[p].hist).take 16 := by
  unfold State.fastSample
  rw [h]
  dsimp -zeta only
  extract_lets x nbr smp steps u v
  have e : v.acq.pairs[p].hist = (smp :: s.acq.pairs[p].hist).take 16 := by
    have hu : u = (s.noteMember p odd smp.code t).deliver p.val steps smp := rfl
    have hp : u.acq.pairs = (s.noteMember p odd smp.code t).acq.pairs := by rw [hu]; exact deliver_pairs _ _ _ _
    have hn : ∀ c, (s.noteMember p odd c t).acq.pairs[p].hist = s.acq.pairs[p].hist := fun c => by
      unfold State.noteMember; exact modPair_hist s p _ (fun y => by split <;> rfl)
    have hv : v = u.modPair p fun y => { y with hist := (smp :: y.hist).take 16 } := rfl
    clear_value v u
    rw [hv]; unfold State.modPair; dsimp only; rw [vmod_at, hp, hn]
  clear_value v
  rw [if_neg (by decide)]
  refine ⟨smp, rfl, ?_⟩
  split
  · exact e
  · split
    · exact (trackPair_hist _ p _).trans e
    · exact e

end Sys2Proof.Machine
end

