-- ==== Sys2Proof/Tests/Slice0.lean ====
section
/-! SUPPORT. Slice0.lean: the author's tests: for every statement a named theorem that shows states and operands which meet its hypotheses, and
small tests of single commands. -/
namespace Sys2Proof.Tests
set_option Elab.async false
open Sys2Proof Sys2Proof.Machine Sys2Proof.Claims

/-! ### Helper states -/

/-- A quad of a command ring with the arguments given and no reserved bit. -/
def quad (ring : Fin 16) (tag : BitVec 16) (a0 : Word) (a1 : BitVec 64) : CmdQ := ⟨ring, false, false, 0, 0, tag, a0, a1⟩

/-- The ring indices after a first entry has been published. -/
def oneEntry : RingSt := { RingSt.reset with tail := 1 }

/-- A SOLO device that takes commands: firmware runs, CQ0, DQ0 and CQ1 enabled with 16 entries, one command waits in CQ0. -/
def W : State :=
  { (((State.reset.rset regRngCfg 0 0x41).rset regRngCfg 16 0x41).rset regRngCfg 1 0x41) with
    host := { HostSt.reset with bme := true, rings := vmod HostSt.reset.rings 0 fun _ => oneEntry }
    otp := { OtpSt.reset with loaded := true }
    msr := { MsrSt.reset with running := true, measured := true }
    ypl := { YplSt.reset with role := .solo, epoch := 1, epochOk := true, claim := true, own := true }
    pcr := { PcrSt.reset with settled := true } }

def qN : CmdQ := quad 0 0 0 0

/-- 1.0 and 1,000.0 in binary32. -/
def f1 : Word := 0x3F800000
def f1000 : Word := 0x447A0000

/-- W with machine 0 configured with one set so that every condition of DRIVE_START holds, calibrated, its windows IN. -/
def Wready : State :=
  let s := (((W.rset regComMachCfg 0 0xB000).rset regComFeMax 0 f1000).rset regComVphGain 0 f1).rset regEngDecelRate 0 f1
  let s := (((s.rset regEngVdcHold 0 f1000).rset regAcqIsScale 0 f1).rset regAcqIsScale 1 f1).rset regAcqScale 0 f1
  let s := ((s.rset regCmpWinCfg 0 0x8040A010).rset regCmpWinCfg 1 0x8040A010).rset regCmpWinCfg 16 0x804FF810
  let s := ((s.rset regCmpRoute 0 1).rset regCmpRoute 1 1).rset regCmpRoute 16 1
  let s := ((s.rset regSupVdcLvl0 0 0x42C80000).rset regSupVdcLvl0 1 0x43480000).rset regSupVdcLvl0 2 0x43960000
  let s := (s.rset regSupVdcLvl0 3 0x43C80000).rset regSupVdcLvl0 4 0x43FA0000
  { s with
    winOut := 0xEFFFC
    acq := { s.acq with calValid := true }
    nodes := [(0x18000, f1), (0x18001, f1), (0x1800A, 0x43C80000), (0x1800B, 0x42C80000), (0x1800F, f1), (0x18010, f1),
              (0x18200, f1), (0x18201, f1), (0x18202, f1)] }

/-- W with its transition window to DEEP open, so that commands see DEEP. -/
def Wdeep : State := { W with pcr := { W.pcr with transit := true, target := 3 } }
def Wpoison : State := { W with ecc := { W.ecc with poison := [0] } }
def Wstby : State := { Wready with ypl := { Wready.ypl with role := .standby, claim := false, own := false } }
def Wthm : State := { Wready with thm := { Wready.thm with shutHeld := true } }
def Wwarn : State := { W with pcr := { W.pcr with warn := 1, runAt := some 0 } }
def Wstop : State :=
  { Wready with
    pcr := { Wready.pcr with stopping := true }
    mach := vmod Wready.mach 0 fun x => { x with decel := { x.decel with active := true, cause := 4 } } }

def qW : CmdQ := quad 0 0 0x100 (0x3F800000 : BitVec 64)
def qH : CmdQ := quad 0 0 8 0
def qB : CmdQ := quad 0 0 1 0
def qK : CmdQ := quad 0 0 2 0
def qP : CmdQ := quad 0 0 1 0
def qU : CmdQ := quad 0 0 0x40 0
def qT : CmdQ := quad 0 0 1 0
def qL : CmdQ := quad 0 0 0x20000 0
def qO : CmdQ := quad 0 0 0x1400 0
def qA : CmdQ := quad 0 0 928 0
def qS : CmdQ := quad 0 0 1 0
def qK2 : CmdQ := quad 0 0 0 1
def qP1 : CmdQ := quad 0 0 1 0

/-- A long operation in slot 0. -/
def lopState (s : State) (l : Lop) : State := { s with host := { s.host with lops := vmod s.host.lops 0 fun _ => l } }
def Wlop : State := lopState W { Lop.reset with state := 1, gen := 1, opc := 0x0A }
def Wsus : State := lopState W { Lop.reset with state := 2, gen := 1, opc := 0x0A }
def Wcal : State := lopState W { Lop.reset with state := 2, gen := 1, opc := 0x20 }
def Wcalrun : State := lopState W { Lop.reset with state := 1, gen := 1, opc := 0x20 }
def Wst : State := lopState W { Lop.reset with state := 1, gen := 1, opc := 0x40, arg0 := 1, res := [0] }
def Wlnk : State := lopState W { Lop.reset with state := 1, gen := 1, opc := 0x41, arg1 := 1 }
def Wblk (opc : BitVec 8) : State := lopState W { Lop.reset with state := 1, gen := 1, opc := opc }
def Wrejoin (p : Nat) : State := lopState W { Lop.reset with state := 1, gen := 1, opc := 0x49, phase := p }

/-- A command of opcode `opc` past its commit point, waiting for a boundary. -/
def waitingFor (opc : BitVec 8) (aux : Nat) : Waiting := ⟨0, opc, 0, false, 0, 0, 0, 0, 0, 0, aux, true⟩
def waits1 (s : State) (opc : BitVec 8) (aux : Nat) : State := { s with host := { s.host with waiting := [waitingFor opc aux] } }
def Wact (opc : BitVec 8) : State := waits1 W opc 0
def WactD (k : Nat) : State := waits1 W 0x18 k
def Wfence : State := { W with host := { W.host with fences := [⟨0, 0, 1, false, false, 0, [], 0⟩] } }

def Wdir : State := (({ Wready with started := true } : State).rset regPgnDirPeriod 0 1000).rset regPgnDirMin 0 0x140014
def Wdrun : State := { W with direct := { W.direct with next := some 1000 } }
def Wurg : State := { W with acq := { W.acq with urgents := [⟨42, 0x40, false, 0, 0⟩] } }

/-- Machine 0 locked and started, its set 0 driving in sector 0. -/
def Wdrive : State :=
  { Wready with
    started := true
    mach := vmod Wready.mach 0 fun x => { x with trk := { x.trk with state := .locked } }
    sets := vmod Wready.sets 0 fun x => { x with driving := true, sector := some 0 } }

def Wmap : State := Wready
def Wgrid : State := Wready
/-- Pair 0's even member repeats one code while the odd member's results spread. -/
def Wstuck : State :=
  { Wready with acq := { Wready.acq with pairs := vmod Wready.acq.pairs 0 fun x => { x with memE := { x.memE with same := 4096, span := some (0, 100) } } } }
/-- Every housekeeping input served up to 200,000, input 0 with it. -/
def Whk : State := { W with acq := { W.acq with hkAt := (Vector.replicate 22 199999).set 0 200000 } }
def Wurg2 : State := { W with acq := { W.acq with urgents := [⟨42, 0x41, true, 0, 0⟩] } }
def Wurg3 : State := { W with acq := { W.acq with urgents := [⟨42, 0x49, false, 0, 0⟩] } }
/-- Set 0 of Wdrive in ON since 197,000. -/
def Wzc : State := { Wdrive with sets := vmod Wdrive.sets 0 fun x => { x with cell := { x.cell with seq := [(197000, .on)] } } }
def Wpair : State := { W with acq := { W.acq with pairs := vmod W.acq.pairs 0 fun x => { x with run := 15, n := 8192 } } }
def Wcheck : State := { W with acq := { W.acq with pairs := vmod W.acq.pairs 0 fun x => { x with checkDue := some 0 } } }

def Wtrc : State :=
  (((W.rset regTrcCfg 0 0x80000001).rset regTrcBuf 0 0x10000).rset regTrcDepth 0 0x10000).rset regRngCfg 44 0x41
def Wsilo : State :=
  { W with silo := vmod (vmod (vmod (vmod W.silo 0 fun c => { c with state := 1, trigDue := [(0, false)] }) 1 fun c => { c with state := 2 })
      2 fun c => { c with state := 3 }) 3 fun c => { c with state := 3, stopped := true } }
def Wotp : State :=
  { W with
    otp := { W.otp with lc := 1 }
    thm := { W.thm with read := true, zones := Vector.replicate 8 { ZoneSt.reset with temp := 400 } }
    acq := { W.acq with latest := [(0x49, ⟨⟨0, 5689, 0⟩, 0⟩)] } }
/-- A word of an OTP_PROGRAM whose pre-check waits for the supply. -/
def Wvpp : State :=
  let s := waits1 Wotp 0x30 0
  { s with otp := { s.otp with burn := some ⟨1, [], 0, 0, 8, 4, 0, false, false, 0, true, 0⟩ } }
def Wrom : State := ({ W with msr := { MsrSt.reset with ready := true } } : State).rset regGlbBootLen 0 4
def WromBad : State := ({ W with msr := { MsrSt.reset with ready := true } } : State).rset regGlbBootLen 0 0
def Wflash : State := { W with msr := MsrSt.reset }
/-- An image of four bytes as the serial flash holds it. -/
def flash1 : List Byte := [1, 0, 0x54, 0x4B, 4, 0, 0, 0, 0, 0, 0, 0, 0, 0, 0, 0, 1, 2, 3, 4]
def Wmeas : State := { W with msr := { MsrSt.reset with measured := true } }
def Wunl : State := { W with otp := OtpSt.reset }
def Watt (k : Nat) : State := if k = 0 then waits1 W 0x38 0 else { W with msr := { W.msr with queue := [⟨0, 0⟩] } }
def Wmgr : State := { W with msr := { W.msr with mgr := true, running := false } }
def Wstp : State :=
  { W with host := { W.host with rings := vmod (vmod W.host.rings 0 fun r => { r with stopped := true }) 32 fun r => { r with stopped := true } } }
def Wmod : State :=
  (({ W with time := 20000000, host := { W.host with rings := vmod W.host.rings 16 fun r => { r with sigAt := some 0 } } } : State).rset
    regRngMod 16 0x10000).rset regRngCfg 16 0x4041

/-- A frame of the pair with a right CRC: type, position, epoch and payload. -/
def frame (type pos : Nat) (epoch : Nat) (p : List Quad) : List Quad :=
  let h : Quad := BitVec.ofNat 128 (type + at_ pos 7 + at_ p.length 8 + at_ epoch 32)
  let c := crc32 (leBytes h.toNat 12 ++ quadBytes p)
  (h ||| (c.zeroExtend 128 <<< 96)) :: p
def batonFrame : List Quad := frame 1 1 1 (List.replicate 16 0)
def pairFrames : List (List Quad × Nat × Nat) :=
  [(frame 2 1 1 [], 2, 0), (frame 7 1 1 [1], 7, 1), (frame 7 1 1 [2], 7, 2), (frame 3 1 1 [1], 3, 1), (frame 3 1 1 [2], 3, 2),
   (frame 3 1 1 [3, 0, 0], 3, 3), (frame 4 1 1 [2], 4, 0), (frame 6 1 1 [0], 6, 0), (frame 5 1 1 [0, 0], 5, 0), (batonFrame, 1, 0)]
def staleFrame : List Quad := frame 2 1 0 []

/-- A device of a pair at position A, or at B while unjoined and rejoining. -/
def Wpr (r : Role) : State :=
  let s : State := { W with
    pcr := { W.pcr with straps := if r = .unjoined then 6 else 4 }
    ypl := { W.ypl with role := r, claim := r == .active, own := r == .active, lanes := 1, seen := true, pPos := true,
                        pRole := if r = .active then 1 else 2, next := some ⟨[], 0⟩, divDue := Vector.replicate 2 true, good := 8, bad := 8,
                        aligned := r != .standby, offset := -5, left := -5, fit := true } }
  if r = .unjoined then lopState s { Lop.reset with state := 1, gen := 1, opc := 0x49 } else s
def Wclaim : State := { W with pcr := { W.pcr with straps := 4 }, ypl := { W.ypl with ownAt := some 4000, claimAt := some 0 } }
def Wfell : State := { W with ypl := { W.ypl with claimFell := some 0 } }
def WfellB : State := { W with pcr := { W.pcr with straps := 6 }, ypl := { W.ypl with claimFell := some 0, roleWas := .standby } }
def Who : State :=
  { Wpr .active with ypl := { (Wpr .active).ypl with hoAt := some 100000, hoOut := true, hoReply := true, claim := false } }
def Wloop : State := { W with lts := { W.lts with loopEnd := some 100 } }
def Wext : State := { W with lts := { W.lts with tap := 3 } }
def Wclosed : State := { W with otp := { W.otp with lc := 2 } }

/-- A telemetry frame with sequence number 0. -/
def tlm1 : BitVec 64 := withCrc8 1
def Wglk : State :=
  { Wready.rset regGlkCfg 0 0x00009601 with
    sets := vmod Wready.sets 0 fun x => { x with driving := true }
    sup := { Wready.sup with glk := vmod Wready.sup.glk 0 fun x =>
      { x with seqSeen := true, cmdWait := true, gateDue := 1, tsdCnt := Vector.replicate 3 3, cmdFailDue := true, discards := [0] } } }
def Wwd : State := { W with svc := { W.svc with wdOn := true } }

def Wzone : State :=
  { W with thm := { W.thm with zones := vmod (vmod (vmod W.thm.zones 0 fun z => { z with tw1Up := 3, tsdUp := 3 })
      1 fun z => { z with tw1 := true, tw1Dn := 3 }) 2 fun z => { z with tsd := true, tsdDn := 3 } } }
def Wzone0 : State := { W with thm := { W.thm with zones := vmod W.thm.zones 0 fun z => { z with tsdUp := 3 } } }
def Wshut : State := { Wready with thm := { Wready.thm with shutRun := true } }
def Wshut2 : State := { W with thm := { W.thm with shutRun := true, yielding := true, exitDue := true } }
def Wrst (k : Nat) : State := { W with pcr := { W.pcr with asserted := some k } }
def Wtrans : State := { W with pcr := { W.pcr with transit := true, target := 1 } }
def Wdp : State := ({ W with pcr := { W.pcr with state := 3 } } : State).rset regPcrWakeTimer 0 1
def Wstop2 : State := { W with pcr := { W.pcr with stopping := true } }

/-- Set 0 and machine 0 with every judgement due; set 1 at its limits. -/
def Wcell : State :=
  { Wready with
    lastFp := 1000000000000
    lastSp := 1000000000000
    sets := vmod (vmod Wready.sets 0 fun x => { x with
        driving := true, sector := some 0, plDue := true, trips := 20, cell := { x.cell with freeNext := true }, adapt := { x.adapt with closed := some ⟨3, 0, 1000, false⟩ } })
      1 fun x => { x with driving := true, sector := some 0, plRaised := true, cell := { x.cell with freeNext := true, ovrRun := 2 } }
    groups := vmod Wready.groups 0 fun x => { x with cutRun := 8, cutSeen := true, escDue := true }
    chops := vmod Wready.chops 0 fun x => { x with run := 8, cutSeen := true, escDue := true, openCnt := 3, shortCnt := 3 }
    mach := vmod (vmod Wready.mach 0 fun x => { x with
        trk := { x.trk with state := .locked }, loop := { x.loop with out := some (0, 0, false), winRun := 4 },
        decel := { x.decel with active := true, held := true }, sup := { x.sup with feDue := true, ov2Since := some 0 } })
      1 fun x => { x with loop := { x.loop with out := some (0, 0, false), mcRun := 2 } }
    sup := { Wready.sup with uvDue := vmod Wready.sup.uvDue 0 fun _ => true } }
def Wwin : State := { Wready with winOut := 0xEFFFE, flt := 1, estop := true }
def Whist : State := { W with sup := { W.sup with hist := [⟨0, 0x88, 0, 5, 4, 0⟩] } }
def Whist16 : State := { W with sup := { W.sup with hist := List.replicate 16 ⟨0, 0x88, 0, 5, 4, 0⟩ } }
def Wedge : State :=
  { Wdrive with
    edges := [⟨100, 0, true⟩]
    chans := vmod Wdrive.chans 0 fun c => { c with lvl := .low, req := true, pend := true }
    chops := vmod Wdrive.chops 1 fun c => { c with ch := { c.ch with lvl := .low, req := true, pend := true } } }
def Wcomm : State :=
  { Wdrive with sets := vmod Wdrive.sets 0 fun x =>
      { x with tdDecay := true, x := { x.x with blanking := true, limit := some 1 }, cell := { x.cell with commAt := some (100, false, 1), commChop := ⟨false, false⟩ } } }
def Wsens : State :=
  { (Wready.rset regComSensCfg 0 0xC0008040).rset regComEncLines 0 100 with
    started := true
    mach := vmod Wready.mach 0 fun x =>
      { x with sens := { x.sens with hall := 4, hallDue := true, encDue := true, encIdx := true }, src := { x.src with aspDue := true, pspDue := true } } }
def Wtrk (t : Trk) : State := { Wready with started := true, mach := vmod Wready.mach 0 fun x => { x with trk := { x.trk with state := t } } }
def Wlis : State := Wtrk .listen
def Wlost : State := Wtrk .lost
def Wprobe (ph : Nat) : State :=
  let s := Wtrk .probe
  { s with mach := vmod s.mach 0 fun x => { x with start := { x.start with probePh := ph, failDue := some 1 } } }
def Wlst (l : Bool) : State :=
  let s := Wtrk .locked
  { s with mach := vmod s.mach 0 fun x => { x with trk := { x.trk with lost_ := l } } }
def Wlow : State := { Wtrk .low with lastFp := 1000000000 }
def Wobs : State :=
  let s := Wtrk .ascObserve
  { s with
    mach := vmod s.mach 0 fun x => { x with start := { x.start with settleEnd := some 0, est := some (0, 0, 0) } }
    sets := vmod s.sets 0 fun x => { x with obs := { x.obs with running := true } } }
def Wslots : State := ((W.rset regAcqStreamCfg 0 0x80000100).rset regAcqStreamCfg 1 0x80000101).rset regAcqStreamCfg 2 0x80000102

theorem test_witness_StepRunsFront :
  State.reset.pending = [] := by
  decide +kernel

theorem test_witness_FusesOnlyBurn : ∀ n m u, (Instr.bankSwapped : Instr) ≠ .otpBurnRound n m u := by intro _ _ _ h; cases h

theorem test_witness_NopAndBadOpcode :
  (Begins W qN ∧ qN.arg0 = 0 ∧ qN.arg1 = 0) ∧ (W.canBegin qN.ring = true ∧ Instr.defined.contains 0x51 = false) := by
  unfold Begins; decide +kernel

theorem test_witness_CommandOrderOfChecks :
  W.canBegin qN.ring = true ∧ W.roleMatches 2 = false ∧ W.roleMatches 0 = true := by
  decide +kernel

theorem test_witness_CommandWaitsForRoom :
  State.reset.ringEn (dqIdx qN.ring) = false := by
  decide +kernel

theorem test_witness_NodeReadRule :
  (Begins W qN ∧ bits qN.arg0 31 17 = 0 ∧ qN.arg1 = 0 ∧ bits qN.arg0 16 0 < 0x1A800 ∧ W.pwr ≠ 3 ∧ W.poisoned 0 = false) ∧
  (Begins Wdeep qN ∧ Wdeep.pwr = 3) ∧ (Begins Wpoison qN ∧ Wpoison.poisoned 0 = true ∧ Wpoison.pwr ≠ 3) ∧ (W.nodes = [] ∧ 0x18FFF < 0x19000) := by
  unfold Begins; decide +kernel

theorem test_witness_NodeWriteRule :
  ((Begins W qW ∧ bits qW.arg0 31 17 = 0 ∧ qW.arg1.extractLsb' 32 32 = 0 ∧ nodeKind (bits qW.arg0 16 0) = some (.real (-2000) 2000) ∧
    (NodeKind.real (-2000) 2000).ok (qW.arg1.extractLsb' 0 32) = true ∧ (taken W qW).nodeRefused (bits qW.arg0 16 0) = false) ∧
  (Begins Wdeep qW ∧ (taken Wdeep qW).nodeRefused (bits qW.arg0 16 0) = true) ∧ nodeKind 0x19000 = none) ∧ (W.nodes = [] ∧ nodeRow 0x18000 ≠ 5) := by
  unfold Begins; decide +kernel

theorem test_witness_CompletionWritten :
  W.host.cpls = [] ∧ W.canPut (dqIdx 0) = true ∧ W.recordHeld 0 = false ∧ W.rb regRngCfg 16 14 = false := by
  decide +kernel

theorem test_witness_LongOperationStarts :
  State.reset.freeSlot = some 0 := by
  decide +kernel

theorem test_witness_LongOperationCommandsComplete :
  (Begins W qN ∧ handleOk qN = true ∧ W.lopOf 0 = none) ∧ (Begins Wlop qH ∧ handleOk qH = true ∧ Wlop.lopOf (bits qH.arg0 15 0) = some 0 ∧ Wlop.host.lops[(0 : Fin 8)].state = 1 ∧ Wlop.host.lops[(0 : Fin 8)].ending = 0) ∧
  (Begins Wsus qH ∧ Wsus.lopOf (bits qH.arg0 15 0) = some 0 ∧ Wsus.host.lops[(0 : Fin 8)].state = 2 ∧ Wsus.host.lops[(0 : Fin 8)].opc = 0x0A) ∧
  (Wcal.host.lops[(0 : Fin 8)].state = 2 ∧ Wcal.host.lops[(0 : Fin 8)].opc = 0x20 ∧ Wcal.host.lops[(0 : Fin 8)].suspAt + 100 * ms1 ≤ max Wcal.time (200 * ms1)) := by
  unfold Begins; decide +kernel

theorem test_witness_FenceHolds :
  (Begins W qN ∧ bits qN.arg0 31 5 = 0 ∧ qN.arg1 = 0) ∧ Wfence.host.fences.find? (fun f => f.ring == 0) ≠ none := by
  unfold Begins; decide +kernel

theorem test_witness_DriveCommandsWait :
  (Begins W qN ∧ bits qN.arg0 31 2 = 0 ∧ qN.arg1 = 0 ∧ W.otp.lc ≠ 4 ∧ (taken W qN).notOwner = false ∧ (taken W qN).thmHeld = false ∧ W.pcr.warn = 0 ∧ (taken W qN).startReason ((taken W qN).namedMach (bits qN.arg0 1 0)) ≠ 0) ∧
  (Begins Wready qN ∧ (taken Wready qN).notOwner = false ∧ (taken Wready qN).thmHeld = false ∧ Wready.pcr.warn = 0 ∧ (taken Wready qN).startReason ((taken Wready qN).namedMach (bits qN.arg0 1 0)) = 0) ∧
  (Begins Wstby qN ∧ (taken Wstby qN).notOwner = true) ∧ (Begins Wthm qN ∧ (taken Wthm qN).notOwner = false ∧ (taken Wthm qN).thmHeld = true) ∧ (Begins Wwarn qN ∧ (taken Wwarn qN).notOwner = false ∧ (taken Wwarn qN).thmHeld = false ∧ Wwarn.pcr.warn ≠ 0) ∧ Wready.machEn 0 = true := by
  unfold Begins; decide +kernel

theorem test_witness_SupervisorCommandsWait :
  (Begins W qN ∧ bits qN.arg0 31 4 = 0 ∧ qN.arg1 = 0 ∧ bits qN.arg0 3 2 ≠ 3 ∧ Wready.badMask (bits qN.arg0 1 0) = false) ∧ (W.notOwner = false ∧ W.sup.f5 = false ∧ W.thm.shutRun = false ∧ W.thm.shutHeld = false ∧ W.pcr.stopping = false) ∧
  (Begins Wthm qN ∧ Wthm.thm.shutHeld = true ∧ Wthm.thm.exitMet = false ∧ Wthm.notOwner = false ∧ Wthm.sup.f5 = false) ∧ (Begins Wstop qN ∧ Wstop.pcr.stopping = true ∧ Wstop.notOwner = false ∧ Wstop.sup.f5 = false ∧ Wstop.thm.shutRun = false ∧ Wstop.thm.shutHeld = false) ∧
  (Begins Wready qB ∧ bits qB.arg0 31 2 = 0 ∧ bits qB.arg0 1 0 ≠ 0 ∧ Wready.badMask (bits qB.arg0 1 0) = false ∧ ((taken Wready qB).maskMach (bits qB.arg0 1 0)).any (fun m => (taken Wready qB).mach[m].loop.swap || (taken Wready qB).loading m) = false ∧ (taken Wready qB).thmHeld = false) ∧ Begins Wstby qN := by
  unfold Begins; decide +kernel

theorem test_witness_SetpointRule :
  (Begins Wready qN ∧ bits qN.arg0 31 2 = 0 ∧ Wready.machEn 0 = true ∧ Wready.notOwner = false ∧ qN.arg0.getLsbD 1 = false ∧ f32 (0 : Word) = some 0) ∧ (Begins Wready qK ∧ qK.arg0.getLsbD 1 = true ∧ bits qK.arg0 31 2 = 0) ∧ (Begins Wstby qK ∧ Wstby.notOwner = true) ∧ f32 (0x7F800000 : Word) = none := by
  unfold Begins; decide +kernel

theorem test_witness_DriveCommandsAct :
  (Wact 0x12).oldest 0x12 ≠ none ∧ (Wact 0x13).oldest 0x13 ≠ none ∧ (Wact 0x14).oldest 0x14 ≠ none ∧ (Wact 0x11).oldest 0x11 ≠ none := by
  decide +kernel

theorem test_witness_SupervisorCommandsAct :
  ((Wact 0x15).oldest 0x15 ≠ none ∧ (Wact 0x15).sup.reqs = [] ∧ (Wact 0x15).svc.safes = []) ∧ (Wact 0x16).oldest 0x16 ≠ none ∧ (Wact 0x0C).oldest 0x0C ≠ none ∧
  (Wact 0x50).host.waiting.find? (fun c => c.opc == 0x50 && !((Wact 0x50).pcr.transit && (Wact 0x50).pcr.target != 3 && decide (c.due ≤ (Wact 0x50).pcr.transitEnd))) ≠ none := by
  decide +kernel

theorem test_witness_DirectModeRule :
  (Begins Wready qP ∧ bits qP.arg0 31 9 = 0 ∧ qP.arg1 = 0 ∧ (groupsIn (bits qP.arg0 7 0)).isEmpty = false ∧ (groupsIn (bits qP.arg0 7 0)).all Wready.setConf = true ∧ Wready.notOwner = false ∧ (taken Wready qP).started = false) ∧
  (Begins Wdir qP ∧ (taken Wdir qP).started = true ∧ (taken Wdir qP).pwr = 0 ∧ (groupsIn (bits qP.arg0 7 0)).all (fun g => (taken Wdir qP).rowOf g == .off && !(taken Wdir qP).groups[g].hiz) = true ∧ (taken Wdir qP).stagedOk = true) ∧
  ((WactD 1).oldestDirect 1 ≠ none ∧ (WactD 1).dirAct 0 ≠ none ∧ (WactD 0).oldestDirect 0 ≠ none) ∧ W.regsOn = true ∧ (Wdrun.direct.next = some 1000 ∧ Wdrun.direct.pending = none) := by
  unfold Begins; decide +kernel

theorem test_witness_WriteRowsReachTheirUnit :
  W.regsOn = true ∧ Wdp.regsOn = false := by
  decide +kernel

theorem test_witness_HealthClearRule :
  State.reset.regs = [] ∧ W.regsOn = true := by
  decide +kernel

theorem test_witness_CalibrationRule :
  (Begins Wready qN ∧ (taken Wready qN).notOwner = false ∧ (taken Wready qN).pwr = 0 ∧ (taken Wready qN).drivesAny = false ∧ (taken Wready qN).lopRuns 0x20 = false ∧ (taken Wready qN).lopRuns 0x40 = false ∧ ((taken Wready qN).started && ((taken Wready qN).chopSup 0 || (taken Wready qN).chopSup 1)) = false ∧ (taken Wready qN).freeSlot = some 0) ∧
  (Wcalrun.running 0x20 = some 0 ∧ Wcalrun.host.lops[(0 : Fin 8)].phase = 0 ∧ Wcalrun.host.lops[(0 : Fin 8)].arg0.getLsbD 0 = false) ∧ (Begins W qU ∧ bits qU.arg0 31 8 = 0 ∧ qU.arg1 = 0 ∧ 0x40 ≤ bits qU.arg0 7 0 ∧ bits qU.arg0 7 0 ≤ 0x55 ∧ (taken W qU).pwr < 2 ∧ (taken W qU).lopRuns 0x20 = false ∧ ((taken W qU).acq.urgents.filter fun x => x.host && x.conv == convOf (bits qU.arg0 7 0)).length < 2 ∧ ((taken W qU).acq.urgents.filter fun x => x.conv == convOf (bits qU.arg0 7 0)).length < 4) := by
  unfold Begins; decide +kernel

theorem test_witness_SamplesArrive :
  ((∃ c : Fin 34, c.val < 32) ∧ Wgrid.takesInstant 0 true 200100 = true ∧ Wgrid.takesInstant 0 true 200101 = false ∧ Wgrid.gridOn = true ∧ Wgrid.onGrid 200 200000 = true ∧ Wgrid.acq.gridAt ≤ 200000 ∧ Wgrid.awake 40 Wgrid.acq.runAt 200000 = true) ∧
  (Whk.pcr.state < 2 ∧ Whk.calRuns = false ∧ Whk.pcr.asserted = none ∧ Whk.convFree 42 200000 = true ∧ Whk.urgentAt 42 200000 = none ∧ Whk.urgentHeld 42 200000 = false ∧ Whk.hkTakes 1 200000 = true ∧ Whk.hkTakes 2 200000 = false) ∧
  (Wurg2.urgentAt 42 0 = some ⟨42, 0x41, true, 0, 0⟩ ∧ Wurg3.urgentAt (convOf (0x49#8).toNat) 0 = some ⟨42, 0x49, false, 0, 0⟩ ∧ Wurg3.calRuns = false ∧ Wurg3.pcr.state < 2 ∧ Wurg3.pcr.asserted = none ∧ Wurg3.convFree 42 0 = true ∧ Wurg2.pcr.state < 2 ∧ Wurg2.calRuns = false ∧ Wurg2.pcr.asserted = none ∧ Wurg2.convFree 42 0 = true) ∧
  (Wurg.urgentAt 42 0 = some ⟨42, 0x40, false, 0, 0⟩ ∧ Wurg.convFree 42 0 = true) ∧
  (Wzc.sets[(0 : Fin 8)].sector = some 0 ∧ Wzc.cellRuns 0 = true ∧ Wzc.gridOn = true ∧ Wzc.convFree 32 200000 = true ∧ Wzc.urgentHeld 32 200000 = false ∧ Wzc.zcFrom 0 200000 = some 200000) := by
  decide +kernel

theorem test_witness_PairMembersRule :
  (Wgrid.acq.pairs[(0 : Fin 16)].failE = false ∧ Wgrid.acq.pairs[(0 : Fin 16)].failO = false ∧ Wgrid.rb regAcqIsMap 0 7 = true ∧ (Wgrid.adv 2000).gridOn = true ∧ 3 ≤ (Wgrid.adv 2000).missing 0 false (max Wgrid.time 2000) ∧ (Wgrid.adv 0).missing 0 false (max Wgrid.time 0) < 3 ∧ (Wstuck.acq.pairs[(0 : Fin 16)].member false).stuck = true ∧ (Wgrid.acq.pairs[(0 : Fin 16)].member false).stuck = false) ∧ (Wpair.rf regAcqCtl 0 19 16 ≤ Wpair.acq.pairs[(0 : Fin 16)].run ∧ Wpair.acq.pairs[(0 : Fin 16)].checkDue = none) ∧ Wcheck.acq.pairs[(0 : Fin 16)].checkDue = some 0 ∧ Wpair.acq.pairs[(0 : Fin 16)].n = 8192 := by
  decide +kernel

theorem test_witness_TraceChannelRule :
  (Begins W qT ∧ bits qT.arg0 31 16 = 0 ∧ qT.arg1 = 0 ∧ bits qT.arg0 15 0 ≠ 0 ∧ (taken W qT).armRefusal (bits qT.arg0 15 0) ≠ none ∧ (taken Wtrc qT).armRefusal (bits qT.arg0 15 0) = none ∧ Begins Wtrc qT) ∧ ((Wact 0x28).oldest 0x28 ≠ none ∧ (Wact 0x29).oldest 0x29 ≠ none) ∧ (Wsilo.silo[(0 : Fin 16)].trigDue = [(0, false)] ∧ Wsilo.silo[(0 : Fin 16)].state = 1) ∧ (Wsilo.silo[(1 : Fin 16)].state = 2 ∧ Wsilo.trcPost 1 ≤ Wsilo.silo[(1 : Fin 16)].postHeld) ∧ (Wsilo.silo[(2 : Fin 16)].state = 3 ∧ Wsilo.silo[(2 : Fin 16)].outq = [] ∧ Wsilo.silo[(2 : Fin 16)].stopped = false ∧ Wsilo.silo[(3 : Fin 16)].state = 3 ∧ Wsilo.silo[(3 : Fin 16)].outq = [] ∧ Wsilo.silo[(3 : Fin 16)].stopped = true) := by
  unfold Begins; decide +kernel

theorem test_witness_BlockTransferRule :
  (Begins W qL ∧ blockOk qL.arg0 qL.arg1 = true ∧ rowLoadable (nodeRow (blockOf qL.arg0).1) = true ∧ (taken W qL).nodeRefused (blockOf qL.arg0).1 = false ∧ (taken W qL).pwr ≠ 3 ∧ Begins Wdeep qL ∧ (taken Wdeep qL).pwr = 3 ∧ (taken Wdeep qL).nodeRefused (blockOf qL.arg0).1 = true) ∧ (Wblk 0x0A).host.lops[(0 : Fin 8)].state = 1 ∧ (Wblk 0x0A).busOk = true ∧ firstBad 0 [0x7F800000] 4 = some 0 ∧ firstBad 0 [0, 0, 0, 0] 4 = none ∧ W.poisoned 0 = false := by
  unfold Begins; decide +kernel

theorem test_witness_OtpCommands :
  (Begins W qO ∧ (taken W qO).lcProgram 4 = false) ∧ (Begins Wotp qO ∧ (taken Wotp qO).lcProgram 4 = true ∧ (taken Wotp qO).otpWl 4 = false ∧ (taken Wotp qO).otpWin = true ∧ Wotp.busOk = true) ∧ (Wvpp.otp.burn ≠ none ∧ Wvpp.vppOk = true ∧ Wvpp.oldest 0x30 ≠ none ∧ Wvpp.freeSlot = some 0) := by
  unfold Begins; decide +kernel

theorem test_witness_FirmwareIsMeasured :
  ((Wrom.adv 0).regsOn = true ∧ Wrom.msr.ready = true ∧ imageLenOk (Wrom.rf regGlbBootLen 0 21 0) = true ∧ (WromBad.adv 0).regsOn = true ∧ WromBad.msr.ready = true ∧ imageLenOk (WromBad.rf regGlbBootLen 0 21 0) = false) ∧ ((Wflash.adv 0).bootReads = true ∧ flashImage flash1 flash1 = some [1, 2, 3, 4] ∧ flashImage flash1 [] = none) ∧ (Wmeas.msr.measured = true ∧ Wmeas.msr.running = false ∧ Wmeas.msr.mgr = false ∧ Wmeas.pcr.asserted = none ∧ Wmeas.pcr.state ≠ 3) ∧ Wunl.otp.loaded = false ∧ Wunl.pcr.asserted = none := by
  decide +kernel

theorem test_witness_ManagementCoreRule :
  (Begins W qA ∧ bits qA.arg0 31 16 = 0 ∧ 928 ≤ bits qA.arg0 15 0 ∧ qA.arg1.toNat % 16 = 0 ∧ (taken W qA).pwr ≠ 3 ∧ Begins Wdeep qA ∧ (taken Wdeep qA).pwr = 3) ∧ (W.pcr.asserted = none ∧ W.pcr.state ≠ 3 ∧ W.msr.running = true) ∧ ((Watt 0).oldest 0x38 ≠ none ∧ (Watt 0).busOk = true ∧ (Watt 1).msr.queue ≠ [] ∧ (Watt 2).msr.running = true) ∧ Wmgr.msr.mgr = true ∧ Wmgr.msr.measured = true ∧ Wmgr.pcr.state ≠ 3 := by
  unfold Begins; decide +kernel

theorem test_witness_DoorbellRule :
  ((W.adv 0).bellOn (cqIdx 1) 1 = true ∧ W.host.rings[cqIdx 1].closing = false ∧ (W.adv 0).bellOk (cqIdx 1) 1 W.host.rings[cqIdx 1].tail ((W.adv 0).ringFree (cqIdx 1)) = true ∧ (W.adv 0).bellOk (cqIdx 1) 16 W.host.rings[cqIdx 1].tail ((W.adv 0).ringFree (cqIdx 1)) = false ∧ (W.adv 0).bellOn (cqIdx 1) 16 = true ∧ (W.adv 0).bellOk (cqIdx 1) 15 W.host.rings[cqIdx 1].tail ((W.adv 0).ringFree (cqIdx 1)) = true) ∧ ((W.adv 0).bellOn 16 0 = true ∧ (W.adv 0).bellOk 16 0 W.host.rings[16].head ((W.adv 0).ringUsed 16) = true ∧ (W.adv 0).bellOk 16 1 W.host.rings[16].head ((W.adv 0).ringUsed 16) = false ∧ (W.adv 0).bellOn 16 1 = true) := by
  decide +kernel

theorem test_witness_RingLifeRule :
  ((W.adv 0).regsOn = true ∧ (0x11#32).getLsbD 31 = false ∧ (0x11#32).getLsbD 0 = true ∧ W.ringEn 0 = true ∧ (W.rget regRngCfg 0 ^^^ 0x11) &&& cfgMask ≠ 0 ∧ W.ringEn 40 = false ∧ W.ringEn 16 = true) ∧ (W.host.rings[(0 : Fin 48)].stopped = false ∧ Wstp.host.rings[(0 : Fin 48)].stopped = true ∧ (Wstp.adv 0).regsOn = true ∧ Wstp.host.rings[(32 : Fin 48)].stopped = true) ∧ (W.busOk = true ∧ 0 < W.ringUsed (cqIdx 0) ∧ W.host.rings[cqIdx 0].stopped = false ∧ W.pcr.asserted = none) ∧ ((Watt 0).host.waiting.find? (fun c => c.opc == 0x38 && c.ring == 0) ≠ none ∧ (Watt 0).busOk = true ∧ ((Wblk 0x0A).adv 0).dmaLops 0 ≠ [] ∧ (Wblk 0x0A).host.waiting.find? (fun c => c.opc == 0x38 && c.ring == 0) = none ∧ (Wblk 0x0A).busOk = true) ∧ Wmod.host.rings[(16 : Fin 48)].sigAt = some 0 ∧ Wmod.rf regRngMod 16 31 16 ≠ 0 ∧ Wmod.rb regRngCfg 16 14 = true ∧ 0 + us1 * Wmod.rf regRngMod 16 31 16 ≤ max Wmod.time 0 ∧ Wmod.busOk = true := by
  decide +kernel

theorem test_witness_BusRule :
  (({ W.adv 0 with host := { W.host with linkGen := 1, linkUp := true } } : State).used ≤ ({ W.adv 0 with host := { W.host with linkGen := 1, linkUp := true } } : State).budget) ∧ ((({ Wslots.adv 0 with host := { Wslots.host with linkGen := 1, linkUp := true } } : State).budget : Rat) < ({ Wslots.adv 0 with host := { Wslots.host with linkGen := 1, linkUp := true } } : State).used) := by
  decide +kernel

set_option maxRecDepth 100000 in
theorem test_witness_PairFramesAccepted :
  (((Wpr .standby).adv 0).rxOn = true ∧ ((Wpr .standby).adv 0).frameGood [] = false) ∧ (∀ x ∈ pairFrames, ((Wpr .standby).adv 0).frameGood x.1 = true ∧ ((Wpr .standby).adv 0).frameStale x.1 = false ∧ frameIs x.1 x.2.1 x.2.2 = true) ∧ ((Wpr .standby).adv 0).frameGood staleFrame = true ∧ ((Wpr .standby).adv 0).frameStale staleFrame = true := by
  decide +kernel

theorem test_witness_PairSendsAndAdopts :
  ((Wpr .standby).adv 2000).maySend = true ∧ (Wpr .standby).sup.hbStop = false ∧ (Wpr .standby).ypl.lastTx + 1000 ≤ max (Wpr .standby).time 20000 ∧ ((Wpr .standby).adv 20000).inPair = true ∧ (Wpr .standby).shadow = true ∧ (Wpr .standby).ypl.next ≠ none ∧ (Wpr .standby).ypl.divDue[(0 : Fin 2)] = true ∧ 8 ≤ (Wpr .standby).ypl.good ∧ (Wpr .standby).ypl.aligned = false ∧ 8 ≤ (Wpr .active).ypl.bad ∧ (Wpr .active).ypl.aligned = true ∧ ((Wpr .unjoined).adv 21000).follower = true ∧ (Wpr .unjoined).ypl.aligned = true ∧ (Wpr .unjoined).ypl.left < 0 ∧ (Wpr .standby).pairEn = true ∧ (Wpr .standby).pcr.asserted = none ∧ (Wpr .standby).ypl.laneBad.getLsbD 0 = false ∧ (Wpr .standby).ypl.lanes.getLsbD 0 = true := by
  decide +kernel

theorem test_witness_RolesRule :
  ((Wpr .standby).pairEn = true ∧ (Wpr .standby).ypl.seen = true ∧ (Wpr .standby).ypl.lastRx + 200 * (Wpr .standby).rf regYplCfg 0 12 8 ≤ max (Wpr .standby).time 1000000 ∧ (Wpr .standby).fitNow ≠ (Wpr .standby).ypl.fit ∧ (Wpr .active).pairEn = true ∧ (Wpr .active).ypl.seen = true ∧ (Wpr .active).ypl.role = .active) ∧ (Wclaim.ypl.ownAt = some 4000 ∧ Wclaim.ypl.claim = true ∧ Wclaim.ypl.yieldIn = false ∧ Wclaim.ypl.claimAt = some 0 ∧ Wclaim.owner = true ∧ Wclaim.pairEn = true ∧ Wclaim.ypl.claimFell = none) ∧ (Wfell.ypl.claimFell = some 0 ∧ Wfell.posB = false ∧ Wfell.ypl.yieldIn = false ∧ WfellB.posB = true ∧ WfellB.ypl.claimFell = some 0 ∧ WfellB.ypl.roleWas = .standby) := by
  decide +kernel

theorem test_witness_HandoverAndRejoin :
  (Begins W qN ∧ qN.arg0 = 0 ∧ qN.arg1 = 0 ∧ (taken W qN).ypl.role ≠ .active ∧ Begins (Wpr .active) qN ∧ (taken (Wpr .active) qN).ypl.role = .active ∧ (taken (Wpr .active) qN).ypl.pUnfit = false ∧ (taken (Wpr .active) qN).ypl.hoAt = none) ∧ (Who.ypl.hoAt = some 100000 ∧ Who.ypl.hoOut = true ∧ Who.ypl.hoReply = true ∧ Who.ypl.role = .active ∧ Who.ypl.claim = false) ∧ (Begins (Wpr .unjoined) qN ∧ (taken (Wpr .unjoined) qN).ypl.role = .unjoined ∧ (taken (Wpr .unjoined) qN).freeSlot ≠ none) ∧ (∀ p ∈ [1, 2, 3, 4, 5], (Wrejoin p).running 0x49 = some 0 ∧ (Wrejoin p).host.lops[(0 : Fin 8)].phase = p) := by
  unfold Begins; decide +kernel

theorem test_witness_SelfAndLinkTests :
  (Begins W qS ∧ bits qS.arg0 31 3 = 0 ∧ bits qS.arg0 2 0 ≠ 0 ∧ qS.arg1 = 0 ∧ (taken W qS).pwr = 0 ∧ (taken W qS).freeSlot ≠ none) ∧ ((Wst.adv 0).running 0x40 = some 0 ∧ Wst.host.lops[(0 : Fin 8)].phase = 0 ∧ Wst.host.lops[(0 : Fin 8)].res = [0] ∧ blockFrom (bits Wst.host.lops[(0 : Fin 8)].arg0 2 0) 1 = none) ∧ (Begins W qK2 ∧ linkArgs qK2 = true ∧ (taken W qK2).pwr = 0 ∧ (taken W qK2).freeSlot ≠ none) ∧ ((Wlnk.adv 0).checkerOn 0 = true ∧ Wlnk.lts.links[(0 : Fin 13)].locked = false) ∧ (Wlnk.linkSlot 0 = some 0 ∧ Wlnk.host.lops[(0 : Fin 8)].ending = 0) ∧ Wloop.lts.loopEnd = some 100 := by
  unfold Begins; decide +kernel

theorem test_witness_TapRule :
  ((W.adv 0).debugOpen = false ∨ (W.adv 0).debugOpen = true) ∧ W.lts.tap < 3 ∧ W.lts.tap = 0 ∧ 3 ≤ Wext.lts.tap ∧ Wext.lts.tap ≠ 0 := by
  decide +kernel

theorem test_witness_NoRegisterThere :
  (W.adv 0).reaches .pcie 0x18000 = true ∧ findReg 0x18000 = none ∧ ((W.adv 0).debugOpen && prodTest 0x18000) = false ∧ findReg 0x18004 = none ∧ ((W.adv 0).debugOpen && prodTest 0x18004) = false := by
  decide +kernel

theorem test_witness_RegisterAccessRule :
  ((W.adv 0).reaches .pcie 0x100 = true ∧ (regFind 0x100).isSome = true ∧ (W.adv 0).debugOpen = true ∧ mayTest 0x0F0 = true ∧ (Wclosed.adv 0).debugOpen = false) ∧ Wglk.sup.glk[(0 : Fin 8)].cmdFailDue = true := by
  decide +kernel

theorem test_witness_ServicePortRule :
  (W.pcr.asserted = none ∧ W.pcr.state ≠ 3 ∧ W.linkTested 11 = false ∧ W.regsOn = true ∧ (W.debugOpen && prodTest (svcPage 0 + 0 / 4 * 4)) = false ∧ W.debugOpen = true ∧ mayTest ((svcPage 0 + 0xFFC) / 4 * 4) = true) ∧ ((Wwd.adv 0).rollWd 0).svc.wdOn = true ∧ Wwd.regsOn = true ∧ ((Wwd.adv 400000000).rollWd 400000000).svc.due = true := by
  decide +kernel

theorem test_witness_PinsRule :
  W.lts.tap < 3 ∧ W.pcr.asserted = none ∧ W.msr.mgr = false ∧ Wmgr.msr.mgr = true := by
  decide +kernel

theorem test_witness_ThermalRule :
  (¬ (W.thm.read = true ∧ W.thm.lastRound = W.lastHr) ∧ W.pcr.state ≠ 3 ∧ W.pcr.asserted = none) ∧ (Wzone.thm.zones[(0 : Fin 8)].tw1 = false ∧ 3 ≤ Wzone.thm.zones[(0 : Fin 8)].tw1Up ∧ Wzone.thm.zones[(1 : Fin 8)].tw1 = true ∧ 3 ≤ Wzone.thm.zones[(1 : Fin 8)].tw1Dn) ∧ (Wzone.thm.zones[(2 : Fin 8)].tsd = true ∧ 3 ≤ Wzone.thm.zones[(2 : Fin 8)].tsdDn ∧ Wzone.tsdAlarm = true ∧ Wzone.thm.zones[(0 : Fin 8)].tsd = false ∧ 3 ≤ Wzone.thm.zones[(0 : Fin 8)].tsdUp) ∧ (Wzone0.tsdAlarm = false ∧ 3 ≤ Wzone0.thm.zones[(0 : Fin 8)].tsdUp) ∧ (Wshut.thm.shutRun = true ∧ Wshut.thm.yielding = false ∧ (Wshut.confMach.any fun m => Wshut.mach[m].sup.safe.isNone) = true) ∧ (Wshut2.thm.shutRun = true ∧ Wshut2.thm.yielding = true ∧ (Wshut2.adv 0).begunDone = true ∧ Wshut2.thm.exitDue = true ∧ Wshut2.thmSeq = true) := by
  decide +kernel

theorem test_witness_GateLinkRule :
  (W.pcr.asserted = none ∧ W.pcr.state ≠ 3 ∧ W.linkTested 2 = false ∧ crc8 (frameBits tlm1 64) = 0 ∧ bitsN tlm1.toNat 3 0 = 1 ∧ W.sup.glk[(0 : Fin 8)].seqSeen = false ∧ W.glkUsed 0 = false ∧ Wglk.sup.glk[(0 : Fin 8)].seqSeen = true ∧ bitsN tlm1.toNat 7 4 ≠ (Wglk.sup.glk[(0 : Fin 8)].lastSeq + 1) % 16) ∧ (W.regsOn = true ∧ W.sup.glk[(0 : Fin 8)].cmdWait = false ∧ Wglk.sup.glk[(0 : Fin 8)].cmdWait = true ∧ Wglk.regsOn = true ∧ Wglk.linkTested 2 = false) ∧ (Wglk.sup.glk[setOf 0].gateDue.getLsbD 0 = true) ∧ (Wglk.glkUsed 0 = true ∧ 3 ≤ Wglk.sup.glk[(0 : Fin 8)].tsdCnt[(0 : Fin 3)] ∧ Wglk.sup.glk[(0 : Fin 8)].tsdRaised.getLsbD 0 = false) ∧ (Wglk.sets[(0 : Fin 8)].driving = true ∧ Wglk.sup.glk[(0 : Fin 8)].lostRaised = false ∧ Wglk.sup.glk[(0 : Fin 8)].lastAt + 12 * us1 ≤ max Wglk.time 100000) ∧ W.glkErr 0 = false ∧ Wglk.glkErr 0 = true ∧ Wglk.glkUsed 0 = true ∧ Wglk.sup.glk[(0 : Fin 8)].errRaised = false := by
  decide +kernel

theorem test_witness_ResetRule :
  (Wrst 2).pcr.asserted = some 2 ∧ W.pcr.asserted = none ∧ (W.adv 0).regsOn = true := by
  decide +kernel

theorem test_witness_PowerRule :
  (Begins W qN ∧ bits qN.arg0 31 2 = 0 ∧ qN.arg1 = 0 ∧ bits qN.arg0 1 0 = (taken W qN).pwr ∧ Begins W qP1 ∧ bits qP1.arg0 1 0 = 1 ∧ (taken W qP1).powerRefusal 1 = 0 ∧ (taken (Wpr .active) qP1).powerRefusal 1 ≠ 0) ∧ (Wtrans.pcr.transit = true ∧ Wtrans.pcr.target ≠ 3 ∧ Wtrans.pcr.asserted = none) ∧ (Wdeep.pcr.transit = true ∧ Wdeep.pcr.target = 3 ∧ Wdeep.pcr.asserted = none ∧ (Wdeep.host.waiting.any fun c => c.opc == 0x50) = false) ∧ Wdp.pcr.state = 3 ∧ Wdp.pcr.asserted = none ∧ (Wdp.rget regPcrWakeTimer 0).toNat ≠ 0 := by
  unfold Begins; decide +kernel

theorem test_witness_SupplyRule :
  (W.pcr.asserted = none ∧ W.pcr.warn &&& (1#4 <<< 0) = 0 ∧ Wwarn.pcr.warn &&& (1#4 <<< 0) ≠ 0 ∧ Wwarn.pcr.borSeen &&& (1#4 <<< 0) = 0 ∧ Wwarn.pcr.asserted = none ∧ Wwarn.pcr.runAt ≠ none ∧ Wwarn.pcr.stopRaised = false) ∧ (Wstop.pcr.stopping = true ∧ Wstop.pcr.stopDue = false ∧ Wstop.confMach.any Wstop.stopsFor = true) ∧ (Wstop2.pcr.stopping = true ∧ Wstop2.pcr.stopDue = false ∧ (Wstop2.confMach.all fun m => Wstop2.mach[m].sup.safe.isSome) = true ∧ (Wstop2.adv 0).begunDone = true) ∧ W.pcr.state < 2 := by
  decide +kernel

theorem test_witness_BoundaryRule :
  W.ctlRuns = true ∧ (Wrst 2).ctlRuns = false ∧ W.fp ≠ 0 ∧ W.fpNewAt = none ∧ W.sp ≠ 0 ∧ countBad 245760 245760 = false ∧ countBad 409600 409600 = false := by
  decide +kernel

theorem test_witness_CellEventsRule :
  (Wcell.cellRuns 0 = true ∧ Wcell.cellRuns 1 = true ∧ Wcell.sets[(0 : Fin 8)].cell.ovrAt ≠ some Wcell.lastFp ∧ Wcell.sets[(1 : Fin 8)].cell.ovrAt ≠ some Wcell.lastFp ∧ Wcell.cellRuns 2 = false ∧ min 3 (Wcell.sets[(0 : Fin 8)].cell.ovrRun + 1) < 3 ∧ ¬ min 3 (Wcell.sets[(1 : Fin 8)].cell.ovrRun + 1) < 3) ∧ (Wcell.mach[(0 : Fin 2)].loop.out.isSome = true ∧ Wcell.mach[(1 : Fin 2)].loop.out.isSome = true ∧ ¬ min 3 (Wcell.mach[(1 : Fin 2)].loop.mcRun + 1) < 3 ∧ Wcell.mach[(0 : Fin 2)].loop.winRun ≠ 0 ∧ Wcell.srcCfg 0 31 28 ≤ Wcell.mach[(0 : Fin 2)].loop.winRun ∧ Wcell.mach[(0 : Fin 2)].loop.winRep ≠ some Wcell.mach[(0 : Fin 2)].loop.winner ∧ Wcell.mach[(0 : Fin 2)].decel.active = true ∧ Wcell.mach[(0 : Fin 2)].decel.held = true ∧ Wcell.mach[(0 : Fin 2)].decel.heldAt + (Wcell.mach[(0 : Fin 2)].decel.heldCnt + 1) * (100 * ms1 * Wcell.rf regEngDecelCfg 0 15 8) ≤ Wcell.lastSp) ∧ (Wcell.sets[(0 : Fin 8)].adapt.closed = some ⟨3, 0, 1000, false⟩ ∧ W.sets[(0 : Fin 8)].adapt.closed = none ∧ Wcell.sets[(0 : Fin 8)].cell.freeNext = true) := by
  decide +kernel

theorem test_witness_JudgedFaultsRule :
  (Wcell.sets[(0 : Fin 8)].plDue = true ∧ W.sets[(0 : Fin 8)].plDue = false ∧ Wcell.sets[(0 : Fin 8)].driving = true ∧ Wcell.mach[machOf 0].trk.state = .locked ∧ Wcell.sets[(0 : Fin 8)].plRaised = false ∧ Wcell.sets[(1 : Fin 8)].plRaised = true ∧ Wcell.sets[(0 : Fin 8)].plSince + 100 * ms1 ≤ Wcell.lastFp ∧ Wcell.rf regSupTripCfg 0 7 0 ≤ Wcell.sets[(0 : Fin 8)].trips ∧ Wcell.sets[(0 : Fin 8)].trips ≠ 0 ∧ Wcell.sets[(0 : Fin 8)].tripHit = false ∧ W.sets[(0 : Fin 8)].trips = 0) ∧ (Wcell.groups[(0 : Fin 8)].cutSeen = true ∧ escReached (Wcell.rf regPgnSgCfg 0 7 0) (Wcell.groups[(0 : Fin 8)].cutRun + 1) Wcell.groups[(0 : Fin 8)].hiz = true ∧ Wcell.groups[(0 : Fin 8)].escDue = true ∧ W.groups[(0 : Fin 8)].escDue = false) ∧ (Wcell.chops[(0 : Fin 2)].cutSeen = true ∧ escReached (Wcell.rf regPgnPgkCfg 0 15 8) (Wcell.chops[(0 : Fin 2)].run + 1) Wcell.chops[(0 : Fin 2)].latch = true ∧ Wcell.chops[(0 : Fin 2)].escDue = true ∧ W.chops[(0 : Fin 2)].escDue = false ∧ Wcell.rf regSupChpCfg 0 11 8 ≤ Wcell.chops[(0 : Fin 2)].openCnt ∧ Wcell.chops[(0 : Fin 2)].state = 0 ∧ W.chops[(0 : Fin 2)].openCnt < W.rf regSupChpCfg 0 11 8 ∧ Wcell.rf regSupChpCfg 0 11 8 ≤ Wcell.chops[(0 : Fin 2)].shortCnt ∧ W.chops[(0 : Fin 2)].shortCnt < W.rf regSupChpCfg 0 11 8) ∧ (Wcell.mach[(0 : Fin 2)].sup.feDue = true ∧ Wcell.mach[(0 : Fin 2)].sup.ov2Since = some 0 ∧ Wcell.machEn 0 = true ∧ 0 + 200000 * Wcell.rf regSupVdcCfg (Wcell.vdcSel 0) 15 0 ≤ Wcell.lastFp ∧ Wcell.mach[(0 : Fin 2)].sup.ovRaised = false ∧ W.mach[(0 : Fin 2)].sup.ov2Since = none) ∧ Wcell.sup.uvDue[(0 : Fin 2)] = true ∧ W.sup.uvDue[(0 : Fin 2)] = false := by
  decide +kernel

theorem test_witness_TripInputsRule :
  (Wwin.rb regCmpWinCfg 0 31 = true ∧ Wwin.winOut.getLsbD 0 = false ∧ Wwin.winRuns = true ∧ 0 < Wwin.winBeyond 0 0x3FFF ∧ 50 * Wwin.rf regCmpWinCfg 0 30 28 ≤ 1000 ∧ Wwin.winDepth ≤ Wwin.winBeyond 0 0x3FFF ∧ Wwin.winBeyond 0 (16 * Wwin.winUpper 0 + 1) < Wwin.winDepth ∧ 0 < Wwin.winBeyond 0 (16 * Wwin.winUpper 0 + 1) ∧ Wwin.winOut.getLsbD 1 = true ∧ Wwin.winInside 1 (16 * 30) = true ∧ Wwin.winInside 1 0 = false ∧ Wwin.pcr.asserted = none ∧ (Wrst 4).pcr.asserted ≠ none) ∧ (W.flt.getLsbD 0 = false ∧ W.estop = false ∧ W.confMach = [] ∧ Wwin.flt.getLsbD 0 = true ∧ Wwin.estop = true) ∧ (({ Wdrive.adv 0 with flt := Wdrive.flt ||| (1#8 <<< 0) } : State).tripMasked 0 = false) := by
  decide +kernel

theorem test_witness_FaultHistoryRule :
  Whist.sup.hist.length = 1 ∧ Whist16.sup.hist.length = 16 := by
  decide +kernel

theorem test_witness_PulseEdgesRule :
  (W.edgeDue = none ∧ Wedge.edgeDue = some 100) ∧ (W.changeFrom 0 = none ∧ (Wedge.changeFrom 0).isSome = true ∧ W.chopFrom 0 = none ∧ (Wedge.chopFrom 1).isSome = true) ∧ (Wcomm.sets[(0 : Fin 8)].cell.commAt.isSome = true ∧ Wcomm.sets[(0 : Fin 8)].sector.isSome = true ∧ Wcomm.cellRuns 0 = true ∧ W.sets[(0 : Fin 8)].cell.commAt = none) ∧ (Wcomm.sets[(0 : Fin 8)].tdDecay = true ∧ absR (((Wcomm.pairI (Wcomm.lastSample Wcomm.time) 0 0 Wcomm.sets[(0 : Fin 8)].td).getD (0, 0)).1) < Wcomm.demagI (machOf 0)) ∧ (Wcomm.sets[(0 : Fin 8)].x.blanking = true ∧ Wcomm.demagOver 0 3000000000 = true ∧ W.cellRuns 0 = false) := by
  decide +kernel

theorem test_witness_SensorsRule :
  (W.hallValid 0 = false ∧ Wsens.hallValid 0 = true ∧ hallSpan (Wsens.hallCode 0) = some 1 ∧ hallSpan (({ Wsens with mach := vmod Wsens.mach 0 fun x => { x with sens := { x.sens with hall := 6 } } } : State).hallCode 0) = some 2 ∧ Wsens.started = true ∧ hallSpan (({ Wsens with mach := vmod Wsens.mach 0 fun x => { x with sens := { x.sens with hall := 7 } } } : State).hallCode 0) = none) ∧ (Wsens.mach[(0 : Fin 2)].sens.hallDue = true ∧ Wsens.mach[(0 : Fin 2)].sens.encDue = true ∧ W.encMod 0 = 0 ∧ Wsens.encMod 0 ≠ 0 ∧ Wsens.encValid 0 = true ∧ Wsens.mach[(0 : Fin 2)].sens.encIdx = true) ∧ (Wsens.mach[(0 : Fin 2)].src.aspDue = true ∧ Wsens.mach[(0 : Fin 2)].src.pspDue = true) ∧ (Wsens.machEn 0 = true ∧ Wsens.pcr.state = 0 ∧ Wsens.owner = true ∧ (((Wsens.adv Wsens.nextSp).swapsDue Wsens.nextSp).srcUpdate 0 Wsens.nextSp).fallbackCause 0 Wsens.nextSp = 0) := by
  decide +kernel

theorem test_witness_StartRule :
  (Wlis.setConf 0 = true ∧ Wlis.mach[machOf 0].trk.state = .listen ∧ Wlost.setConf 0 = true ∧ Wlost.mach[machOf 0].trk.state = .lost ∧ Wlost.sets[(0 : Fin 8)].driving = false ∧ W.setConf 0 = false) ∧ (Wlis.mach[(0 : Fin 2)].trk.state = .listen ∧ Wlis.mach[(0 : Fin 2)].start.vSeen = false ∧ (Wlis.tryCatch 0 0).mach[(0 : Fin 2)].trk.state = .listen) ∧ ((Wprobe 0).mach[(0 : Fin 2)].trk.state = .probe ∧ (Wprobe 0).mach[(0 : Fin 2)].start.probePh = 0 ∧ (Wprobe 1).mach[(0 : Fin 2)].start.probePh = 1 ∧ (Wprobe 1).mach[(0 : Fin 2)].start.failDue = some 1 ∧ W.mach[(0 : Fin 2)].start.failDue = none ∧ Wcell.mach[(0 : Fin 2)].trk.state = .locked) := by
  decide +kernel

theorem test_witness_LossRule :
  ((Wlst true).mach[(0 : Fin 2)].trk.lost_ = true ∧ (Wlst true).trkOn 0 = true ∧ (Wlst true).mach[(0 : Fin 2)].trk.stopping = false ∧ (Wlst true).shadow = false ∧ W.mach[(0 : Fin 2)].trk.lost_ = false) ∧ ((Wlow).mach[(0 : Fin 2)].trk.state = .low ∧ Wlow.mach[(0 : Fin 2)].trk.stopping = false ∧ Wlow.mach[(0 : Fin 2)].decel.active = false ∧ Wlow.mach[(0 : Fin 2)].trk.lowAt + 200 * ms1 ≤ Wlow.lastFp) ∧ (Wlost.mach[(0 : Fin 2)].trk.state = .lost ∧ Wlost.currentsLow 0 0 = true ∧ W.mach[(0 : Fin 2)].trk.state ≠ .lost) ∧ (Wobs.mach[(0 : Fin 2)].start.settleEnd = some 0 ∧ W.mach[(0 : Fin 2)].start.settleEnd = none) ∧ (Wobs.sets[(0 : Fin 8)].obs.running = true ∧ W.sets[(0 : Fin 8)].obs.running = false) ∧ (Wobs.mach[(0 : Fin 2)].start.est = some (0, 0, 0) ∧ Wobs.mach[(0 : Fin 2)].trk.state = .ascObserve ∧ W.mach[(0 : Fin 2)].start.est = none) := by
  decide +kernel

/-! ### Ill-formed operands are refused: one term for each check of `Instr.wf` -/

theorem test_wf_badOpcode : (Instr.badOpcode qN 0x51).wf = true ∧ (Instr.badOpcode qN 0x50).wf = false := by decide +kernel
theorem test_wf_checkerLocked : (Instr.checkerLocked 10 0).wf = true ∧ (Instr.checkerLocked 11 0).wf = false := by decide +kernel
theorem test_wf_checkerLockLost : (Instr.checkerLockLost 0 1 0).wf = true ∧ (Instr.checkerLockLost 12 1 0).wf = false := by decide +kernel
theorem test_wf_linkTestDone : (Instr.linkTestDone 9 0 false true 0).wf = true ∧ (Instr.linkTestDone 10 0 false true 0).wf = false := by decide +kernel
theorem test_wf_lowPartRead : (Instr.lowPartRead .svc 2 0).wf = true ∧ (Instr.lowPartRead .pcie 2 0).wf = false := by decide +kernel
theorem test_wf_highPartRead : (Instr.highPartRead .mgt 4 0).wf = true ∧ (Instr.highPartRead .svc 3 0).wf = false := by decide +kernel
theorem test_wf_otpProgram : (Instr.otpProgram (quad 0 0 0x400 0) [1, 2]).wf = true ∧ (Instr.otpProgram (quad 0 0 0x400 0) [1]).wf = false := by decide +kernel
theorem test_wf_blockChunkDone :
    (Instr.blockChunkDone 0 (List.replicate 1024 0) 0).wf = true ∧ (Instr.blockChunkDone 0 (List.replicate 1025 0) 0).wf = false := by decide +kernel
theorem test_wf_thermalReading :
    (Instr.thermalReading (List.replicate 16 0)).wf = true ∧ (Instr.thermalReading (List.replicate 15 0)).wf = false := by decide +kernel
theorem test_wf_serviceFrameError : (Instr.serviceFrameError 31 0).wf = true ∧ (Instr.serviceFrameError 32 0).wf = false := by decide +kernel
theorem test_wf_pspMeasurement : (Instr.pspMeasurement 0 1 1 0).wf = true ∧ (Instr.pspMeasurement 0 0 0 0).wf = false ∧
    (Instr.pspMeasurement 0 1 2 0).wf = false := by decide +kernel
theorem test_wf_vendorTest : (Instr.vendorTestInstruction 0x80 0).wf = true ∧ (Instr.vendorTestInstruction 0x10 0).wf = false ∧
    (Instr.vendorTestInstruction 0xFF 0).wf = false := by decide +kernel
theorem test_wf_frames :
    [Instr.baton [] 0, .heartbeat [] 0, .sync [] 0, .requestJoin [] 0, .requestHandover [] 0, .requestAttestNonce [] 0, .reply [] 0,
     .attestFrame [] 0, .relayClaim [] 0, .relayYield [] 0].all (fun i => !i.wf) = true := by decide +kernel
theorem test_wf_frame_length :
    (Instr.baton (List.replicate 17 0) 0).wf = true ∧ (Instr.baton (List.replicate 18 0) 0).wf = false := by decide +kernel

/-- No row of the table gives bits, so no word spells a command. -/
theorem test_no_word_decodes : ∀ n w, decodeTableWord n w = none := fun _ _ => rfl

/-! ### The register map -/

/-- The register at an offset: its first offset and its index. -/
def at' (o : Nat) : Option (Nat × Nat) := (regFind o).map fun (d, i, _) => (d.base, i)

/-- Table 21.5, the addresses for set W5. -/
theorem test_table_21_5 :
    at' 0xB094 = some (0xB080, 5) ∧ at' 0xC024 = some (0xC010, 5) ∧ at' 0x9134 = some (0x9120, 5) ∧ at' 0x9484 = some (0x9400, 33) ∧
    at' 0x9240 = some (0x9200, 16) ∧ at' 0x8028 = some (0x8000, 10) ∧ at' 0xB17C = some (0xB100, 31) ∧ at' 0xE050 = some (0xE040, 4) ∧
    at' 0x4850 = some (0x4800, 10) ∧ at' 0x24E8 = some (0x2008, 39) := by decide +kernel

/-- GLB_ID reads its reset value 0x01B0_4208 (chapter 1). -/
theorem test_glb_id : State.reset.readWord 0 = 0x01B04208 := by decide +kernel

/-! ### Single commands -/

/-- The next state of a command; the reset state where it stops. -/
def nx (c : Instr) (s : State) : State :=
  match exec c s with
  | .next t => t
  | _ => State.reset

/-- The quad at entry `k` of DQ0, whose BASE is 0 in the helper states, as its two halves. -/
def dq (s : State) (k : Nat) : Nat × Nat :=
  let w (j : Nat) := ((alGet s.host.mem (16 * k + 4 * j)).getD 0).toNat
  (w 0 + w 1 * 2 ^ 32, w 2 + w 3 * 2 ^ 32)

/-- Table 12.14: DQ0 entry 14 of DRIVE_START, written with PHASE 1. -/
theorem test_completion_quad :
    cplQuad 0x11 ⟨0, 0x00, 0x0101, 15, true, 3⟩ ||| 0x8000 = 0x0000000000030011_0000000F01018000 ∧
    cplQuad 0x11 ⟨0, 0x00, 0x0103, 17, true, 0⟩ = 0x0000000000000011_0000001101030000 := by decide +kernel

/-- Table 12.14: the three command quads of CQ0, read by their bits. -/
theorem test_command_quads :
    quadRow 0 0x0101_0512 [] 0 = .driveStart ⟨0, true, false, 1, 0, 0x0101, 0, 0⟩ ∧
    quadRow 0 0x0000_0000_44FA_0000_0000_0000_0102_0410 [] 0 = .setpoint ⟨0, false, false, 1, 0, 0x0102, 0, 0x44FA0000⟩ ∧
    quadRow 0 0x0000_0000_44FA_0000_0000_0001_0103_0510 [] 0 = .setpoint ⟨0, true, false, 1, 0, 0x0103, 1, 0x44FA0000⟩ := by decide +kernel

/-- Table 12.11: a MOSI word, READ in bit 31, INDEX in [30:16], DATA in [15:0]. -/
theorem test_mosi_word : mosiRow 0x80010000 5 = .serviceReadFrame 1 0 5 ∧ mosiRow 0x7FFF1234 5 = .serviceWriteFrame 0x7FFF 0x1234 5 := by decide +kernel

/-- Table 12.14: the SETPOINT of 2,000 N·m for M0 completes OK in DQ0 with RESULT 0 with SEQ 1, the first entry of this state. -/
theorem test_setpoint_completion :
    dq (nx (.setpoint (quad 0 0x0102 0 0x44FA0000)) { Wready with ypl := { Wready.ypl with epoch := 0x11 } }) 0 =
      (0x0000000101020000, 0x0000000000000011) := by decide +kernel

/-- R321: NOP completes with PAC_TIME [31:0]. -/
theorem test_nop_result : (dq (nx (.nop qN) { W with time := 500 }) 0).2 >>> 16 = 100 := by decide +kernel
theorem test_bad_opcode : (dq (nx (.badOpcode qN 0x51) W) 0).1 % 256 = stBadOpcode.toNat := by decide +kernel

/-- R364, R373: a node reads back what was written. -/
theorem test_node_write_read :
    (dq (nx (.nodeRead (quad 0 0 0x100 0)) (nx (.nodeWrite qW)
      { W with host := { W.host with rings := vmod W.host.rings 0 fun r => { r with tail := 2 } } })) 1).2 >>> 16 = 0x3F800000 := by decide +kernel

/-- R316: a doorbell past the ring stops it with CAUSE 4 and names DQ2 (Table 13.7, DETAIL 0x0001_12C1: ring 18, CAUSE 4). -/
theorem test_overflow_stops_dq2 :
    let s : State := { (W.rset regRngCfg 2 0x41).rset regRngCfg 18 0x41 with time := 2000 }
    (nx (.headDoorbell 2 12 5000) s).host.rings[(18 : Fin 48)].stopped = true ∧
    (nx (.headDoorbell 2 12 5000) s).host.rings[(2 : Fin 48)].stopped = true := by decide +kernel

/-- Table 10.3: DETAIL [31:16] of TW1_SET at 138.00 °C. -/
theorem test_tw1_detail : thmDetail 0xA0 3 (138 * 16) >>> 16 = 0x08A0 := by decide +kernel

end Sys2Proof.Tests
end

section
/-! SUPPORT. How a completion reaches its ring (R313, R314, R319, Table 12.5): what one ring entry leaves in host memory and in the ring's
state, and that a completion whose ring can take it is written at once. -/
namespace Sys2Proof.Machine

theorem cqIdx_ne_dqIdx (n m : Fin 16) : cqIdx n ≠ dqIdx m := by
  intro h
  have : n.val = 16 + m.val := congrArg Fin.val h
  omega

@[simp] theorem State.modRing_ring_same (s : State) (i : Fin 48) (f : RingSt → RingSt) :
    (s.modRing i f).host.rings[i] = f s.host.rings[i] := vmod_at _ _ _

theorem State.modRing_ring_other (s : State) {i j : Fin 48} (f : RingSt → RingSt) (h : i ≠ j) :
    (s.modRing i f).host.rings[j] = s.host.rings[j] := vmod_other _ _ _ _ h

@[simp] theorem State.modRing_mem (s : State) (i : Fin 48) (f : RingSt → RingSt) : (s.modRing i f).host.mem = s.host.mem := rfl
@[simp] theorem State.hostWriteQuad_rings (s : State) (a : Nat) (q : Quad) : (s.hostWriteQuad a q).host.rings = s.host.rings := rfl

/-- A quad lies in host memory as four words, low word first (R5). -/
theorem State.hostWriteQuad_mem (s : State) (a : Nat) (q : Quad) (x : Nat) :
    alGet (s.hostWriteQuad a q).host.mem x =
      if x = a + 12 then some (q.extractLsb' 96 32) else if x = a + 8 then some (q.extractLsb' 64 32)
      else if x = a + 4 then some (q.extractLsb' 32 32) else if x = a then some (q.extractLsb' 0 32) else alGet s.host.mem x := by
  simp only [State.hostWriteQuad, State.hostWrite, alGet_alSet]

/-- A ring whose interrupt is off announces nothing (R330). -/
theorem State.ringNote_of_irq_off {s : State} {i : Fin 48} (h : s.rb regRngCfg i.val 14 = false) (sigs now : Bool) :
    s.ringNote i sigs now = s := by
  simp [State.ringNote, h]

@[simp] theorem State.hostWriteQuad_rb (s : State) (a : Nat) (q : Quad) (d : RegDesc) (i k : Nat) :
    (s.hostWriteQuad a q).rb d i k = s.rb d i k := by
  simp only [State.rb, State.rget, State.rgetP, State.hostWriteQuad_regs]
@[simp] theorem State.hostWriteQuad_ringSize (s : State) (a : Nat) (q : Quad) (i : Fin 48) :
    (s.hostWriteQuad a q).ringSize i = s.ringSize i := by
  simp only [State.ringSize, State.ringK, State.rf, State.rget, State.rgetP, State.hostWriteQuad_regs]
@[simp] theorem State.modRing_rb (s : State) (j : Fin 48) (f : RingSt → RingSt) (d : RegDesc) (i k : Nat) :
    (s.modRing j f).rb d i k = s.rb d i k := by
  simp only [State.rb, State.rget, State.rgetP, State.modRing_regs]

/-- A ring once an entry is written: the tail moves on, and PHASE turns at the wrap (R314). -/
def RingSt.entryWritten (r : RingSt) (size : Nat) : RingSt :=
  { r with tail := (r.tail + 1) % size, phase := if (r.tail + 1) % size = 0 then !r.phase else r.phase }

section
variable {s : State} {i : Fin 48} (hirq : s.rb regRngCfg i.val 14 = false) (q : Quad) (p : Nat) (sigs now : Bool)
include hirq

/-- One entry of a ring whose interrupt is off: the quad with its PHASE at the tail, then the tail moves on (R314). -/
theorem State.ringPut_of_irq_off : s.ringPut i q p sigs now =
    (s.hostWriteQuad (s.ringBase i + 16 * s.host.rings[i].tail) (if s.host.rings[i].phase then q ||| 1#128 <<< p else q)).modRing i
      fun r => { r with tail := (s.host.rings[i].tail + 1) % s.ringSize i,
                        phase := if (s.host.rings[i].tail + 1) % s.ringSize i = 0 then !r.phase else r.phase } := by
  unfold State.ringPut
  dsimp only
  rw [State.ringNote_of_irq_off (by simpa using hirq), State.hostWriteQuad_ringSize]

theorem State.ringPut_mem_of_irq_off : (s.ringPut i q p sigs now).host.mem =
    (s.hostWriteQuad (s.ringBase i + 16 * s.host.rings[i].tail)
      (if s.host.rings[i].phase then q ||| 1#128 <<< p else q)).host.mem := by
  rw [State.ringPut_of_irq_off hirq, State.modRing_mem]

theorem State.ringPut_ring_of_irq_off :
    (s.ringPut i q p sigs now).host.rings[i] = s.host.rings[i].entryWritten (s.ringSize i) := by
  rw [State.ringPut_of_irq_off hirq, State.modRing_ring_same, State.hostWriteQuad_rings]; rfl

end

/-- The state in which a completion is about to be written: its command's commit is noted and no other completion is held. -/
def State.readyToWrite (s : State) (c : Cpl) : State :=
  let u := s.noteCommit c.ring c.seq
  { u with host := { u.host with cpls := [c] } }

/-- Noting a commit changes the command ring alone, never a completion ring. -/
@[simp] theorem State.readyToWrite_dq (s : State) (c : Cpl) (m : Fin 16) :
    (s.readyToWrite c).host.rings[dqIdx m] = s.host.rings[dqIdx m] :=
  State.modRing_ring_other s _ (cqIdx_ne_dqIdx c.ring m)

theorem State.readyToWrite_canPut (s : State) (c : Cpl) (m : Fin 16) : (s.readyToWrite c).canPut (dqIdx m) = s.canPut (dqIdx m) := by
  have hfree : (s.readyToWrite c).ringFree (dqIdx m) = s.ringFree (dqIdx m) := by
    unfold State.ringFree State.ringUsed
    rw [State.readyToWrite_dq]; rfl
  unfold State.canPut
  rw [hfree, State.readyToWrite_dq]; rfl

/-- A completion whose ring can take it is written at once where none is held before it (R319, R352, R355). -/
theorem State.complete_of_canPut {s : State} {c : Cpl} (hnone : s.host.cpls = []) (hput : s.canPut (dqIdx c.ring) = true)
    (hrec : s.recordHeld c.ring = false) :
    s.complete c = let w := (s.readyToWrite c).writeCpl c; { w with host := { w.host with cpls := [] } } := by
  have hready : s.complete c = (s.readyToWrite c).flushCplsFrom [c] [] := by
    unfold State.complete State.flushCpls State.readyToWrite
    simp [State.noteCommit, State.modRing, hnone]
  have hput' : (s.readyToWrite c).canPut (dqIdx c.ring) = true := (s.readyToWrite_canPut c c.ring).trans hput
  have hrec' : (s.readyToWrite c).recordHeld c.ring = false := hrec
  rw [hready]
  simp [State.flushCplsFrom, hput', hrec']

/-! ### The fields of a completion quad (Table 12.5) -/

theorem cplQuad_toNat (e : Word) (c : Cpl) :
    (cplQuad e c).toNat = c.status.toNat + c.ring.val * 2 ^ 8 + c.tag.toNat * 2 ^ 16 + c.seq % 2 ^ 32 * 2 ^ 32 +
      e.toNat % 2 ^ 16 * 2 ^ 64 + c.result.toNat * 2 ^ 80 := by
  have := c.ring.isLt
  simp only [cplQuad, at_, Nat.shiftLeft_eq, BitVec.toNat_ofNat]
  omega

/-- A field of a quad, read off its number. -/
theorem extractLsb'_eq_of_toNat {q : Quad} {lo len : Nat} {v : BitVec len} (h : q.toNat / 2 ^ lo % 2 ^ len = v.toNat) :
    q.extractLsb' lo len = v :=
  BitVec.eq_of_toNat_eq (by rw [BitVec.extractLsb'_toNat, Nat.shiftRight_eq_div_pow, h])

end Sys2Proof.Machine

namespace Sys2Proof.Claims
open Sys2Proof Sys2Proof.Machine

theorem cplQuad_fields (e : Word) (c : Cpl) :
    (cplQuad e c).extractLsb' 0 8 = c.status ∧ (cplQuad e c).extractLsb' 8 7 = BitVec.ofNat 7 c.ring.val ∧
    (cplQuad e c).extractLsb' 15 1 = 0 ∧ (cplQuad e c).extractLsb' 16 16 = c.tag ∧
    (cplQuad e c).extractLsb' 32 32 = BitVec.ofNat 32 c.seq ∧
    (cplQuad e c).extractLsb' 64 16 = e.extractLsb' 0 16 ∧ (cplQuad e c).extractLsb' 80 48 = c.result := by
  have hring := c.ring.isLt
  refine ⟨?_, ?_, ?_, ?_, ?_, ?_, ?_⟩ <;> apply extractLsb'_eq_of_toNat <;> rw [cplQuad_toNat] <;> simp <;> omega

/-- Settles O14: the completion is written at once, and one entry of a ring without an interrupt is four words and a tail. -/
theorem completionWritten : Obligations.CompletionWritten := by
  refine ⟨fun s c st r hnone hput hrec hirq => ?_, cplQuad_fields⟩
  extract_lets i a q0 q
  let k : Cpl := ⟨c.ring, st, c.tag, c.seq, c.irq, BitVec.ofNat 48 r⟩
  have hirq' : (s.readyToWrite k).rb regRngCfg i.val 14 = false := hirq
  have hdone : s.finish c st r = _ := State.complete_of_canPut (c := k) hnone hput hrec
  have hmem : (s.finish c st r).host.mem = ((s.readyToWrite k).hostWriteQuad a q).host.mem := by
    rw [hdone, State.writeCpl, State.ringPut_mem_of_irq_off hirq', State.readyToWrite_dq]; rfl
  have hring : (s.finish c st r).host.rings[i] = s.host.rings[i].entryWritten (s.ringSize i) := by
    rw [hdone, State.writeCpl, State.ringPut_ring_of_irq_off hirq', State.readyToWrite_dq]; rfl
  refine ⟨fun x => ?_, congrArg RingSt.tail hring, congrArg RingSt.phase hring, congrArg (·.host.cpls) hdone⟩
  rw [hmem]
  exact State.hostWriteQuad_mem _ a q x

end Sys2Proof.Claims
end

section
/-! SUPPORT. Accesses of BAR0 by part (R8, R9, R11, R309, R310, R500, R503): what one read or write does, per case of its offset. -/
namespace Sys2Proof.Machine

/-! ### The register of an offset -/

theorem regFind_eq_none {o : Nat} (hgrid : o % 4 = 0) (h : findReg o = none) : regFind o = none := by
  have hword : o / 4 * 4 = o := by omega
  rw [regFind, hword, h]; rfl

theorem State.writeOff_of_no_register {o : Nat} (h : findReg o = none) (s : State) (p : Port) (v : Word) (t : Time) :
    s.writeOff p o v t = s := by
  rw [State.writeOff, h]

theorem State.writeOff_of_register {o i k : Nat} {d : RegDesc} (h : findReg o = some (d, i, k)) (s : State) (p : Port) (v : Word)
    (t : Time) : s.writeOff p o v t = s.writeReg p d i k v t := by
  rw [State.writeOff, h]

/-! ### Reads of a register in parts: the latch (R310) -/

section
variable {s : State} {p : Port} {d : RegDesc} {base : Nat} (i k : Nat)

/-- The lowest part arms the port's latch with the whole register. -/
theorem State.readLow_of_latched (h : latched d p = true) :
    s.readLow p d i base k = (s.setLatch p (some (base, s.regVal d i))).setRead p (partOf (s.regVal d i) k (portBytes p)) := by
  simp [State.readLow, h]

/-- A higher part comes from a latch armed for its register. -/
theorem State.readHigh_of_armed {x : Nat} (h : s.latch p = some (base, x)) :
    s.readHigh p d i base k = if k + portBytes p = 4 * d.words then (s.setRead p (partOf x k (portBytes p))).setLatch p none
      else s.setRead p (partOf x k (portBytes p)) := by
  simp [State.readHigh, h]

/-- A higher part without a latch is live, and GLB_TORN shows it. -/
theorem State.readHigh_of_disarmed (h : s.latch p = none) :
    s.readHigh p d i base k =
      (s.rsetF regGlbTorn 0 (portTorn p) (portTorn p) 1).setRead p (partOf (s.regVal d i) k (portBytes p)) := by
  simp [State.readHigh, h]

end

/-! ### The two read commands, of an offset on the port's grid that it reaches -/

section
variable {s : State} {p : Port} {off : BitVec 18} {t : Time} (hgrid : readOff p off.toNat % portBytes p = 0)
  (hreach : (s.adv t).reaches p (readOff p off.toNat) = true)
include hgrid hreach

theorem exec_lowPartRead_of_no_register (hprod : ((s.adv t).debugOpen && prodTest (readOff p off.toNat / 4 * 4)) = false)
    (hreg : regFind (readOff p off.toNat) = none) : exec (.lowPartRead p off t) s = .next ((s.adv t).setRead p 0) := by
  change execLowPartRead p off t s = _
  simp [execLowPartRead, hgrid, hreach, hprod, hreg]

theorem exec_lowPartRead_of_lowest {d : RegDesc} {i base : Nat}
    (hprod : ((s.adv t).debugOpen && prodTest (readOff p off.toNat / 4 * 4)) = false)
    (hreg : regFind (readOff p off.toNat) = some (d, i, base, 0)) :
    exec (.lowPartRead p off t) s = .next ((s.adv t).readLow p d i base 0) := by
  change execLowPartRead p off t s = _
  simp [execLowPartRead, hgrid, hreach, hprod, hreg]

theorem exec_highPartRead_of_higher {d : RegDesc} {i base k : Nat} (hreg : regFind (readOff p off.toNat) = some (d, i, base, k))
    (hk : k ≠ 0) (hlatched : latched d p = true) :
    exec (.highPartRead p off t) s = .next ((s.adv t).readHigh p d i base k) := by
  change execHighPartRead p off t s = _
  simp [execHighPartRead, hgrid, hreach, hreg, hk, hlatched]

end

/-! ### REGISTER_WRITE of an offset that the port reaches -/

section
variable {s : State} {p : Port} {off : BitVec 18} {t : Time} (hsvc : p ≠ .svc) (hreach : (s.adv t).reaches p off.toNat = true)
  (v : BitVec 64)
include hsvc hreach

/-- Other byte enables, or an address off its grid, discard the write (R9, R309). -/
theorem exec_registerWrite_rejected {wide full : Bool} (hbad : full = false ∨ off.toNat % (if wide then 8 else 4) ≠ 0) :
    exec (.registerWrite p off v wide full t) s = .next (s.adv t).writeReject := by
  change execRegisterWrite p off v wide full t s = _
  simp only [execRegisterWrite]
  rw [if_neg (by simp [hsvc, hreach]), if_pos (by simpa using hbad)]

/-- A production-test register has no effect that the spec gives (R500). -/
theorem exec_registerWrite_refused (hgrid : off.toNat % 4 = 0) (hdebug : (s.adv t).debugOpen = true) (hprod : prodTest off.toNat = true) :
    exec (.registerWrite p off v false true t) s = .refused (.productionTest off.toNat) := by
  change execRegisterWrite p off v false true t s = _
  simp [execRegisterWrite, hsvc, hreach, hgrid, hdebug, hprod]

theorem exec_registerWrite_word (hgrid : off.toNat % 4 = 0) (hprod : ((s.adv t).debugOpen && prodTest off.toNat) = false) :
    exec (.registerWrite p off v false true t) s = .next ((s.adv t).writeOff p off.toNat (v.extractLsb' 0 32) (s.adv t).time) := by
  change execRegisterWrite p off v false true t s = _
  simp only [execRegisterWrite]
  rw [if_neg (by simp [hsvc, hreach]), if_neg (by simp [hgrid]), if_neg (by simpa using hprod)]
  rfl

theorem exec_registerWrite_pair (hgrid : off.toNat % 8 = 0) (hlow : ((s.adv t).debugOpen && prodTest off.toNat) = false)
    (hhigh : ((s.adv t).debugOpen && prodTest (off.toNat + 4)) = false) :
    let u := (s.adv t).writeOff p off.toNat (v.extractLsb' 0 32) (s.adv t).time
    exec (.registerWrite p off v true true t) s = .next (u.writeOff p (off.toNat + 4) (v.extractLsb' 32 32) u.time) := by
  intro u
  have hprod : ((s.adv t).debugOpen && (prodTest off.toNat || (true && prodTest (off.toNat + 4)))) = false := by
    rw [Bool.true_and, Bool.and_or_distrib_left, hlow, hhigh]; rfl
  change execRegisterWrite p off v true true t s = _
  simp only [execRegisterWrite]
  rw [if_neg (by simp [hsvc, hreach]), if_neg (by simp [hgrid]), hprod]
  rfl

end

/-- Ten frames without an acknowledgement end the command and set CMD_FAIL (R248). -/
theorem exec_cmdFail_of_due {s : State} {g : Fin 8} (h : s.sup.glk[g].cmdFailDue = true) :
    exec (.cmdFail g) s =
      .next ((s.modGlk g fun x => { x with cmdFailDue := false, cmdBusy := false }).rsetF regGlkStat g 3 3 1) :=
  if_pos h

end Sys2Proof.Machine

namespace Sys2Proof.Claims
open Sys2Proof Sys2Proof.Machine

/-- Settles O43: where `findReg` finds nothing a read answers 0 and each word written is dropped. -/
theorem noRegisterThere : Obligations.NoRegisterThere := by
  intro s off v wide t u
  refine ⟨?_, fun hreach hgrid hreg hprod => ⟨?_, ?_⟩⟩
  · intro o hreach hreg hprod
    have hgrid : o % 4 = 0 := Nat.mul_mod_left _ 4
    have hword : o / 4 * 4 = o := Nat.div_mul_cancel (Nat.dvd_of_mod_eq_zero hgrid)
    exact ⟨exec_lowPartRead_of_no_register (p := .pcie) hgrid hreach (hword.symm ▸ hprod) (regFind_eq_none hgrid hreg), rfl⟩
  · rintro rfl
    rw [exec_registerWrite_word (p := .pcie) nofun hreach v hgrid hprod, State.writeOff_of_no_register hreg]
  · rintro rfl hreg' hprod'
    rw [exec_registerWrite_pair (p := .pcie) nofun hreach v hgrid hprod hprod', State.writeOff_of_no_register hreg,
      State.writeOff_of_no_register hreg']

/-- Settles O44: reads by the cases of the latch, writes by the cases of the offset, and CMD_FAIL. -/
theorem registerAccessRule : Obligations.RegisterAccessRule := by
  refine ⟨fun s p off t d i base k => ?_, fun s p off v t => ?_, fun s g hdue => exec_cmdFail_of_due hdue⟩
  · intro u o hgrid hreach hreg hprod
    refine ⟨fun hp => if_pos hp, fun hp => if_neg hp, ?_, fun hk hlatched => ?_⟩
    · rintro rfl hlatched
      rw [exec_lowPartRead_of_lowest hgrid hreach hprod hreg, State.readLow_of_latched i 0 hlatched]
    · rw [exec_highPartRead_of_higher hgrid hreach hreg hk hlatched]
      refine ⟨fun x harmed hmore => ?_, fun x harmed hlast => ?_, fun hnone => ?_⟩
      · rw [State.readHigh_of_armed i k harmed, if_neg hmore]
      · rw [State.readHigh_of_armed i k harmed, if_pos hlast]
      · rw [State.readHigh_of_disarmed i k hnone]
  · intro u hsvc hreach
    refine ⟨fun wide => exec_registerWrite_rejected hsvc hreach v (.inl rfl),
      fun hoff => exec_registerWrite_rejected hsvc hreach v (.inr hoff),
      fun hgrid hdebug hmay => ?_, fun d' i' k' hgrid hreg hprod => ?_⟩
    · cases htest : Config.testReg off.toNat with
      | false => exact .inl rfl
      | true => exact .inr (exec_registerWrite_refused hsvc hreach v hgrid hdebug (by rw [prodTest, hmay, htest]; rfl))
    · rw [exec_registerWrite_word hsvc hreach v hgrid hprod, State.writeOff_of_register hreg]

end Sys2Proof.Claims
end

section
/-! SUPPORT. GLB_HEALTH (R39, R40): what a write of one register word stores and reads back, and how a happening reaches the registers. -/
namespace Sys2Proof.Machine

/-- A write while registers answer acts on the state at its instant (R445). -/
theorem State.onRegs_of_on {s : State} (hon : s.regsOn = true) (t : Time) (f : State → State) :
    s.onRegs t f = .next (f (s.adv t)) := by
  have hon' : (s.adv t).regsOn = true := hon
  simp [State.onRegs, hon']

section
variable {s : State} {d : RegDesc} {i part : Nat} (hwf : s.regsWf) (w : Word)
include hwf

theorem State.rgetP_rsetP_same : (s.rsetP d i part w).rgetP d i part = w :=
  (alGet_alPut _ _ _ _ w hwf).trans (if_pos rfl)

theorem State.rsetP_regs_other {off : Nat} (h : off ≠ d.off i part) :
    alGet (s.rsetP d i part w).regs off = alGet s.regs off :=
  alGet_alPut_ne _ _ _ _ w hwf h

end

/-- GLB_HEALTH has only the write-one-to-clear bits [7:0] and no range rule: ones clear, and nothing is rejected (Table 0.2). -/
theorem regGlbHealth_written (window : Bool) (old v : Word) :
    regGlbHealth.written window 0 old v = (old &&& ~~~(v &&& 0xFF#32), false) := by
  have hones : old &&& 0xFFFFFFFF#32 = old := BitVec.and_allOnes
  simp [RegDesc.written, regGlbHealth, maskPart, applyRules, hones]

theorem State.writeWord_regGlbHealth (s : State) (v : Word) :
    s.writeWord regGlbHealth 0 0 v = s.rset regGlbHealth 0 (s.rget regGlbHealth 0 &&& ~~~(v &&& 0xFF#32)) := by
  simp [State.writeWord, regGlbHealth_written, State.rset, State.rget]

end Sys2Proof.Machine

namespace Sys2Proof.Claims
open Sys2Proof Sys2Proof.Machine

/-- Settles O25: the write is one store of GLB_HEALTH, and a store changes the word at its own offset only. -/
theorem healthClearRule : Obligations.HealthClearRule := by
  intro s v t hwf hon
  have hwf' : (s.adv t).regsWf := hwf
  have hexec : exec (.healthClear v t) s = .next ((s.adv t).writeWord regGlbHealth 0 0 v) := State.onRegs_of_on hon t (·.writeWord regGlbHealth 0 0 v)
  rw [State.writeWord_regGlbHealth] at hexec
  exact ⟨_, hexec, State.rgetP_rsetP_same hwf' _, fun off hoff => State.rsetP_regs_other hwf' _ hoff, rfl⟩

end Sys2Proof.Claims
end

section
/-! SUPPORT. The three boundaries of the Pacer (R19, R35): where the next one of a period lies, and what the work of a housekeeping round
leaves alone. -/
namespace Sys2Proof.Machine

/-! ### The next boundary of a period -/

/-- `b` is the next boundary of period `p` after `last` and not before `now` (R19). -/
def IsNextBound (p last now b : Time) : Prop := b % p = 0 ∧ last < b ∧ now ≤ b ∧ b < max now (last + 1) + p

theorem nextMult_spec {p : Nat} (hp : p ≠ 0) (t : Nat) : nextMult p t % p = 0 ∧ t ≤ nextMult p t ∧ nextMult p t < t + p := by
  have hbelow := Nat.div_mul_le_self (t + p - 1) p
  have habove := Nat.lt_div_mul_add (a := t + p - 1) (Nat.pos_of_ne_zero hp)
  have hbounds : t ≤ (t + p - 1) / p * p ∧ (t + p - 1) / p * p < t + p := by omega
  rw [nextMult, if_neg hp]
  exact ⟨Nat.mul_mod_left _ _, hbounds⟩

theorem nextBound_spec {p : Time} (hp : p ≠ 0) (last now : Time) : IsNextBound p last now (nextBound p last now) := by
  obtain ⟨hmul, hle, hlt⟩ := nextMult_spec hp (max now (last + 1))
  exact ⟨hmul, (le_max_right _ _).trans hle, (le_max_left _ _).trans hle, hlt⟩

theorem State.nextFp_of_no_new {s : State} (h : s.fpNewAt = none) : s.nextFp = nextBound s.fp s.lastFp s.time := by
  simp [State.nextFp, h]

/-! ### The three rows while CTL runs and while it does not -/

section
variable {s : State} (h : s.ctlRuns = true)
include h

theorem exec_fpBoundary_of_runs : exec .fpBoundary s = .next (s.fpBoundary s.nextFp) :=
  congrArg Host.Outcome.next (if_pos h)
theorem exec_spBoundary_of_runs : exec .spBoundary s = .next (s.spBoundary s.nextSp) :=
  congrArg Host.Outcome.next (if_pos h)
theorem exec_housekeepingRound_of_runs (mgt ctl : BitVec 19) :
    exec (.housekeepingRound mgt ctl) s = .next (s.hrRound mgt.toNat ctl.toNat s.nextHr) :=
  congrArg Host.Outcome.next (if_pos h)

end

section
variable {s : State} (h : s.ctlRuns = false)
include h

theorem exec_fpBoundary_of_stopped : exec .fpBoundary s = .next s :=
  congrArg Host.Outcome.next (if_neg (Bool.eq_false_iff.1 h))
theorem exec_spBoundary_of_stopped : exec .spBoundary s = .next s :=
  congrArg Host.Outcome.next (if_neg (Bool.eq_false_iff.1 h))
theorem exec_housekeepingRound_of_stopped (mgt ctl : BitVec 19) : exec (.housekeepingRound mgt ctl) s = .next s :=
  congrArg Host.Outcome.next (if_neg (Bool.eq_false_iff.1 h))

end

/-! ### A housekeeping round keeps its own marks -/

/-- A loop keeps what each of its passes keeps. -/
theorem foldl_proj {α β σ : Type} (g : σ → β) {f : σ → α → σ} (hf : ∀ u a, g (f u a) = g u) (l : List α) (s : σ) :
    g (l.foldl f s) = g s := by
  induction l generalizing s with
  | nil => rfl
  | cons a l ih => exact (ih _).trans (hf s a)

theorem forFin_proj {β σ : Type} {n : Nat} (g : σ → β) {f : σ → Fin n → σ} (hf : ∀ u i, g (f u i) = g u) (s : σ) :
    g (forFin n s f) = g s := foldl_proj g hf _ s

theorem ite_proj {β σ : Type} (g : σ → β) {p : Prop} [Decidable p] {s t : σ} (h : g t = g s) : g (if p then t else s) = g s := by
  split
  · exact h
  · rfl

/-- What a housekeeping round records of itself: the clock counts, in PCR, and its instant. -/
def State.roundMarks (s : State) : PcrSt × Time := (s.pcr, s.lastHr)

theorem Quiet.roundMarks_eq {s t : State} (h : Quiet s t) : t.roundMarks = s.roundMarks := by
  rw [State.roundMarks, h.pcr_eq, h.lastHr_eq, State.roundMarks]

theorem quiet_healthAgain (s : State) (bit block : Nat) (insts : List (Nat × Nat)) (t : Time) :
    Quiet s (s.healthAgain bit block insts t) :=
  quiet_foldl fun u _ => quiet_health u _ _ _ _ _

/-- Raising the persisting causes again is events only (R40). -/
theorem quiet_healthRound (s : State) (t : Time) : Quiet s (s.healthRound t) := by
  have hgo (u : State) (cleared : Bool) (bit block : Nat) (l : List (Nat × Nat)) :
      Quiet u (if cleared then u else u.healthAgain bit block l t) := by
    cases cleared with
    | true => exact Quiet.refl u
    | false => exact quiet_healthAgain u _ _ _ _
  unfold State.healthRound
  extract_lets
  exact (hgo _ _ _ _ _).trans <| (hgo _ _ _ _ _).trans <| (hgo _ _ _ _ _).trans <| (hgo _ _ _ _ _).trans <|
    (hgo _ _ _ _ _).trans <| (hgo _ _ _ _ _).trans (hgo _ _ _ _ _)

@[simp] theorem State.ledgerPut_roundMarks (s : State) (id : Nat) (v : Word) : (s.ledgerPut id v).roundMarks = s.roundMarks := rfl

@[simp] theorem State.cycleStep_roundMarks (s : State) (l : Fin 24) (r : Rat) : (s.cycleStep l r).roundMarks = s.roundMarks := by
  unfold State.cycleStep
  extract_lets c put
  have hput (u : State) (turn ext : Rat) : (put u turn ext).roundMarks = u.roundMarks := rfl
  clear_value put
  split
  · split
    · exact hput _ _ _
    · split
      · extract_lets u
        have hu : u.roundMarks = s.roundMarks := by
          unfold u
          split
          · exact s.ledgerPut_roundMarks _ _
          · rfl
        exact (hput _ _ _).trans hu
      · rfl
  · exact hput _ _ _

theorem State.wearRound_roundMarks (s : State) (l : Fin 24) (r : Rat) : (s.wearRound l r).roundMarks = s.roundMarks := by
  unfold State.wearRound
  extract_lets mx u mn v
  have hu : u.roundMarks = s.roundMarks := ite_proj State.roundMarks (s.ledgerPut_roundMarks _ _)
  have hv : v.roundMarks = u.roundMarks := ite_proj State.roundMarks (u.ledgerPut_roundMarks _ _)
  exact (v.cycleStep_roundMarks l r).trans (hv.trans hu)

theorem State.wearAll_roundMarks (s : State) : s.wearAll.roundMarks = s.roundMarks := by
  unfold State.wearAll
  refine (forFin_proj State.roundMarks ?_ _).trans (forFin_proj State.roundMarks ?_ s) <;> intro u l
  · rfl
  dsimp only
  split
  · exact u.wearRound_roundMarks l _
  · rfl

theorem State.memberRound_roundMarks (s : State) (b : Time) : (s.memberRound b).roundMarks = s.roundMarks := by
  refine forFin_proj State.roundMarks ?_ s
  intro u p
  rfl

/-! ### A round's start of a new second clears the trip counts (R242) -/

/-- Where every set of a list is changed by a function whose results satisfy `P`, they do afterwards. -/
theorem State.foldl_modSet {P : SetSt → Prop} {f : SetSt → SetSt} (hf : ∀ y, P (f y)) {x : Fin 8} (l : List (Fin 8)) (s : State)
    (h : x ∈ l ∨ P s.sets[x]) : P (l.foldl (fun u w => u.modSet w f) s).sets[x] := by
  induction l generalizing s with
  | nil => exact h.resolve_left List.not_mem_nil
  | cons w l ih =>
    refine ih _ ?_
    by_cases hx : w = x
    · subst hx
      exact .inr ((vmod_at s.sets w f).symm ▸ hf _)
    · refine h.imp (fun hmem => (List.mem_cons.1 hmem).resolve_left (Ne.symm hx)) fun hP => ?_
      exact (vmod_other s.sets w x f hx).symm ▸ hP

theorem State.forFin_modSet {P : SetSt → Prop} {f : SetSt → SetSt} (hf : ∀ y, P (f y)) (s : State) (x : Fin 8) :
    P (forFin 8 s fun u w => u.modSet w f).sets[x] :=
  State.foldl_modSet hf _ s (.inl (List.mem_finRange x))

/-- The trip counts of every set begin anew with each 1000th round (R242). -/
def State.roundTrips (s : State) (b : Time) : State :=
  if (b / hkRound) % 1000 = 0 then forFin 8 s fun s w => s.modSet w fun x => { x with trips := 0, tripHit := false } else s

theorem State.roundTrips_roundMarks (s : State) (b : Time) : (s.roundTrips b).roundMarks = s.roundMarks := by
  refine ite_proj State.roundMarks (forFin_proj State.roundMarks ?_ s)
  intro u w
  rfl

theorem State.roundTrips_trips {b : Time} (h : (b / hkRound) % 1000 = 0) (s : State) (x : Fin 8) : (s.roundTrips b).sets[x].trips = 0 := by
  rw [State.roundTrips, if_pos h]
  exact State.forFin_modSet (P := fun y => y.trips = 0) (fun _ => rfl) s x

/-- The rest of a round after its trip counts: what ages in the gate links, and the digest of a paired device (R290). -/
def State.roundEnd (s : State) (b : Time) : State :=
  let s := forFin 8 s fun s g => s.modGlk g fun x =>
    { x with discards := x.discards.filter fun u => decide (b < u + 60 * s1), errRaised := x.errRaised && s.glkErr g }
  if s.pairEn then { s with ypl := { s.ypl with digest := s.cfgDigest } } else s

/-- What the end of a round leaves alone. -/
def State.marksAndSets (s : State) : (PcrSt × Time) × Vector SetSt 8 := (s.roundMarks, s.sets)

theorem State.withYpl_marksAndSets (s : State) (y : YplSt) : ({ s with ypl := y } : State).marksAndSets = s.marksAndSets := rfl

theorem State.roundEnd_marksAndSets (s : State) (b : Time) : (s.roundEnd b).marksAndSets = s.marksAndSets := by
  unfold State.roundEnd
  extract_lets u
  have hu : u.marksAndSets = s.marksAndSets := by
    refine forFin_proj State.marksAndSets ?_ s
    intro v g
    rfl
  exact (ite_proj State.marksAndSets (u.withYpl_marksAndSets _)).trans hu

/-- The work of a round between its clock check and its trip counts leaves its marks alone. -/
theorem State.roundWork_roundMarks (s : State) (b : Time) : (((s.healthRound b).wearAll).memberRound b).roundMarks = s.roundMarks :=
  calc (((s.healthRound b).wearAll).memberRound b).roundMarks
    _ = ((s.healthRound b).wearAll).roundMarks := State.memberRound_roundMarks _ b
    _ = (s.healthRound b).roundMarks := State.wearAll_roundMarks _
    _ = s.roundMarks := (quiet_healthRound s b).roundMarks_eq

section
variable {m c : Nat} (hm : countBad m 245760 = false) (hc : countBad c 409600 = false) (s : State) (b : Time)
include hm hc

/-- A round whose clock counts are within 8% of nominal reports no clock fault (R35). -/
theorem State.hrRound_of_good_counts : s.hrRound m c b =
    State.roundEnd (State.roundTrips ((((({ s.adv b with
      lastHr := b, pcr := { s.pcr with mgtCyc := m, ctlCyc := c } } : State)).healthRound b).wearAll).memberRound b) b) b := by
  simp only [State.hrRound, State.roundEnd, State.roundTrips, hm, hc, Bool.or_self, Bool.false_eq_true, if_false]

theorem State.hrRound_roundMarks : (s.hrRound m c b).roundMarks = ({ s.pcr with mgtCyc := m, ctlCyc := c }, b) := by
  rw [State.hrRound_of_good_counts hm hc]
  refine (congrArg Prod.fst (State.roundEnd_marksAndSets _ b)).trans ?_
  exact (State.roundTrips_roundMarks _ b).trans (State.roundWork_roundMarks _ b)

theorem State.hrRound_trips (h : (b / hkRound) % 1000 = 0) (x : Fin 8) : (s.hrRound m c b).sets[x].trips = 0 := by
  have hsets (u : State) : (u.roundEnd b).sets = u.sets := congrArg Prod.snd (u.roundEnd_marksAndSets b)
  rw [State.hrRound_of_good_counts hm hc, hsets]
  exact State.roundTrips_trips h _ x

end

end Sys2Proof.Machine

namespace Sys2Proof.Claims
open Sys2Proof Sys2Proof.Machine

/-- Settles O52: the rows by whether CTL runs, the boundaries as next multiples, and a round by what each of its stages keeps. -/
theorem boundaryRule : Obligations.BoundaryRule := by
  refine ⟨fun s => ⟨fun h => ?_, fun h => ?_⟩, fun s => ⟨fun hfp hnew => ?_, fun hsp => ?_, ?_⟩, fun s m c b hm hc => ?_⟩
  · exact ⟨exec_fpBoundary_of_runs h, exec_spBoundary_of_runs h, exec_housekeepingRound_of_runs h⟩
  · exact ⟨exec_fpBoundary_of_stopped h, exec_spBoundary_of_stopped h, exec_housekeepingRound_of_stopped h⟩
  · rw [State.nextFp_of_no_new hnew]
    exact nextBound_spec hfp _ _
  · exact nextBound_spec hsp _ _
  · exact nextBound_spec (p := hkRound) (by decide) _ _
  · have hmarks := State.hrRound_roundMarks hm hc s b
    exact ⟨congrArg (·.1.mgtCyc) hmarks, congrArg (·.1.ctlCyc) hmarks, congrArg Prod.snd hmarks,
      fun hsec x => State.hrRound_trips hm hc s b hsec x⟩

end Sys2Proof.Claims
end

section
/-! SUPPORT. The events of the cells (R28, R64, R117, R122, R139): what each of their rows does, by the cause that it judges. -/
namespace Sys2Proof.Machine

/-! ### ENG_OVERRUN (R121, R122) -/

/-- Set `w` has a cause to overrun in the period that starts at `b`: it waits for samples, its computation was abandoned, or its pass is late. -/
def State.overrunCause (s : State) (w : Fin 8) (b : Time) : Bool :=
  s.sets[w].cell.waitAt == some b || s.sets[w].cell.freeNext || s.passLate w b

/-- The computations of `w`, and of the other sets of a late pass, are abandoned at t2 of the period that starts at `b`. -/
def State.abandon (s : State) (w : Fin 8) (b : Time) : State :=
  forFin 8 (s.adv (b + s.fp - lead40)) fun u v =>
    if u.cellRuns v && !u.sets[v].cell.freeNext && u.sets[v].cell.ovrAt != some b && (v == w || u.passLate v b) then
      (u.overrun v b).modSet v fun x => { x with cell := { x.cell with freeNext := true } }
    else u

/-- The overrun of `w`, the `n`-th in a row, is noted, counted and flagged. -/
def State.countOverrun (s : State) (w : Fin 8) (n : Nat) (b : Time) : State :=
  let u := s.modSet w fun x => { x with cell := { x.cell with freeNext := false, ovrRun := n, ovrAt := some b } }
  (u.rcount regEngScCount w 31 24 1).rsetF regEngScStat w 11 11 1

section
variable {s : State} {w : Fin 8}

theorem exec_engOverrun_of_cause (hruns : s.cellRuns w = true) (honce : s.sets[w].cell.ovrAt ≠ some s.lastFp)
    (hcause : s.overrunCause w s.lastFp = true) :
    let n := min 3 (s.sets[w].cell.ovrRun + 1)
    let v := (s.abandon w s.lastFp).countOverrun w n s.lastFp
    exec (.engOverrun w) s =
      .next (if n < 3 then v.raiseF 2 w 1 (0x44 + at_ n 8) s.lastFp else v.faultSet w 2 w (0x44 + at_ n 8) s.lastFp) :=
  if_pos (Bool.and_eq_true_iff.2 ⟨Bool.and_eq_true_iff.2 ⟨hruns, bne_iff_ne.2 honce⟩, hcause⟩)

theorem exec_engOverrun_of_no_cause
    (hno : s.cellRuns w = false ∨ s.sets[w].cell.ovrAt = some s.lastFp ∨ s.overrunCause w s.lastFp = false) :
    exec (.engOverrun w) s = .next s := by
  refine if_neg fun hall => ?_
  obtain ⟨hfirst, hcause⟩ := Bool.and_eq_true_iff.1 hall
  obtain ⟨hruns, honce⟩ := Bool.and_eq_true_iff.1 hfirst
  rcases hno with h | h | h
  · exact Bool.false_ne_true (h.symm.trans hruns)
  · exact bne_iff_ne.1 honce h
  · exact Bool.false_ne_true (h.symm.trans hcause)

end

/-! ### The machine cells: MC_OVERRUN, WINNER_CHANGED, DECEL_HOLD_LONG -/

section
variable {s : State} {m : Fin 2}

/-- A machine cell that misses its deadline keeps its sets' previous outputs and counts the miss (R28). -/
theorem exec_mcOverrun_of_late (hout : s.mach[m].loop.out.isSome = true) :
    let n := min 3 (s.mach[m].loop.mcRun + 1)
    let u := s.modMach m fun x => { x with loop := { x.loop with out := none, mcRun := n } }
    exec (.mcOverrun m) s =
      .next (if n < 3 then u.raiseF 3 m 1 (0x80 + at_ n 8) u.lastSp else u.faultMach m 3 m 3 (0x80 + at_ n 8) u.lastSp) := by
  obtain ⟨o, ho⟩ := Option.isSome_iff_exists.1 hout
  change execMcOverrun m s = _
  simp only [execMcOverrun, ho]

theorem exec_winnerChanged_of_confirmed (hwon : s.mach[m].loop.winRun ≠ 0) (hheld : s.srcCfg m 31 28 ≤ s.mach[m].loop.winRun)
    (hnew : s.mach[m].loop.winRep ≠ some s.mach[m].loop.winner) :
    exec (.winnerChanged m) s =
      .next ((s.modMach m fun y => { y with loop := { y.loop with winRep := some s.mach[m].loop.winner } }).raise 2 3 m 0
        (0x50 + at_ s.mach[m].loop.winner 8 + at_ (s.mach[m].loop.winRep.getD 7) 11) s.lastSp) :=
  if_pos ⟨hwon, hheld, hnew⟩

theorem exec_decelHoldLong_of_due (hactive : s.mach[m].decel.active = true) (hheld : s.mach[m].decel.held = true)
    (hdue : s.mach[m].decel.heldAt + (s.mach[m].decel.heldCnt + 1) * (100 * ms1 * s.rf regEngDecelCfg m 15 8) ≤ s.lastSp) :
    exec (.decelHoldLong m) s =
      .next ((s.modMach m fun x => { x with decel := { x.decel with heldCnt := x.decel.heldCnt + 1 } }).raise 2 3 m 0 0x23 s.lastSp) :=
  if_pos (Bool.and_eq_true_iff.2 ⟨Bool.and_eq_true_iff.2 ⟨hactive, hheld⟩, decide_eq_true hdue⟩)

end

/-! ### ADAPT_WINDOW_CLOSE (R117) -/

/-- The window `a` qualifies: adaptation is on, the regime stood, and its edges give a frequency. -/
def State.adaptOk (s : State) (a : AdaptWin) : Bool :=
  s.rb regEngRegCfg 0 8 && !a.spoiled && decide (3 ≤ a.raises) && decide (a.tFirst < a.tLast)

/-- `h` moves by the clamped ratio that the frequency measured in `a` gives, and its bounds are judged. -/
def State.adaptBand (s : State) (w : Fin 8) (a : AdaptWin) : State :=
  let fm := natR (a.raises - 1) / (sec a.tLast - sec a.tFirst)
  let rho := clampR (1 + s.sc w cKB * (fm - s.sc w cFSW) / s.sc w cFSW) (mkRat 8 10) (mkRat 125 100)
  let h := rnd (clampR (s.sets[w].cell.h * rho) (s.sc w cHMIN) (s.sc w cHMAX))
  let v := s.modSet w fun x => { x with cell := { x.cell with h := h, fsw := rnd fm } }
  v.bandLimits w v.lastSp

section
variable {s : State} {w : Fin 8}

theorem exec_adaptWindowClose_of_open (h : s.sets[w].adapt.closed = none) : exec (.adaptWindowClose w) s = .next s := by
  change execAdaptWindowClose w s = _
  simp only [execAdaptWindowClose, h]

theorem exec_adaptWindowClose_of_closed {a : AdaptWin} (h : s.sets[w].adapt.closed = some a) :
    let u := s.modSet w fun x => { x with adapt := { x.adapt with closed := none } }
    exec (.adaptWindowClose w) s = .next (if s.adaptOk a then u.adaptBand w a else u) := by
  intro u
  change execAdaptWindowClose w s = _
  simp only [execAdaptWindowClose, h]
  cases hok : s.adaptOk a with
  | true => exact if_pos hok
  | false => exact if_neg (Bool.eq_false_iff.1 hok)

end

end Sys2Proof.Machine

namespace Sys2Proof.Claims
open Sys2Proof Sys2Proof.Machine

/-- Settles O53: each row by the cause that it judges, and a count by whether it is the third in a row. -/
theorem cellEventsRule : Obligations.CellEventsRule := by
  refine ⟨fun s w x hx => ?_, fun s m x hx => ?_, fun s w h => exec_adaptWindowClose_of_open h, fun s w a h => ?_⟩
  · subst hx
    refine ⟨fun hruns honce hcause => ?_, exec_engOverrun_of_no_cause⟩
    have hexec := exec_engOverrun_of_cause hruns honce hcause
    exact ⟨fun hn => hexec.trans (congrArg _ (if_pos hn)), fun hn => hexec.trans (congrArg _ (if_neg hn))⟩
  · subst hx
    refine ⟨fun hout => ?_, exec_winnerChanged_of_confirmed, exec_decelHoldLong_of_due⟩
    have hexec := exec_mcOverrun_of_late hout
    exact ⟨fun hn => hexec.trans (congrArg _ (if_pos hn)), fun hn => hexec.trans (congrArg _ (if_neg hn))⟩
  · have hexec := exec_adaptWindowClose_of_closed h
    exact ⟨fun hok => hexec.trans (congrArg _ (if_neg (Bool.eq_false_iff.1 hok))), fun hok => hexec.trans (congrArg _ (if_pos hok))⟩

end Sys2Proof.Claims
end

section
/-! SUPPORT. The edges of the pulse generator and the commutation (R49, R50, R53, R59, R155, R159): what each of their rows does, by what
is due, and the set that a commutation moves. -/
namespace Sys2Proof.Machine

/-! ### SCHEDULED_EDGE and PENDING_CHANGE_APPLIED (R155, R159) -/

section
variable {s : State}

theorem exec_scheduledEdge_of_due {t : Time} (h : s.edgeDue = some t) : exec .scheduledEdge s = .next ((s.adv t).edgesAt t) := by
  change execScheduledEdge s = _
  unfold execScheduledEdge
  rw [h]

theorem exec_scheduledEdge_of_none (h : s.edgeDue = none) : exec .scheduledEdge s = .next s := by
  change execScheduledEdge s = _
  unfold execScheduledEdge
  rw [h]

theorem exec_pendingChangeApplied_switch {ch : Fin 50} {n : Fin 48} (hn : n.val = ch.val) :
    exec (.pendingChangeApplied ch) s = match s.changeFrom n with
      | some a => .next (((s.adv (max s.time a)).applyChange n (max s.time a)).noteSet (setOf n) (max s.time a))
      | none => .next s := by
  have hch : ch.val < 48 := hn ▸ n.isLt
  obtain rfl : (⟨ch.val, hch⟩ : Fin 48) = n := Fin.ext hn.symm
  exact dif_pos hch

theorem exec_pendingChangeApplied_chopper {ch : Fin 50} {c : Fin 2} (hc : ch.val = 48 + c.val) :
    exec (.pendingChangeApplied ch) s = match s.chopFrom c with
      | some a => .next ((s.adv (max s.time a)).applyChop c (max s.time a))
      | none => .next s := by
  have hch : ¬ ch.val < 48 := by omega
  obtain rfl : (if ch.val = 48 then 0 else 1 : Fin 2) = c := by split <;> omega
  exact dif_neg hch

end

/-! ### COMMUTATION (R49, R50, R53) -/

/-- The regulator change that stands at the instant `t0` (R50). -/
def CellSt.changeAt (c : CellSt) (t0 : Time) : Option Reg :=
  match c.plan with
  | (a, r) :: _ => if a = t0 then some r else none
  | [] => none

/-- The cell once the change that stands at `t0` has acted, at `t`. -/
def CellSt.takeAt (c : CellSt) (t0 t : Time) : CellSt :=
  match c.changeAt t0 with
  | some r => { (c.enter r t) with plan := c.plan.drop 1 }
  | none => c

theorem CellSt.takeAt_resyncAt (c : CellSt) (t0 t : Time) : (c.takeAt t0 t).resyncAt = c.resyncAt := by
  unfold CellSt.takeAt
  split <;> rfl

/-- A torque direction that waits acts with the change that stands at `t0` (R49). -/
def SetSt.turnsAt (x : SetSt) (t0 : Time) : Bool := (x.cell.changeAt t0).isSome && x.tdNew

/-- The torque direction after what stands at `t0` has acted. -/
def SetSt.tdFrom (x : SetSt) (t0 : Time) : Bool := if x.turnsAt t0 then x.tdReq else x.td

/-- The set moved from sector `old` to `ns` at `t` by the commutation, or resync, placed at `t0`; `f` and `rev` are the speed and the sense
of rotation there. -/
def SetSt.commuted (x : SetSt) (t0 t : Time) (resync : Bool) (ns old : Fin 6) (f : Rat) (rev : Bool) : SetSt :=
  let cell := x.cell.takeAt t0 t
  { x with
    sector := some ns, prevSec := some old, lastComm := t, td := x.tdFrom t0, tdNew := x.tdNew && !x.turnsAt t0
    chopLow := if x.turnsAt t0 then x.tdChop else x.cell.commChop.of (x.tdFrom t0)
    rotUsed := f != 0 || x.rotUsed, rotRev := rev, adv := natOf (x.cell.commAdv * 64)
    x := { CrossSt.reset with blanking := true, armed := !resync, slopeUp := floatRises ns != rev, tc := t, limit := sectorTime f }
    cell := { cell with
      commAt := cell.resyncAt.map fun (a, n, _) => (a, true, n)
      commChop := match cell.resyncAt with | some (_, _, c) => c | none => cell.commChop
      commAdv := if cell.resyncAt.isSome then cell.resyncAdv else cell.commAdv
      resyncAt := none, dist := t :: cell.dist
      masked := if x.x.blanking then (x.x.tc, t) :: cell.masked else cell.masked
      common := if resync || x.turnsAt t0 then none else commonPhase old ns (x.tdFrom t0) } }

/-- A resync already placed is the next commutation (R47). -/
theorem SetSt.commuted_commAt (x : SetSt) (t0 t : Time) (resync : Bool) (ns old : Fin 6) (f : Rat) (rev : Bool) :
    (x.commuted t0 t resync ns old f rev).cell.commAt = x.cell.resyncAt.map fun (a, n, _) => (a, true, n) :=
  congrArg (Option.map _) (x.cell.takeAt_resyncAt t0 t)

/-- Set `w` moved at the instant of its commutation, before its pattern is re-mapped. -/
def State.commuted (s : State) (w : Fin 8) (t0 : Time) (resync : Bool) (ns old : Fin 6) : State :=
  let t := max s.time t0
  let u := s.adv t
  u.modSet w fun x => x.commuted t0 t resync ns old (u.seqF (machOf w)) (u.rotOf w)

theorem State.commuted_set (s : State) (w : Fin 8) (t0 : Time) (resync : Bool) (ns old : Fin 6) :
    let u := s.adv (max s.time t0)
    (s.commuted w t0 resync ns old).sets[w] =
      s.sets[w].commuted t0 (max s.time t0) resync ns old (u.seqF (machOf w)) (u.rotOf w) :=
  vmod_at _ _ _

theorem State.commuted_time (s : State) (w : Fin 8) (t0 : Time) (resync : Bool) (ns old : Fin 6) :
    (s.commuted w t0 resync ns old).time = max s.time t0 :=
  max_eq_right (le_max_left s.time t0)

/-- The pattern of set `w` re-mapped at `t`, with the change that acted there counted in the regime `gen`. -/
def State.remap (s : State) (w : Fin 8) (moved : Option Reg) (gen : Bool) (t : Time) : State :=
  match moved with
  | some r => (s.reqSet w t).countChange w r gen t
  | none => s.reqSet w t

/-- The edges of a commutation at `t` that come at the instants `late` are counted, and its blanking starts from the last (R53). -/
def State.countLate (s : State) (w : Fin 8) (resync : Bool) (t : Time) (late : List Time) : State :=
  let u := s.rcount regComCount w 7 0 1
  if resync then u else u.modSet w fun y => { y with x := { y.x with tc := late.foldl max t } }

section
variable {s : State} {w : Fin 8}

theorem exec_commutation_of_placed {t0 : Time} {resync : Bool} {ns old : Fin 6} (hcomm : s.sets[w].cell.commAt = some (t0, resync, ns))
    (hsec : s.sets[w].sector = some old) (hruns : s.cellRuns w = true) :
    let t := max s.time t0
    let x := s.sets[w]
    let u := (s.commuted w t0 resync ns old).remap w (x.cell.changeAt t0) ((s.adv t).genAt w t0) t
    let late := (swapped w old ns x.td (x.tdFrom t0)).filterMap fun n => u.delayedTo n t
    exec (.commutation w) s = if late.isEmpty then .next u else .next (u.countLate w resync t late) := by
  change execCommutation w s = _
  simp only [execCommutation, hcomm, hsec]
  exact if_pos hruns

/-- Nothing placed, or no sector to leave: nothing happens. -/
theorem exec_commutation_of_unplaced (h : s.sets[w].cell.commAt = none ∨ s.sets[w].sector = none) :
    exec (.commutation w) s = .next s := by
  change execCommutation w s = _
  unfold execCommutation
  extract_lets x
  split
  next hcomm hsec =>
    rcases h with h | h
    · exact nomatch h.symm.trans hcomm
    · exact nomatch h.symm.trans hsec
  next => rfl

end

/-! ### TD_DECAY_END (R49) and MISSED (R59) -/

/-- The current that set `w` drives through its pair in sector `sec`, as the last sample leaves it. -/
def State.pairNow (s : State) (w : Fin 8) (sec : Fin 6) : Rat :=
  ((s.pairI (s.lastSample s.time) w sec s.sets[w].td).getD (0, 0)).1

section
variable {s : State} {w : Fin 8} {t : Time}

theorem exec_tdDecayEnd_of_decay {sec : Fin 6} (hsec : s.sets[w].sector = some sec) (hdecay : s.sets[w].tdDecay = true) :
    let u := s.adv t
    exec (.tdDecayEnd w t) s = if absR (u.pairNow w sec) < u.demagI (machOf w) then
      .next (u.modSet w fun y => { y with tdDecay := false, tdNew := true,
                                          cell := { y.cell with masked := y.cell.masked.map fun (a, z) => (a, if z = 0 then u.time else z) } })
      else .next u := by
  intro u
  have hsec' : u.sets[w].sector = some sec := hsec
  have hdecay' : u.sets[w].tdDecay = true := hdecay
  change execTdDecayEnd w t s = _
  simp only [execTdDecayEnd, u, hsec', hdecay', Bool.true_and, decide_eq_true_eq, State.pairNow]

theorem exec_missed_of_due (hruns : (s.adv t).cellRuns w = true) (hblank : s.sets[w].x.blanking = true)
    (hover : (s.adv t).demagOver w (s.adv t).time = true) :
    exec (.missed w t) s = .next ((s.adv t).missedNow w (s.adv t).time) :=
  if_pos (Bool.and_eq_true_iff.2 ⟨Bool.and_eq_true_iff.2 ⟨hruns, hblank⟩, hover⟩)

theorem exec_missed_of_not_due (hno : (s.adv t).cellRuns w = false ∨ (s.adv t).demagOver w (s.adv t).time = false) :
    exec (.missed w t) s = .next (s.adv t) := by
  refine if_neg fun hall => ?_
  obtain ⟨hfirst, hover⟩ := Bool.and_eq_true_iff.1 hall
  obtain ⟨hruns, -⟩ := Bool.and_eq_true_iff.1 hfirst
  rcases hno with h | h
  · exact Bool.false_ne_true (h.symm.trans hruns)
  · exact Bool.false_ne_true (h.symm.trans hover)

end

end Sys2Proof.Machine

namespace Sys2Proof.Claims
open Sys2Proof Sys2Proof.Machine

/-- Settles O57: the edge rows by what is due, the commutation by the set it moves and its late edges, and the two ends by their limits. -/
theorem pulseEdgesRule : Obligations.PulseEdgesRule := by
  refine ⟨fun s => ⟨fun t h => exec_scheduledEdge_of_due h, exec_scheduledEdge_of_none⟩, fun s ch => ⟨fun n hn => ?_, fun c hc => ?_⟩,
    fun s w x hx => ?_, fun s w t x sec hx hsec hdecay => ?_, fun s w t => ⟨exec_missed_of_due, exec_missed_of_not_due⟩⟩
  · have hexec := exec_pendingChangeApplied_switch (s := s) hn
    exact ⟨fun a h => by rw [hexec, h], fun h => by rw [hexec, h]⟩
  · have hexec := exec_pendingChangeApplied_chopper (s := s) hc
    exact ⟨fun a h => by rw [hexec, h], fun h => by rw [hexec, h]⟩
  · subst hx
    refine ⟨fun t0 rs ns old hcomm hsec hruns => ?_, fun h => exec_commutation_of_unplaced (.inl h),
      fun h => exec_commutation_of_unplaced (.inr h)⟩
    have hset := s.commuted_set w t0 rs ns old
    have hexec := exec_commutation_of_placed hcomm hsec hruns
    refine ⟨s.commuted w t0 rs ns old, congrArg SetSt.sector hset, congrArg SetSt.prevSec hset, congrArg SetSt.lastComm hset,
      (congrArg (·.cell.commAt) hset).trans (SetSt.commuted_commAt ..), congrArg SetSt.td hset, congrArg SetSt.chopLow hset,
      congrArg SetSt.adv hset, congrArg (·.x.blanking) hset, congrArg (·.x.tc) hset, congrArg (·.x.armed) hset, rfl,
      State.commuted_time .., ?_, ?_⟩
    · exact fun hnone => hexec.trans (if_pos hnone)
    · exact fun hlate => hexec.trans (if_neg (Bool.eq_false_iff.1 hlate))
  · subst hx
    have hexec := exec_tdDecayEnd_of_decay (t := t) hsec hdecay
    exact ⟨fun hlow => hexec.trans (if_pos hlow), fun hhigh => hexec.trans (if_neg hhigh)⟩

end Sys2Proof.Claims
end

section
/-! SUPPORT. The sensors of the rotor position and the set-point inputs (R75, R77, R78, R128, R130 to R132): what each of their rows does,
by the input that it finds. -/
namespace Sys2Proof.Machine

/-! ### HALL_EDGE and HALL_FAULT (R75, R78) -/

/-- The hall levels of machine `m` as the edge at `t` leaves them. -/
def State.hallMoved (s : State) (m : Fin 2) (levels : BitVec 3) (t : Time) : State :=
  (s.adv t).freeNext.modMach m fun x => { x with sens := { x.sens with hall := levels, hallAt := (s.adv t).stamp t } }

/-- The border before span `k`, reported at `st` with the acceptance of the halls. -/
def State.hallBorder (s : State) (m : Fin 2) (k : Nat) (st : Time) : PosEvent :=
  ⟨.hall, 0, st, wrap360 (natR (60 * k) + s.hallOfs m), mkRat (s.rf regComSensCfg m 7 0) 256, st⟩

section
variable {s : State} {m : Fin 2} {levels : BitVec 3} {t : Time}

theorem exec_hallEdge_of_invalid (hvalid : (s.hallMoved m levels t).hallValid m = false) :
    exec (.hallEdge m levels t) s = .next (s.hallMoved m levels t) :=
  if_neg (Bool.eq_false_iff.1 hvalid)

section
variable (hvalid : (s.hallMoved m levels t).hallValid m = true)
include hvalid

/-- The border between two spans is the start of the higher one (R75). -/
theorem exec_hallEdge_of_adjacent {a b : Nat} (hold : hallSpan ((s.adv t).hallCode m) = some a)
    (hnew : hallSpan ((s.hallMoved m levels t).hallCode m) = some b) (hadj : b = (a + 1) % 6 ∨ a = (b + 1) % 6) :
    let v := s.hallMoved m levels t
    exec (.hallEdge m levels t) s = .next (v.report m (v.hallBorder m (if b = (a + 1) % 6 then b else a) ((s.adv t).stamp t))) := by
  refine (if_pos hvalid).trans ?_
  rw [State.hallMoved] at hnew
  simp only [hold, hnew]
  by_cases hup : b = (a + 1) % 6
  · simp only [if_pos hup]; rfl
  · simp only [if_neg hup, if_pos (hadj.resolve_left hup)]; rfl

/-- Levels that are no span make the fault due (R78). -/
theorem exec_hallEdge_of_no_span (hnew : hallSpan ((s.hallMoved m levels t).hallCode m) = none)
    (hstart : (s.hallMoved m levels t).started = true) :
    exec (.hallEdge m levels t) s =
      .next ((s.hallMoved m levels t).modMach m fun x => { x with sens := { x.sens with hallDue := true } }) := by
  refine (if_pos hvalid).trans ?_
  rw [State.hallMoved] at hnew hstart
  simp only [hnew, hstart]
  cases hallSpan ((s.adv t).hallCode m) <;> rfl

end

theorem exec_hallFault_of_due (hdue : s.mach[m].sens.hallDue = true) (hstart : s.started = true) :
    exec (.hallFault m) s =
      .next ((s.modMach m fun x => { x with sens := { x.sens with hallDue := false, hallFail := true } }).raiseF 3 m 2 0x38 s.time) :=
  if_pos (Bool.and_eq_true_iff.2 ⟨hdue, hstart⟩)

end

/-! ### ENCODER_EDGE, ENC_Z_EDGE and ENC_FAULT (R77, R78) -/

/-- The count of the encoder one step on, or one back, modulo its count per revolution `k`. -/
def encStep (k : Nat) (up : Bool) (c : Nat) : Nat := if up then (c + 1) % k else (c + k - 1) % k

/-- The encoder of machine `m` as the edge at `t` leaves it. -/
def State.encMoved (s : State) (m : Fin 2) (up : Bool) (t : Time) : State :=
  (s.adv t).freeNext.modMach m fun x => { x with sens := { x.sens with encCount := encStep (s.encMod m) up x.sens.encCount } }

/-- The angle of the encoder, reported at `st` with its acceptance. -/
def State.encReport (s : State) (m : Fin 2) (st : Time) : PosEvent :=
  ⟨.encoder, 0, st, wrap360 (s.encAngle m), mkRat (s.rf regComSensCfg m 15 8) 256, st⟩

/-- A count further than 4 from 0 at an index, of an encoder in use (R78). -/
def State.encFar (s : State) (m : Fin 2) : Bool :=
  decide (4 < s.mach[m].sens.encCount) && decide (s.mach[m].sens.encCount + 4 < s.encMod m) && s.started && s.encValid m

/-- Machine `m` of state `s`, as `x`, at an index of its encoder (R77, R134). -/
def State.atIndex (s : State) (m : Fin 2) (x : MachSt) : MachSt :=
  { x with sens := { x.sens with encCount := 0, encIdx := x.sens.encIdx || s.started, encDue := x.sens.encDue || s.encFar m }
           loop := { x.loop with rev := if s.encValid m then 0 else x.loop.rev } }

section
variable {s : State} {m : Fin 2}

theorem exec_encoderEdge_of_absent {up : Bool} {t : Time} (hmod : s.encMod m = 0) : exec (.encoderEdge m up t) s = .next (s.adv t) :=
  if_pos hmod

theorem exec_encoderEdge_of_counting {up : Bool} {t : Time} (hmod : s.encMod m ≠ 0) :
    let v := s.encMoved m up t
    exec (.encoderEdge m up t) s =
      if v.encValid m && v.mach[m].sens.encIdx then .next (v.report m (v.encReport m ((s.adv t).stamp t))) else .next v :=
  if_neg hmod

theorem exec_encZEdge (t : Time) : exec (.encZEdge m t) s = .next ((s.adv t).modMach m (s.atIndex m)) := rfl

theorem exec_encFault_of_due (hdue : s.mach[m].sens.encDue = true) (hstart : s.started = true) :
    exec (.encFault m) s =
      .next ((s.modMach m fun x => { x with sens := { x.sens with encDue := false, encFail := true } }).raiseF 3 m 2 0x39 s.time) :=
  if_pos (Bool.and_eq_true_iff.2 ⟨hdue, hstart⟩)

end

/-! ### PSP_MEASUREMENT and SETPOINT_INPUT (R129, R130) -/

/-- What a period of the pulse input says: its duty in percent, or its frequency (R130). -/
def pspValue (duty : Bool) (period high : Nat) : Rat := if duty then mkRat (100 * high) period else 1 / sec period

def pspInRange (duty : Bool) (x : Rat) : Bool :=
  if duty then decide (5 ≤ x) && decide (x ≤ 95) else decide (1000 ≤ x) && decide (x ≤ 20000)

/-- The input once a period of value `x` has ended at `now`, in range or not; `sp` is the SP whose periods it keeps. -/
def SrcSt.pspMeasured (z : SrcSt) (inRange : Bool) (x : Rat) (sp now : Time) : SrcSt :=
  let y := z.pspCheck now
  let bad := if inRange then 0 else min 3 (y.pspBad + 1)
  let good := if inRange then min 100 (y.pspGood + 1) else 0
  let ok := if y.pspOk then decide (bad < 3) else decide (100 ≤ good)
  { y with pspNew := (y.pspNew.filter fun p => decide (now ≤ p.1 + sp)) ++ [(now, rnd x)], pspLast := rnd x, pspBad := bad
           pspGood := good, pspOk := ok, pspEdge := now, pspDue := y.pspDue || (y.pspOk && !ok && y.usesPsp) }

/-- Machine `m` once its pulse input has been measured at `t`. -/
def State.pspMeasured (s : State) (m : Fin 2) (period high : Nat) (t : Time) : State :=
  let duty := s.rb regEngSrcCfg m 18
  let x := pspValue duty period high
  (s.adv t).modMach m fun z => { z with src := z.src.pspMeasured (pspInRange duty x) x s.sp (max s.time t) }

theorem State.pspMeasured_src (s : State) (m : Fin 2) (period high : Nat) (t : Time) :
    let duty := s.rb regEngSrcCfg m 18
    let x := pspValue duty period high
    (s.pspMeasured m period high t).mach[m].src = s.mach[m].src.pspMeasured (pspInRange duty x) x s.sp (max s.time t) :=
  congrArg MachSt.src (vmod_at s.mach m _)

/-- The state once an analog conversion that has been taken counts (R129). -/
def State.aspDone (s : State) (m : Fin 2) : State :=
  match s.mach[m].src.aspNew with
  | some (t, _) => (s.adv t).aspLand m (max s.time t + 1)
  | none => s

section
variable {s : State} {m : Fin 2}

theorem exec_pspMeasurement_of_no_period {high : Nat} {t : Time} : exec (.pspMeasurement m 0 high t) s = .next (s.adv t) := rfl

theorem exec_pspMeasurement_of_period {period high : Nat} {t : Time} (h : period ≠ 0) :
    exec (.pspMeasurement m period high t) s = .next (s.pspMeasured m period high t) :=
  if_neg h

theorem exec_setpointInput_analog (hdue : (s.aspDone m).mach[m].src.aspDue = true) :
    exec (.setpointInput m false) s =
      .next (((s.aspDone m).modMach m fun z => { z with src := { z.src with aspDue := false } }).raiseF 3 m 2 0x55 (s.aspDone m).time) :=
  if_pos hdue

theorem exec_setpointInput_pulse (hdue : s.mach[m].src.pspDue = true) :
    exec (.setpointInput m true) s =
      .next (((s.adv s.time).modMach m fun z => { z with src := { z.src with pspDue := false, pspOk := false, pspGood := 0 } }).raiseF
        3 m 2 0x155 s.time) := by
  change execSetpointInput m true s = _
  simp only [execSetpointInput, hdue]
  rfl

end

/-! ### SETPOINT_MISMATCH and HOST_WATCHDOG_EXPIRY (R128, R131) -/

/-- Machine `m` at the coming SP boundary, with its inputs updated for it (R143). -/
def State.sourcesAt (s : State) (m : Fin 2) : State := ((s.adv s.nextSp).swapsDue s.nextSp).srcUpdate m s.nextSp

section
variable {s : State} {m : Fin 2} (hen : s.machEn m = true) (hstart : s.started = true) (hrun : s.pcr.state = 0) (hown : s.owner = true)
include hen hstart hrun hown

theorem State.fallbackAt_of_judged (c : Nat) :
    s.fallbackAt m c = if (s.sourcesAt m).fallbackCause m s.nextSp = c then (s.sourcesAt m).enterFallback m c s.nextSp else s :=
  if_pos (by simp only [hen, hstart, hrun, hown, BEq.rfl, Bool.and_self])

end

end Sys2Proof.Machine

namespace Sys2Proof.Claims
open Sys2Proof Sys2Proof.Machine

/-- Settles O58: the hall and encoder rows by the input that moves, the pulse input by its period, and a fallback by the cause found. -/
theorem sensorsRule : Obligations.SensorsRule := by
  refine ⟨fun s m levels t => ⟨exec_hallEdge_of_invalid, fun hvalid =>
      ⟨fun a b hold hnew => ⟨fun hup => ?_, fun hnot hdown => ?_⟩, exec_hallEdge_of_no_span hvalid⟩⟩,
    fun s m x hx => ?_, fun s m period high t y hy => ?_, fun s m hen hstart hrun hown => ?_⟩
  · have hexec := exec_hallEdge_of_adjacent hvalid hold hnew (.inl hup)
    rwa [if_pos hup] at hexec
  · have hexec := exec_hallEdge_of_adjacent hvalid hold hnew (.inr hdown)
    rwa [if_neg hnot] at hexec
  · subst hx
    refine ⟨exec_hallFault_of_due, exec_encFault_of_due, fun t => ?_, fun up t => ⟨exec_encoderEdge_of_absent, fun hmod hon => ?_,
      fun hmod hoff => ?_⟩⟩
    · have hmach : ((s.adv t).modMach m (s.atIndex m)).mach[m] = s.atIndex m s.mach[m] := vmod_at _ _ _
      exact ⟨_, exec_encZEdge t, congrArg (·.sens.encCount) hmach, congrArg (·.sens.encIdx) hmach, congrArg (·.sens.encDue) hmach,
        fun hvalid => (congrArg (·.loop.rev) hmach).trans (if_pos hvalid)⟩
    · exact (exec_encoderEdge_of_counting hmod).trans (if_pos hon)
    · exact (exec_encoderEdge_of_counting hmod).trans (if_neg (Bool.eq_false_iff.1 hoff))
  · subst hy
    refine ⟨?_, fun hperiod => ?_, exec_setpointInput_analog, exec_setpointInput_pulse⟩
    · rintro rfl
      exact exec_pspMeasurement_of_no_period
    · have hsrc := s.pspMeasured_src m period high t
      exact ⟨_, exec_pspMeasurement_of_period hperiod, congrArg SrcSt.pspNew hsrc, congrArg SrcSt.pspLast hsrc,
        congrArg SrcSt.pspEdge hsrc, congrArg SrcSt.pspBad hsrc, congrArg SrcSt.pspGood hsrc, congrArg SrcSt.pspOk hsrc⟩
  · have hjudged := State.fallbackAt_of_judged hen hstart hrun hown
    have hother {c : Nat} (hne : (s.sourcesAt m).fallbackCause m s.nextSp ≠ c) : s.fallbackAt m c = s := (hjudged c).trans (if_neg hne)
    refine ⟨fun h => congrArg _ ((hjudged 4).trans (if_pos h)), fun h => congrArg _ ((hjudged 1).trans (if_pos h)), fun h => ?_⟩
    exact ⟨congrArg _ (hother (ne_of_eq_of_ne h (by decide))), congrArg _ (hother (ne_of_eq_of_ne h (by decide)))⟩

end Sys2Proof.Claims
end

section
/-! SUPPORT. A start by listening and by probing, and the lock (R73, R81, R82, R84, R87): what each of their rows does, by the state of the
tracker that it finds. -/
namespace Sys2Proof.Machine

/-! ### LISTEN_CONVERSION (R81) -/

/-- The voltage that raw code `x` of a phase of set `w` stands for. -/
def State.phaseVolt (s : State) (w : Fin 8) (x : Int) : Rat := intR (s.code14 (32 + w.val) 0 x).1 * f32v (s.rget regComVphGain w)

/-- The three line voltages of a set at one instant. -/
structure LineVolts where
  uv : Rat
  vw : Rat
  wu : Rat

/-- The line voltages of set `w` at the instant of its V sample: U and W are interpolated. -/
def State.lineVolts (s : State) (w : Fin 8) (uP uN v wP wN : Int) : LineVolts :=
  let u := s.phaseVolt w uP + (s.phaseVolt w uN - s.phaseVolt w uP) / 3
  let w' := s.phaseVolt w wP + (s.phaseVolt w wN - s.phaseVolt w wP) * mkRat 2 3
  ⟨u - s.phaseVolt w v, s.phaseVolt w v - w', w' - u⟩

/-- The largest of the three, by magnitude. -/
def LineVolts.largest (l : LineVolts) : Rat := maxR (absR l.uv) (maxR (absR l.vw) (absR l.wu))

/-- What one line voltage keeps in memory, and the crossing that it has made. -/
abbrev LineResult := Option (Time × Rat) × Option (Time × Bool)

/-- The results of the three line voltages `l` of set `w` at `t`, in the order UV, VW, WU. -/
def State.lineResults (s : State) (w : Fin 8) (l : LineVolts) (t : Time) : LineResult × LineResult × LineResult :=
  (lineCross s.sets[w].lineUV t l.uv (s.zcHyst (machOf w)), lineCross s.sets[w].lineVW t l.vw (s.zcHyst (machOf w)),
    lineCross s.sets[w].lineWU t l.wu (s.zcHyst (machOf w)))

/-- The line voltages of set `w` updated. -/
def State.linesKept (s : State) (w : Fin 8) (r : LineResult × LineResult × LineResult) : State :=
  s.modSet w fun y => { y with lineUV := r.1.1, lineVW := r.2.1.1, lineWU := r.2.2.1 }

/-- The last three crossings once `c` is one of them: its angle is `up` where it rises, `dn` where it falls, plus the offset of the set. -/
def State.addCrossing (s : State) (w : Fin 8) (up dn : Rat) (c : Option (Time × Bool)) (l : List (Time × Rat)) : List (Time × Rat) :=
  match c with
  | some (t, r) => ((t, wrap360 ((if r then up else dn) + s.setOfs w)) :: l).take 3
  | none => l

/-- The start of the machine of set `w` once it has listened: `r` holds the crossings, `big` the largest line voltage. -/
def State.heard (s : State) (w : Fin 8) (r : LineResult × LineResult × LineResult) (big : Rat) : State :=
  let m := machOf w
  let cs := s.addCrossing w 210 30 r.2.2.2 (s.addCrossing w 90 270 r.2.1.2 (s.addCrossing w 330 150 r.1.2 s.mach[m].start.catches))
  s.modMach m fun y =>
    { y with start := { y.start with catches := cs, vSeen := y.start.vSeen || decide (f32v (s.rget regComCatchVmin m) < big) } }

section
variable {s : State} {w : Fin 8} {r : LineResult × LineResult × LineResult} {big : Rat}

theorem State.heard_vSeen : (s.heard w r big).mach[machOf w].start.vSeen =
    (s.mach[machOf w].start.vSeen || decide (f32v (s.rget regComCatchVmin (machOf w)) < big)) :=
  congrArg (·.start.vSeen) (vmod_at s.mach (machOf w) _)

theorem State.heard_catches : (s.heard w r big).mach[machOf w].start.catches =
    s.addCrossing w 210 30 r.2.2.2
      (s.addCrossing w 90 270 r.2.1.2 (s.addCrossing w 330 150 r.1.2 s.mach[machOf w].start.catches)) :=
  congrArg (·.start.catches) (vmod_at s.mach (machOf w) _)

theorem State.heard_catches_of_none (huv : r.1.2 = none) (hvw : r.2.1.2 = none) (hwu : r.2.2.2 = none) :
    (s.heard w r big).mach[machOf w].start.catches = s.mach[machOf w].start.catches := by
  rw [State.heard_catches, huv, hvw, hwu]; rfl

theorem State.heard_catches_of_uv {tc : Time} {rises : Bool} (huv : r.1.2 = some (tc, rises)) (hvw : r.2.1.2 = none)
    (hwu : r.2.2.2 = none) : (s.heard w r big).mach[machOf w].start.catches =
      ((tc, wrap360 ((if rises then 330 else 150) + s.setOfs w)) :: s.mach[machOf w].start.catches).take 3 := by
  rw [State.heard_catches, huv, hvw, hwu]; rfl

end

/-- The converter of set `w` takes a triplet around `t` (R81). -/
def State.listens (s : State) (w : Fin 8) (t : Time) : Bool :=
  s.setConf w && (s.adv t).gridOn && s.convFree (32 + w.val) (t - 400) && !(s.adv t).urgentHeld (32 + w.val) (t - 400)

/-- The machine of set `w` makes use of its voltages: it listens, or is lost while the set does not drive. -/
def State.heeds (s : State) (w : Fin 8) : Bool :=
  s.mach[machOf w].trk.state == .listen || (s.mach[machOf w].trk.state == .lost && !s.sets[w].driving)

section
variable {s : State} {w : Fin 8} {uP uN v wP wN : Int} {t : Time}

theorem State.listens_of (hconf : s.setConf w = true) (hgrid : (s.adv t).gridOn = true) (hfree : s.convFree (32 + w.val) (t - 400) = true)
    (hurg : (s.adv t).urgentHeld (32 + w.val) (t - 400) = false) : s.listens w t = true := by
  rw [State.listens, hconf, hgrid, hfree, hurg]; rfl

theorem State.listens_eq_false_iff : s.listens w t = false ↔ s.setConf w = false ∨ (s.adv t).gridOn = false ∨
    s.convFree (32 + w.val) (t - 400) = false ∨ (s.adv t).urgentHeld (32 + w.val) (t - 400) = true := by
  simp only [State.listens, Bool.and_eq_false_iff, Bool.not_eq_false', or_assoc]

theorem State.heeds_of_listen (h : s.mach[machOf w].trk.state = .listen) : s.heeds w = true := by rw [State.heeds, h]; rfl

theorem State.heeds_of_lost (h : s.mach[machOf w].trk.state = .lost) (hoff : s.sets[w].driving = false) : s.heeds w = true := by
  rw [State.heeds, h, hoff]; rfl

theorem State.heeds_eq_false (hlisten : s.mach[machOf w].trk.state ≠ .listen) (hlost : s.mach[machOf w].trk.state ≠ .lost) :
    s.heeds w = false := by
  rw [State.heeds, beq_false_of_ne hlisten, beq_false_of_ne hlost]; rfl

/-- A triplet taken, which leaves `c`, of a set whose voltages are heeded: only a machine that listens looks for a catch. -/
theorem exec_listenConversion_of_taken (hlist : s.listens w t = true) (hheed : s.heeds w = true) {c : State}
    (hc : ((((s.adv t).vcSample w 0 uP (t - 400)).1.vcSample w 1 v t).1.vcSample w 2 wN (t + 400)).1 = c) :
    let l := c.lineVolts w uP uN v wP wN
    let r := c.lineResults w l t
    let e := (c.linesKept w r).heard w r l.largest
    exec (.listenConversion w uP uN v wP wN t) s =
      if s.mach[machOf w].trk.state == .listen then .next (e.tryCatch (machOf w) e.time) else .next (c.linesKept w r) := by
  intro l r e
  change execListenConversion w uP uN v wP wN t s = _
  simp only [execListenConversion, hc]
  exact if_pos (Bool.and_eq_true_iff.2 ⟨hlist, hheed⟩)

theorem exec_listenConversion_of_not (hno : s.listens w t = false ∨ s.heeds w = false) :
    exec (.listenConversion w uP uN v wP wN t) s = .next (s.adv t) := by
  refine if_neg fun hall => ?_
  obtain ⟨hlist, hheed⟩ := Bool.and_eq_true_iff.1 hall
  rcases hno with h | h
  · exact Bool.false_ne_true (h.symm.trans hlist)
  · exact Bool.false_ne_true (h.symm.trans hheed)

end

/-! ### CATCH_LISTEN_EXPIRY (R82) -/

/-- The end of the listening time of machine `m`, as often as it has been set. -/
def State.listenEnd (s : State) (m : Fin 2) : Time :=
  let d := 200000 * s.rf regComStartCfg m 15 0
  max s.time (s.mach[m].start.listenAt + (if s.mach[m].start.extended then 2 * d else d))

theorem exec_catchListenExpiry_of_listen {s : State} {m : Fin 2} (hst : s.mach[m].trk.state = .listen) :
    let u := (s.adv (s.listenEnd m)).tryCatch m (s.listenEnd m)
    exec (.catchListenExpiry m) s =
      if u.mach[m].trk.state != .listen then .next u
      else if s.mach[m].start.vSeen && !s.mach[m].start.extended then
        .next (u.modMach m fun x => { x with start := { x.start with extended := true } })
      else .next (u.startAtRest m (s.listenEnd m)) :=
  if_pos (beq_iff_eq.2 hst)

/-! ### PROBE_PULSE_END and PROBE_SLOT_END (R84) -/

/-- The instant at which the pulse of machine `m` is judged: `t`, or the end of PROBE_T. -/
def State.pulseEnd (s : State) (m : Fin 2) (t : Time) : Time :=
  min (max s.time t) (s.mach[m].start.slotAt + s.mach[m].start.probeT)

/-- The pulse of machine `m` ended: its response is recorded and its set goes to DECAY. -/
def State.pulseEnded (s : State) (m : Fin 2) (t : Time) : State :=
  let x := s.mach[m]
  let tEnd := s.pulseEnd m t
  let r := if tEnd ≤ x.start.slotAt then 0 else s.probeI m tEnd / (sec tEnd - sec x.start.slotAt)
  let u := (s.adv t).modMach m fun y => { y with start := { y.start with probePh := 1, responses := y.start.responses ++ [r] } }
  (u.modSet (probeSet m x.start.probeIdx) fun y => { y with cell := y.cell.enter .decay tEnd }).reqSet
    (probeSet m x.start.probeIdx) (s.adv t).time

/-- The next slot of machine `m`, with the set probed off. -/
def State.slotLeft (s : State) (m : Fin 2) : State :=
  (s.modSet (probeSet m s.mach[m].start.probeIdx) fun x => { x with sector := none, cell := { x.cell with cur := .off } }).modMach m
    fun x => { x with start := { x.start with probeIdx := x.start.probeIdx + 1 } }

/-- The length of a slot. -/
def State.slotLen (s : State) (m : Fin 2) : Time := 20000 * s.rf regComProbeCfg m 15 8

section
variable {s : State} {m : Fin 2} {t : Time}

theorem exec_probePulseEnd_of_pulse (hst : s.mach[m].trk.state = .probe) (hph : s.mach[m].start.probePh = 0)
    (hgo : s.mach[m].trk.stopping = false) :
    exec (.probePulseEnd m t) s =
      if s.pulseEnd m t < s.mach[m].start.slotAt + s.mach[m].start.probeT ∧
          s.probeI m (s.pulseEnd m t) < f32v (s.rget regComProbeImax m) then .next (s.adv t)
      else .next (s.pulseEnded m t) :=
  if_pos (by rw [hst, hph, hgo]; rfl)

theorem exec_probePulseEnd_of_stopping (hstop : s.mach[m].trk.stopping = true) : exec (.probePulseEnd m t) s = .next (s.adv t) :=
  if_neg (by rw [hstop]; simp only [Bool.not_true, Bool.and_false, Bool.false_eq_true, not_false_eq_true])

theorem exec_probeSlotEnd_of_over (hst : s.mach[m].trk.state = .probe) (hph : s.mach[m].start.probePh = 1)
    (hgo : s.mach[m].trk.stopping = false) (hover : s.mach[m].start.slotAt + s.slotLen m ≤ max s.time t) :
    let u := s.adv (max s.time t)
    exec (.probeSlotEnd m t) s =
      if u.demagI m ≤ absR (u.probeI m (max s.time t)) then
        if s.mach[m].start.slotAt + 2 * s.slotLen m ≤ max s.time t then
          .next (u.modMach m fun x => { x with start := { x.start with failDue := some 2, probePh := 4 } })
        else .next u
      else if (u.slotLeft m).mach[m].start.probeIdx < 6 * (u.slotLeft m).nSets m then .next ((u.slotLeft m).probeSlot m (max s.time t))
      else .next ((u.slotLeft m).probeResult m (max s.time t)) :=
  if_pos (Bool.and_eq_true_iff.2 ⟨by rw [hst, hph, hgo]; rfl, decide_eq_true hover⟩)

theorem exec_probeSlotEnd_of_stopping (hstop : s.mach[m].trk.stopping = true) :
    exec (.probeSlotEnd m t) s = .next (s.adv (max s.time t)) :=
  if_neg (by rw [hstop]; simp only [Bool.not_true, Bool.and_false, Bool.false_and, Bool.false_eq_true, not_false_eq_true])

end

/-! ### START_FAIL (R84, R85, R87) and LOCKED (R73) -/

/-- Machine `m` of state `s`, as `x`, once its tracker has locked. After STEP the set-point takes over (log 19), from 0 where a loss came before
(R88). -/
def State.lockedMach (s : State) (m : Fin 2) (x : MachSt) : MachSt :=
  let out := if s.mach[m].start.fromLost then 0 else s.sigma m * natR (s.setsOf m).length * f32v (s.rget regComStepI m)
  let stepping := s.mach[m].trk.state = .step
  { x with
    trk := { x.trk with state := .locked, lost_ := false, rotEvent := 0 }
    start := { x.start with fromLost := false }
    decel := if stepping then x.decel.recover x.trk.f else x.decel
    loop := if stepping then { x.loop with takeover := some out } else x.loop }

section
variable {s : State} {m : Fin 2}

theorem exec_startFail_of_due {c : Nat} (hdue : s.mach[m].start.failDue = some c) :
    let v := s.modMach m fun x => { x with start := { x.start with failDue := none } }
    exec (.startFail m) s = .next (v.faultMach m 3 m 3 (0x34 + at_ c 8) v.time) := by
  change execStartFail m s = _
  simp only [execStartFail, hdue]

theorem exec_startFail_of_none (hnone : s.mach[m].start.failDue = none) : exec (.startFail m) s = .next s := by
  change execStartFail m s = _
  simp only [execStartFail, hnone]

theorem exec_locked_of_good (hgood : s.rf regComTrkCfg m 27 24 ≤ s.mach[m].trk.good) (hgo : s.mach[m].trk.stopping = false)
    (hst : s.mach[m].trk.state = .capture ∨ s.mach[m].trk.state = .step ∧ 0 < s.sigma m * s.mach[m].trk.f) :
    exec (.locked m) s = .next ((s.modMach m (s.lockedMach m)).raise 0x0A 3 m 0 0x33 s.lastFp) :=
  if_pos ⟨hgood, Bool.eq_false_iff.1 hgo, hst⟩

theorem exec_locked_of_not (hno : s.mach[m].trk.good < s.rf regComTrkCfg m 27 24 ∨ s.mach[m].trk.stopping = true) :
    exec (.locked m) s = .next s := by
  refine if_neg fun ⟨hgood, hgo, _⟩ => ?_
  rcases hno with h | h
  · exact Nat.not_le_of_lt h hgood
  · exact hgo h

end

end Sys2Proof.Machine

namespace Sys2Proof.Claims
open Sys2Proof Sys2Proof.Machine

/-- Settles O59: a triplet by who makes use of it, the listening time and the probe by how they end, and the lock by its good events. -/
theorem startRule : Obligations.StartRule := by
  refine ⟨fun s w uP uN v wP wN t => ?_, fun s m x hx => ?_⟩
  · intro m a c cv uu ww l1 l2 l3 d
    have hc : ((((s.adv t).vcSample w 0 uP (t - 400)).1.vcSample w 1 v t).1.vcSample w 2 wN (t + 400)).1 = c := rfl
    -- `c` stays opaque: unfolding three conversions is costly, and nothing here looks into them.
    clear_value c
    refine ⟨fun hconf hgrid hfree hurg hst hoff => ?_, fun hconf hgrid hfree hurg hst => ?_, fun hno => ?_⟩
    · have hexec := exec_listenConversion_of_taken (uN := uN) (wP := wP) (State.listens_of hconf hgrid hfree hurg)
        (State.heeds_of_lost hst hoff) hc
      refine hexec.trans (if_neg ?_)
      exact fun h => nomatch hst.symm.trans (beq_iff_eq.1 h)
    · have hexec := exec_listenConversion_of_taken (uN := uN) (wP := wP) (State.listens_of hconf hgrid hfree hurg)
        (State.heeds_of_listen hst) hc
      exact ⟨_, hexec.trans (if_pos (beq_iff_eq.2 hst)), State.heard_vSeen,
        fun huv hvw hwu => State.heard_catches_of_none huv hvw hwu, fun _ _ huv hvw hwu => State.heard_catches_of_uv huv hvw hwu⟩
    · refine exec_listenConversion_of_not ?_
      rw [State.listens_eq_false_iff, or_assoc, or_assoc, or_assoc]
      exact hno.imp_right <| .imp_right <| .imp_right <| .imp_right fun h => State.heeds_eq_false h.1 h.2
  · subst hx
    refine ⟨fun hst => ?_, fun t hst hph hgo => ?_, fun t hst hph hgo hover => ?_,
      fun t hstop => ⟨exec_probePulseEnd_of_stopping hstop, exec_probeSlotEnd_of_stopping hstop⟩, fun c => exec_startFail_of_due,
      exec_startFail_of_none, exec_locked_of_good, exec_locked_of_not⟩
    · have hexec := exec_catchListenExpiry_of_listen hst
      refine ⟨fun hcaught => hexec.trans (if_pos (bne_iff_ne.2 hcaught)), fun hnot hseen hfirst => ?_, fun hnot hend => ?_⟩
      · exact (hexec.trans (if_neg (not_not.2 hnot ∘ bne_iff_ne.1))).trans (if_pos (by rw [hseen, hfirst]; rfl))
      · refine (hexec.trans (if_neg (not_not.2 hnot ∘ bne_iff_ne.1))).trans (if_neg ?_)
        rcases hend with h | h <;> simp only [h, Bool.false_and, Bool.not_true, Bool.and_false, Bool.false_eq_true, not_false_eq_true]
    · have hexec := exec_probePulseEnd_of_pulse (t := t) hst hph hgo
      refine ⟨fun hearly hlow => hexec.trans (if_pos ⟨hearly, hlow⟩), fun hend => hexec.trans (if_neg fun ⟨hearly, hlow⟩ => ?_)⟩
      exact hend.elim hearly.ne fun hhigh => hhigh hlow
    · have hexec := exec_probeSlotEnd_of_over hst hph hgo hover
      refine ⟨fun hhigh => ?_, fun hlow => (hexec.trans (if_neg hlow)).trans (apply_ite _ _ _ _).symm⟩
      have hexec := hexec.trans (if_pos hhigh)
      exact ⟨fun hlate => hexec.trans (if_pos hlate), fun hsoon => hexec.trans (if_neg (Nat.not_le_of_lt hsoon))⟩

end Sys2Proof.Claims
end

section
/-! SUPPORT. A loss of the rotor position and its recovery (R70, R79, R88 to R91): what each of their rows does, by the state of the
tracker that it finds. -/
namespace Sys2Proof.Machine

/-! ### ROTOR_LOST (R88, R91) -/

section
variable {s : State} {m : Fin 2}

/-- A loss that has been counted, entered as a recovery and reported with its branch leaves `u`; `asc`: the branch. -/
theorem exec_rotorLost_of_lost (hlost : s.mach[m].trk.lost_ = true) (hon : s.trkOn m = true)
    (hgo : s.mach[m].trk.stopping = false) (hmain : s.shadow = false) {asc : Bool}
    (hasc : decide (s.fAsc m ≤ absR s.mach[m].trk.f) = asc) {u : State}
    (hu : ((s.rcount regComTrkCount m 31 24 1).addRecovery m s.lastFp).raise 0x0A 3 m 0 (0x35 + at_ (b2n asc) 8) s.lastFp = u) :
    exec (.rotorLost m) s =
      .next (if u.rf regComAscCfg m 31 24 < u.mach[m].trk.recov.length then
          (u.modMach m fun x => { x with trk := { x.trk with state := .idle } }).faultMach m 3 m 3 0x37 s.lastFp
        else if asc then u.ascObserve m s.mach[m].trk.f s.lastFp else (u.goLost m s.lastFp).retrip) := by
  change execRotorLost m s = _
  simp only [execRotorLost, hasc, hu, hlost, hon, hgo, hmain, Bool.not_false, Bool.and_self, if_true, apply_ite Host.Outcome.next]

theorem exec_rotorLost_of_no_loss (hno : s.mach[m].trk.lost_ = false) : exec (.rotorLost m) s = .next s :=
  if_neg (by simp only [hno, Bool.false_and, Bool.false_eq_true, not_false_eq_true])

/-! ### LOW_RESTART (R79) and LOST_DECAY_DONE (R70) -/

theorem exec_lowRestart_of_due (hst : s.mach[m].trk.state = .low) (hgo : s.mach[m].trk.stopping = false)
    (hfree : s.mach[m].decel.active = false)
    (hdue : 4 * s.lossDeg m ≤ s.mach[m].trk.rotLow ∨ s.mach[m].trk.lowAt + 200 * ms1 ≤ s.lastFp) :
    let u := (s.setsOf m).foldl (fun s w => s.decaySet w s.lastFp) s
    exec (.lowRestart m) s = .next ((u.beginProbe m).raise 0x0A 3 m 0 0x3A u.lastFp).retrip :=
  if_pos ⟨hst, Bool.eq_false_iff.1 hgo, Bool.eq_false_iff.1 hfree, hdue⟩

theorem exec_lowRestart_of_not_low (hst : s.mach[m].trk.state ≠ .low) : exec (.lowRestart m) s = .next s :=
  if_neg fun hall => hst hall.1

theorem exec_lostDecayDone_of_low {t : Time} (hst : s.mach[m].trk.state = .lost)
    (hlow : (s.adv t).currentsLow m (s.adv t).time = true) :
    let v := ((s.adv t).setsOf m).foldl (fun s w => s.offSet w s.time) (s.adv t)
    exec (.lostDecayDone m t) s = .next (if v.mach[m].trk.stopping then v.idleMach m else (v.beginListen m v.time).retrip) :=
  if_pos (Bool.and_eq_true_iff.2 ⟨beq_iff_eq.2 hst, hlow⟩)

theorem exec_lostDecayDone_of_not {t : Time}
    (hno : s.mach[m].trk.state ≠ .lost ∨ (s.adv t).currentsLow m (s.adv t).time = false) :
    exec (.lostDecayDone m t) s = .next (s.adv t) := by
  refine if_neg fun hall => ?_
  obtain ⟨hst, hlow⟩ := Bool.and_eq_true_iff.1 hall
  exact hno.elim (fun h => h (beq_iff_eq.1 hst)) fun h => Bool.false_ne_true (h.symm.trans hlow)

/-! ### ASC_SETTLE_END (R89) -/

/-- A set of machine `m` is in its observation window. -/
def State.observing (s : State) (m : Fin 2) : Bool := (s.setsOf m).any fun w => s.sets[w].obs.running

/-- The first windows of machine `m` begun at `t`, where ASC_SETTLE has passed. -/
def State.settled (s : State) (m : Fin 2) (t : Time) : State :=
  let v := (s.adv t).modMach m fun x => { x with start := { x.start with settleEnd := none } }
  v.obsStart m v.mach[m].start.fLoss t

theorem exec_ascSettleEnd_of_set {t : Time} (h : s.mach[m].start.settleEnd = some t) :
    let w := s.settled m t
    exec (.ascSettleEnd m) s = .next (if w.mach[m].trk.state == .ascObserve && !w.observing m then w.obsDone m t else w) := by
  change execAscSettleEnd m s = _
  simp only [execAscSettleEnd, h]
  rfl

theorem exec_ascSettleEnd_of_none (h : s.mach[m].start.settleEnd = none) : exec (.ascSettleEnd m) s = .next s := by
  change execAscSettleEnd m s = _
  simp only [execAscSettleEnd, h]

end

/-! ### ASC_WINDOW_END (R89, R234) -/

/-- What the window of set `w` gives: the turn and the estimate, none where the set can no longer be observed. -/
def State.windowEstimate (s : State) (w : Fin 8) : Rat × Option (Rat × Rat) :=
  if s.observable w then s.obsEstimate w else (0, none)

/-- The length of the window that would follow a window of length `len` and of this turn. -/
def State.nextLen (s : State) (w : Fin 8) (len : Rat) : Rat :=
  if s.observable w then obsLen (360 * len / maxR (absR (s.windowEstimate w).1) 1) else len

/-- A first window that did not turn enough is repeated while the machine observes. -/
def State.windowRetry (s : State) (w : Fin 8) : Bool :=
  s.observable w && (s.windowEstimate w).2.isNone && s.sets[w].obs.attempt == 1 && s.mach[machOf w].trk.state == .ascObserve

theorem State.observable_of_windowRetry {s : State} {w : Fin 8} (h : s.windowRetry w = true) : s.observable w = true := by
  simp only [State.windowRetry, Bool.and_eq_true, and_assoc] at h
  exact h.1

/-- The window of set `w` of state `s` once it has ended at `t`: the second attempt, or its estimate. -/
def State.windowAfter (s : State) (w : Fin 8) (t : Time) (o : ObsSt) : ObsSt :=
  if s.windowRetry w then
    { ObsSt.reset with running := true, attempt := 2, start := t, len := s.nextLen w o.len, tLast := t }
  else
    { o with running := false, est := (s.windowEstimate w).2.map fun (th, f) => (th, f, o.tLast)
             turned := decide (270 ≤ absR (s.windowEstimate w).1), len := s.nextLen w o.len }

/-- The end of the window of set `w`. -/
def State.windowEnd (s : State) (w : Fin 8) : Time := s.sets[w].obs.start + obsTicks s.sets[w].obs.len

/-- The state once the window of set `w` has ended. -/
def State.windowEnded (s : State) (w : Fin 8) : State :=
  let u := s.adv (s.windowEnd w)
  u.modSet w fun x => { x with obs := u.windowAfter w (s.windowEnd w) s.sets[w].obs }

section
variable {s : State} {w : Fin 8}

theorem State.windowEnded_obs : (s.windowEnded w).sets[w].obs =
    (s.adv (s.windowEnd w)).windowAfter w (s.windowEnd w) s.sets[w].obs :=
  congrArg SetSt.obs (vmod_at s.sets w _)

theorem exec_ascWindowEnd_of_running (h : s.sets[w].obs.running = true) :
    let v := s.windowEnded w
    exec (.ascWindowEnd w) s =
      if (s.adv (s.windowEnd w)).windowRetry w || v.observing (machOf w) then .next v else .next (v.obsDone (machOf w) v.time) := by
  refine (if_pos h).trans ?_
  rfl

theorem exec_ascWindowEnd_of_idle (h : s.sets[w].obs.running = false) : exec (.ascWindowEnd w) s = .next s :=
  if_neg (Bool.eq_false_iff.1 h)

end

/-! ### REACQUIRED (R90) -/

/-- Set `k` drives again from `b`, its ASC released, unless it is faulty, held safe or latched; where it does not go on it is ending. -/
def State.releaseSet (s : State) (go : Bool) (theta f : Rat) (b : Time) (k : Fin 8) : State :=
  if s.sets[k].fault || s.sets[k].safe.isSome || s.groups[k].hiz then s
  else
    let u := s.modGroup k fun x => { x with asc := false }
    let v := u.enterSet k (u.shiftedSector k theta f) b
    let v := if go then v else v.modSet k fun x => { x with ending := true }
    if v.rowOf k == .drive then v.reqSet k b else v

/-- The observation of machine `m` ends with its estimate: into CAPTURE where it goes on, into LOST where it does not. -/
def State.observed (s : State) (m : Fin 2) (go : Bool) : State :=
  let v := (s.modMach m fun x => { x with start := { x.start with est := none } }).endObs m
  if go then v.toCapture m 0 else v.modMach m fun x => { x with trk := { x.trk with state := .lost } }

/-- The speed is high enough to go on from the ASC. -/
def State.goesOn (s : State) (m : Fin 2) : Bool := decide (s.fAscExit m < absR s.mach[m].trk.f)

/-- Machine `m` re-acquired at `b`. -/
def State.reacquired (s : State) (m : Fin 2) (b : Time) : State :=
  let v := s.observed m (s.goesOn m)
  (v.setsOf m).foldl (fun v k => v.releaseSet (s.goesOn m) (s.trkTheta m b) s.mach[m].trk.f b k) v

section
variable {s : State} {m : Fin 2}

theorem exec_reacquired_of_est (hest : s.mach[m].start.est ≠ none) (hst : s.mach[m].trk.state = .ascObserve) :
    let b := max s.time (s.spAfter s.mach[m].start.estAt)
    let u := s.adv b
    exec (.reacquired m) s = .next ((u.reacquired m b).raise 0x0A 3 m 0 (0x36 + at_ (b2n (!u.goesOn m)) 8) b).retrip := by
  obtain ⟨e, he⟩ := Option.ne_none_iff_exists'.1 hest
  intro b u
  change execReacquired m s = _
  unfold execReacquired
  rw [he]
  refine (if_pos (beq_iff_eq.2 hst)).trans ?_
  rfl

theorem exec_reacquired_of_none (h : s.mach[m].start.est = none) : exec (.reacquired m) s = .next s := by
  change execReacquired m s = _
  unfold execReacquired
  rw [h]

end

end Sys2Proof.Machine

namespace Sys2Proof.Claims
open Sys2Proof Sys2Proof.Machine

/-- Settles O60: a loss by its recoveries and its branch, the observation by what its windows give, and the release by the speed. -/
theorem lossRule : Obligations.LossRule := by
  refine ⟨fun s m x hx => ?_, fun s w o ho => ?_, fun s m x hx => ?_⟩
  · subst hx
    refine ⟨fun hlost hon hgo hmain => ?_, exec_rotorLost_of_no_loss, exec_lowRestart_of_due, exec_lowRestart_of_not_low,
      fun t => ⟨exec_lostDecayDone_of_low, exec_lostDecayDone_of_not⟩, fun t hset => ?_, exec_ascSettleEnd_of_none⟩
    · intro b asc u
      have hexec := exec_rotorLost_of_lost hlost hon hgo hmain (rfl : _ = asc) (rfl : _ = u)
      -- `u` stays opaque: unfolding an event that is raised is costly, and nothing here looks into it.
      clear_value u
      exact ⟨fun hmany => by rwa [if_pos hmany] at hexec, fun hfew => by rwa [if_neg (Nat.not_lt_of_le hfew)] at hexec⟩
    · have hexec := exec_ascSettleEnd_of_set hset
      refine ⟨fun hgoes => ?_, fun hnone hst => ?_⟩
      · refine hexec.trans (congrArg _ (if_neg fun hall => ?_))
        obtain ⟨hst, hnone⟩ := Bool.and_eq_true_iff.1 hall
        exact hgoes.elim (fun h => Bool.false_ne_true ((congrArg not h).symm.trans hnone)) fun h => h (beq_iff_eq.1 hst)
      · exact hexec.trans (congrArg _ (if_pos (Bool.and_eq_true_iff.2 ⟨beq_iff_eq.2 hst, congrArg not hnone⟩)))
  · subst ho
    refine ⟨fun hrun => ⟨fun hretry => ?_, fun hend => ?_⟩, exec_ascWindowEnd_of_idle⟩
    · have hobs := (State.windowEnded_obs (s := s) (w := w)).trans (if_pos hretry)
      refine ⟨_, (exec_ascWindowEnd_of_running hrun).trans (if_pos (Bool.or_eq_true_iff.2 (.inl hretry))),
        congrArg ObsSt.running hobs, congrArg ObsSt.attempt hobs, congrArg ObsSt.start hobs,
        (congrArg ObsSt.len hobs).trans (if_pos ?_)⟩
      exact State.observable_of_windowRetry hretry
    · have hobs := (State.windowEnded_obs (s := s) (w := w)).trans (if_neg (Bool.eq_false_iff.1 hend))
      have hexec := exec_ascWindowEnd_of_running hrun
      refine ⟨s.windowEnded w, congrArg ObsSt.running hobs, congrArg ObsSt.est hobs, fun hmore => ?_, fun hlast => ?_⟩
      · exact hexec.trans (if_pos (Bool.or_eq_true_iff.2 (.inr hmore)))
      · exact hexec.trans (if_neg (Bool.eq_false_iff.1 (Bool.or_eq_false_iff.2 ⟨hend, hlast⟩)))
  · subst hx
    exact ⟨exec_reacquired_of_est, exec_reacquired_of_none⟩

end Sys2Proof.Claims
end

section
/-! SUPPORT. SETPOINT (R126 to R128, R302): the check of its demand, and what a quad that begins does, by that check, by KEEPALIVE and by
the ownership of the device. -/
namespace Sys2Proof.Machine
open Sys2Proof Sys2Proof.Claims

@[simp] theorem State.takeCmd_notOwner (s : State) (n : Fin 16) : (s.takeCmd n).notOwner = s.notOwner := rfl

/-- A quad that begins with illegal arguments completes BAD_OPERAND (R318, R321). -/
theorem runCmd_of_bad_args {s : State} {q : CmdQ} (hbegins : Begins s q) (opc : BitVec 8) (body : State → Waiting → State) :
    s.runCmd q opc false body = .next (done s q opc stBadOperand 0) := by
  obtain ⟨hcan, hrole, hmatches, -, -⟩ := hbegins
  have hmatches : (s.takeCmd q.ring).roleMatches q.role = true := hmatches
  unfold State.runCmd
  rw [if_pos hcan]; dsimp only
  rw [if_neg (mt beq_iff_eq.1 hrole), hmatches, if_neg (by decide), Bool.not_false, Bool.or_true, if_pos rfl]

/-- A quad that begins with legal arguments runs its body on the state with the command taken. -/
theorem runCmd_of_good_args {s : State} {q : CmdQ} (hbegins : Begins s q) (opc : BitVec 8) (body : State → Waiting → State) :
    s.runCmd q opc true body = .next (body (taken s q) (s.ctx q opc)) := by
  obtain ⟨hcan, hrole, hmatches, h9, h12⟩ := hbegins
  exact runCmd_begins opc true body hcan hrole hmatches h9 h12 rfl

/-- The demand of a SETPOINT quad is legal: the target is a number, and the auxiliary value is one that is not negative (R127). -/
def demandLegal (q : CmdQ) : Bool :=
  (f32 (q.arg1.extractLsb' 0 32)).isSome && (f32 (q.arg1.extractLsb' 32 32)).any fun v => decide (0 ≤ v)

theorem demandLegal_of_numbers {q : CmdQ} {a b : Rat} (hsp : f32 (q.arg1.extractLsb' 0 32) = some a)
    (haux : f32 (q.arg1.extractLsb' 32 32) = some b) (hb : 0 ≤ b) : demandLegal q = true := by
  rw [demandLegal, hsp, haux]
  exact decide_eq_true hb

theorem demandLegal_eq_false {q : CmdQ} (hbad : f32 (q.arg1.extractLsb' 0 32) = none ∨ f32 (q.arg1.extractLsb' 32 32) = none ∨
    ∃ v, f32 (q.arg1.extractLsb' 32 32) = some v ∧ v < 0) : demandLegal q = false := by
  rw [demandLegal, Bool.and_eq_false_iff]
  rcases hbad with hsp | haux | ⟨v, haux, hneg⟩
  · exact .inl (by rw [hsp]; rfl)
  · exact .inr (by rw [haux]; rfl)
  · exact .inr (by rw [haux]; exact decide_eq_false (not_le_of_gt hneg))

/-- The watchdog of machine `m` is fed and the command completes OK; RESULT tells whether the machine follows another source, and whether it
is in FALLBACK (R127, R128). -/
def State.setpointFed (s : State) (m : Fin 2) (c : Waiting) : State :=
  let u := s.wdFeed m
  u.finish c stOk (b2n (u.mach[m].src.fallback || u.mach[m].src.src != 0) + at_ (b2n u.mach[m].src.fallback) 1)

/-- What SETPOINT does for machine `m` once it has begun with legal arguments. -/
def setpointBody (q : CmdQ) (m : Fin 2) (s : State) (c : Waiting) : State :=
  if s.notOwner then s.finish c stRefusedState 0
  else (if q.arg0.getLsbD 1 then s else s.setHost m (q.arg1.extractLsb' 0 32) (q.arg1.extractLsb' 32 32)).setpointFed m c

section
variable {s : State} {q : CmdQ} {m : Fin 2} (hres : bits q.arg0 31 2 = 0) (hm : m = if q.arg0.getLsbD 0 then 1 else 0)
  (hen : s.machEn m = true)
include hres hm hen

theorem exec_setpoint_of_machine :
    exec (.setpoint q) s = s.runCmd q 0x10 (q.arg0.getLsbD 1 || demandLegal q) (setpointBody q m) := by
  subst hm
  change execSetpoint q s = _
  simp only [execSetpoint, hres, hen, demandLegal]
  cases f32 (q.arg1.extractLsb' 32 32) <;> rfl

variable (hbegins : Begins s q)
include hbegins

theorem exec_setpoint_of_illegal (hkeep : q.arg0.getLsbD 1 = false) (hbad : demandLegal q = false) :
    exec (.setpoint q) s = .next (done s q 0x10 stBadOperand 0) := by
  rw [exec_setpoint_of_machine hres hm hen, hkeep, hbad]
  exact runCmd_of_bad_args hbegins _ _

theorem exec_setpoint_of_good_args (hok : (q.arg0.getLsbD 1 || demandLegal q) = true) :
    exec (.setpoint q) s = .next (setpointBody q m (taken s q) (s.ctx q 0x10)) := by
  rw [exec_setpoint_of_machine hres hm hen, hok]
  exact runCmd_of_good_args hbegins _ _

theorem exec_setpoint_of_not_owner (hok : (q.arg0.getLsbD 1 || demandLegal q) = true) (hown : s.notOwner = true) :
    exec (.setpoint q) s = .next (done s q 0x10 stRefusedState 0) := by
  rw [exec_setpoint_of_good_args hres hm hen hbegins hok, setpointBody, State.takeCmd_notOwner, if_pos hown]

theorem exec_setpoint_of_keep (hkeep : q.arg0.getLsbD 1 = true) (hown : s.notOwner = false) :
    exec (.setpoint q) s = .next ((taken s q).setpointFed m (s.ctx q 0x10)) := by
  have hok : (q.arg0.getLsbD 1 || demandLegal q) = true := Bool.or_eq_true_iff.2 (.inl hkeep)
  rw [exec_setpoint_of_good_args hres hm hen hbegins hok, setpointBody, State.takeCmd_notOwner, if_neg (Bool.eq_false_iff.1 hown),
    if_pos hkeep]

theorem exec_setpoint_of_demand (hkeep : q.arg0.getLsbD 1 = false) (hlegal : demandLegal q = true) (hown : s.notOwner = false) :
    exec (.setpoint q) s =
      .next (((taken s q).setHost m (q.arg1.extractLsb' 0 32) (q.arg1.extractLsb' 32 32)).setpointFed m (s.ctx q 0x10)) := by
  have hok : (q.arg0.getLsbD 1 || demandLegal q) = true := Bool.or_eq_true_iff.2 (.inr hlegal)
  rw [exec_setpoint_of_good_args hres hm hen hbegins hok, setpointBody, State.takeCmd_notOwner, if_neg (Bool.eq_false_iff.1 hown),
    if_neg (Bool.eq_false_iff.1 hkeep)]

end

end Sys2Proof.Machine

namespace Sys2Proof.Claims
open Sys2Proof Sys2Proof.Machine

/-- Settles O20: the demand is checked unless KEEPALIVE is set; then the owner stores what is new and feeds the watchdog. -/
theorem setpointRule : Obligations.SetpointRule := by
  intro s q m hbegins hres hm hen
  refine ⟨fun hkeep hbad => ?_, fun hown hkeep => ?_, fun hown hkeep => ?_, fun hown hkeep hnum => ?_⟩
  · exact exec_setpoint_of_illegal hres hm hen hbegins hkeep (demandLegal_eq_false hbad)
  · exact exec_setpoint_of_not_owner hres hm hen hbegins (Bool.or_eq_true_iff.2 (.inl hkeep)) hown
  · exact exec_setpoint_of_keep hres hm hen hbegins hkeep hown
  · obtain ⟨_, _, hsp, haux, hb⟩ := hnum
    exact exec_setpoint_of_demand hres hm hen hbegins hkeep (demandLegal_of_numbers hsp haux hb) hown

end Sys2Proof.Claims
end

section
/-! SUPPORT. What a step keeps: every command keeps the invariants of Safety, by the lemma of its own meaning. -/
namespace Sys2Proof.Machine

/-- Every command keeps the queue and the invariants, and each but OTP_BURN_ROUND the fuses too. -/
theorem keepsO_exec {kb : Bool} {k0 : State} (c : Instr) (s : State) (hburn : ∀ n m t, c = .otpBurnRound n m t → kb = false)
    (hk : Keeps kb k0 s) : KeepsO kb k0 (exec c s) := by
  cases c with
  | nop q => exact keepsO_execNop q s hk
  | badOpcode q opc => exact keepsO_execBadOpcode q opc s hk
  | fence q => exact keepsO_execFence q s hk
  | suspend q => exact keepsO_execSuspend q s hk
  | resume q => exact keepsO_execResume q s hk
  | cancel q => exact keepsO_execCancel q s hk
  | nodeRead q => exact keepsO_execNodeRead q s hk
  | nodeWrite q => exact keepsO_execNodeWrite q s hk
  | nodeBlockLoad q => exact keepsO_execNodeBlockLoad q s hk
  | nodeBlockStore q => exact keepsO_execNodeBlockStore q s hk
  | blockChunkDone slot data t => exact keepsO_execBlockChunkDone slot data t s hk
  | bankSwap q => exact keepsO_execBankSwap q s hk
  | bankSwapped => exact keepsO_execBankSwapped s hk
  | setpoint q => exact keepsO_execSetpoint q s hk
  | modeSelect q => exact keepsO_execModeSelect q s hk
  | modeSelectJudged => exact keepsO_execModeSelectJudged s hk
  | driveStart q => exact keepsO_execDriveStart q s hk
  | driveStartActs => exact keepsO_execDriveStartActs s hk
  | driveStop q => exact keepsO_execDriveStop q s hk
  | driveStopActs => exact keepsO_execDriveStopActs s hk
  | reverse q => exact keepsO_execReverse q s hk
  | reverseJudged => exact keepsO_execReverseJudged s hk
  | safeState q => exact keepsO_execSafeState q s hk
  | safeApplied => exact keepsO_execSafeApplied s hk
  | faultClear q => exact keepsO_execFaultClear q s hk
  | faultCleared => exact keepsO_execFaultCleared s hk
  | pgDirect q => exact keepsO_execPgDirect q s hk
  | directEnter => exact keepsO_execDirectEnter s hk
  | directLeave => exact keepsO_execDirectLeave s hk
  | directBoundary => exact keepsO_execDirectBoundary s hk
  | commit t => exact keepsO_execCommit t s hk
  | adcCalibrate q => exact keepsO_execAdcCalibrate q s hk
  | calPhaseEnd vals t => exact keepsO_execCalPhaseEnd vals t s hk
  | resumeLimitExpiry slot t => exact keepsO_execResumeLimitExpiry slot t s hk
  | adcUrgent q => exact keepsO_execAdcUrgent q s hk
  | traceArm q => exact keepsO_execTraceArm q s hk
  | traceArmed => exact keepsO_execTraceArmed s hk
  | traceStop q => exact keepsO_execTraceStop q s hk
  | stopped => exact keepsO_execStopped s hk
  | otpProgram q data => exact keepsO_execOtpProgram q data s hk
  | otpBurnRound normal margin t =>
    obtain rfl := hburn _ _ _ rfl
    exact keepsO_execOtpBurnRound normal margin t s hk
  | otpLock q => exact keepsO_execOtpLock q s hk
  | otpMarginScan q => exact keepsO_execOtpMarginScan q s hk
  | scanRegionDone t => exact keepsO_execScanRegionDone t s hk
  | lifecycleAdvance q => exact keepsO_execLifecycleAdvance q s hk
  | otpCmdRead t => exact keepsO_execOtpCmdRead t s hk
  | otpCmdMargin t => exact keepsO_execOtpCmdMargin t s hk
  | otpCmdProgram t => exact keepsO_execOtpCmdProgram t s hk
  | gleanerScanDue t => exact keepsO_execGleanerScanDue t s hk
  | attest q nonce => exact keepsO_execAttest q nonce s hk
  | attestReportDone t => exact keepsO_execAttestReportDone t s hk
  | selfTest q => exact keepsO_execSelfTest q s hk
  | selfTestBlockDone conv win chan t => exact keepsO_execSelfTestBlockDone conv win chan t s hk
  | linkTest q => exact keepsO_execLinkTest q s hk
  | linkTestDone link errs hdrBad digestOk t => exact keepsO_execLinkTestDone link errs hdrBad digestOk t s hk
  | checkerLocked link t => exact keepsO_execCheckerLocked link t s hk
  | checkerLockLost link errs t => exact keepsO_execCheckerLockLost link errs t s hk
  | pcieLoopbackGo t => exact keepsO_execPcieLoopbackGo t s hk
  | pcieLoopbackDone errs => exact keepsO_execPcieLoopbackDone errs s hk
  | pairHandover q => exact keepsO_execPairHandover q s hk
  | handoverReplyDeadline => exact keepsO_execHandoverReplyDeadline s hk
  | handoverClaimRelease => exact keepsO_execHandoverClaimRelease s hk
  | handoverDone => exact keepsO_execHandoverDone s hk
  | pairRejoin q => exact keepsO_execPairRejoin q s hk
  | rejoinPhaseEnd t => exact keepsO_execRejoinPhaseEnd t s hk
  | rejoinPhaseTimeout => exact keepsO_execRejoinPhaseTimeout s hk
  | powerState q => exact keepsO_execPowerState q s hk
  | powerChanged => exact keepsO_execPowerChanged s hk
  | powerTransitDone t => exact keepsO_execPowerTransitDone t s hk
  | deepEntry t => exact keepsO_execDeepEntry t s hk
  | wake t => exact keepsO_execWake t s hk
  | wakeTimerExpiry t => exact keepsO_execWakeTimerExpiry t s hk
  | cqTailDoorbell n v t => exact keepsO_execCqTailDoorbell n v t s hk
  | headDoorbell n v t => exact keepsO_execHeadDoorbell n v t s hk
  | commandFetchFail n cause t => exact keepsO_execCommandFetchFail n cause t s hk
  | ringEnable n v t => exact keepsO_execRingEnable n v t s hk
  | ringDisable n v t => exact keepsO_execRingDisable n v t s hk
  | ringReset n v t => exact keepsO_execRingReset n v t s hk
  | eventDrain t => exact keepsO_execEventDrain t s hk
  | fenceMark n t => exact keepsO_execFenceMark n t s hk
  | moderationTimer n t => exact keepsO_execModerationTimer n t s hk
  | pciePowerState d3hot t => exact keepsO_execPciePowerState d3hot t s hk
  | linkSpeedChange gen t => exact keepsO_execLinkSpeedChange gen t s hk
  | linkDown t => exact keepsO_execLinkDown t s hk
  | streamSlotWrite slot v t => exact keepsO_execStreamSlotWrite slot v t s hk
  | lowPartRead port off t => exact keepsO_execLowPartRead port off t s hk
  | highPartRead port off t => exact keepsO_execHighPartRead port off t s hk
  | registerWrite port off v wide full t => exact keepsO_execRegisterWrite port off v wide full t s hk
  | healthClear v t => exact keepsO_execHealthClear v t s hk
  | calTagWrite v t => exact keepsO_execCalTagWrite v t s hk
  | calFactorWrite f v t => exact keepsO_execCalFactorWrite f v t s hk
  | windowConfigWrite n v t => exact keepsO_execWindowConfigWrite n v t s hk
  | glkCmdGo g v t => exact keepsO_execGlkCmdGo g v t s hk
  | cmdFail g => exact keepsO_execCmdFail g s hk
  | bootGo t => exact keepsO_execBootGo t s hk
  | firmwareWindowWrite off v t => exact keepsO_execFirmwareWindowWrite off v t s hk
  | qspiImageRead first second t => exact keepsO_execQspiImageRead first second t s hk
  | firmwareRunning t => exact keepsO_execFirmwareRunning t s hk
  | serviceReadFrame index data t => exact keepsO_execServiceReadFrame index data t s hk
  | serviceWriteFrame index data t => exact keepsO_execServiceWriteFrame index data t s hk
  | serviceFrameError clocks t => exact keepsO_execServiceFrameError clocks t s hk
  | svcSafe v t => exact keepsO_execSvcSafe v t s hk
  | svcWdEnable v t => exact keepsO_execSvcWdEnable v t s hk
  | svcWdKick v t => exact keepsO_execSvcWdKick v t s hk
  | wdiEdge t => exact keepsO_execWdiEdge t s hk
  | serviceWatchdogExpiry t => exact keepsO_execServiceWatchdogExpiry t s hk
  | svcAttestGo t => exact keepsO_execSvcAttestGo t s hk
  | por t => exact keepsO_execPor t s hk
  | bor rails t => exact keepsO_execBor rails t s hk
  | pinReset t => exact keepsO_execPinReset t s hk
  | softReset port key t => exact keepsO_execSoftReset port key t s hk
  | flr kind t => exact keepsO_execFlr kind t s hk
  | resetRelease straps t => exact keepsO_execResetRelease straps t s hk
  | otpShadowLoad t => exact keepsO_execOtpShadowLoad t s hk
  | railsSettled t => exact keepsO_execRailsSettled t s hk
  | mgmtWatchdogExpiry t => exact keepsO_execMgmtWatchdogExpiry t s hk
  | lockstepMismatch correctable t => exact keepsO_execLockstepMismatch correctable t s hk
  | mgrResumed t => exact keepsO_execMgrResumed t s hk
  | warnSet rail t => exact keepsO_execWarnSet rail t s hk
  | warnClear rail t => exact keepsO_execWarnClear rail t s hk
  | supplyStop => exact keepsO_execSupplyStop s hk
  | stopTmaxExpiry => exact keepsO_execStopTmaxExpiry s hk
  | stopDone t => exact keepsO_execStopDone t s hk
  | clockFault src t => exact keepsO_execClockFault src t s hk
  | fpBoundary => exact keepsO_execFpBoundary s hk
  | engOverrun w => exact keepsO_execEngOverrun w s hk
  | spBoundary => exact keepsO_execSpBoundary s hk
  | mcOverrun m => exact keepsO_execMcOverrun m s hk
  | housekeepingRound mgt ctl => exact keepsO_execHousekeepingRound mgt ctl s hk
  | scheduledEdge => exact keepsO_execScheduledEdge s hk
  | pendingChangeApplied ch => exact keepsO_execPendingChangeApplied ch s hk
  | commutation w => exact keepsO_execCommutation w s hk
  | tdDecayEnd w t => exact keepsO_execTdDecayEnd w t s hk
  | sampleResult c raw beyond2 track => exact keepsO_execSampleResult c raw beyond2 track s hk
  | floatingPhaseSample w raw track => exact keepsO_execFloatingPhaseSample w raw track s hk
  | missed w t => exact keepsO_execMissed w t s hk
  | listenConversion w uPrev uNext v wPrev wNext track => exact keepsO_execListenConversion w uPrev uNext v wPrev wNext track s hk
  | catchListenExpiry m => exact keepsO_execCatchListenExpiry m s hk
  | probePulseEnd m t => exact keepsO_execProbePulseEnd m t s hk
  | probeSlotEnd m t => exact keepsO_execProbeSlotEnd m t s hk
  | startFail m => exact keepsO_execStartFail m s hk
  | locked m => exact keepsO_execLocked m s hk
  | rotorLost m => exact keepsO_execRotorLost m s hk
  | lowRestart m => exact keepsO_execLowRestart m s hk
  | lostDecayDone m t => exact keepsO_execLostDecayDone m t s hk
  | ascSettleEnd m => exact keepsO_execAscSettleEnd m s hk
  | ascWindowEnd w => exact keepsO_execAscWindowEnd w s hk
  | reacquired m => exact keepsO_execReacquired m s hk
  | hallEdge m levels t => exact keepsO_execHallEdge m levels t s hk
  | hallFault m => exact keepsO_execHallFault m s hk
  | encoderEdge m up t => exact keepsO_execEncoderEdge m up t s hk
  | encZEdge m t => exact keepsO_execEncZEdge m t s hk
  | encFault m => exact keepsO_execEncFault m s hk
  | pspMeasurement m period high t => exact keepsO_execPspMeasurement m period high t s hk
  | setpointInput m psp => exact keepsO_execSetpointInput m psp s hk
  | setpointMismatch m => exact keepsO_execSetpointMismatch m s hk
  | hostWatchdogExpiry m => exact keepsO_execHostWatchdogExpiry m s hk
  | winnerChanged m => exact keepsO_execWinnerChanged m s hk
  | adaptWindowClose w => exact keepsO_execAdaptWindowClose w s hk
  | decelHoldLong m => exact keepsO_execDecelHoldLong m s hk
  | dcOvAsc m => exact keepsO_execDcOvAsc m s hk
  | vdcUv x => exact keepsO_execVdcUv x s hk
  | chopperCheckConversion c raw track => exact keepsO_execChopperCheckConversion c raw track s hk
  | chopperOpen c => exact keepsO_execChopperOpen c s hk
  | chopperShort c => exact keepsO_execChopperShort c s hk
  | windowOut n e => exact keepsO_execWindowOut n e s hk
  | windowIn n e => exact keepsO_execWindowIn n e s hk
  | tripEscalated g => exact keepsO_execTripEscalated g s hk
  | chpEscalated c => exact keepsO_execChpEscalated c s hk
  | tripRate w => exact keepsO_execTripRate w s hk
  | fltNLow g stays t => exact keepsO_execFltNLow g stays t s hk
  | estop stays t => exact keepsO_execEstop stays t s hk
  | yieldInRise t => exact keepsO_execYieldInRise t s hk
  | collisionReclaim t => exact keepsO_execCollisionReclaim t s hk
  | collisionBackoffEnd t => exact keepsO_execCollisionBackoffEnd t s hk
  | plausibility w => exact keepsO_execPlausibility w s hk
  | plStarved w => exact keepsO_execPlStarved w s hk
  | followingError m => exact keepsO_execFollowingError m s hk
  | telemetryFrame g frame midOk t => exact keepsO_execTelemetryFrame g frame midOk t s hk
  | gateMismatch sw => exact keepsO_execGateMismatch sw s hk
  | modTsd l => exact keepsO_execModTsd l s hk
  | glkLost g t => exact keepsO_execGlkLost g t s hk
  | glkError g => exact keepsO_execGlkError g s hk
  | gateLinkFrameSend g t => exact keepsO_execGateLinkFrameSend g t s hk
  | thermalReading counts => exact keepsO_execThermalReading counts s hk
  | tw1Set z => exact keepsO_execTw1Set z s hk
  | tw1Clear z => exact keepsO_execTw1Clear z s hk
  | tsd z => exact keepsO_execTsd z s hk
  | tsdAlarmRelease z => exact keepsO_execTsdAlarmRelease z s hk
  | tsdTmaxExpiry => exact keepsO_execTsdTmaxExpiry s hk
  | shutdownDone t => exact keepsO_execShutdownDone t s hk
  | exitMet => exact keepsO_execExitMet s hk
  | trackUpdate p => exact keepsO_execTrackUpdate p s hk
  | pairDivergeRun p => exact keepsO_execPairDivergeRun p s hk
  | referenceCheck p even odd => exact keepsO_execReferenceCheck p even odd s hk
  | memberFailure p odd stuck t => exact keepsO_execMemberFailure p odd stuck t s hk
  | housekeepingConversion chan raw track => exact keepsO_execHousekeepingConversion chan raw track s hk
  | traceTrigger c => exact keepsO_execTraceTrigger c s hk
  | traceWindowComplete c => exact keepsO_execTraceWindowComplete c s hk
  | traceQuadDelivery q => exact keepsO_execTraceQuadDelivery q s hk
  | traceDone c => exact keepsO_execTraceDone c s hk
  | nodeScrub id uncorrectable t => exact keepsO_execNodeScrub id uncorrectable t s hk
  | heartbeatSend t => exact keepsO_execHeartbeatSend t s hk
  | syncSend t => exact keepsO_execSyncSend t s hk
  | baton frame t => exact keepsO_execBaton frame t s hk
  | batonAdoption => exact keepsO_execBatonAdoption s hk
  | divergence m => exact keepsO_execDivergence m s hk
  | heartbeat frame t => exact keepsO_execHeartbeat frame t s hk
  | sync frame t => exact keepsO_execSync frame t s hk
  | pacerCorrection t => exact keepsO_execPacerCorrection t s hk
  | alignmentAcquired => exact keepsO_execAlignmentAcquired s hk
  | alignLost => exact keepsO_execAlignLost s hk
  | requestJoin frame t => exact keepsO_execRequestJoin frame t s hk
  | requestHandover frame t => exact keepsO_execRequestHandover frame t s hk
  | requestAttestNonce frame t => exact keepsO_execRequestAttestNonce frame t s hk
  | reply frame t => exact keepsO_execReply frame t s hk
  | attestFrame frame t => exact keepsO_execAttestFrame frame t s hk
  | relayClaim frame t => exact keepsO_execRelayClaim frame t s hk
  | relayYield frame t => exact keepsO_execRelayYield frame t s hk
  | frameDiscard frame wellFramed t => exact keepsO_execFrameDiscard frame wellFramed t s hk
  | partnerLost t => exact keepsO_execPartnerLost t s hk
  | takeover => exact keepsO_execTakeover s hk
  | claimBlocked t => exact keepsO_execClaimBlocked t s hk
  | laneFail lane t => exact keepsO_execLaneFail lane t s hk
  | fitness => exact keepsO_execFitness s hk
  | extest t => exact keepsO_execExtest t s hk
  | idcode t => exact keepsO_execIdcode t s hk
  | samplePreload preload v t => exact keepsO_execSamplePreload preload v t s hk
  | highz t => exact keepsO_execHighz t s hk
  | clamp t => exact keepsO_execClamp t s hk
  | bypass t => exact keepsO_execBypass t s hk
  | vendorTestInstruction code t => exact keepsO_execVendorTestInstruction code t s hk
  | tapInstructionExit t => exact keepsO_execTapInstructionExit t s hk
  | yieldInFall t => exact keepsO_execYieldInFall t s hk
  | dmaError n cause t => exact keepsO_execDmaError n cause t s hk
  | busMasterEnable on t => exact keepsO_execBusMasterEnable on t s hk
  | laneBlockLock lane t => exact keepsO_execLaneBlockLock lane t s hk

/-- A step keeps the invariants: the queue is in none of them, and the command taken from it keeps them all. -/
theorem step_keeps_inv {s t : State} (hs : s.Inv) (ht : step s = .next t) : t.Inv := by
  unfold step at ht
  split at ht
  · cases ht
    exact hs
  · next c rest _ =>
    have hrest : State.Inv { s with pending := rest } := ⟨hs.legs, hs.nodes, hs.image, hs.regs, hs.mem, hs.hist, hs.held, hs.fuses⟩
    have hkeeps := keepsO_exec (kb := false) c { s with pending := rest } (fun _ _ _ _ => rfl) (Keeps.refl _ _)
    exact (hkeeps.next t ht).inv hrest

end Sys2Proof.Machine

namespace Sys2Proof.Claims
open Sys2Proof Sys2Proof.Machine

/-- Settles O2: a step keeps the whole invariant, of which it is one part. -/
theorem stepKeepsLegs : Obligations.StepKeepsLegs :=
  fun _ _ hs ht => (step_keeps_inv hs ht).legs

end Sys2Proof.Claims
end

section
/-! SUPPORT. The judged faults (R169, R182, R239 to R245): what each of their rows does, by whether its judgement stands, and when a run of
cut periods escalates. -/
namespace Sys2Proof.Machine

/-! ### Sets: PLAUSIBILITY, PL_STARVED, TRIP_RATE (R239, R240, R242) -/

section
variable {s : State} {w : Fin 8}

theorem exec_plausibility_of_due (hdue : s.sets[w].plDue = true) :
    exec (.plausibility w) s = .next ((s.modSet w fun x => { x with plDue := false, plCnt := 0 }).faultSet w 2 w
      (0x82 + at_ (b2n s.sets[w].plNeg) 8) s.lastFp) :=
  if_pos hdue

theorem exec_plausibility_of_not_due (hno : s.sets[w].plDue = false) : exec (.plausibility w) s = .next s :=
  if_neg (Bool.eq_false_iff.1 hno)

theorem exec_plStarved_of_starved (hdrives : s.sets[w].driving = true) (hlocked : s.mach[machOf w].trk.state = .locked)
    (hfirst : s.sets[w].plRaised = false) (hlong : s.sets[w].plSince + 100 * ms1 ≤ s.lastFp) :
    exec (.plStarved w) s = .next ((s.modSet w fun x => { x with plRaised := true }).raiseF 2 w 1 0x83 s.lastFp) :=
  if_pos (by rw [hdrives, hlocked, hfirst, decide_eq_true hlong]; rfl)

theorem exec_plStarved_of_raised (hraised : s.sets[w].plRaised = true) : exec (.plStarved w) s = .next s :=
  if_neg (by rw [hraised, Bool.not_true, Bool.and_false, Bool.false_and]; exact Bool.false_ne_true)

theorem exec_tripRate_of_reached (hlimit : s.rf regSupTripCfg 0 7 0 ≤ s.sets[w].trips) (hsome : s.sets[w].trips ≠ 0)
    (hfirst : s.sets[w].tripHit = false) :
    exec (.tripRate w) s = .next ((s.modSet w fun x => { x with tripHit := true }).faultSet w 2 w 0x85 s.time) :=
  if_pos ⟨hlimit, hsome, hfirst⟩

theorem exec_tripRate_of_not
    (hno : s.sets[w].trips < s.rf regSupTripCfg 0 7 0 ∨ s.sets[w].trips = 0 ∨ s.sets[w].tripHit = true) :
    exec (.tripRate w) s = .next s := by
  refine if_neg fun ⟨hlimit, hsome, hfirst⟩ => ?_
  rcases hno with hbelow | hzero | hhit
  · exact Nat.not_le_of_lt hbelow hlimit
  · exact hsome hzero
  · exact Bool.false_ne_true (hfirst.symm.trans hhit)

end

/-! ### Groups: the run of cut periods and TRIP_ESCALATED (R169) -/

section
variable {s : State} {g : Fin 8}

/-- A cut period whose run reaches TRIP_ESC releases and latches its group at the boundary. -/
theorem State.endCut_of_reached (hcut : s.groups[g].cutSeen = true)
    (hesc : escReached (s.rf regPgnSgCfg g 7 0) (s.groups[g].cutRun + 1) s.groups[g].hiz = true) :
    s.endCut g = ((s.rcount regPgnSgCount g 15 0 1).modGroup g fun y =>
      { y with cutRun := s.groups[g].cutRun + 1, cutSeen := false, cutNow := false, escDue := true }).hizLatch g 3 0 s.time := by
  simp only [State.endCut, hcut, hesc, if_true, Bool.or_true]
  rfl

theorem exec_tripEscalated_of_due (hdue : s.groups[g].escDue = true) :
    let u := (s.rcount regPgnSgCount g 31 24 1).modGroup g fun y => { y with escDue := false }
    exec (.tripEscalated g) s = .next (u.faultSet g 2 g (0x62 + at_ (min s.groups[g].cutRun 255) 8) u.lastFp) :=
  if_pos hdue

theorem exec_tripEscalated_of_not_due (hno : s.groups[g].escDue = false) : exec (.tripEscalated g) s = .next s :=
  if_neg (Bool.eq_false_iff.1 hno)

end

/-! ### Choppers: the run of cut periods, CHP_ESCALATED, CHOPPER_OPEN, CHOPPER_SHORT (R182, R244) -/

section
variable {s : State} {c : Fin 2}

/-- A cut period whose run reaches ESC releases and latches its chopper at the boundary. -/
theorem State.endChopCut_of_reached (hcut : s.chops[c].cutSeen = true)
    (hesc : escReached (s.rf regPgnPgkCfg c 15 8) (s.chops[c].run + 1) s.chops[c].latch = true) :
    s.endChopCut c = (s.rcount regPgnPgkCount c 15 0 1).modChop c fun y =>
      { y with run := s.chops[c].run + 1, cutSeen := false, cutNow := false, escDue := true, latch := true,
               lowAt := y.ch.relAt s.time y.lowAt, ch := { y.ch.release s.time with blocked := false } } := by
  simp only [State.endChopCut, hcut, hesc, if_true, Bool.or_true]

theorem exec_chpEscalated_of_due (hdue : s.chops[c].escDue = true) :
    let u := s.modChop c fun y => { y with escDue := false, state := 3 }
    exec (.chpEscalated c) s = .next ((u.rcount regPgnPgkCount c 31 24 1).raise 1 8 3 2 (0x69 + at_ c.val 8) u.lastFp) :=
  if_pos hdue

theorem exec_chpEscalated_of_not_due (hno : s.chops[c].escDue = false) : exec (.chpEscalated c) s = .next s :=
  if_neg (Bool.eq_false_iff.1 hno)

theorem exec_chopperOpen_of_reached (hlimit : s.rf regSupChpCfg c 11 8 ≤ s.chops[c].openCnt) (hgood : s.chops[c].state = 0) :
    exec (.chopperOpen c) s =
      .next ((s.modChop c fun x => { x with state := 1 }).raise 1 8 6 2 (0x8E + at_ c.val 8) s.time) :=
  if_pos ⟨hlimit, hgood⟩

theorem exec_chopperOpen_of_below (hbelow : s.chops[c].openCnt < s.rf regSupChpCfg c 11 8) : exec (.chopperOpen c) s = .next s :=
  if_neg fun ⟨hlimit, _⟩ => Nat.not_le_of_lt hbelow hlimit

/-- A short chopper asks for the brake, and each machine of its link is faulted and goes to its safe state. -/
theorem exec_chopperShort_of_reached (hlimit : s.rf regSupChpCfg c 11 8 ≤ s.chops[c].shortCnt) (hnew : s.chops[c].state ≠ 2) :
    let u := (s.modChop c fun x => { x with state := 2 }).mbrk true
    let v := (u.confMach.filter fun m => (u.vdcSel m).val == s.rf regSupChpCfg c 0 0).foldl (fun (s : State) m =>
      (s.modMach m fun y => { y with sup := { y.sup with fault := true } }).armSafe (.mach m) 0 0x8F false s.time) u
    exec (.chopperShort c) s = .next (v.raise 1 8 6 4 (0x8F + at_ c.val 8) v.time) :=
  if_pos ⟨hlimit, hnew⟩

theorem exec_chopperShort_of_below (hbelow : s.chops[c].shortCnt < s.rf regSupChpCfg c 11 8) : exec (.chopperShort c) s = .next s :=
  if_neg fun ⟨hlimit, _⟩ => Nat.not_le_of_lt hbelow hlimit

end

/-! ### Machines and links: FOLLOWING_ERROR, DC_OV_ASC, VDC_UV (R241, R243, R245) -/

section
variable {s : State} {m : Fin 2}

theorem exec_followingError_of_due (hdue : s.mach[m].sup.feDue = true) :
    exec (.followingError m) s =
      .next ((s.modMach m fun x => { x with sup := { x.sup with feDue := false, feT := 0 } }).faultMach m 3 m 3
        (0x84 + at_ (b2n s.mach[m].sup.feNeg) 8) s.lastSp) :=
  if_pos hdue

theorem exec_dcOvAsc_of_stays {t0 : Time} (hsince : s.mach[m].sup.ov2Since = some t0) (hen : s.machEn m = true)
    (hlong : t0 + 200000 * s.rf regSupVdcCfg (s.vdcSel m) 15 0 ≤ s.lastFp) (hfirst : s.mach[m].sup.ovRaised = false) :
    let u := s.modMach m fun x => { x with sup := { x.sup with fault := true, ovRaised := true } }
    exec (.dcOvAsc m) s = .next ((u.armSafe (.mach m) 2 0x8C true s.lastFp).raiseF 3 m 4 0x8C s.lastFp) := by
  change execDcOvAsc m s = _
  simp only [execDcOvAsc, hsince]
  exact if_pos ⟨hen, hlong, hfirst⟩

theorem exec_dcOvAsc_of_not (hno : s.mach[m].sup.ov2Since = none ∨ s.mach[m].sup.ovRaised = true) :
    exec (.dcOvAsc m) s = .next s := by
  change execDcOvAsc m s = _
  unfold execDcOvAsc
  split
  · next t0 hsince =>
    refine if_neg fun ⟨_, _, hfirst⟩ => ?_
    rcases hno with hnone | hraised
    · exact Option.some_ne_none t0 (hsince.symm.trans hnone)
    · exact Bool.false_ne_true (hfirst.symm.trans hraised)
  · rfl

variable {x : Fin 2}

/-- An undervoltage of link `x` faults each machine of the link and sends it to its safe state. -/
theorem exec_vdcUv_of_due (hdue : s.sup.uvDue[x] = true) :
    let u : State := { s with sup := { s.sup with uvDue := s.sup.uvDue.set x false, uvRun := s.sup.uvRun.set x 0 } }
    let v := (u.confMach.filter fun m => u.vdcSel m == x).foldl (fun (s : State) m =>
      (s.modMach m fun y => { y with sup := { y.sup with fault := true } }).armSafe (.mach m) 0 0x8D false s.lastFp) u
    exec (.vdcUv x) s = .next (v.raise 1 8 6 4 (0x8D + at_ x.val 8) v.lastFp) :=
  if_pos hdue

theorem exec_vdcUv_of_not_due (hno : s.sup.uvDue[x] = false) : exec (.vdcUv x) s = .next s :=
  if_neg (Bool.eq_false_iff.1 hno)

end

end Sys2Proof.Machine

namespace Sys2Proof.Claims
open Sys2Proof Sys2Proof.Machine

/-- Settles O54: each row by whether its judgement stands, and the two boundary runs by whether they reach their limit. -/
theorem judgedFaultsRule : Obligations.JudgedFaultsRule := by
  refine ⟨fun s w x hx => ?_, fun s g x hx => ?_, fun s c x hx => ?_, fun s m x hx => ?_, fun s x => ?_⟩
  · subst hx
    exact ⟨exec_plausibility_of_due, exec_plausibility_of_not_due, exec_plStarved_of_starved, exec_plStarved_of_raised,
      exec_tripRate_of_reached, exec_tripRate_of_not⟩
  · subst hx
    exact ⟨State.endCut_of_reached, exec_tripEscalated_of_due, exec_tripEscalated_of_not_due⟩
  · subst hx
    exact ⟨State.endChopCut_of_reached, exec_chpEscalated_of_due, exec_chpEscalated_of_not_due, exec_chopperOpen_of_reached,
      exec_chopperOpen_of_below, exec_chopperShort_of_reached, exec_chopperShort_of_below⟩
  · subst hx
    exact ⟨exec_followingError_of_due, fun _ => exec_dcOvAsc_of_stays, exec_dcOvAsc_of_not⟩
  · exact ⟨exec_vdcUv_of_due, exec_vdcUv_of_not_due⟩

end Sys2Proof.Claims
end

section
/-! SUPPORT. Direct mode of the pulse generator (R173 to R178): what PG_DIRECT does once it begins, by ownership, by ENTER and by the
timebase; its entry and its leaving at their boundary, and a boundary with no commit pending. -/
namespace Sys2Proof.Machine
open Sys2Proof Sys2Proof.Claims

/-! ### PG_DIRECT (R173) -/

/-- The groups `gs` may enter direct mode: the device is started and in RUN, each group is OFF and not latched, and the timebase runs or the
staged set is usable. -/
def State.mayEnterDirect (s : State) (gs : List (Fin 8)) : Bool :=
  s.started && s.pwr == 0 && gs.all (fun g => s.rowOf g == .off && !s.groups[g].hiz) && (s.directMask != 0 || s.stagedOk)

theorem State.mayEnterDirect_of {s : State} {gs : List (Fin 8)} (hstarted : s.started = true) (hrun : s.pwr = 0)
    (hoff : gs.all (fun g => s.rowOf g == .off && !s.groups[g].hiz) = true) (hbase : s.directMask ≠ 0 ∨ s.stagedOk = true) :
    s.mayEnterDirect gs = true := by
  have hbase : (s.directMask != 0 || s.stagedOk) = true := Bool.or_eq_true_iff.2 (hbase.imp_left bne_iff_ne.2)
  rw [State.mayEnterDirect, hstarted, hrun, hoff, hbase]
  rfl

theorem State.mayEnterDirect_eq_false {s : State} {gs : List (Fin 8)}
    (hno : s.started = false ∨ s.pwr ≠ 0 ∨ gs.all (fun g => s.rowOf g == .off && !s.groups[g].hiz) = false ∨
      s.directMask = 0 ∧ s.stagedOk = false) : s.mayEnterDirect gs = false := by
  simp only [State.mayEnterDirect, Bool.and_eq_false_iff, Bool.or_eq_false_iff]
  rcases hno with h | h | h | ⟨hmask, hstaged⟩
  · exact .inl (.inl (.inl h))
  · exact .inl (.inl (.inr (beq_eq_false_iff_ne.2 h)))
  · exact .inl (.inr h)
  · exact .inr ⟨bne_eq_false_iff_eq.2 hmask, hstaged⟩

/-- What PG_DIRECT does once it has begun with legal arguments. -/
def pgDirectBody (gs : List (Fin 8)) (s : State) (c : Waiting) : State :=
  if s.notOwner then s.finish c stRefusedState 0
  else if c.arg0.getLsbD 8 then
    if s.mayEnterDirect gs then s.awaitAt c (s.dirDue s.time) 1 else s.finish c stRefusedState 0
  else if s.direct.next.isNone then s.finish c stOk s.directMask
  else s.awaitAt c (s.dirDue s.time) 0

section
variable {s : State} {q : CmdQ} (hbegins : Begins s q) (hres : bits q.arg0 31 9 = 0) (harg1 : q.arg1 = 0)
  (hsome : (groupsIn (bits q.arg0 7 0)).isEmpty = false) (hconf : (groupsIn (bits q.arg0 7 0)).all s.setConf = true)
include hbegins hres harg1 hsome hconf

theorem exec_pgDirect_of_good_args :
    exec (.pgDirect q) s = .next (pgDirectBody (groupsIn (bits q.arg0 7 0)) (taken s q) (s.ctx q 0x18)) := by
  have hok : (bits q.arg0 31 9 == 0 && q.arg1 == 0 && !(groupsIn (bits q.arg0 7 0)).isEmpty &&
      (groupsIn (bits q.arg0 7 0)).all s.setConf) = true := by
    rw [hres, harg1, hsome, hconf]
    rfl
  change s.runCmd q 0x18 _ (pgDirectBody (groupsIn (bits q.arg0 7 0))) = _
  rw [hok]
  exact runCmd_of_good_args hbegins _ _

theorem exec_pgDirect_of_not_owner (hown : s.notOwner = true) :
    exec (.pgDirect q) s = .next (done s q 0x18 stRefusedState 0) :=
  (exec_pgDirect_of_good_args hbegins hres harg1 hsome hconf).trans (congrArg _ (if_pos hown))

variable (hown : s.notOwner = false)
include hown

theorem exec_pgDirect_enter (henter : q.arg0.getLsbD 8 = true) :
    exec (.pgDirect q) s = .next (if (taken s q).mayEnterDirect (groupsIn (bits q.arg0 7 0)) then
      waits s q 0x18 ((taken s q).dirDue (taken s q).time) 1 else done s q 0x18 stRefusedState 0) :=
  (exec_pgDirect_of_good_args hbegins hres harg1 hsome hconf).trans
    (congrArg _ ((if_neg (Bool.eq_false_iff.1 hown)).trans (if_pos henter)))

theorem exec_pgDirect_leave (hleave : q.arg0.getLsbD 8 = false) :
    exec (.pgDirect q) s = .next (if s.direct.next.isNone then done s q 0x18 stOk (taken s q).directMask
      else waits s q 0x18 ((taken s q).dirDue (taken s q).time) 0) :=
  (exec_pgDirect_of_good_args hbegins hres harg1 hsome hconf).trans
    (congrArg _ ((if_neg (Bool.eq_false_iff.1 hown)).trans (if_neg (Bool.eq_false_iff.1 hleave))))

end

/-! ### DIRECT_ENTER, DIRECT_LEAVE, DIRECT_BOUNDARY (R174 to R176, R178) -/

section
variable {s : State} {c : Waiting} {b : Time}

theorem exec_directEnter_of_reached (hold : s.oldestDirect 1 = some c) (hact : s.dirAct c.due = some b) :
    let t := max s.time b
    let u := ((groupsIn (bits c.arg0 7 0)).foldl (fun s g => s.dirJoin g t) ((s.adv t).dirStart b)).retrip
    let v := u.raise 0x0A 8 3 0 (0x64 + at_ u.directMask 8) t
    exec .directEnter s = .next (v.finishW c stOk v.directMask) := by
  change execDirectEnter s = _
  simp only [execDirectEnter, hold, hact]

theorem exec_directLeave_of_reached (hold : s.oldestDirect 0 = some c) (hact : s.dirAct c.due = some b) :
    let t := max s.time b
    let u := ((groupsIn (bits c.arg0 7 0)).foldl (fun s g => s.dirDrop g t) (s.adv t)).dirStop
    let v := u.raise 0x0A 8 3 0 (0x65 + at_ u.directMask 8) t
    exec .directLeave s = .next (v.finishW c stOk v.directMask) := by
  change execDirectLeave s = _
  simp only [execDirectLeave, hold, hact]

/-- A boundary with no commit pending schedules the requests of the period that it starts, at the period in force. -/
theorem exec_directBoundary_of_no_commit (hnext : s.direct.next = some b) (hnone : s.direct.pending = none) :
    let u := s.adv (max s.time b)
    exec .directBoundary s = .next { u with
      edges := u.edges ++ u.dirEdges b, direct := { u.direct with cur := b, next := some (b + 2 * u.direct.period) } } := by
  have hnone' : (s.adv (max s.time b)).direct.pending = none := hnone
  change execDirectBoundary s = _
  simp only [execDirectBoundary, hnext, hnone']

end

end Sys2Proof.Machine

namespace Sys2Proof.Claims
open Sys2Proof Sys2Proof.Machine

/-- Settles O23: PG_DIRECT by ownership, ENTER and the timebase, its two acts at the boundary reached, and the boundary that follows. -/
theorem directModeRule : Obligations.DirectModeRule := by
  refine ⟨fun s q hbegins hres harg1 hsome hconf => ?_, fun s c b => exec_directEnter_of_reached, fun s c b => exec_directLeave_of_reached,
    fun s t hon => State.onRegs_of_on hon t _, fun s b hnext hnone => ?_⟩
  · refine ⟨exec_pgDirect_of_not_owner hbegins hres harg1 hsome hconf, fun hown henter => ?_, fun hown hleave hstill => ?_,
      fun hown hleave hruns => ?_⟩
    · have hexec := exec_pgDirect_enter hbegins hres harg1 hsome hconf hown henter
      exact ⟨fun hstarted hrun hoff hbase => hexec.trans (congrArg _ (if_pos (State.mayEnterDirect_of hstarted hrun hoff hbase))),
        fun hno => hexec.trans (congrArg _ (if_neg (Bool.eq_false_iff.1 (State.mayEnterDirect_eq_false hno))))⟩
    · have hexec := exec_pgDirect_leave hbegins hres harg1 hsome hconf hown hleave
      exact hexec.trans (congrArg _ (if_pos (Option.isNone_iff_eq_none.2 hstill)))
    · have hexec := exec_pgDirect_leave hbegins hres harg1 hsome hconf hown hleave
      exact hexec.trans (congrArg _ (if_neg (mt Option.isNone_iff_eq_none.1 hruns)))
  · exact ⟨_, exec_directBoundary_of_no_commit hnext hnone, rfl, rfl, rfl, max_eq_right (le_max_left _ _), rfl⟩

end Sys2Proof.Claims
end

section
/-! SUPPORT. The rows that are a write of one register (R445): they act while registers answer, and only then. -/
namespace Sys2Proof.Machine

/-- A write while registers do not answer is discarded (R445). -/
theorem State.onRegs_of_off {s : State} (hoff : s.regsOn = false) (t : Time) (f : State → State) : s.onRegs t f = .next (s.adv t) :=
  congrArg Host.Outcome.next (if_neg (Bool.eq_false_iff.1 hoff))

end Sys2Proof.Machine

namespace Sys2Proof.Claims
open Sys2Proof Sys2Proof.Machine

/-- Settles O24: every row is a register write at its instant, which acts while registers answer and is discarded otherwise. -/
theorem writeRowsReachTheirUnit : Obligations.WriteRowsReachTheirUnit := by
  intro s t v i n a p g
  refine ⟨fun hon => ?_, fun hoff => ?_⟩
  · have hrow (f : State → State) : s.onRegs t f = .next (f (s.adv t)) := State.onRegs_of_on hon t f
    exact ⟨hrow (·.writeSlot i v), hrow (·.writeCalTag v), hrow (·.writeFactor regAcqCalOfs a v), hrow (·.writeFactor regAcqCalGain a v),
      hrow fun u => (u.writeFactor regAcqCalSkew p v).reBound, hrow (·.writeWindow n v), hrow (·.writeGlkCmd g v),
      hrow (·.otpCmdRead false), hrow (·.otpCmdRead true), hrow State.otpCmdProgram, hrow (·.writeWord regGlbHealth 0 0 v),
      hrow State.pcieGo⟩
  · have hrow (f : State → State) : s.onRegs t f = .next (s.adv t) := State.onRegs_of_off hoff t f
    simp only [List.forall_mem_cons]
    exact ⟨hrow (·.writeSlot i v), hrow (·.writeCalTag v), hrow (·.writeFactor regAcqCalOfs a v), hrow (·.writeFactor regAcqCalGain a v),
      hrow fun u => (u.writeFactor regAcqCalSkew p v).reBound, hrow (·.writeWindow n v), hrow (·.writeGlkCmd g v),
      hrow (·.otpCmdRead false), hrow (·.otpCmdRead true), hrow State.otpCmdProgram, hrow (·.writeWord regGlbHealth 0 0 v),
      hrow State.pcieGo, hrow State.commitNow, List.forall_mem_nil _⟩

end Sys2Proof.Claims
end

section
/-! SUPPORT. What holds transfers back (R214, R306, R357, R441): a change of the bus, by whether it stops the transfers, and the training of
the link, by whether the streams exceed its budget. -/
namespace Sys2Proof.Machine

/-! ### Every entry posted to a command ring counts as fetched (log 159) -/

theorem cqIdx_injective : Function.Injective cqIdx := fun _ _ h => Fin.ext (Fin.mk.inj h)

theorem cqIdx_ne_of_le (n : Fin 16) {i : Fin 48} (hi : 16 ≤ i.val) : cqIdx n ≠ i := by
  rintro rfl
  exact absurd n.isLt (Nat.not_lt.2 hi)

/-- Every entry posted to CQn counts as fetched. -/
def State.fetchPosted (s : State) (n : Fin 16) : State :=
  s.modRing (cqIdx n) fun r => { r with fetched := s.ringUsed (cqIdx n) }

@[simp] theorem State.fetchPosted_ring_same (s : State) (n : Fin 16) :
    (s.fetchPosted n).host.rings[cqIdx n] = { s.host.rings[cqIdx n] with fetched := s.ringUsed (cqIdx n) } :=
  s.modRing_ring_same _ _

theorem State.fetchPosted_ring_other (s : State) {n : Fin 16} {i : Fin 48} (h : cqIdx n ≠ i) :
    (s.fetchPosted n).host.rings[i] = s.host.rings[i] :=
  s.modRing_ring_other _ h

/-- The entries of a ring lie between its head and its tail, which fetching does not move. -/
@[simp] theorem State.fetchPosted_ringUsed (s : State) (n : Fin 16) (i : Fin 48) : (s.fetchPosted n).ringUsed i = s.ringUsed i := by
  have hends : (s.fetchPosted n).host.rings[i].tail = s.host.rings[i].tail ∧
      (s.fetchPosted n).host.rings[i].head = s.host.rings[i].head := by
    by_cases hi : cqIdx n = i
    · subst hi
      rw [State.fetchPosted_ring_same]
      exact ⟨rfl, rfl⟩
    · rw [State.fetchPosted_ring_other s hi]
      exact ⟨rfl, rfl⟩
  rw [State.ringUsed, hends.1, hends.2]
  rfl

theorem State.foldl_fetchPosted_ring (l : List (Fin 16)) (s : State) (n : Fin 16) :
    (l.foldl State.fetchPosted s).host.rings[cqIdx n] =
      if n ∈ l then { s.host.rings[cqIdx n] with fetched := s.ringUsed (cqIdx n) } else s.host.rings[cqIdx n] := by
  induction l generalizing s with
  | nil => rfl
  | cons m l ih =>
    rw [List.foldl_cons, ih, State.fetchPosted_ringUsed]
    by_cases hm : n = m
    · subst hm
      rw [State.fetchPosted_ring_same, if_pos List.mem_cons_self, ite_self]
    · rw [State.fetchPosted_ring_other s (cqIdx_injective.ne (Ne.symm hm))]
      simp [hm]

/-- Every entry posted to any command ring counts as fetched. -/
def State.fetchAll (s : State) : State := forFin 16 s State.fetchPosted

theorem State.fetchAll_command_ring (s : State) (n : Fin 16) :
    s.fetchAll.host.rings[cqIdx n] = { s.host.rings[cqIdx n] with fetched := s.ringUsed (cqIdx n) } :=
  (State.foldl_fetchPosted_ring _ s n).trans (if_pos (List.mem_finRange n))

theorem State.fetchAll_other_ring (s : State) {i : Fin 48} (hi : 16 ≤ i.val) : s.fetchAll.host.rings[i] = s.host.rings[i] := by
  have hpass (u : State) (n : Fin 16) : (u.fetchPosted n).host.rings[i] = u.host.rings[i] :=
    u.fetchPosted_ring_other (cqIdx_ne_of_le n hi)
  exact forFin_proj (fun u : State => u.host.rings[i]) hpass s

/-- A state with its rings taken from another. -/
def State.withRings (s : State) (rings : Vector RingSt 48) : State := { s with host := { s.host with rings := rings } }

theorem State.eq_withRings {s u : State} (h : u.withRings s.host.rings = s) : u = s.withRings u.host.rings :=
  congrArg (·.withRings u.host.rings) h

theorem State.fetchAll_eq_withRings (s : State) : s.fetchAll = s.withRings s.fetchAll.host.rings :=
  State.eq_withRings (forFin_proj (f := State.fetchPosted) (·.withRings s.host.rings) (fun _ _ => rfl) s)

/-! ### A change of the bus (R306, R357, R441) -/

section
variable {s : State} {bme d3hot link : Bool} {v : State} (hv : v = { s with host := { s.host with bme := bme, d3hot := d3hot, linkUp := link } })
include hv

theorem State.busSet_of_no_stop (h : s.busOk = false ∨ v.busOk = true) : s.busSet bme d3hot link = v.pump := by
  subst hv
  refine congrArg State.pump (if_neg ?_)
  rcases h with h | h <;> simp [h]

theorem State.busSet_of_stop (hon : s.busOk = true) (hoff : v.busOk = false) : s.busSet bme d3hot link = v.fetchAll.pump := by
  subst hv
  refine congrArg State.pump (if_pos ?_)
  rw [hon, hoff]
  rfl

end

/-! ### LINK_SPEED_CHANGE (R214) -/

section
variable {s : State} {gen : Fin 3} {t : Time} {u : State} (hu : u = { s.adv t with host := { s.host with linkGen := gen.val + 1, linkUp := true } })
include hu

theorem exec_linkSpeedChange_of_within (h : u.used ≤ u.budget) : exec (.linkSpeedChange gen t) s = .next u.pump := by
  subst hu
  exact if_neg (not_lt.2 h)

theorem exec_linkSpeedChange_of_above (h : (u.budget : Rat) < u.used) :
    exec (.linkSpeedChange gen t) s = .next ((u.cutSlots.rsetF regAcqStat 0 5 5 1).raise 5 8 1 0 0x76 u.time).pump := by
  subst hu
  exact if_pos h

end

end Sys2Proof.Machine

namespace Sys2Proof.Claims
open Sys2Proof Sys2Proof.Machine

/-- Settles O36: three rows are a change of the bus, which counts posted entries as fetched only where it stops the transfers; the fourth compares
the streams with the budget of its speed. -/
theorem busRule : Obligations.BusRule := by
  intro s t
  refine ⟨fun b => rfl, fun b => rfl, rfl, fun bme d3 link => ?_,
    fun gen => ⟨exec_linkSpeedChange_of_within rfl, exec_linkSpeedChange_of_above rfl⟩⟩
  intro v
  refine ⟨State.busSet_of_no_stop rfl, fun hon hoff => ⟨v.fetchAll, State.busSet_of_stop rfl hon hoff, v.fetchAll_eq_withRings, fun n => ?_,
    fun i hi => ?_⟩⟩
  · exact v.fetchAll_command_ring n
  · exact v.fetchAll_other_ring hi

end Sys2Proof.Claims
end

section
/-! SUPPORT. ADC_CALIBRATE, CAL_PHASE_END and ADC_URGENT (R198 to R203): what each does once nothing refuses it. -/
namespace Sys2Proof.Machine
open Sys2Proof Sys2Proof.Claims

/-! ### ADC_CALIBRATE (R201) -/

/-- A calibration is refused (R201): the device does not own or is not in RUN, something drives, a calibration or a self-test runs, a chopper is
supervised, or there is no valid calibration whose gains an offset-only one could keep. -/
def State.refusesCalibration (s : State) (offsetOnly : Bool) : Bool :=
  s.notOwner || s.pwr != 0 || s.drivesAny || s.lopRuns 0x20 || s.lopRuns 0x40 ||
    (s.started && (s.chopSup 0 || s.chopSup 1)) || (offsetOnly && !s.acq.calValid)

theorem exec_adcCalibrate_of_allowed {s : State} {q : CmdQ} {k : Fin 8} (hbegins : Begins s q) (hres : bits q.arg0 31 1 = 0)
    (harg1 : q.arg1 = 0) (hno : (taken s q).refusesCalibration (q.arg0.getLsbD 0) = false) (hslot : (taken s q).freeSlot = some k) :
    exec (.adcCalibrate q) s = .next (((taken s q).closeAll).lopStart (s.ctx q 0x20)) := by
  have hok : (bits q.arg0 31 1 == 0 && q.arg1 == 0) = true := by
    rw [hres, harg1]
    rfl
  change execAdcCalibrate q s = _
  unfold execAdcCalibrate
  rw [hok, runCmd_of_good_args hbegins]
  refine congrArg _ ((if_neg (Bool.eq_false_iff.1 hno)).trans (if_neg ?_))
  rw [hslot]
  exact Bool.false_ne_true

/-! ### CAL_PHASE_END (R202, R203) -/

/-- Operation `k`, its running phase ended at `t` with the results `res` in all. -/
def State.phaseCounted (s : State) (k : Fin 8) (res : List Nat) (t : Time) : State :=
  (s.adv t).modLop k fun l => { l with phase := l.phase + 1, since := (s.adv t).time, res := res }

theorem State.phaseCounted_lop (s : State) (k : Fin 8) (res : List Nat) (t : Time) :
    (s.phaseCounted k res t).host.lops[k] = { s.host.lops[k] with phase := s.host.lops[k].phase + 1, since := max s.time t, res := res } :=
  vmod_at _ _ _

/-- The end of a phase of a full calibration that is not its last: the results are held aside, and the operation reaches its pause point. -/
theorem exec_calPhaseEnd_of_more {s : State} {k : Fin 8} {vals : List (Fin 44 × Int)} {t : Time} (hrun : s.running 0x20 = some k)
    (hfull : s.host.lops[k].arg0.getLsbD 0 = false) (hmore : s.host.lops[k].phase < 2) :
    let l := s.host.lops[k]
    let u := s.phaseCounted k (l.res ++ vals.map fun v => calPack l.phase v.1.val v.2) (max t (l.since + calTime l.phase))
    exec (.calPhaseEnd vals t) s =
      .next (if (u.lopPause k (l.phase + 1) 0).2 then (u.lopPause k (l.phase + 1) 0).1 else (u.lopPause k (l.phase + 1) 0).1.gridStart) := by
  change execCalPhaseEnd vals t s = _
  simp only [execCalPhaseEnd, hrun, hfull, if_neg (Nat.ne_of_lt hmore)]
  exact if_pos (.inl (Nat.succ_lt_succ hmore))

/-! ### ADC_URGENT (R198, R199) -/

theorem State.askUrgent_of_room {s : State} {n : Nat} (hroom : (s.acq.urgents.filter fun u => u.conv == n).length < 4) (chan : Nat)
    (host : Bool) (t : Time) : s.askUrgent n chan host t = s.placeUrgent n chan host t :=
  if_neg (Nat.not_le_of_lt hroom)

theorem exec_adcUrgent_of_housekeeping {s : State} {q : CmdQ} (hbegins : Begins s q) (hres : bits q.arg0 31 8 = 0) (harg1 : q.arg1 = 0)
    (hlow : 0x40 ≤ bits q.arg0 7 0) (hhigh : bits q.arg0 7 0 ≤ 0x55) (hpwr : (taken s q).pwr < 2) (hcal : (taken s q).lopRuns 0x20 = false)
    (hhost : ((taken s q).acq.urgents.filter fun x => x.host && x.conv == convOf (bits q.arg0 7 0)).length < 2)
    (hroom : ((taken s q).acq.urgents.filter fun x => x.conv == convOf (bits q.arg0 7 0)).length < 4) :
    exec (.adcUrgent q) s = .next (((taken s q).askUrgent (convOf (bits q.arg0 7 0)) (bits q.arg0 7 0) true (taken s q).time).await
      { s.ctx q 0x21 with aux := bits q.arg0 7 0 }) := by
  have hok : (bits q.arg0 31 8 == 0 && q.arg1 == 0 && ((decide (0x10 ≤ bits q.arg0 7 0) && decide (bits q.arg0 7 0 ≤ 0x2F)) ||
      (decide (0x40 ≤ bits q.arg0 7 0) && decide (bits q.arg0 7 0 ≤ 0x55)))) = true := by
    rw [hres, harg1, decide_eq_true hlow, decide_eq_true hhigh, Bool.and_self, Bool.or_true]
    rfl
  have hnotVc : ¬ bits q.arg0 7 0 < 0x30 := by omega
  change execAdcUrgent q s = _
  unfold execAdcUrgent
  dsimp only
  rw [hok, runCmd_of_good_args hbegins]
  refine congrArg _ (if_neg ?_)
  simp only [decide_eq_false (Nat.not_le_of_lt hpwr), decide_eq_false (Nat.not_le_of_lt hhost),
    decide_eq_false (Nat.not_le_of_lt hroom), decide_eq_false hnotVc, hcal, Bool.or_self, Bool.false_and, Bool.false_eq_true,
    not_false_eq_true]

end Sys2Proof.Machine

namespace Sys2Proof.Claims
open Sys2Proof Sys2Proof.Machine

/-- Settles O26: each row where nothing refuses it, with what a phase's end leaves in the operation and where a request takes its place. -/
theorem calibrationRule : Obligations.CalibrationRule := by
  refine ⟨fun s q k hbegins hres harg1 hown hrun hdrives hcal hself hchop hvalid hslot => ?_, fun s k vals t hrun hphase hfull => ?_,
    fun s q hbegins hres harg1 hlow hhigh hpwr hcal hhost hroom => ⟨?_, ?_⟩⟩
  · refine exec_adcCalibrate_of_allowed hbegins hres harg1 ?_ hslot
    simp only [State.refusesCalibration, hown, hrun, hdrives, hcal, hself, hchop, hvalid, bne_self_eq_false, Bool.or_self]
  · have hexec := exec_calPhaseEnd_of_more (vals := vals) (t := t) hrun hfull (hphase ▸ Nat.two_pos)
    simp only [hphase] at hexec
    refine ⟨_, hexec, rfl, ?_⟩
    rw [State.phaseCounted_lop]
    exact ⟨congrArg (· + 1) hphase, rfl⟩
  · exact exec_adcUrgent_of_housekeeping hbegins hres harg1 hlow hhigh hpwr hcal hhost hroom
  · rw [State.askUrgent_of_room hroom]
    rfl

end Sys2Proof.Claims
end

section
/-! SUPPORT. Converter results (R57, R60, R185, R191 to R199, R244): the rows that deliver one, by the schedule and the requests of its
converter. -/
namespace Sys2Proof.Machine

/-! ### SAMPLE_RESULT (R191, R210) -/

section
variable {s : State} {raw : Int} {t : Time}

theorem State.sampleIn_fast {c : Fin 34} (hc : c.val < 32) :
    s.sampleIn c raw false t = s.fastSample (Fin.ofNat 16 (c.val / 2)) (c.val % 2 == 1) raw t :=
  if_pos hc

theorem State.sampleIn_link0 {c : Fin 34} (hc : c.val = 32) : s.sampleIn c raw false t = s.linkSample 0 raw t := by
  rw [State.sampleIn, if_neg (by omega), if_pos hc]
  rfl

theorem State.fastSample_of_not_taken {p : Fin 16} {odd : Bool} (h : s.takesInstant p odd t = false) : s.fastSample p odd raw t = s :=
  if_pos (by rw [h]; rfl)

/-- A result of link 0 at an instant of its running grid becomes the newest of its link (R191). -/
theorem State.linkSample_link0 (hgrid : s.gridOn = true) (hon : s.onGrid 200 t = true) (hfrom : s.acq.gridAt ≤ t)
    (hawake : s.awake 40 s.acq.runAt t = true) :
    ∃ x : Sample, (s.linkSample 0 raw t).acq.link0 = (x :: s.acq.link0).take 16 ∧ x.t = t := by
  have htaken : ¬ (!s.gridOn || !s.onGrid 200 t || decide (t < s.acq.gridAt) || !s.awake (40 + (0 : Fin 2).val) s.acq.runAt t) = true := by
    simp [hgrid, hon, hfrom, hawake]
  rw [State.linkSample, if_neg htaken]
  exact ⟨⟨t, _, _⟩, rfl, rfl⟩

end

/-! ### HOUSEKEEPING_CONVERSION (R185, R193 to R199, R398) -/

/-- A housekeeping or voltage converter takes no conversion of channel `c` at `t`: the power state, a calibration or a reset forbids it, one is in
progress, or the channel is neither converter's. -/
def State.refusesConversion (s : State) (c : Nat) (t : Time) : Bool :=
  decide (2 ≤ s.pcr.state) || (s.calRuns && !(c == 0x49 && s.calServes t)) || s.pcr.asserted.isSome || !s.convFree (convOf c) t ||
    !((decide (0x40 ≤ c) && decide (c ≤ 0x55)) || (decide (0x10 ≤ c) && decide (c ≤ 0x2F)))

theorem State.refusesConversion_eq_false {s : State} {c : Nat} {t : Time} (hlow : 0x40 ≤ c) (hhigh : c ≤ 0x55) (hpwr : s.pcr.state < 2)
    (hcal : s.calRuns = false) (hreset : s.pcr.asserted = none) (hfree : s.convFree (convOf c) t = true) :
    s.refusesConversion c t = false := by
  rw [State.refusesConversion, decide_eq_true hlow, decide_eq_true hhigh, decide_eq_false (Nat.not_le_of_lt hpwr), hcal, hreset, hfree]
  rfl

section
variable {s : State} {chan : BitVec 8} {raw : Int} {t : Time} (hlow : 0x40 ≤ chan.toNat) (hhigh : chan.toNat ≤ 0x55)
  (hadm : (s.adv t).refusesConversion chan.toNat t = false)
include hlow hhigh hadm

/-- With no request waiting, the schedule of the input decides. -/
theorem exec_housekeepingConversion_of_scheduled {i : Fin 22} (hi : chan.toNat = 0x40 + i.val)
    (hnone : (s.adv t).urgentAt (convOf chan.toNat) t = none) (hheld : (s.adv t).urgentHeld (convOf chan.toNat) t = false) :
    let u := s.adv t
    exec (.housekeepingConversion chan raw t) s =
      .next (if u.hkTakes i t then ((u.hkServed i).hkResult chan.toNat raw (u.hkSlot i) true).1 else u) := by
  have hinput : Fin.ofNat 22 (chan.toNat - 0x40) = i := by
    rw [hi, Nat.add_sub_cancel_left]
    exact Fin.ofNat_val_eq_self i
  refine (if_neg (Bool.eq_false_iff.1 hadm)).trans ?_
  simp only [hnone, hheld, hinput, decide_eq_true hlow, decide_eq_true hhigh, Bool.and_self, Bool.false_eq_true, if_false, if_true]
  exact (apply_ite Host.Outcome.next _ _ _).symm

/-- The request in front is served, and the result of the one of a pre-check judges the burn. -/
theorem exec_housekeepingConversion_of_urgent {r : Urgent} (hsome : (s.adv t).urgentAt (convOf chan.toNat) t = some r)
    (hchan : r.chan = chan.toNat) (hfor : r.host = true ∨ chan = 0x49) :
    let v := (s.adv t).hkResult chan.toNat raw t false
    exec (.housekeepingConversion chan raw t) s =
      .next (if r.host then v.1.answerUrgent r v.2 else (v.1.dropUrgent r).burnVpp) := by
  have hserves : (r.chan == chan.toNat && (r.host || chan.toNat == 0x49)) = true := by
    rw [hchan, beq_self_eq_true, Bool.true_and, Bool.or_eq_true_iff]
    exact hfor.imp_right fun hvpp => by rw [hvpp]; rfl
  refine (if_neg (Bool.eq_false_iff.1 hadm)).trans ?_
  simp only [hsome, hserves, decide_eq_true hlow, decide_eq_true hhigh, Bool.and_self, if_true]

end

/-! ### CHOPPER_CHECK_CONVERSION (R244) -/

theorem exec_chopperCheckConversion_of_asked {s : State} {r : Urgent} {raw : Int} {t : Time} (hsome : (s.adv t).urgentAt 42 t = some r)
    (hown : r.host = false) (hchan : r.chan = 0x40) (hpwr : (s.adv t).pcr.state < 2) (hreset : (s.adv t).pcr.asserted = none)
    (hfree : (s.adv t).convFree 42 t = true) (hcal : (s.adv t).calRuns = false) :
    let v := ((s.adv t).dropUrgent r).hkSample 0x40 raw t
    exec (.chopperCheckConversion 0 raw t) s = .next ((v.1.aspFeed 0x40 v.2).openCheck 0 v.2) := by
  have hconv : convOf 0x40 = 42 := by decide
  change execChopperCheckConversion 0 raw t s = _
  simp only [execChopperCheckConversion, if_true, hconv, hsome]
  refine if_neg ?_
  simp only [hown, hchan, decide_eq_false (Nat.not_le_of_lt hpwr), hreset, hfree, hcal, bne_self_eq_false, Option.isSome_none, Bool.not_true,
    Bool.false_and, Bool.or_self, Bool.false_eq_true, not_false_eq_true]

/-! ### FLOATING_PHASE_SAMPLE (R57, R60) -/

theorem exec_floatingPhaseSample_of_scheduled {s : State} {w : Fin 8} {sec : Fin 6} {raw : Int} {t : Time}
    (hsec : (s.adv t).sets[w].sector = some sec) (hruns : (s.adv t).cellRuns w = true) (hgrid : (s.adv t).gridOn = true)
    (hfree : (s.adv t).convFree (32 + w.val) t = true) (hheld : (s.adv t).urgentHeld (32 + w.val) t = false)
    (hat : (s.adv t).zcFrom w t = some t) (hrec : (((s.adv t).vcSample w (floatLeg sec).val raw t).2.flags &&& flREC != 0) = false) :
    let r := (s.adv t).vcSample w (floatLeg sec).val raw t
    exec (.floatingPhaseSample w raw t) s = .next (r.1.crossSample w t (intR r.2.code * f32v (r.1.rget regComVphGain w))
      (r.1.vdcOf (machOf w) t) (r.2.flags &&& flOVR != 0)) := by
  change execFloatingPhaseSample w raw t s = _
  simp only [execFloatingPhaseSample, hsec]
  refine (if_pos ?_).trans (if_neg (Bool.eq_false_iff.1 hrec))
  simp [hruns, hgrid, hfree, hheld, hat]

end Sys2Proof.Machine

namespace Sys2Proof.Claims
open Sys2Proof Sys2Proof.Machine

/-- Settles O27: a grid result by whether its instant is taken, a housekeeping one by the request or the schedule that it serves. -/
theorem samplesArrive : Obligations.SamplesArrive := by
  refine ⟨fun s c raw b t => ⟨rfl, fun hc hno => ?_, fun hc htakes => ?_, fun hc hgrid hon hfrom hawake => ?_⟩,
    fun s chan i raw t hi hpwr hcal hreset hfree hnone hheld => ?_,
    fun s chan r raw t hlow hhigh hpwr hcal hreset hfree hsome hchan => ⟨fun hhost => ?_, fun hown hvpp => ?_⟩,
    fun s r raw t hsome hown hchan hpwr hreset hfree hcal =>
      exec_chopperCheckConversion_of_asked hsome hown hchan hpwr hreset hfree hcal,
    fun s w sec raw t hsec hruns hgrid hfree hheld hat hrec =>
      exec_floatingPhaseSample_of_scheduled hsec hruns hgrid hfree hheld hat hrec⟩
  · rw [State.sampleIn_fast hc, State.fastSample_of_not_taken hno]
  · rw [State.sampleIn_fast hc]
    exact fastSample_hist _ _ _ _ _ htakes
  · rw [State.sampleIn_link0 hc]
    exact State.linkSample_link0 hgrid hon hfrom hawake
  · have hlow : 0x40 ≤ chan.toNat := by omega
    have hhigh : chan.toNat ≤ 0x55 := by omega
    have hadm := State.refusesConversion_eq_false hlow hhigh hpwr hcal hreset hfree
    have hexec := exec_housekeepingConversion_of_scheduled (raw := raw) hlow hhigh hadm hi hnone hheld
    exact ⟨fun htakes => hexec.trans (congrArg _ (if_pos htakes)), fun hno => hexec.trans (congrArg _ (if_neg (Bool.eq_false_iff.1 hno)))⟩
  · have hadm := State.refusesConversion_eq_false hlow hhigh hpwr hcal hreset hfree
    exact (exec_housekeepingConversion_of_urgent hlow hhigh hadm hsome hchan (.inl hhost)).trans (congrArg _ (if_pos hhost))
  · have hadm := State.refusesConversion_eq_false hlow hhigh hpwr hcal hreset hfree
    exact (exec_housekeepingConversion_of_urgent hlow hhigh hadm hsome hchan (.inr hvpp)).trans
      (congrArg _ (if_neg (Bool.eq_false_iff.1 hown)))

end Sys2Proof.Claims
end

section
/-! SUPPORT. The members of an input pair (R206 to R208): when one is taken out, the reference check of a pair that diverges, and the corrections
that a window of residuals makes. -/
namespace Sys2Proof.Machine

/-! ### MEMBER_FAILURE (R208) -/

theorem adv_pair (s : State) (t : Time) (p : Fin 16) : (s.adv t).acq.pairs[p] = s.acq.pairs[p] := rfl

section
variable {s : State} {p : Fin 16} {odd : Bool} {t : Time}
  (hin : (if odd then s.acq.pairs[p].failO else s.acq.pairs[p].failE) = false) (hmap : s.rb regAcqIsMap p 7 = true)
  (hgrid : (s.adv t).gridOn = true)
include hin hmap hgrid

/-- Missing results are judged on the running grid, for a mapped member that has not failed. -/
theorem exec_memberFailure_missing :
    exec (.memberFailure p odd false t) s =
      if 3 ≤ (s.adv t).missing p odd (max s.time t) then .next ((s.adv t).failMember p odd 2 (max s.time t)) else .next (s.adv t) := by
  have hmap : (s.adv t).rb regAcqIsMap p 7 = true := hmap
  refine (if_neg ?_).trans (if_neg Bool.false_ne_true)
  simp only [adv_pair, hin, hmap, hgrid, Bool.false_and, Bool.not_true, Bool.or_self, Bool.false_eq_true, not_false_eq_true]

/-- A stuck member is judged while the other one is in the pair. -/
theorem exec_memberFailure_stuck (hother : (if odd then s.acq.pairs[p].failE else s.acq.pairs[p].failO) = false) :
    exec (.memberFailure p odd true t) s =
      if (s.acq.pairs[p].member odd).stuck then .next ((s.adv t).failMember p odd 3 (max s.time t)) else .next (s.adv t) := by
  have hmap : (s.adv t).rb regAcqIsMap p 7 = true := hmap
  refine (if_neg ?_).trans (if_pos rfl)
  simp only [adv_pair, hin, hother, hmap, hgrid, Bool.and_false, Bool.not_true, Bool.or_self, Bool.false_eq_true, not_false_eq_true]

end

/-! ### PAIR_DIVERGE_RUN and REFERENCE_CHECK (R207) -/

section
variable {s : State} {p : Fin 16}

theorem exec_pairDivergeRun_of_reached (hrun : s.rf regAcqCtl 0 19 16 ≤ s.acq.pairs[p].run) (hnone : s.acq.pairs[p].checkDue = none) :
    exec (.pairDivergeRun p) s = .next (s.modPair p fun y => { y with checkDue := some (s.fpNext s.time) }) :=
  if_pos ⟨hrun, hnone⟩

/-- A check that finds both members within 16 LSB of the reference ends the divergence and raises it. -/
theorem exec_referenceCheck_of_good {b : Time} {e o : Int} (hdue : s.acq.pairs[p].checkDue = some b) {v : State}
    (hv : v = s.adv ((s.refSlots b).getLastD b + 250)) (hgrid : v.gridOn = true) (hpair : v.pairSingle p = false)
    (hmap : v.rb regAcqIsMap p 7 = true) (he : absR (intR ((v.code14 (2 * p.val) 0 e).1 - 4096)) ≤ 16)
    (ho : absR (intR ((v.code14 (2 * p.val + 1) s.acq.pairs[p].ofsD o).1 - 4096)) ≤ 16) :
    exec (.referenceCheck p e o) s = .next (((v.rcount regAcqPairStat p 15 8 1).modPair p fun y =>
      { y with checkDue := none, checkAt := some b, run := 0, diverging := false }).raise 5 8 1 0 (0x71 + at_ p.val 8) v.time) := by
  have hofs : v.acq.pairs[p].ofsD = s.acq.pairs[p].ofsD := by rw [hv]; rfl
  rw [← hofs] at ho
  subst hv
  change execReferenceCheck p e o s = _
  simp only [execReferenceCheck, hdue, hgrid, hpair, hmap, decide_eq_false (not_lt.2 he), decide_eq_false (not_lt.2 ho),
    Bool.not_true, Bool.or_self, Bool.false_eq_true, if_false]

end

/-! ### TRACK_UPDATE (R206) -/

/-- An event, where one is raised at all, leaves the pairs and the channels alone. -/
theorem quiet_raise_if (s : State) (c : Prop) [Decidable c] (cls level index fclass detail : Nat) (t : Time) :
    Quiet s (if c then s.raise cls level index fclass detail t else s) := by
  split
  · exact quiet_raise s _ _ _ _ _ _
  · exact Quiet.refl s

/-- A full window corrects OFS_D by its mean residual within the bound and begins anew; all else that it does is events. -/
theorem exec_trackUpdate_of_full {s : State} {p : Fin 16} (hfull : s.acq.pairs[p].n = 8192) :
    ∃ (u : State) (f : PairSt → PairSt), exec (.trackUpdate p) s = .next u ∧ Quiet (s.modPair p f) u ∧ ∀ y, (f y).n = 0 ∧ (f y).sr = 0 ∧
      (f y).ofsD = (boundI (s.acq.pairs[p].ofsD + roundR (4 * s.acq.pairs[p].sr / 8192)) 1024).1 :=
  ⟨_, _, if_pos hfull, (quiet_raise_if _ _ _ _ _ _ _ _).trans (quiet_raise_if _ _ _ _ _ _ _ _), fun _ => ⟨rfl, rfl, rfl⟩⟩

end Sys2Proof.Machine

namespace Sys2Proof.Claims
open Sys2Proof Sys2Proof.Machine

/-- Settles O28: a member by its missing or equal results, the run by DIV_COUNT, a good reference check, and a full window of residuals. -/
theorem pairMembersRule : Obligations.PairMembersRule := by
  refine ⟨fun s p odd t hin hmap hgrid => ⟨fun hthree => ?_, fun hfewer => ?_, fun hother => ⟨fun hstuck => ?_, fun hmoves => ?_⟩⟩,
    fun s p hrun hnone => exec_pairDivergeRun_of_reached hrun hnone,
    fun s p b e o hdue hgrid hpair hmap he ho => exec_referenceCheck_of_good hdue rfl hgrid hpair hmap he ho, fun s p hfull => ?_⟩
  · exact (exec_memberFailure_missing hin hmap hgrid).trans (if_pos hthree)
  · exact (exec_memberFailure_missing hin hmap hgrid).trans (if_neg (Nat.not_le_of_lt hfewer))
  · exact (exec_memberFailure_stuck hin hmap hgrid hother).trans (if_pos hstuck)
  · exact (exec_memberFailure_stuck hin hmap hgrid hother).trans (if_neg (Bool.eq_false_iff.1 hmoves))
  · obtain ⟨u, f, hexec, hquiet, hf⟩ := exec_trackUpdate_of_full hfull
    have hpair : u.acq.pairs[p] = f s.acq.pairs[p] := by
      rw [hquiet.acq_eq]
      exact vmod_at _ _ _
    obtain ⟨hn, hsr, hofs⟩ := hf s.acq.pairs[p]
    rw [← hpair] at hn hsr hofs
    exact ⟨u, hexec, hn, hsr, hofs, hquiet.chans_eq⟩

end Sys2Proof.Claims
end

section
/-! SUPPORT. The trip inputs (R218 to R227, R236): what WINDOW_OUT and WINDOW_IN do by the input's level and length, what a trip of a window notes
in and out of a reset, and what FLT_N_LOW and ESTOP do when the level falls, stays low or is let go. -/
namespace Sys2Proof.Machine

/-! ### Windows: WINDOW_OUT, WINDOW_IN (R219 to R225) -/

section
variable {s : State} {n : Fin 20} {x : Int} {len t : Time}

/-- An enabled window that is IN, with its input beyond an active side for FILT, trips at once from the guaranteed depth and 10 ns on, and else
as the free value says. -/
theorem exec_windowOut_of_beyond (hen : s.rb regCmpWinCfg n 31 = true) (hin : s.winOut.getLsbD n = false) (hruns : s.winRuns = true)
    (hbeyond : 0 < s.winBeyond n x) (hlong : 50 * s.rf regCmpWinCfg n 30 28 ≤ len) :
    let u := s.adv (t + 50 * s.rf regCmpWinCfg n 30 28)
    exec (.windowOut n ⟨x, len, t⟩) s =
      if s.winDepth ≤ s.winBeyond n x ∧ 20 ≤ len then .next (u.windowTrip n t)
      else .next (if s.free.getLsbD 0 then u.freeNext.windowTrip n t else s.freeNext.adv t) := by
  have hseen : (!s.rb regCmpWinCfg n 31 || s.winOut.getLsbD n || !s.winRuns || decide (s.winBeyond n x ≤ 0) ||
      decide (len < 50 * s.rf regCmpWinCfg n 30 28)) = false := by
    simp only [hen, hin, hruns, decide_eq_false (not_le_of_gt hbeyond), decide_eq_false (Nat.not_lt_of_le hlong), Bool.not_true, Bool.or_self]
  intro u
  rw [apply_ite Host.Outcome.next]
  exact if_neg (Bool.eq_false_iff.1 hseen)

/-- A window that is disabled, OUT or not running, and an input that is not beyond it for FILT, do nothing. -/
theorem exec_windowOut_of_not_seen (hno : s.rb regCmpWinCfg n 31 = false ∨ s.winOut.getLsbD n = true ∨ s.winRuns = false ∨
      s.winBeyond n x ≤ 0 ∨ len < 50 * s.rf regCmpWinCfg n 30 28) :
    exec (.windowOut n ⟨x, len, t⟩) s = .next (s.adv t) := by
  refine if_pos ?_
  simpa only [Bool.or_eq_true, Bool.not_eq_true', decide_eq_true_eq, or_assoc] using hno

theorem exec_windowIn_of_inside (hruns : s.winRuns = true) (hinside : s.winInside n x = true) :
    exec (.windowIn n ⟨x, t⟩) s = .next { s.adv t with winOut := s.winOut &&& ~~~ (1#20 <<< n.val) } :=
  if_pos (Bool.and_eq_true_iff.2 ⟨hruns, hinside⟩)

theorem exec_windowIn_of_not_inside (hout : s.winInside n x = false) : exec (.windowIn n ⟨x, t⟩) s = .next (s.adv t) :=
  if_neg fun hboth => Bool.eq_false_iff.1 hout (Bool.and_eq_true_iff.1 hboth).2

/-- With the registers out of reset a trip is seen, counted and acts. -/
theorem State.windowTrip_of_no_reset (hnone : s.pcr.asserted = none) :
    let v : State := { s with winOut := s.winOut ||| (1#20 <<< n.val) }
    let w := v.rset regCmpSeen 0 (v.rget regCmpSeen 0 ||| (1#32 <<< n.val))
    let y := w.rcount regCmpCount n 15 0 1
    s.windowTrip n t = (y.windowActs n (y.stamp t)).freeNext :=
  if_neg (Bool.eq_false_iff.1 (Option.isSome_eq_false_iff.2 (Option.isNone_iff_eq_none.2 hnone)))

/-- Under a reset only the output of the window changes. -/
theorem State.windowTrip_of_reset (hreset : s.pcr.asserted ≠ none) :
    s.windowTrip n t = { s with winOut := s.winOut ||| (1#20 <<< n.val) } :=
  if_pos (Option.isSome_iff_ne_none.2 hreset)

end

/-! ### FLT_N_LOW (R226) -/

/-- A happening on an input pin that was low or stays low is not one that only lets the level go. -/
theorem letsGo_eq_false {was stays : Bool} (hlow : was = false ∨ stays = true) : (was && !stays) = false := by
  rcases hlow with hwas | hstays
  · rw [hwas, Bool.false_and]
  · rw [hstays, Bool.not_true, Bool.and_false]

section
variable {s : State} {g : Fin 8} {stays : Bool} {t : Time}

/-- The state after FLT_N of group `g` has taken its level. -/
def State.fltLevel (s : State) (g : Fin 8) (stays : Bool) (t : Time) : State :=
  { s.adv t with flt := if stays then s.flt ||| (1#8 <<< g.val) else s.flt &&& ~~~ (1#8 <<< g.val) }

theorem exec_fltNLow_of_let_go (hwas : s.flt.getLsbD g = true) (hgo : stays = false) :
    exec (.fltNLow g stays t) s = .next (s.fltLevel g stays t) :=
  if_pos (Bool.and_eq_true_iff.2 ⟨hwas, by rw [hgo, Bool.not_false]⟩)

/-- A low FLT_N is seen, and latches its group unless a higher row of Table 6.1 masks it. -/
theorem exec_fltNLow_of_low (hlow : s.flt.getLsbD g = false ∨ stays = true) :
    let u := s.fltLevel g stays t
    let v := u.rset regCmpFltSeen 0 (u.rget regCmpFltSeen 0 ||| (1#32 <<< g.val))
    exec (.fltNLow g stays t) s =
      if v.tripMasked g then .next v else .next (v.hizLatch g 2 0 (v.stamp v.time)).freeNext :=
  if_neg (Bool.eq_false_iff.1 (letsGo_eq_false hlow))

end

/-! ### ESTOP (R227, R236) -/

section
variable {s : State} {stays : Bool} {st t : Time}

/-- A low ESTOP_N seen, and held with F4 and the brake request. -/
def State.estopHold (s : State) : State :=
  let a := s.rset regCmpFltSeen 0 (s.rget regCmpFltSeen 0 ||| 0x100)
  { a with sup := { a.sup with estopHeld := true, f4 := true, mbrk := true } }

/-- What a low ESTOP_N leaves before any machine is sent to its safe state: held, and ESTOP raised. -/
def State.estopNoted (s : State) (st : Time) : State := s.estopHold.raise 1 4 0 5 0x88 st

theorem quiet_estopNoted : Quiet s.estopHold (s.estopNoted st) := quiet_raise s.estopHold 1 4 0 5 0x88 st

@[simp] theorem State.estopNoted_estop : (s.estopNoted st).estop = s.estop := quiet_estopNoted.estop_eq

/-- Raising ESTOP leaves the hold, F4 and the brake request as they were just set. -/
theorem State.estopNoted_held : (s.estopNoted st).sup.estopHeld = true ∧ (s.estopNoted st).sup.f4 = true ∧ (s.estopNoted st).sup.mbrk = true :=
  ⟨quiet_estopNoted.sup_estopHeld, quiet_estopNoted.sup_f4, quiet_estopNoted.sup_mbrk⟩

/-- With no machine configured, nothing follows what ESTOP notes. -/
theorem State.estopHit_of_no_machine (hnone : (s.estopNoted st).confMach = []) : s.estopHit st = s.estopNoted st := by
  unfold State.estopHit
  extract_lets _ _ _ noted
  have hnoted : noted = s.estopNoted st := rfl
  rw [hnoted, hnone, List.foldl_nil]

theorem exec_estop_of_let_go (hwas : s.estop = true) (hgo : stays = false) :
    exec (.estop stays t) s = .next { s.adv t with estop := stays } :=
  if_pos (Bool.and_eq_true_iff.2 ⟨hwas, by rw [hgo, Bool.not_false]⟩)

theorem exec_estop_of_low (hlow : s.estop = false ∨ stays = true) :
    let u : State := { s.adv t with estop := stays }
    exec (.estop stays t) s = .next (u.freeNext.estopHit (u.stamp u.time)) :=
  if_neg (Bool.eq_false_iff.1 (letsGo_eq_false hlow))

end

end Sys2Proof.Machine

namespace Sys2Proof.Claims
open Sys2Proof Sys2Proof.Machine

/-- Settles O55: a window by whether its input is beyond or inside it and by the reset, FLT_N and ESTOP_N by whether the level is only let go. -/
theorem tripInputsRule : Obligations.TripInputsRule := by
  refine ⟨fun s n x len t => ⟨fun hen hin hruns hbeyond hlong => ?_, exec_windowOut_of_not_seen, exec_windowIn_of_inside,
      exec_windowIn_of_not_inside, State.windowTrip_of_no_reset, State.windowTrip_of_reset⟩,
    fun s g stays t => ⟨exec_fltNLow_of_let_go, fun hlow hmask => ?_, fun hlow hfree => ?_⟩,
    fun s stays t => ⟨exec_estop_of_let_go, fun hlow => ⟨exec_estop_of_low hlow, ?_⟩⟩⟩
  · have hexec := exec_windowOut_of_beyond (t := t) hen hin hruns hbeyond hlong
    refine ⟨fun hdeep hten => hexec.trans (if_pos ⟨hdeep, hten⟩), fun hshort => hexec.trans (if_neg fun ⟨hdeep, hten⟩ => ?_)⟩
    rcases hshort with hshallow | hbrief
    · exact Int.not_le.2 hshallow hdeep
    · exact Nat.not_le_of_lt hbrief hten
  · exact (exec_fltNLow_of_low hlow).trans (if_pos hmask)
  · exact (exec_fltNLow_of_low hlow).trans (if_neg (Bool.eq_false_iff.1 hfree))
  · intro a w
    have hw : w = State.estopNoted _ _ := rfl
    rw [hw]
    obtain ⟨hheld, hf4, hbrake⟩ := State.estopNoted_held
    exact ⟨hheld, hf4, hbrake, State.estopNoted_estop, fun hnone =>
      (exec_estop_of_low hlow).trans (congrArg _ (State.estopHit_of_no_machine hnone))⟩

end Sys2Proof.Claims
end

section
/-! SUPPORT. The records of the supervision that are bounded in every state a step reaches (R256, R328). -/
namespace Sys2Proof.Claims
open Sys2Proof Sys2Proof.Machine

/-- Settles O4: the bounds on the fault history and on the holding queue are two parts of the invariant, which a step keeps. -/
theorem stepKeepsRecords : Obligations.StepKeepsRecords := fun _ _ hs ht =>
  have hinv := step_keeps_inv hs ht
  ⟨hinv.hist, hinv.held⟩

end Sys2Proof.Claims
end

section
/-! SUPPORT. The fault history (R256): which entry of a full history gives way, and what recording an event does by whether an equal entry
is held and whether there is room. -/
namespace Sys2Proof.Machine

/-! ### The entry that gives way: the oldest of the lowest class -/

/-- Entry `v` gives way no later than `h`: its class is lower, or it is the same and `v` is no younger. -/
def HistE.YieldsBefore (v h : HistE) : Prop := v.cls ≤ h.cls ∧ (h.cls = v.cls → v.time ≤ h.time)

theorem HistE.YieldsBefore.refl (v : HistE) : v.YieldsBefore v := ⟨le_rfl, fun _ => le_rfl⟩

theorem HistE.YieldsBefore.trans {u v h : HistE} (huv : u.YieldsBefore v) (hvh : v.YieldsBefore h) : u.YieldsBefore h := by
  obtain ⟨hcls, htime⟩ := huv
  obtain ⟨hcls', htime'⟩ := hvh
  refine ⟨hcls.trans hcls', fun hsame => ?_⟩
  have hv : v.cls = u.cls := by omega
  exact (htime hv).trans (htime' (hsame.trans hv.symm))

/-- The search replaces its candidate `b` by `h` exactly where `h` is of a lower class, or of the same and older. -/
theorem HistE.yieldsBefore_of_replaces {b h : HistE} (hlt : (h.cls < b.cls || (h.cls == b.cls && h.time < b.time)) = true) :
    h.YieldsBefore b := by
  simp only [Bool.or_eq_true, Bool.and_eq_true, decide_eq_true_eq, beq_iff_eq] at hlt
  rcases hlt with hlower | ⟨hsame, holder⟩
  · exact ⟨hlower.le, fun heq => absurd heq hlower.ne'⟩
  · exact ⟨hsame.le, fun _ => holder.le⟩

theorem HistE.yieldsBefore_of_not_replaces {b h : HistE}
    (hge : ¬(h.cls < b.cls || (h.cls == b.cls && h.time < b.time)) = true) : b.YieldsBefore h := by
  simp only [Bool.or_eq_true, Bool.and_eq_true, decide_eq_true_eq, beq_iff_eq, not_or, not_and, not_lt] at hge
  exact hge

/-- Searching on from candidate `b` at place `j` finds one of the candidate and the entries left, and it gives way before all of them. -/
theorem histVictim_go_spec (l : List HistE) (i j : Nat) (b : HistE) :
    ∃ k v, histVictim.go l i (some (j, b)) = some (k, v) ∧ (v, k) ∈ (b, j) :: l.zipIdx i ∧ ∀ h ∈ b :: l, v.YieldsBefore h := by
  induction l generalizing i j b with
  | nil => exact ⟨j, b, rfl, List.mem_cons_self, by simp [HistE.YieldsBefore.refl]⟩
  | cons a l ih =>
    rw [histVictim.go, List.zipIdx_cons]
    split
    · next hlt =>
      obtain ⟨k, v, hgo, hmem, hall⟩ := ih (i + 1) i a
      have hva := hall a List.mem_cons_self
      exact ⟨k, v, hgo, List.mem_cons_of_mem _ hmem,
        List.forall_mem_cons.2 ⟨hva.trans (HistE.yieldsBefore_of_replaces hlt), hall⟩⟩
    · next hge =>
      obtain ⟨k, v, hgo, hmem, hall⟩ := ih (i + 1) j b
      obtain ⟨hvb, hvl⟩ := List.forall_mem_cons.1 hall
      have hva := hvb.trans (HistE.yieldsBefore_of_not_replaces hge)
      refine ⟨k, v, hgo, ?_, List.forall_mem_cons.2 ⟨hvb, List.forall_mem_cons.2 ⟨hva, hvl⟩⟩⟩
      rcases List.mem_cons.1 hmem with hhead | htail
      · exact hhead ▸ List.mem_cons_self
      · exact List.mem_cons_of_mem _ (List.mem_cons_of_mem _ htail)

/-- A history that is not empty has an entry that gives way before all others. -/
theorem histVictim_spec {l : List HistE} (hne : l ≠ []) :
    ∃ i v, histVictim l = some (i, v) ∧ l[i]? = some v ∧ ∀ h ∈ l, v.YieldsBefore h := by
  cases l with
  | nil => exact absurd rfl hne
  | cons a l =>
    obtain ⟨i, v, hgo, hmem, hall⟩ := histVictim_go_spec l 1 0 a
    have hmem' : (v, i) ∈ (a :: l).zipIdx 0 := by rwa [List.zipIdx_cons]
    exact ⟨i, v, hgo, List.mk_mem_zipIdx_iff_getElem?.1 hmem', hall⟩

/-! ### Recording an event -/

/-- The entry and the event are equal in code, source level and source index. -/
def HistE.sameSource (e : Evt) (h : HistE) : Bool :=
  bits h.detail 7 0 == bits e.detail 7 0 && h.level == e.level && h.index == e.index

/-- The entry with one repetition more, to at most 255. -/
def HistE.repeated (h : HistE) : HistE := { h with repeat_ := min 255 (h.repeat_ + 1) }

/-- The entry that an event begins. -/
def Evt.newEntry (e : Evt) : HistE := ⟨e.time, e.detail, 0, e.fclass, e.level, e.index⟩

/-- The state with another history and count of events lost. -/
def State.withHist (s : State) (l : List HistE) (lost : Nat) : State := { s with sup := { s.sup with hist := l, histLost := lost } }

section
variable {s : State} {e : Evt}

theorem State.record_of_same (hsame : s.sup.hist.any (HistE.sameSource e) = true) :
    s.record e = s.withHist (s.sup.hist.map fun h => if h.sameSource e then h.repeated else h) s.sup.histLost :=
  if_pos hsame

variable (hnew : s.sup.hist.any (HistE.sameSource e) = false)
include hnew

theorem State.record_of_room (hroom : s.sup.hist.length < 16) :
    s.record e = s.withHist (s.sup.hist ++ [e.newEntry]) s.sup.histLost :=
  (if_neg (Bool.eq_false_iff.1 hnew)).trans (if_pos hroom)

theorem State.record_of_full (hfull : ¬ s.sup.hist.length < 16) :
    ∃ i v, s.sup.hist[i]? = some v ∧ (∀ h ∈ s.sup.hist, v.YieldsBefore h) ∧
      s.record e = if v.cls ≤ e.fclass then s.withHist (s.sup.hist.set i e.newEntry) s.sup.histLost
        else s.withHist s.sup.hist (min 255 (s.sup.histLost + 1)) := by
  have hne : s.sup.hist ≠ [] := fun hnil => hfull (by rw [hnil]; decide)
  obtain ⟨i, v, hvictim, hat, hfirst⟩ := histVictim_spec hne
  refine ⟨i, v, hat, hfirst, (if_neg (Bool.eq_false_iff.1 hnew)).trans ((if_neg hfull).trans ?_)⟩
  rw [hvictim]; rfl

end

/-- Recording changes the history and the count of events lost, nothing else. -/
theorem State.record_eq_withHist (s : State) (e : Evt) : s.record e = s.withHist (s.record e).sup.hist (s.record e).sup.histLost := by
  cases hsame : s.sup.hist.any (HistE.sameSource e) with
  | true => rw [State.record_of_same hsame]; rfl
  | false =>
    by_cases hroom : s.sup.hist.length < 16
    · rw [State.record_of_room hsame hroom]; rfl
    · obtain ⟨i, v, -, -, hrec⟩ := State.record_of_full hsame hroom
      rw [hrec]
      split <;> rfl

end Sys2Proof.Machine

namespace Sys2Proof.Claims
open Sys2Proof Sys2Proof.Machine

/-- Settles O56: by whether an equal entry is held, then by room, then by the class of the entry that would give way. -/
theorem faultHistoryRule : Obligations.FaultHistoryRule := by
  intro s e same new w
  refine ⟨s.record_eq_withHist e, fun hsame => ?_, fun hnew hroom => ?_, fun hnew hfull => ?_⟩
  · have hw : w = _ := State.record_of_same hsame
    rw [hw]
    refine ⟨rfl, List.length_map _, fun i h hat => ?_⟩
    have hat' : (s.sup.hist.map fun h => if h.sameSource e then h.repeated else h)[i]? = some (if same h then h.repeated else h) := by
      rw [List.getElem?_map, hat]; rfl
    exact ⟨fun hyes => hat'.trans (by rw [if_pos hyes]; rfl), fun hno => hat'.trans (by rw [if_neg (Bool.eq_false_iff.1 hno)])⟩
  · have hw : w = _ := State.record_of_room hnew hroom
    rw [hw]
    exact ⟨rfl, rfl⟩
  · obtain ⟨i, v, hat, hfirst, hrec⟩ := State.record_of_full hnew hfull
    have hw : w = _ := hrec
    refine ⟨i, v, hat, hfirst, fun hle => ?_, fun hlt => ?_⟩
    · rw [hw, if_pos hle]
      exact ⟨rfl, rfl⟩
    · rw [hw, if_neg (Nat.not_le_of_lt hlt)]
      exact ⟨rfl, rfl⟩

end Sys2Proof.Claims
end

section
/-! SUPPORT. The commands of supervision as they begin (R146, R150, R236, R257, R302): what SAFE_STATE, FAULT_CLEAR, MODE_SELECT and
BANK_SWAP with legal arguments do on the state with the command taken. -/
namespace Sys2Proof.Machine
open Sys2Proof Sys2Proof.Claims

section
variable {s : State} {q : CmdQ} (hbegins : Begins s q) (harg1 : q.arg1 = 0)
include hbegins harg1

/-- SAFE_STATE asks for no ownership: it waits in every role, with the machines that it names (R236, R302). -/
theorem exec_safeState_of_begins (hres : bits q.arg0 31 4 = 0) (hask : bits q.arg0 3 2 ≠ 3) (hmask : s.badMask (bits q.arg0 1 0) = false) :
    exec (.safeState q) s =
      .next (waits s q 0x15 ((taken s q).fpAfter s.time) (maskOf ((taken s q).maskMach (bits q.arg0 1 0)))) := by
  change execSafeState q s = _
  rw [execSafeState, harg1, hres, hmask, bne_iff_ne.2 hask]
  exact runCmd_of_good_args hbegins _ _

/-- FAULT_CLEAR: its refusals in their order, or it waits for the FP boundary (R257). -/
theorem exec_faultClear_of_begins (hres : bits q.arg0 31 1 = 0) :
    exec (.faultClear q) s = .next (
      if s.notOwner || s.sup.f5 then done s q 0x16 stRefusedState 0
      else if s.thm.shutRun || (s.thm.shutHeld && !s.thm.exitMet) then done s q 0x16 stRefusedTemp 0
      else if s.pcr.stopping then done s q 0x16 stRefusedSupply 0
      else waits s q 0x16 ((taken s q).fpAfter s.time) 0) := by
  change execFaultClear q s = _
  rw [execFaultClear, harg1, hres]
  exact runCmd_of_good_args hbegins _ _

/-- MODE_SELECT: its refusals in their order, or it waits, not yet committed, for the SP boundary that judges it (R150, R340). -/
theorem exec_modeSelect_of_begins {m : Fin 2} (hres : bits q.arg0 31 5 = 0) (hbit4 : q.arg0.getLsbD 4 = false)
    (hm : m = if q.arg0.getLsbD 0 then 1 else 0) (hen : s.machEn m = true) :
    exec (.modeSelect q) s = .next (
      if s.notOwner then done s q 0x11 stRefusedState 0
      else if (taken s q).thmHeld then done s q 0x11 stRefusedTemp 0
      else (taken s q).awaitJudge (s.ctx q 0x11) ((taken s q).spAfter s.time) m.val) := by
  subst hm
  change execModeSelect q s = _
  simp only [execModeSelect]
  rw [harg1, hres, hbit4, hen]
  exact runCmd_of_good_args hbegins _ _

/-- The machines of a list show a pending swap (R146). -/
def State.swapPending (s : State) (l : List (Fin 2)) : State :=
  l.foldl (fun s m => s.modMach m fun x => { x with loop := { x.loop with swap := true } }) s

/-- BANK_SWAP: its refusals in their order, or its machines show the swap as pending and it waits for the SP boundary (R146). -/
theorem exec_bankSwap_of_begins (hres : bits q.arg0 31 2 = 0) (hnamed : bits q.arg0 1 0 ≠ 0) (hmask : s.badMask (bits q.arg0 1 0) = false) :
    let u := taken s q
    let l := u.maskMach (bits q.arg0 1 0)
    let v := u.swapPending l
    exec (.bankSwap q) s = .next (
      if s.notOwner then done s q 0x0C stRefusedState 0
      else if l.any fun m => u.mach[m].loop.swap || u.loading m then done s q 0x0C stRefusedState 0
      else if u.thmHeld then done s q 0x0C stRefusedTemp 0
      else v.awaitAt (s.ctx q 0x0C) (v.spAfter v.time) (bits q.arg0 1 0)) := by
  change execBankSwap q s = _
  simp only [execBankSwap]
  rw [harg1, hres, hmask, bne_iff_ne.2 hnamed]
  exact runCmd_of_good_args hbegins _ _

end

end Sys2Proof.Machine

namespace Sys2Proof.Claims
open Sys2Proof Sys2Proof.Machine

/-- Settles O19: each command by its refusals, in their order, and where none applies by the boundary it waits for. -/
theorem supervisorCommandsWait : Obligations.SupervisorCommandsWait := by
  refine ⟨fun s q hbegins hres harg1 hask hmask => exec_safeState_of_begins hbegins harg1 hres hask hmask,
    fun s q hbegins hres harg1 => ?_, fun s q m hbegins hres hbit4 harg1 hm hen => ?_,
    fun s q hbegins hres harg1 hnamed hmask => ?_⟩
  · rw [exec_faultClear_of_begins hbegins harg1 hres]
    refine ⟨fun hno => by rw [if_pos (Bool.or_eq_true_iff.2 hno)], fun hown hf5 hheat => ?_, fun hown hf5 hrun hheld => ?_⟩
    · have hrefuse : (s.thm.shutRun || (s.thm.shutHeld && !s.thm.exitMet)) = true := by simpa using hheat
      rw [hown, hf5, Bool.or_false, if_neg Bool.false_ne_true, if_pos hrefuse]
    · have hcool : (s.thm.shutRun || (s.thm.shutHeld && !s.thm.exitMet)) = false := by rcases hheld with h | h <;> simp [hrun, h]
      rw [hown, hf5, Bool.or_false, if_neg Bool.false_ne_true, hcool, if_neg Bool.false_ne_true]
      exact ⟨fun hstop => by rw [if_pos hstop], fun hgo => by rw [hgo, if_neg Bool.false_ne_true]⟩
  · rw [exec_modeSelect_of_begins hbegins harg1 hres hbit4 hm hen]
    refine ⟨fun hno => by rw [if_pos hno], fun hown hheat => ?_, fun hown hcool => ?_⟩
    · rw [hown, if_neg Bool.false_ne_true, if_pos hheat]
    · rw [hown, if_neg Bool.false_ne_true, hcool, if_neg Bool.false_ne_true]
  · intro u l
    have hexec := exec_bankSwap_of_begins hbegins harg1 hres hnamed hmask
    refine ⟨fun hno => ?_, fun hown hbusy => ?_, fun hown hfree hheat => ?_, fun hown hfree hcool => ?_⟩
    · exact hexec.trans (by rw [if_pos hno])
    · exact hexec.trans (by rw [hown, if_neg Bool.false_ne_true, if_pos hbusy])
    · exact hexec.trans (by rw [hown, if_neg Bool.false_ne_true, if_neg (Bool.eq_false_iff.1 hfree), if_pos hheat])
    · exact hexec.trans (by
        rw [hown, if_neg Bool.false_ne_true, if_neg (Bool.eq_false_iff.1 hfree), if_neg (Bool.eq_false_iff.1 hcool)]; rfl)

end Sys2Proof.Claims
end

section
/-! SUPPORT. The commands of supervision at their boundary (R146, R149, R236, R257, R443): what SAFE_APPLIED, FAULT_CLEARED, BANK_SWAPPED
and POWER_CHANGED do for the oldest command that waits. -/
namespace Sys2Proof.Machine

section
variable {s : State} {c : Waiting}

/-! ### SAFE_APPLIED (R232, R236) -/

/-- With no armed reaction and nothing asked by the service port, the oldest SAFE_STATE is what is due. -/
theorem exec_safeApplied_of_command_only (hold : s.oldest 0x15 = some c) (hreqs : s.sup.reqs = []) (hsafes : s.svc.safes = []) :
    let t := max s.time c.due
    let u := (((s.adv t).applyReqs t).applySafes t).safeCmd c.aux (bits c.arg0 3 2) false t
    exec .safeApplied s = .next (u.finishW c stOk u.inAsc) := by
  change execSafeApplied s = _
  simp only [execSafeApplied, hold, hreqs, hsafes]
  exact if_pos (le_max_right s.time c.due)

/-! ### FAULT_CLEARED (R257) -/

/-- The five steps of FAULT_CLEAR at its boundary: latches, chopper states, sets, holds and gate-link errors. -/
abbrev State.faultSteps (s : State) : State := s.clearLatches.clearChoppers.rejoinSets.endHolds.clearGlk

/-- The state with an empty fault history. -/
abbrev State.histEmptied (s : State) : State := { s with sup := { s.sup with hist := [], histLost := 0 } }

/-- SVC_STATUS shows the clearing, and FAULT_CLEARED is raised. -/
abbrev State.clearedNoted (s : State) (t : Time) : State := { s with svc := { s.svc with cleared := true } }.raise 0x0A 4 0 0 0x97 t

/-- What is still faulted, as the RESULT of FAULT_CLEAR gives it. -/
abbrev State.faultResult (s : State) : Nat := s.faultMask + at_ s.safeMask 8 + at_ (b2n s.sup.estopHeld) 10 + at_ (b2n s.sup.mbrk) 11

/-- The end of FAULT_CLEAR after its steps: the clearing is noted and the command completes OK. -/
def State.clearEnd (s : State) (c : Waiting) (t : Time) : State :=
  (s.clearedNoted t).finishW c stOk ((s.clearedNoted t).faultResult + at_ (b2n (c.arg0.getLsbD 0)) 12)

theorem State.clearEnd_of_keep (hkeep : c.arg0.getLsbD 0 = false) (t : Time) :
    s.clearEnd c t = (s.clearedNoted t).finishW c stOk (s.clearedNoted t).faultResult := by
  have hzero : at_ (b2n false) 12 = 0 := rfl
  rw [State.clearEnd, hkeep, hzero, Nat.add_zero]

theorem State.clearEnd_of_clear (hclear : c.arg0.getLsbD 0 = true) (t : Time) :
    s.clearEnd c t = (s.clearedNoted t).finishW c stOk ((s.clearedNoted t).faultResult + at_ 1 12) := by
  rw [State.clearEnd, hclear]; rfl

theorem exec_faultCleared_of_oldest (hold : s.oldest 0x16 = some c) :
    let t := max s.time c.due
    let v := (s.adv t).faultSteps
    exec .faultCleared s = .next ((if c.arg0.getLsbD 0 then v.histEmptied else v).clearEnd c t) := by
  change execFaultCleared s = _
  simp only [execFaultCleared, hold, State.clearEnd]

/-! ### BANK_SWAPPED (R146, R149) -/

/-- The incoming banks of the machines of a list hold valid coefficients. -/
def State.incomingOk (s : State) (l : List (Fin 2)) : Bool :=
  l.all fun m => s.setCoefOk m (1 - s.bankOf m) && s.machCoefOk m (1 - s.bankOf m)

theorem State.swapFor_of_incoming_ok {b : Time} (hok : s.incomingOk (s.maskMach c.aux) = true) :
    let u := (s.maskMach c.aux).foldl (fun s m => s.swapMach m b) s
    s.swapFor c b = u.finishW c stOk (u.bankOf 0 + 2 * u.bankOf 1) :=
  if_pos hok

theorem State.swapFor_of_incoming_bad {b : Time} (hbad : s.incomingOk (s.maskMach c.aux) = false) :
    s.swapFor c b =
      ((s.maskMach c.aux).foldl (fun s m => s.modMach m fun x => { x with loop := { x.loop with swap := false } }) s).finishW c
        stRefusedState 0 :=
  if_neg (Bool.eq_false_iff.1 hbad)

theorem exec_bankSwapped_of_oldest (hold : s.oldest 0x0C = some c) :
    let b := max s.time c.due
    exec .bankSwapped s = .next ((s.adv b).swapFor c b) := by
  change execBankSwapped s = _
  rw [execBankSwapped, hold]

/-! ### POWER_CHANGED (R443, R445) -/

/-- A change to DEEP opens the transition window at its boundary and is complete there. -/
theorem exec_powerChanged_of_deep
    (hnext : s.host.waiting.find? (fun c => c.opc == 0x50 && !(s.pcr.transit && s.pcr.target != 3 && decide (c.due ≤ s.pcr.transitEnd))) =
      some c) (hdeep : c.aux = 3) :
    let t := max s.time c.due
    exec .powerChanged s =
      .next ({ s.adv t with pcr := { s.pcr with transit := true, target := 3, transitEnd := t } }.finishW c stOk 3) := by
  change execPowerChanged s = _
  rw [execPowerChanged, hnext]
  exact if_pos hdeep

end

end Sys2Proof.Machine

namespace Sys2Proof.Claims
open Sys2Proof Sys2Proof.Machine

/-- Settles O22: each row by the oldest command that waits, FAULT_CLEARED by whether it clears the history, a swap by the incoming banks. -/
theorem supervisorCommandsAct : Obligations.SupervisorCommandsAct := by
  intro s c
  refine ⟨exec_safeApplied_of_command_only, fun hold hkeep => ?_, fun hold hclear => ?_, fun hold => ⟨fun hok => ?_, fun hbad => ?_⟩,
    exec_powerChanged_of_deep⟩
  · refine (exec_faultCleared_of_oldest hold).trans ?_
    rw [hkeep, if_neg Bool.false_ne_true, State.clearEnd_of_keep hkeep]
  · refine ⟨(s.adv (max s.time c.due)).faultSteps.histEmptied, rfl, rfl, (exec_faultCleared_of_oldest hold).trans ?_⟩
    rw [hclear, if_pos rfl, State.clearEnd_of_clear hclear]
  · exact (exec_bankSwapped_of_oldest hold).trans (congrArg _ (State.swapFor_of_incoming_ok hok))
  · exact (exec_bankSwapped_of_oldest hold).trans (congrArg _ (State.swapFor_of_incoming_bad hbad))

end Sys2Proof.Claims
end

section
/-! SUPPORT. The gate links (R246 to R251): a telemetry frame by what is wrong with it, a frame sent by whether a command waits, and the
faults and the health degradation by whether they are due. -/
namespace Sys2Proof.Machine

@[simp] theorem State.modGlk_glk_same (s : State) (g : Fin 8) (f : GlkSt → GlkSt) : (s.modGlk g f).sup.glk[g] = f s.sup.glk[g] :=
  vmod_at _ _ _

/-! ### TELEMETRY_FRAME (R249) -/

/-- The frame's own checks: every mid-bit transition, the CRC and the type. -/
def telemetryOk (f : BitVec 64) (midOk : Bool) : Bool := midOk && crc8 (frameBits f 64) == 0 && bitsN f.toNat 3 0 == 1

theorem telemetryOk_eq_false {f : BitVec 64} {ok : Bool} (hbad : ok = false ∨ crc8 (frameBits f 64) ≠ 0 ∨ bitsN f.toNat 3 0 ≠ 1) :
    telemetryOk f ok = false := by
  rcases hbad with hmid | hcrc | htype
  · rw [telemetryOk, hmid]; rfl
  · rw [telemetryOk, beq_false_of_ne hcrc, Bool.and_false, Bool.false_and]
  · rw [telemetryOk, beq_false_of_ne htype, Bool.and_false]

theorem telemetryOk_eq_true {f : BitVec 64} {ok : Bool} (hmid : ok = true) (hcrc : crc8 (frameBits f 64) = 0)
    (htype : bitsN f.toNat 3 0 = 1) : telemetryOk f ok = true := by
  rw [telemetryOk, hmid, hcrc, htype]; rfl

/-- The frame acknowledges the command that the link has sent last (R248). -/
def GlkSt.acks (x : GlkSt) (f : BitVec 64) : Bool := x.cmdBusy && !x.cmdWait && bitsN f.toNat 47 44 == x.cmdSeq

/-- The link once a frame is accepted at `now` with stamp `st`: the frame is kept, LOST is cleared, and a command that it acknowledges
(`acked`) is ended. -/
def GlkSt.accepted (x : GlkSt) (f : BitVec 64) (acked : Bool) (now st : Time) : GlkSt :=
  { x with tlm := f, lastSeq := bitsN f.toNat 7 4, seqSeen := true, lastAt := now, lastSt := st, lost := false, lostRaised := false,
           cmdBusy := x.cmdBusy && !acked, cmdFailDue := x.cmdFailDue && !acked }

/-- The state once link `g` has accepted a frame. -/
def State.glkAccepted (s : State) (g : Fin 8) (f : BitVec 64) : State :=
  s.freeNext.modGlk g fun y => y.accepted f (s.sup.glk[g].acks f) s.time (s.stamp s.time)

section
variable {s : State} {g : Fin 8} {f : BitVec 64} {ok : Bool} {t : Time} (hreset : s.pcr.asserted = none) (hpwr : s.pcr.state ≠ 3)
  (htest : s.linkTested (2 + g.val) = false)
include hreset hpwr htest

/-- A link that receives discards a bad frame, discards one out of sequence and follows its SEQ, and accepts any other. -/
theorem exec_telemetryFrame_of_receiving :
    let u := s.adv t
    let x := s.sup.glk[g]
    let v := u.glkAccepted g f
    exec (.telemetryFrame g f ok t) s = .next (
      if !telemetryOk f ok then u.glkDiscard g u.time
      else if x.seqSeen && bitsN f.toNat 7 4 != (x.lastSeq + 1) % 16 then
        (u.glkDiscard g u.time).modGlk g fun y => { y with lastSeq := bitsN f.toNat 7 4 }
      else if v.glkUsed g then
        ((List.range 6).foldl (fun s k => s.glkSwitch g k f (v.time - 67 * 80) (u.stamp u.time)) v).glkTemp g f
      else v) := by
  intro u x v
  have hreceives : (u.pcr.asserted.isSome || u.pcr.state == 3 || u.linkTested (2 + g.val)) = false := by
    have htest' : u.linkTested (2 + g.val) = false := htest
    simp [u, hreset, hpwr, htest']
  have hcheck : (!telemetryOk f ok) = (!ok || crc8 (frameBits f 64) != 0 || bitsN f.toNat 3 0 != 1) := by
    simp [telemetryOk, bne, Bool.not_and]
  rw [hcheck, apply_ite Host.Outcome.next, apply_ite Host.Outcome.next, apply_ite Host.Outcome.next]
  exact if_neg (Bool.eq_false_iff.1 hreceives)

theorem exec_telemetryFrame_of_bad (hbad : telemetryOk f ok = false) :
    exec (.telemetryFrame g f ok t) s = .next ((s.adv t).glkDiscard g (s.adv t).time) :=
  (exec_telemetryFrame_of_receiving hreset hpwr htest).trans (by rw [hbad]; rfl)

variable (hgood : telemetryOk f ok = true)
include hgood

theorem exec_telemetryFrame_of_out_of_sequence (hseen : s.sup.glk[g].seqSeen = true)
    (hseq : bitsN f.toNat 7 4 ≠ (s.sup.glk[g].lastSeq + 1) % 16) :
    exec (.telemetryFrame g f ok t) s =
      .next (((s.adv t).glkDiscard g (s.adv t).time).modGlk g fun y => { y with lastSeq := bitsN f.toNat 7 4 }) :=
  (exec_telemetryFrame_of_receiving hreset hpwr htest).trans (by rw [hgood, hseen, bne_iff_ne.2 hseq]; rfl)

/-- The first frame of a link is in sequence whatever its SEQ; on a link not in use nothing is judged from it. -/
theorem exec_telemetryFrame_of_first_unused (hseen : s.sup.glk[g].seqSeen = false) (hunused : s.glkUsed g = false) :
    exec (.telemetryFrame g f ok t) s = .next ((s.adv t).glkAccepted g f) := by
  refine (exec_telemetryFrame_of_receiving hreset hpwr htest).trans ?_
  rw [hgood, hseen]
  exact congrArg _ (if_neg (Bool.eq_false_iff.1 hunused))

end

/-! ### GATE_LINK_FRAME_SEND (R246, R248) -/

/-- The command frame of the link with sequence number `n`, with its CRC. -/
def State.glkCmdFrame (s : State) (g : Fin 8) (n : Nat) : BitVec 64 :=
  withCrc8 (BitVec.ofNat 64 (2 + at_ n 4 + at_ (s.rf regGlkCmd g 31 24) 8 + at_ (s.rf regGlkCmd g 23 8) 16))

/-- The link once it has sent its command as frame `f` with sequence number `n`. -/
def GlkSt.commandSent (x : GlkSt) (n : Nat) (f : BitVec 64) : GlkSt :=
  { x with cmdWait := false, cmdSeq := n, sent := n, cmdFrames := 0, lastSent := f }

/-- The link once it has sent an idle frame: the tenth without an answer makes the failure of its command due. -/
def GlkSt.idleSent (x : GlkSt) : GlkSt :=
  { x with lastSent := withCrc8 3, cmdFrames := if x.cmdBusy then x.cmdFrames + 1 else 0,
           cmdFailDue := x.cmdFailDue || (x.cmdBusy && decide (10 ≤ x.cmdFrames + 1)) }

section
variable {s : State} {g : Fin 8} {t : Time} (hon : s.regsOn = true) (htest : s.linkTested (2 + g.val) = false)
include hon htest

theorem exec_gateLinkFrameSend_of_sending :
    let n := (s.sup.glk[g].sent + 1) % 16
    exec (.gateLinkFrameSend g t) s =
      if s.sup.glk[g].cmdWait then .next ((s.adv t).modGlk g fun y => y.commandSent n (s.glkCmdFrame g n))
      else .next ((s.adv t).modGlk g GlkSt.idleSent) := by
  have hsends : (!(s.adv t).regsOn || (s.adv t).linkTested (2 + g.val)) = false := by
    have hon' : (s.adv t).regsOn = true := hon
    rw [hon']
    exact htest
  exact if_neg (Bool.eq_false_iff.1 hsends)

theorem exec_gateLinkFrameSend_of_command (hwait : s.sup.glk[g].cmdWait = true) :
    let n := (s.sup.glk[g].sent + 1) % 16
    exec (.gateLinkFrameSend g t) s = .next ((s.adv t).modGlk g fun y => y.commandSent n (s.glkCmdFrame g n)) :=
  (exec_gateLinkFrameSend_of_sending hon htest).trans (if_pos hwait)

theorem exec_gateLinkFrameSend_of_idle (hidle : s.sup.glk[g].cmdWait = false) :
    exec (.gateLinkFrameSend g t) s = .next ((s.adv t).modGlk g GlkSt.idleSent) :=
  (exec_gateLinkFrameSend_of_sending hon htest).trans (if_neg (Bool.eq_false_iff.1 hidle))

end

/-! ### The faults of a set: GATE_MISMATCH, MOD_TSD, GLK_LOST (R250, R251) -/

section
variable {s : State}

theorem exec_gateMismatch_of_due {n : Fin 48} (hdue : s.sup.glk[setOf n].gateDue.getLsbD (n.val % 6) = true) :
    let k := n.val % 6
    let u := s.modGlk (setOf n) fun x => { x with gateDue := x.gateDue &&& ~~~ (1#6 <<< k), gateRaised := x.gateRaised ||| (1#6 <<< k) }
    exec (.gateMismatch n) s = .next (u.faultSet (setOf n) 0 n 0x92 u.sup.glk[setOf n].lastSt) :=
  if_pos hdue

/-- A module at its limit for three frames is a fault of its set, stamped with the last frame accepted. -/
theorem exec_modTsd_of_third {l : Fin 24} {g : Fin 8} {k : Fin 3} (hg : g = Fin.ofNat 8 (l.val / 3)) (hk : k = Fin.ofNat 3 (l.val % 3))
    (hused : s.glkUsed g = true) (hthird : 3 ≤ s.sup.glk[g].tsdCnt[k]) (hfirst : s.sup.glk[g].tsdRaised.getLsbD k.val = false) :
    let u := s.modGlk g fun y => { y with tsdRaised := y.tsdRaised ||| (1#3 <<< k.val) }
    exec (.modTsd l) s = .next (u.faultSet g 1 l (0x94 + at_ (s.sup.glk[g].temp[k].getD 0) 8) s.sup.glk[g].lastSt) := by
  subst hg hk
  exact if_pos (by rw [hused, decide_eq_true hthird, hfirst]; rfl)

variable {g : Fin 8}

theorem exec_glkLost_of_silent {t : Time} (hused : s.glkUsed g = true) (hdrives : s.sets[g].driving = true)
    (hfirst : s.sup.glk[g].lostRaised = false) (hsilent : s.sup.glk[g].lastAt + 12 * us1 ≤ max s.time t) :
    let u := (s.adv t).modGlk g fun y => { y with lost := true, lostRaised := true }
    exec (.glkLost g t) s = .next (u.faultSet g 2 g 0x93 u.time) := by
  have hjudged : (s.glkUsed g && s.sets[g].driving && !s.sup.glk[g].lostRaised && decide (s.sup.glk[g].lastAt + 12 * us1 ≤ max s.time t)) =
      true := by rw [hused, hdrives, hfirst, decide_eq_true hsilent]; rfl
  exact if_pos hjudged

/-! ### GLK_ERROR (R249) -/

/-- An error rate of a link in use is reported once while it lasts. -/
theorem exec_glkError_of_erring (herr : s.glkErr g = true) (hused : s.glkUsed g = true) :
    exec (.glkError g) s = if s.sup.glk[g].errRaised then .next s
      else .next ((s.modGlk g fun x => { x with errRaised := true }).health 5 0x07 g 0 s.lastHr) :=
  if_pos (Bool.and_eq_true_iff.2 ⟨herr, hused⟩)

theorem exec_glkError_of_not (hno : s.glkErr g = false ∨ s.glkUsed g = false) :
    exec (.glkError g) s = .next (s.modGlk g fun x => { x with errRaised := false }) :=
  if_neg (Bool.eq_false_iff.1 (Bool.and_eq_false_iff.2 hno))

end

end Sys2Proof.Machine

namespace Sys2Proof.Claims
open Sys2Proof Sys2Proof.Machine

/-- Settles O48: a frame received by its checks and its sequence, one sent by whether a command waits, and each judgement by whether it is due. -/
theorem gateLinkRule : Obligations.GateLinkRule := by
  refine ⟨fun s g f ok t hreset hpwr htest => ⟨fun hbad => ?_, fun hmid hcrc htype => ?_⟩, fun s g t x hx hon htest => ?_,
    fun s n => exec_gateMismatch_of_due, fun s l g k => exec_modTsd_of_third, fun s g t => exec_glkLost_of_silent,
    fun s g => ⟨fun herr hused => ?_, exec_glkError_of_not⟩⟩
  · exact exec_telemetryFrame_of_bad hreset hpwr htest (telemetryOk_eq_false hbad)
  · have hgood := telemetryOk_eq_true hmid hcrc htype
    refine ⟨exec_telemetryFrame_of_out_of_sequence hreset hpwr htest hgood, fun hseen hunused => ?_⟩
    refine ⟨_, exec_telemetryFrame_of_first_unused hreset hpwr htest hgood hseen hunused, ?_⟩
    rw [State.glkAccepted, State.modGlk_glk_same]
    exact ⟨rfl, rfl, rfl, rfl, rfl⟩
  · subst hx
    refine ⟨fun hwait => ⟨_, exec_gateLinkFrameSend_of_command hon htest hwait, ?_⟩,
      fun hidle => ⟨_, exec_gateLinkFrameSend_of_idle hon htest hidle, ?_⟩⟩
    · rw [State.modGlk_glk_same]
      exact ⟨rfl, rfl, rfl⟩
    · rw [State.modGlk_glk_same]
      exact ⟨by rw [GlkSt.idleSent], rfl⟩
  · have hexec := exec_glkError_of_erring herr hused
    exact ⟨fun hfirst => by rw [hexec, if_neg (Bool.eq_false_iff.1 hfirst)], fun hraised => by rw [hexec, if_pos hraised]⟩

end Sys2Proof.Claims
end

section
/-! SUPPORT. DRIVE_START, DRIVE_STOP and REVERSE as they begin (R302, R324 to R326): what a quad with legal arguments does on the state with
the command taken, by its refusals in their order. -/
namespace Sys2Proof.Machine
open Sys2Proof Sys2Proof.Claims

/-- The machines that the mask of a DRIVE_START or DRIVE_STOP quad names. -/
abbrev driveMachines (s : State) (q : CmdQ) : List (Fin 2) := (taken s q).namedMach (bits q.arg0 1 0)

section
variable {s : State} {q : CmdQ} (hbegins : Begins s q) (harg1 : q.arg1 = 0)
include hbegins harg1

/-- DRIVE_START outside RETIRED: its refusals in their order (R324), or it waits for the SP boundary. -/
theorem exec_driveStart_of_begins (hres : bits q.arg0 31 2 = 0) (hlc : s.otp.lc ≠ 4) :
    let u := taken s q
    let reason := u.startReason (driveMachines s q)
    exec (.driveStart q) s = .next (
      if u.notOwner then done s q 0x12 stRefusedState 1
      else if u.thmHeld then done s q 0x12 stRefusedTemp 0
      else if s.pcr.warn != 0 then done s q 0x12 stRefusedSupply 0
      else if reason = 0 then waits s q 0x12 (u.spAfter u.time) (maskOf (driveMachines s q))
      else done s q 0x12 stRefusedState reason) := by
  intro u reason
  have hlive : ¬ (u.otp.lc == 4) = true := mt beq_iff_eq.1 hlc
  change execDriveStart q s = _
  rw [execDriveStart, harg1, hres]
  refine (runCmd_of_good_args hbegins _ _).trans (congrArg _ ((if_neg hlive).trans ?_))
  rcases hreason : reason with _ | k
  · rw [show (taken s q).startReason _ = 0 from hreason]; rfl
  · rw [show (taken s q).startReason _ = k + 1 from hreason]; rfl

/-- DRIVE_STOP asks only for ownership: it waits for the FP boundary (R326). -/
theorem exec_driveStop_of_begins (hres : bits q.arg0 31 3 = 0) :
    let u := taken s q
    exec (.driveStop q) s = .next (
      if u.notOwner then done s q 0x13 stRefusedState 0
      else waits s q 0x13 (u.fpAfter u.time) (maskOf (driveMachines s q))) := by
  change execDriveStop q s = _
  rw [execDriveStop, harg1, hres]
  exact runCmd_of_good_args hbegins _ _

/-- REVERSE of a configured machine: its refusals in their order, or it waits, not yet committed, for the SP boundary that judges it
(R64, R340). -/
theorem exec_reverse_of_begins {m : Fin 2} (hres : bits q.arg0 31 3 = 0) (hm : m = if q.arg0.getLsbD 0 then 1 else 0)
    (hen : s.machEn m = true) :
    let u := taken s q
    exec (.reverse q) s = .next (
      if u.notOwner then done s q 0x14 stRefusedState 0
      else if u.thmHeld then done s q 0x14 stRefusedTemp 0
      else u.awaitJudge (s.ctx q 0x14) (u.spAfter u.time) m.val) := by
  subst hm
  change execReverse q s = _
  simp only [execReverse]
  rw [harg1, hres, hen]
  exact runCmd_of_good_args hbegins _ _

end

end Sys2Proof.Machine

namespace Sys2Proof.Claims
open Sys2Proof Sys2Proof.Machine

/-- Settles O18: each command by its refusals, in their order, and where none applies by the boundary it waits for. -/
theorem driveCommandsWait : Obligations.DriveCommandsWait := by
  refine ⟨fun s q hbegins hres harg1 hlc => ?_, fun s q hbegins hres harg1 => ?_, fun s q m hbegins hres harg1 hm hen => ?_⟩
  · intro u
    rw [exec_driveStart_of_begins hbegins harg1 hres hlc]
    refine ⟨fun hno => by rw [if_pos hno], fun hown hheat => ?_, fun hown hcool hwarn => ?_, fun hown hcool hwarn hok => ?_,
      fun hown hcool hwarn hreason => ?_⟩
    · rw [if_neg (Bool.eq_false_iff.1 hown), if_pos hheat]
    · rw [if_neg (Bool.eq_false_iff.1 hown), if_neg (Bool.eq_false_iff.1 hcool), if_pos (bne_iff_ne.2 hwarn)]
    · rw [if_neg (Bool.eq_false_iff.1 hown), if_neg (Bool.eq_false_iff.1 hcool), hwarn, if_neg (by decide), if_pos hok]
    · rw [if_neg (Bool.eq_false_iff.1 hown), if_neg (Bool.eq_false_iff.1 hcool), hwarn, if_neg (by decide), if_neg hreason]
  · intro u
    rw [exec_driveStop_of_begins hbegins harg1 hres]
    exact ⟨fun hno => by rw [if_pos hno], fun hown => by rw [if_neg (Bool.eq_false_iff.1 hown)]⟩
  · intro u
    rw [exec_reverse_of_begins hbegins harg1 hres hm hen]
    refine ⟨fun hno => by rw [if_pos hno], fun hown hheat => ?_, fun hown hcool => ?_⟩
    · rw [if_neg (Bool.eq_false_iff.1 hown), if_pos hheat]
    · rw [if_neg (Bool.eq_false_iff.1 hown), if_neg (Bool.eq_false_iff.1 hcool)]

end Sys2Proof.Claims
end

section
/-! SUPPORT. Frames of the partner (R280, R288): a frame of its type that passes the checks and is not stale does what its row says to the state
that its header leaves; any other is only counted. -/
namespace Sys2Proof.Machine

/-- The state that the header of a frame taken at `t` leaves. -/
abbrev State.received (s : State) (f : List Quad) (t : Time) : State := (s.adv t).frameTaken (f.getD 0 0)

/-- The state once a SYNC has left its times: when it was sent, and when it was received. -/
def State.syncNoted (s : State) (f : List Quad) : State :=
  { s.freeNext with ypl := { s.ypl with
      syncTx := BitVec.ofNat 64 (bitsN (f.getD 1 0).toNat 63 0), syncRx := BitVec.ofNat 64 (ticksOf (s.stamp s.time)) } }

@[simp] theorem State.syncNoted_follower (s : State) (f : List Quad) : (s.syncNoted f).follower = s.follower := rfl

section
variable {s : State} {f : List Quad} {t : Time} (hon : (s.adv t).rxOn = true)
include hon

/-! ### FRAME_DISCARD (R280, R288) -/

/-- A frame that breaks no pattern of R279 is counted by what is wrong with it. -/
theorem exec_frameDiscard_of_well_framed : exec (.frameDiscard f true t) s = .next ((s.adv t).frameCount f) := by
  have hreceives : ¬ (!(s.adv t).rxOn || !true) = true := by rw [hon]; decide
  exact if_neg hreceives

theorem exec_frameDiscard_of_bad (hbad : (s.adv t).frameGood f = false) :
    exec (.frameDiscard f true t) s = .next ((s.adv t).rcount regYplCount 0 23 16 1) := by
  rw [exec_frameDiscard_of_well_framed hon, State.frameCount, hbad]; rfl

variable (hgood : (s.adv t).frameGood f = true)
include hgood

theorem exec_frameDiscard_of_stale (hstale : (s.adv t).frameStale f = true) :
    exec (.frameDiscard f true t) s = .next ((s.adv t).rcount regYplCount 0 31 24 1) := by
  rw [exec_frameDiscard_of_well_framed hon, State.frameCount, hgood, hstale]; rfl

/-! ### The frames taken -/

variable (hfresh : (s.adv t).frameStale f = false)
include hfresh

theorem State.rx_of_taken {type kind : Nat} (his : frameIs f type kind = true) (body : State → State) :
    s.rx f type kind t body = .next (body (s.received f t)) := by
  simp only [State.rx, hon, his, hgood, hfresh]; rfl

/-- A baton waits for its adoption in a device in shadow only (R286). -/
theorem exec_baton_of_taken (his : frameIs f 1 0 = true) :
    let v := s.received f t
    exec (.baton f t) s = .next (if v.shadow then { v with ypl := { v.ypl with next := some ⟨f.drop 1, v.time⟩ } } else v) := by
  change execBaton f t s = _
  rw [execBaton, State.rx_of_taken hon hgood hfresh his]

/-- A HEARTBEAT shows no more than its header. -/
theorem exec_heartbeat_of_taken (his : frameIs f 2 0 = true) : exec (.heartbeat f t) s = .next (s.received f t) := by
  change execHeartbeat f t s = _
  rw [execHeartbeat, State.rx_of_taken hon hgood hfresh his]

/-- A RELAY CLAIM deposes an owner by the epoch of its header (R288, R293). -/
theorem exec_relayClaim_of_taken (his : frameIs f 7 1 = true) : exec (.relayClaim f t) s = .next (s.received f t) := by
  change execRelayClaim f t s = _
  rw [execRelayClaim, State.rx_of_taken hon hgood hfresh his]

theorem exec_relayYield_of_standby (his : frameIs f 7 2 = true) (hrole : (s.received f t).ypl.role = .standby) :
    exec (.relayYield f t) s = .next ((s.received f t).declareLost 2 (s.received f t).time) := by
  change execRelayYield f t s = _
  rw [execRelayYield, State.rx_of_taken hon hgood hfresh his, if_pos (beq_iff_eq.2 hrole)]

/-- A REQUEST JOIN of a partner that is neither owner nor standby marks it as joining, and is answered (R299). -/
theorem exec_requestJoin_of_joining (his : frameIs f 3 1 = true) (howner : ownerCode (s.received f t).ypl.pRole.toNat = false)
    (hstandby : (s.received f t).ypl.pRole ≠ 1) :
    let v := s.received f t
    exec (.requestJoin f t) s = .next (({ v with ypl := { v.ypl with pJoining := true } } : State).reply 1 0) := by
  have hjoins : ¬ (ownerCode (s.received f t).ypl.pRole.toNat || (s.received f t).ypl.pRole == 1) = true := by
    rw [howner, beq_false_of_ne hstandby]
    decide
  change execRequestJoin f t s = _
  rw [execRequestJoin, State.rx_of_taken hon hgood hfresh his, if_neg hjoins]

/-- A REQUEST HAND-OVER is refused by a device that is no fit standby; a fit one prepares for B_h and accepts (R298). -/
theorem exec_requestHandover_of_taken (his : frameIs f 3 2 = true) :
    let v := s.received f t
    exec (.requestHandover f t) s = .next (
      if v.ypl.role != .standby then v.reply 2 1
      else if !v.fitNow then v.reply 2 2
      else ({ v with ypl := { v.ypl with hoAt := some (bitsN (f.getD 1 0).toNat 127 64 * v.fp), hoOut := false, hoPrep := false } } :
        State).reply 2 0) := by
  change execRequestHandover f t s = _
  rw [execRequestHandover, State.rx_of_taken hon hgood hfresh his]

/-- The partner's request for a report is the only one that waits (R417, R420). -/
theorem exec_requestAttestNonce_of_empty (his : frameIs f 3 3 = true) (hempty : (s.received f t).msr.queue = []) :
    let v := s.received f t
    exec (.requestAttestNonce f t) s =
      .next { v with msr := { v.msr with queue := [⟨2, BitVec.ofNat 256 ((f.getD 2 0).toNat + at_ (f.getD 3 0).toNat 128)⟩] } } := by
  change execRequestAttestNonce f t s = _
  rw [execRequestAttestNonce, State.rx_of_taken hon hgood hfresh his]
  dsimp only
  rw [hempty]
  rfl

/-- A REPLY that accepts the hand-over which this device has asked for is noted (R297). -/
theorem exec_reply_of_accepting (his : frameIs f 4 0 = true) (hkind : fKind f = 2) (hcode : bitsN (f.getD 1 0).toNat 15 8 = 0)
    (hout : (s.received f t).ypl.hoOut = true) (hat : (s.received f t).ypl.hoAt ≠ none) :
    let v := s.received f t
    exec (.reply f t) s = .next { v with ypl := { v.ypl with hoReply := true } } := by
  have haccepts : (fKind f == 2 && bitsN (f.getD 1 0).toNat 15 8 == 0 && (s.received f t).ypl.hoOut && (s.received f t).ypl.hoAt.isSome) =
      true := by
    rw [hkind, hcode, hout, Option.isSome_iff_ne_none.2 hat]
    rfl
  change execReply f t s = _
  rw [execReply, State.rx_of_taken hon hgood hfresh his, if_pos haccepts]

/-- A fragment takes the place of an older one of its number (R420). -/
theorem exec_attestFrame_of_taken (his : frameIs f 6 0 = true) :
    let v := s.received f t
    let n := bitsN (f.getD 1 0).toNat 7 0
    exec (.attestFrame f t) s = .next { v with ypl := { v.ypl with
      frags := v.ypl.frags.filter (fun y => y.1 != n) ++ [(n, bitsN (f.getD 1 0).toNat 15 8, f.drop 2)] } } := by
  change execAttestFrame f t s = _
  rw [execAttestFrame, State.rx_of_taken hon hgood hfresh his]

/-- A device that does not follow the partner's Pacer measures no offset (R283). -/
theorem exec_sync_of_not_follower (his : frameIs f 5 0 = true) (hlead : (s.received f t).follower = false) :
    exec (.sync f t) s = .next ((s.received f t).syncNoted f) := by
  have hmeasures : ¬ (((s.received f t).syncNoted f).follower && bitsN (f.getD 2 0).toNat 63 0 != 0) = true := by
    rw [State.syncNoted_follower, hlead, Bool.false_and]
    exact Bool.false_ne_true
  change execSync f t s = _
  rw [execSync, State.rx_of_taken hon hgood hfresh his]
  exact congrArg _ (if_neg hmeasures)

end

end Sys2Proof.Machine

namespace Sys2Proof.Claims
open Sys2Proof Sys2Proof.Machine

/-- Settles O37: each type of frame by what the state after its header decides, and a frame not taken by what is wrong with it. -/
theorem pairFramesAccepted : Obligations.PairFramesAccepted := by
  intro s f t hon u
  refine ⟨fun hgood hfresh => ?_, exec_frameDiscard_of_bad hon, exec_frameDiscard_of_stale hon⟩
  refine ⟨fun his hshadow => ?_, fun his hno => ?_, exec_heartbeat_of_taken hon hgood hfresh, exec_relayClaim_of_taken hon hgood hfresh,
    exec_relayYield_of_standby hon hgood hfresh, exec_requestJoin_of_joining hon hgood hfresh, fun his hrole => ?_,
    fun his hrole hfit => ?_, exec_requestAttestNonce_of_empty hon hgood hfresh, exec_reply_of_accepting hon hgood hfresh,
    exec_attestFrame_of_taken hon hgood hfresh,
    fun his hlead => ⟨_, exec_sync_of_not_follower hon hgood hfresh his hlead, rfl, rfl, rfl⟩⟩
  · exact (exec_baton_of_taken hon hgood hfresh his).trans (congrArg _ (if_pos hshadow))
  · exact (exec_baton_of_taken hon hgood hfresh his).trans (congrArg _ (if_neg (Bool.eq_false_iff.1 hno)))
  · exact (exec_requestHandover_of_taken hon hgood hfresh his).trans (congrArg _ (if_pos (bne_iff_ne.2 hrole)))
  · have hstandby : ¬ ((s.received f t).ypl.role != .standby) = true := by rw [hrole]; decide
    have hready : ¬ (!(s.received f t).fitNow) = true := by rw [hfit]; decide
    exact (exec_requestHandover_of_taken hon hgood hfresh his).trans (congrArg _ ((if_neg hstandby).trans (if_neg hready)))

end Sys2Proof.Claims
end

section
/-! SUPPORT. What a device of a pair sends on its own, the adoption of a baton, the alignment of the Pacer and the lanes (R278, R279, R281,
R283, R284, R286, R289). -/
namespace Sys2Proof.Machine

section
variable {s : State} {t : Time}

/-! ### HEARTBEAT_SEND and SYNC_SEND (R238, R281, R283) -/

theorem exec_heartbeatSend_of_due (hmay : (s.adv t).maySend = true) (hgo : s.sup.hbStop = false)
    (hdue : s.ypl.lastTx + 1000 ≤ max s.time t) : exec (.heartbeatSend t) s = .next ((s.adv t).sendFrame 2 []) := by
  have hsends : ((s.adv t).maySend && !s.sup.hbStop && decide (s.ypl.lastTx + 1000 ≤ max s.time t)) = true := by
    rw [hmay, hgo, decide_eq_true hdue]; rfl
  exact if_pos hsends

/-- Heartbeats that a yield has stopped stay stopped. -/
theorem exec_heartbeatSend_of_stopped (hstop : s.sup.hbStop = true) : exec (.heartbeatSend t) s = .next (s.adv t) := by
  have hsilent : ¬ ((s.adv t).maySend && !s.sup.hbStop && decide (s.ypl.lastTx + 1000 ≤ max s.time t)) = true := by
    rw [hstop, Bool.not_true, Bool.and_false, Bool.false_and]
    exact Bool.false_ne_true
  exact if_neg hsilent

/-- The two quads of a SYNC: the instant of sending, and the two times of the last SYNC received. -/
abbrev State.syncQuads (s : State) : List Quad :=
  [BitVec.ofNat 128 (s.pacTime % 2 ^ 64 + at_ s.ypl.syncRx.toNat 64), BitVec.ofNat 128 s.ypl.syncTx.toNat]

theorem exec_syncSend_of_due (hmay : (s.adv t).maySend = true) (hpair : (s.adv t).inPair = true)
    (hdue : s.ypl.lastSync + 10 * us1 ≤ max s.time t) :
    let u := (s.adv t).sendFrame 5 (s.adv t).syncQuads
    exec (.syncSend t) s = .next { u with ypl := { u.ypl with lastSync := u.time } } := by
  have hsends : ((s.adv t).maySend && (s.adv t).inPair && decide (s.ypl.lastSync + 10 * us1 ≤ max s.time t)) = true := by
    rw [hmay, hpair, decide_eq_true hdue]; rfl
  exact if_pos hsends

/-! ### BATON_ADOPTION and DIVERGENCE (R286, R289) -/

theorem exec_batonAdoption_of_waiting {x : BatonSt} (hnext : s.ypl.next = some x) (hshadow : s.shadow = true) :
    let b := max s.time (s.fpAfter x.at_)
    exec .batonAdoption s = .next ((s.adv b).adopt x b) := by
  change execBatonAdoption s = _
  simp only [execBatonAdoption, hnext]
  exact if_pos hshadow

theorem exec_divergence_of_due {m : Fin 2} (hdue : s.ypl.divDue[m] = true) :
    let u : State := { s with ypl := { s.ypl with diverged := true, divDue := s.ypl.divDue.set m false } }
    exec (.divergence m) s = .next (u.raise 7 5 u.posIdx 0 (0xB4 + at_ m.val 8 + at_ (uns s.ypl.divLast[m] 16) 16) s.time) :=
  if_pos hdue

/-! ### The alignment of the Pacer (R283, R284) -/

theorem exec_alignmentAcquired_of_good (hgood : 8 ≤ s.ypl.good) (hnot : s.ypl.aligned = false) :
    exec .alignmentAcquired s = .next { s with ypl := { s.ypl with aligned := true } } :=
  if_pos ⟨hgood, Bool.eq_false_iff.1 hnot⟩

theorem exec_alignLost_of_bad (hbad : 8 ≤ s.ypl.bad) (haligned : s.ypl.aligned = true) :
    exec .alignLost s = .next (({ s with ypl := { s.ypl with aligned := false } } : State).pairEvt 0xB9 s.time) :=
  if_pos ⟨hbad, haligned⟩

/-- The instant lies at least 100 ns from the FP boundaries beside it. -/
def State.awayFromFp (s : State) : Bool := decide (200 ≤ s.time % s.fp) && decide (s.time % s.fp + 200 ≤ s.fp)

/-- A follower whose Pacer is late sets it one tick on. -/
theorem exec_pacerCorrection_of_late (hfollows : (s.adv t).follower = true) (haligned : s.ypl.aligned = true) (hlate : s.ypl.left < 0)
    (hdue : s.ypl.corrAt + 10 * us1 ≤ max s.time t) (hclear : (s.adv t).awayFromFp = true) :
    let u := s.adv t
    exec (.pacerCorrection t) s = .next { u with
      time := u.time + 5
      ypl := { u.ypl with corrAt := u.time, corrs := (s.ypl.corrs + 1) % 65536, left := s.ypl.left + 5 } } := by
  have hcorrects : ((s.adv t).follower && (s.ypl.stepped || s.ypl.aligned) && s.ypl.left != 0 &&
      decide (s.ypl.corrAt + 10 * us1 ≤ max s.time t) && (s.adv t).awayFromFp) = true := by
    rw [hfollows, haligned, bne_iff_ne.2 hlate.ne, decide_eq_true hdue, hclear, Bool.or_true]; rfl
  refine (if_pos hcorrects).trans ?_
  simp only [State.adv_ypl, hlate, decide_true, if_true]

/-! ### The lanes (R278, R279) -/

variable {l : Fin 2}

theorem exec_laneBlockLock_of_good (hen : s.pairEn = true) (hreset : s.pcr.asserted = none) (hgood : s.ypl.laneBad.getLsbD l = false) :
    exec (.laneBlockLock l t) s = .next { s.adv t with ypl := { s.ypl with lanes := s.ypl.lanes ||| (1#2 <<< l.val) } } := by
  have hlocks : (s.pairEn && s.pcr.asserted.isNone && !s.ypl.laneBad.getLsbD l) = true := by
    rw [hen, hreset, hgood]; rfl
  exact if_pos hlocks

theorem exec_laneFail_of_up (hup : s.ypl.lanes.getLsbD l = true) :
    exec (.laneFail l t) s = .next (({ s.adv t with ypl := { s.ypl with
      lanes := s.ypl.lanes &&& ~~~ (1#2 <<< l.val), laneBad := s.ypl.laneBad ||| (1#2 <<< l.val) } } : State).health 4 0x0C l.val 0
        (max s.time t)) :=
  if_pos hup

end

end Sys2Proof.Machine

namespace Sys2Proof.Claims
open Sys2Proof Sys2Proof.Machine

/-- Settles O38: each row where it is due, with what it then sends, adopts, raises or corrects. -/
theorem pairSendsAndAdopts : Obligations.PairSendsAndAdopts := by
  refine ⟨fun s t hmay => ⟨exec_heartbeatSend_of_due hmay, exec_heartbeatSend_of_stopped, exec_syncSend_of_due hmay⟩,
    fun s x => exec_batonAdoption_of_waiting, fun s m => exec_divergence_of_due,
    fun s => ⟨exec_alignmentAcquired_of_good, exec_alignLost_of_bad⟩, fun s t => ?_,
    fun s l t => ⟨exec_laneBlockLock_of_good, exec_laneFail_of_up⟩⟩
  intro u hfollows haligned hlate hdue hafter hbefore
  have hclear : u.awayFromFp = true := by rw [State.awayFromFp, decide_eq_true hafter, decide_eq_true hbefore]; rfl
  exact exec_pacerCorrection_of_late hfollows haligned hlate hdue hclear

end Sys2Proof.Claims
end

section
/-! SUPPORT. The roles of a pair (R272, R273, R276, R291 to R295): the loss of the partner, the take-over, YIELD_IN and collisions, each row by what
decides it. -/
namespace Sys2Proof.Machine

section
variable {s : State} {t : Time}

/-! ### PARTNER_LOST (R292, R297) -/

/-- A standby's PARTNER_LOST is raised with its own fitness, and a hand-over in preparation ends. -/
def State.lossNoted (s : State) (cause : Nat) (t : Time) : State :=
  { s with ypl := { s.ypl with hoAt := none, hoPrep := false } }.raise 7 5 (1 - s.posIdx) 0
    (0xB1 + at_ cause 8 + at_ (b2n (!s.fitNow)) 10) t

theorem State.declareLost_of_fit (hfit : s.fitNow = true) (cause : Nat) : s.declareLost cause t = (s.lossNoted cause t).relay t :=
  if_pos hfit

theorem State.declareLost_of_unfit (hunfit : s.fitNow = false) (cause : Nat) :
    s.declareLost cause t = (s.lossNoted cause t).leaveDrive .unjoined t :=
  if_neg (Bool.eq_false_iff.1 hunfit)

theorem State.activeToSolo_of_asked (hout : s.ypl.hoOut = true) :
    let v := s.dropHandover stRefusedState 7
    s.activeToSolo = { v with ypl := { v.ypl with role := .solo } } := by
  rw [State.activeToSolo, if_pos hout]

theorem State.activeToSolo_of_not_asked (hout : s.ypl.hoOut = false) : s.activeToSolo = { s with ypl := { s.ypl with role := .solo } } := by
  rw [State.activeToSolo, if_neg (Bool.eq_false_iff.1 hout)]

/-- LOSS_T has passed at `t` since the last frame of a partner that was there. -/
def State.partnerSilent (s : State) (t : Time) : Bool :=
  s.pairEn && s.ypl.seen && decide (s.ypl.lastRx + 200 * s.rf regYplCfg 0 12 8 ≤ max s.time t)

theorem exec_partnerLost_of_standby (hlost : s.partnerSilent t = true) (hrole : s.ypl.role = .standby) :
    exec (.partnerLost t) s = .next ((s.adv t).declareLost 1 (s.adv t).time) := by
  refine (if_pos hlost).trans ?_
  rw [State.adv_ypl, hrole]

theorem exec_partnerLost_of_active (hlost : s.partnerSilent t = true) (hrole : s.ypl.role = .active) :
    exec (.partnerLost t) s = .next (s.adv t).activeToSolo := by
  refine (if_pos hlost).trans ?_
  rw [State.adv_ypl, hrole]

theorem exec_partnerLost_of_other (hlost : s.partnerSilent t = true) (hstandby : s.ypl.role ≠ .standby) (hactive : s.ypl.role ≠ .active) :
    exec (.partnerLost t) s = .next (s.adv t) := by
  refine (if_pos hlost).trans ?_
  rw [State.adv_ypl]
  cases hrole : s.ypl.role with
  | standby => exact absurd hrole hstandby
  | active => exact absurd hrole hactive
  | unjoined | lockout | solo => rfl

/-! ### TAKEOVER and CLAIM_BLOCKED (R293) -/

theorem quiet_takeoverSeqs (s : State) (t : Time) : Quiet s (s.takeoverSeqs t) := by
  unfold State.takeoverSeqs
  extract_lets f ok u v
  have hu : Quiet s u := quiet_forFin fun x n => quiet_rset x regYplTakeoverSeq n _
  have hv : Quiet u v := quiet_forFin fun x _ => quiet_recoveryQuad x _ t
  exact (hu.trans hv).trans (quiet_recoveryQuad v _ _)

/-- Of the pair's state a take-over changes OWN and its boundary only. -/
theorem State.takeOver_ypl (s : State) (t : Time) : (s.takeOver t).ypl = { s.ypl with own := true, ownAt := none } := by
  unfold State.takeOver
  extract_lets t2 y owner sets chans mach v
  have hsets : sets.ypl = owner.ypl := by apply forFin_proj State.ypl; exact fun _ _ => rfl
  have hchans : chans.ypl = sets.ypl := by apply forFin_proj State.ypl; exact fun _ _ => rfl
  have hmach : mach.ypl = chans.ypl := by apply forFin_proj State.ypl; exact fun _ _ => rfl
  have hevent : v.ypl = mach.ypl := State.raise_ypl mach _ _ _ _ _ _
  rw [(quiet_takeoverSeqs v t).ypl_eq, hevent, hmach, hchans, hsets]

/-- At its boundary a claim that still stands takes over, if YIELD_IN is low. -/
theorem exec_takeover_of_boundary {b : Time} (hat : s.ypl.ownAt = some b) : exec .takeover s =
    if s.ypl.claim && !s.ypl.yieldIn then .next ((s.adv b).takeOver (max s.time b)) else .next (s.adv b) := by
  change execTakeover s = _
  rw [execTakeover, hat]
  rfl

theorem exec_takeover_of_none (hnone : s.ypl.ownAt = none) : exec .takeover s = .next s := by
  change execTakeover s = _
  rw [execTakeover, hnone]

theorem exec_claimBlocked_of_due {c : Time} (hclaimed : s.ypl.claimAt = some c) (hclaim : s.ypl.claim = true) (hyield : s.ypl.yieldIn = true)
    (hwait : s.ypl.ownAt ≠ none) (hfirst : s.ypl.blocked = false) (hdue : c + 10 * us1 ≤ max s.time t) :
    let u := s.adv t
    exec (.claimBlocked t) s = .next (({ u with ypl := { u.ypl with blocked := true } } : State).pairEvt 0xBA u.time) := by
  change execClaimBlocked t s = _
  simp only [execClaimBlocked, State.adv_ypl, State.adv_time, hclaimed, hclaim, hyield, Option.isSome_iff_ne_none.2 hwait, hfirst, hdue]
  rfl

theorem exec_claimBlocked_of_raised (hraised : s.ypl.blocked = true) : exec (.claimBlocked t) s = .next (s.adv t) := by
  change execClaimBlocked t s = _
  simp only [execClaimBlocked, State.adv_ypl, hraised, Bool.not_true, Bool.and_false, Bool.false_and, Bool.false_eq_true, if_false]
  cases s.ypl.claimAt <;> rfl

/-! ### YIELD_IN_RISE (R228, R273, R295) -/

/-- YIELD_IN is high from now on: CMP_FLT_SEEN and the pulse-generator block of a self-test take note. -/
def State.yieldNoted (s : State) : State :=
  { s.rset regCmpFltSeen 0 (s.rget regCmpFltSeen 0 ||| 0x200) with
    ypl := { s.ypl with yieldIn := true }, lts := { s.lts with stYield := s.lts.stYield || (s.pairEn && s.selfBlock == some 2) } }

/-- A self-test that drives the pins ends with YIELD_IN, and its edges with it. -/
def State.yieldRisen (s : State) : State :=
  if s.pairEn && s.selfBlock == some 2 then { s.releaseAll s.time with edges := [] } else s

/-- OWN and CLAIM fall in hardware (R273). -/
def State.pinsLowered (s : State) : State := { s with ypl := { s.ypl with own := false, claim := false } }

/-- CLAIM rose at most 200 ns before `t`. -/
def YplSt.claimNear (y : YplSt) (t : Time) : Bool :=
  match y.claimAt with
  | some c => decide (c ≤ t) && decide (t ≤ c + 400)
  | none => false

theorem YplSt.claimNear_iff {y : YplSt} : y.claimNear t = true ↔ ∃ c, y.claimAt = some c ∧ c ≤ t ∧ t ≤ c + 400 := by
  rw [YplSt.claimNear]
  cases y.claimAt with
  | none => simp
  | some c => simp

/-- B_h of the accepted hand-over that this device has asked for is at most 10 ns after `t`, or has come. -/
def YplSt.swapNear (y : YplSt) (t : Time) : Bool :=
  match y.hoAt with
  | some b => y.hoOut && y.hoReply && decide (b ≤ t + 20)
  | none => false

theorem YplSt.swapNear_iff {y : YplSt} :
    y.swapNear t = true ↔ y.hoOut = true ∧ y.hoReply = true ∧ ∃ b, y.hoAt = some b ∧ b ≤ t + 20 := by
  rw [YplSt.swapNear]
  cases y.hoAt with
  | none => simp
  | some b => simp [and_assoc]

/-- To an owner that heeds YIELD_IN a claim just made is a collision; in the exchange of a hand-over its pins are only released, and otherwise
it is deposed. -/
theorem exec_yieldInRise_by_claim (t : Time) :
    let u := (s.adv t).yieldNoted.yieldRisen
    let v := u.pinsLowered
    exec (.yieldInRise t) s =
      if !u.pairEn || u.ypl.claimFell.isSome || !u.owner then .next u
      else if u.ypl.claimNear u.time then .next (v.collide u.time)
      else if u.ypl.swapNear u.time then .next (v.releaseAll u.time)
      else .next (v.depose 0 u.time) :=
  rfl

theorem exec_yieldInRise_of_unheeded
    (hno : (s.adv t).yieldNoted.yieldRisen.owner = false ∨ (s.adv t).yieldNoted.yieldRisen.pairEn = false ∨
      (s.adv t).yieldNoted.yieldRisen.ypl.claimFell ≠ none) :
    exec (.yieldInRise t) s = .next (s.adv t).yieldNoted.yieldRisen := by
  refine (exec_yieldInRise_by_claim t).trans (if_pos ?_)
  rcases hno with howner | hpair | hback
  · rw [howner, Bool.not_false, Bool.or_true]
  · rw [hpair]; rfl
  · rw [Option.isSome_iff_ne_none.2 hback, Bool.or_true, Bool.true_or]

theorem exec_yieldInRise_of_heeded (howner : (s.adv t).yieldNoted.yieldRisen.owner = true)
    (hpair : (s.adv t).yieldNoted.yieldRisen.pairEn = true) (hfront : (s.adv t).yieldNoted.yieldRisen.ypl.claimFell = none) :
    let u := (s.adv t).yieldNoted.yieldRisen
    let v := u.pinsLowered
    exec (.yieldInRise t) s = .next (
      if u.ypl.claimNear u.time then v.collide u.time
      else if u.ypl.swapNear u.time then v.releaseAll u.time
      else v.depose 0 u.time) := by
  intro u v
  refine (exec_yieldInRise_by_claim t).trans ((if_neg ?_).trans ?_)
  · rw [howner, hpair, hfront]; decide
  · rw [apply_ite Host.Outcome.next, apply_ite Host.Outcome.next]

/-! ### YIELD_IN_FALL (R293) -/

/-- The state with YIELD_IN low. -/
def State.yieldLow (s : State) : State := { s with ypl := { s.ypl with yieldIn := false } }

/-- What a claim that stands then gains: an owner's OWN, or the take-over that YIELD_IN has held up past its boundary. -/
def State.claimFreed (s : State) : Host.Outcome State Fault Refusal :=
  match s.ypl.ownAt with
  | some b => if b ≤ s.time then .next (s.takeOver s.time).retrip else .next s
  | none => .next ({ s with ypl := { s.ypl with own := true } } : State).retrip

theorem State.claimFreed_of_owning (hat : s.ypl.ownAt = none) :
    s.claimFreed = .next ({ s with ypl := { s.ypl with own := true } } : State).retrip := by
  rw [State.claimFreed, hat]

theorem State.claimFreed_of_past {b : Time} (hat : s.ypl.ownAt = some b) (hpast : b ≤ s.time) :
    s.claimFreed = .next (s.takeOver s.time).retrip := by
  rw [State.claimFreed, hat]
  exact if_pos hpast

theorem State.claimFreed_of_coming {b : Time} (hat : s.ypl.ownAt = some b) (hcoming : s.time < b) : s.claimFreed = .next s := by
  rw [State.claimFreed, hat]
  exact if_neg (Nat.not_le_of_lt hcoming)

theorem exec_yieldInFall_by_claim (t : Time) :
    exec (.yieldInFall t) s =
      if s.owner && s.ypl.claim && s.ypl.claimFell.isNone then (s.adv t).yieldLow.claimFreed else .next (s.adv t).yieldLow :=
  rfl

theorem exec_yieldInFall_of_unclaimed (hno : s.owner = false ∨ s.ypl.claim = false ∨ s.ypl.claimFell ≠ none) :
    exec (.yieldInFall t) s = .next (s.adv t).yieldLow := by
  refine (exec_yieldInFall_by_claim t).trans (if_neg (Bool.eq_false_iff.1 ?_))
  rcases hno with howner | hclaim | hback
  · rw [howner]; rfl
  · rw [hclaim, Bool.and_false]; rfl
  · rw [Option.isNone_eq_false_iff.2 (Option.isSome_iff_ne_none.2 hback), Bool.and_false]

theorem exec_yieldInFall_of_claimed (howner : s.owner = true) (hclaim : s.ypl.claim = true) (hfront : s.ypl.claimFell = none) :
    exec (.yieldInFall t) s = (s.adv t).yieldLow.claimFreed :=
  (exec_yieldInFall_by_claim t).trans (if_pos (by rw [howner, hclaim, hfront]; rfl))

/-! ### The end of a collision (R276, R295) -/

/-- A claim made again after a collision: the role before it stays known, and OWN rises at the second FP boundary. -/
def State.reclaimed (s : State) : State :=
  let v := s.claimNow s.ypl.role (if s.ypl.roleWas = .standby then s.ypl.epoch + 1 else s.ownerEpoch) s.time
  { v with ypl := { v.ypl with roleWas := s.ypl.roleWas, ownAt := some (v.secondFp v.time) } }

section
variable {f : Time} (hfell : s.ypl.claimFell = some f)
include hfell

theorem exec_collisionReclaim_of_back_off :
    exec (.collisionReclaim t) s =
      if !s.posB && !s.ypl.yieldIn && decide (f + 2 * us1 ≤ max s.time t) then .next (s.adv t).reclaimed else .next (s.adv t) := by
  change execCollisionReclaim t s = _
  simp only [execCollisionReclaim, State.adv_ypl, hfell, beq_iff_eq]
  rfl

theorem exec_collisionReclaim_of_clear (hposA : s.posB = false) (hlow : s.ypl.yieldIn = false) (hdue : f + 2 * us1 ≤ max s.time t) :
    exec (.collisionReclaim t) s = .next (s.adv t).reclaimed :=
  (exec_collisionReclaim_of_back_off hfell).trans (if_pos (by rw [hposA, hlow, decide_eq_true hdue]; rfl))

theorem exec_collisionReclaim_of_held (hno : s.posB = true ∨ s.ypl.yieldIn = true ∨ max s.time t < f + 2 * us1) :
    exec (.collisionReclaim t) s = .next (s.adv t) := by
  refine (exec_collisionReclaim_of_back_off hfell).trans (if_neg (Bool.eq_false_iff.1 ?_))
  rcases hno with hposB | hhigh | hearly
  · rw [hposB]; rfl
  · rw [hhigh, Bool.not_true, Bool.and_false, Bool.false_and]
  · rw [decide_eq_false (Nat.not_le_of_lt hearly), Bool.and_false]

theorem exec_collisionBackoffEnd_of_back_off :
    exec (.collisionBackoffEnd t) s =
      if s.posB && decide (f + 20 * us1 ≤ max s.time t) then .next (
        if s.ypl.roleWas == .standby && decide (f < s.ypl.lastRx) then
          { s.adv t with ypl := { s.ypl with role := .standby, claimAt := none, claimFell := none } }
        else (s.adv t).leaveDrive (if s.ypl.roleWas == .standby then .unjoined else s.ypl.roleWas) (max s.time t))
      else .next (s.adv t) := by
  change execCollisionBackoffEnd t s = _
  rw [apply_ite Host.Outcome.next]
  simp only [execCollisionBackoffEnd, State.adv_ypl, hfell]
  rfl

theorem exec_collisionBackoffEnd_of_early (hno : s.posB = false ∨ max s.time t < f + 20 * us1) :
    exec (.collisionBackoffEnd t) s = .next (s.adv t) := by
  refine (exec_collisionBackoffEnd_of_back_off hfell).trans (if_neg (Bool.eq_false_iff.1 ?_))
  rcases hno with hposA | hearly
  · rw [hposA, Bool.false_and]
  · rw [decide_eq_false (Nat.not_le_of_lt hearly), Bool.and_false]

variable (hposB : s.posB = true) (hdue : f + 20 * us1 ≤ max s.time t)
include hposB hdue

/-- Position B gives its claim up and takes its former role; a former STANDBY only if it has heard its partner since, and else it becomes
UNJOINED. -/
theorem exec_collisionBackoffEnd_of_due :
    exec (.collisionBackoffEnd t) s = .next (
      if s.ypl.roleWas == .standby && decide (f < s.ypl.lastRx) then
        { s.adv t with ypl := { s.ypl with role := .standby, claimAt := none, claimFell := none } }
      else (s.adv t).leaveDrive (if s.ypl.roleWas == .standby then .unjoined else s.ypl.roleWas) (max s.time t)) :=
  (exec_collisionBackoffEnd_of_back_off hfell).trans (if_pos (by rw [hposB, decide_eq_true hdue]; rfl))

theorem exec_collisionBackoffEnd_of_heard_standby (hwas : s.ypl.roleWas = .standby) (hheard : f < s.ypl.lastRx) :
    exec (.collisionBackoffEnd t) s =
      .next { s.adv t with ypl := { s.ypl with role := .standby, claimAt := none, claimFell := none } } :=
  (exec_collisionBackoffEnd_of_due hfell hposB hdue).trans (congrArg _ (if_pos (by rw [hwas, decide_eq_true hheard]; rfl)))

theorem exec_collisionBackoffEnd_of_silent_standby (hwas : s.ypl.roleWas = .standby) (hsilent : s.ypl.lastRx ≤ f) :
    exec (.collisionBackoffEnd t) s = .next ((s.adv t).leaveDrive .unjoined (max s.time t)) := by
  rw [exec_collisionBackoffEnd_of_due hfell hposB hdue, hwas, decide_eq_false (Nat.not_lt_of_le hsilent)]
  rfl

theorem exec_collisionBackoffEnd_of_other (hwas : s.ypl.roleWas ≠ .standby) :
    exec (.collisionBackoffEnd t) s = .next ((s.adv t).leaveDrive s.ypl.roleWas (max s.time t)) := by
  rw [exec_collisionBackoffEnd_of_due hfell hposB hdue, beq_false_of_ne hwas]
  rfl

end

end

/-! ### FITNESS (R291) -/

/-- A change of a standby's fitness is stored and reported, with the condition of Table 11.6 that fails. -/
theorem exec_fitness_of_change {s : State} (hrole : s.ypl.role = .standby) (hchange : s.fitNow ≠ s.ypl.fit) :
    let u : State := { s with ypl := { s.ypl with fit := s.fitNow } }
    exec .fitness s = .next (u.pairEvt (0xB5 + at_ (b2n s.fitNow) 8 + at_ u.unfitBy 9) s.time) :=
  if_pos (Bool.and_eq_true_iff.2 ⟨beq_iff_eq.2 hrole, bne_iff_ne.2 hchange⟩)

theorem exec_fitness_of_no_change {s : State} (hno : s.ypl.role ≠ .standby ∨ s.fitNow = s.ypl.fit) : exec .fitness s = .next s := by
  refine if_neg (mt Bool.and_eq_true_iff.1 ?_)
  rintro ⟨hrole, hchange⟩
  exact hno.elim (fun h => h (beq_iff_eq.1 hrole)) (bne_iff_ne.1 hchange)

end Sys2Proof.Machine

namespace Sys2Proof.Claims
open Sys2Proof Sys2Proof.Machine

/-- Settles O39: each row by the condition that decides it; YIELD_IN by whether it is heeded and by how near a claim or an exchange is. -/
theorem rolesRule : Obligations.RolesRule := by
  refine ⟨fun s t hen hseen hsilent => ?_, fun s b hat => ?_, fun s => exec_takeover_of_none,
    fun s c t hclaimed hclaim hyield hwait hfirst hdue => ?_, fun s t => exec_claimBlocked_of_raised, fun s t => ?_, fun s t => ?_,
    fun s f t hfell => ?_, fun s => ⟨exec_fitness_of_change, exec_fitness_of_no_change⟩⟩
  · have hlost : s.partnerSilent t = true := by rw [State.partnerSilent, hen, hseen, decide_eq_true hsilent]; rfl
    refine ⟨fun hrole => ⟨fun hfit => ?_, fun hunfit => ?_⟩, fun hrole hout => ?_, fun hrole hout => ?_, exec_partnerLost_of_other hlost⟩
    · rw [exec_partnerLost_of_standby hlost hrole, State.declareLost_of_fit hfit]; rfl
    · rw [exec_partnerLost_of_standby hlost hrole, State.declareLost_of_unfit hunfit]; rfl
    · exact (exec_partnerLost_of_active hlost hrole).trans (congrArg _ (State.activeToSolo_of_not_asked hout))
    · exact (exec_partnerLost_of_active hlost hrole).trans (congrArg _ (State.activeToSolo_of_asked hout))
  · rw [exec_takeover_of_boundary hat]
    refine ⟨fun hclaim hyield => ⟨_, if_pos (by rw [hclaim, hyield]; rfl), rfl, ?_⟩, fun hno => if_neg ?_⟩
    · rw [State.takeOver_ypl]
      exact ⟨rfl, rfl⟩
    · rcases hno with hclaim | hyield
      · rw [hclaim, Bool.false_and]; exact Bool.false_ne_true
      · rw [hyield, Bool.not_true, Bool.and_false]; exact Bool.false_ne_true
  · refine ⟨_, exec_claimBlocked_of_due hclaimed hclaim hyield hwait hfirst hdue, rfl, ?_⟩
    rw [State.pairEvt, State.raise_ypl]
  · refine ⟨exec_yieldInRise_of_unheeded, fun howner hpair hfront => ?_⟩
    have hexec := exec_yieldInRise_of_heeded howner hpair hfront
    refine ⟨fun hnear => ?_, fun hfar hswap => ?_, fun hfar hno => ?_⟩
    · exact hexec.trans (congrArg _ (if_pos (YplSt.claimNear_iff.2 hnear)))
    · exact hexec.trans (congrArg _ ((if_neg (mt YplSt.claimNear_iff.1 hfar)).trans (if_pos (YplSt.swapNear_iff.2 hswap))))
    · exact hexec.trans (congrArg _ ((if_neg (mt YplSt.claimNear_iff.1 hfar)).trans (if_neg (mt YplSt.swapNear_iff.1 hno))))
  · refine ⟨exec_yieldInFall_of_unclaimed, fun howner hclaim hfront => ?_⟩
    rw [exec_yieldInFall_of_claimed howner hclaim hfront]
    exact ⟨State.claimFreed_of_owning (s := (s.adv t).yieldLow), fun _ => State.claimFreed_of_past (s := (s.adv t).yieldLow),
      fun _ => State.claimFreed_of_coming (s := (s.adv t).yieldLow)⟩
  · exact ⟨exec_collisionReclaim_of_clear hfell, exec_collisionReclaim_of_held hfell, fun hposB hdue =>
      ⟨exec_collisionBackoffEnd_of_heard_standby hfell hposB hdue, exec_collisionBackoffEnd_of_silent_standby hfell hposB hdue,
        exec_collisionBackoffEnd_of_other hfell hposB hdue⟩, exec_collisionBackoffEnd_of_early hfell⟩

end Sys2Proof.Claims
end

section
/-! SUPPORT. The planned hand-over and PAIR_REJOIN (R297 to R301, Table 11.8): the two commands as they begin, the three instants of a hand-over,
and the phases of a join with their limits. -/
namespace Sys2Proof.Machine
open Sys2Proof Sys2Proof.Claims

/-! ### PAIR_HANDOVER (R297) -/

/-- A tracker is starting, observing or has lost its rotor, or a group is in direct mode: reason 4. -/
def State.handoverBusy (s : State) : Bool :=
  (s.confMach.any fun m => s.mach[m].trk.state == .listen || s.mach[m].trk.state == .probe || s.mach[m].trk.state == .step ||
    s.mach[m].trk.state == .ascObserve || s.mach[m].trk.state == .lost) || s.groups.toList.any (fun g => g.direct)

/-- An F4 or F5 hold, or an orderly shutdown by temperature or by supply, is in force or due: reason 5. -/
def State.handoverLeaving (s : State) : Bool :=
  s.sup.f4 || s.sup.f5 || s.thm.shutRun || s.thm.seqDue || s.pcr.stopping || s.pcr.stopDue

/-- The hand-over at B_h is noted, its command waits for it, and the partner is asked. -/
def State.handoverAsked (s : State) (c : Waiting) : State :=
  let bh := nextMult s.sp (s.time + 20 * us1)
  let v := s.await { c with due := bh }
  ({ v with ypl := { v.ypl with hoAt := some bh, hoOut := true, hoReply := false } } : State).sendSlow 3
    [BitVec.ofNat 128 (2 + at_ (bh / v.fp) 64)]

section
variable {s : State} {q : CmdQ} (hbegins : Begins s q) (harg0 : q.arg0 = 0) (harg1 : q.arg1 = 0)
include hbegins harg0 harg1

/-- PAIR_HANDOVER: its refusals in their order, or the hand-over is asked for. -/
theorem exec_pairHandover_of_begins :
    let u := taken s q
    exec (.pairHandover q) s = .next (
      if u.ypl.role != .active then done s q 0x48 stRefusedState 1
      else if u.ypl.pUnfit then done s q 0x48 stRefusedState 2
      else if u.ypl.hoAt.isSome then done s q 0x48 stRefusedState 3
      else if u.handoverBusy then done s q 0x48 stRefusedState 4
      else if u.handoverLeaving then done s q 0x48 stRefusedState 5
      else u.handoverAsked (s.ctx q 0x48)) := by
  change execPairHandover q s = _
  rw [execPairHandover, harg0, harg1]
  exact runCmd_of_good_args hbegins _ _

theorem exec_pairHandover_of_not_active (hrole : (taken s q).ypl.role ≠ .active) :
    exec (.pairHandover q) s = .next (done s q 0x48 stRefusedState 1) :=
  (exec_pairHandover_of_begins hbegins harg0 harg1).trans (congrArg _ (if_pos (bne_iff_ne.2 hrole)))

variable (hrole : (taken s q).ypl.role = .active)
include hrole

theorem exec_pairHandover_of_active :
    let u := taken s q
    exec (.pairHandover q) s = .next (
      if u.ypl.pUnfit then done s q 0x48 stRefusedState 2
      else if u.ypl.hoAt.isSome then done s q 0x48 stRefusedState 3
      else if u.handoverBusy then done s q 0x48 stRefusedState 4
      else if u.handoverLeaving then done s q 0x48 stRefusedState 5
      else u.handoverAsked (s.ctx q 0x48)) := by
  have hactive : ¬ ((taken s q).ypl.role != .active) = true := by rw [hrole]; decide
  exact (exec_pairHandover_of_begins hbegins harg0 harg1).trans (congrArg _ (if_neg hactive))

theorem exec_pairHandover_of_unfit_partner (hunfit : (taken s q).ypl.pUnfit = true) :
    exec (.pairHandover q) s = .next (done s q 0x48 stRefusedState 2) :=
  (exec_pairHandover_of_active hbegins harg0 harg1 hrole).trans (congrArg _ (if_pos hunfit))

variable (hfit : (taken s q).ypl.pUnfit = false)
include hfit

theorem exec_pairHandover_of_second (hat : (taken s q).ypl.hoAt ≠ none) :
    exec (.pairHandover q) s = .next (done s q 0x48 stRefusedState 3) :=
  (exec_pairHandover_of_active hbegins harg0 harg1 hrole).trans
    (congrArg _ ((if_neg (Bool.eq_false_iff.1 hfit)).trans (if_pos (Option.isSome_iff_ne_none.2 hat))))

/-- The first hand-over to a fit partner: refused while something starts, or the drive is being left. -/
theorem exec_pairHandover_of_first (hnone : (taken s q).ypl.hoAt = none) :
    let u := taken s q
    exec (.pairHandover q) s = .next (
      if u.handoverBusy then done s q 0x48 stRefusedState 4
      else if u.handoverLeaving then done s q 0x48 stRefusedState 5
      else u.handoverAsked (s.ctx q 0x48)) := by
  have hfirst : ¬ (taken s q).ypl.hoAt.isSome = true := by rw [hnone]; decide
  exact (exec_pairHandover_of_active hbegins harg0 harg1 hrole).trans
    (congrArg _ ((if_neg (Bool.eq_false_iff.1 hfit)).trans (if_neg hfirst)))

end

/-! ### The instants of a hand-over (R297, R298) -/

section
variable {s : State} {b : Time}

section
variable (hnone : s.ypl.hoAt = none)
include hnone

theorem exec_handoverReplyDeadline_of_none : exec .handoverReplyDeadline s = .next s := by
  change execHandoverReplyDeadline s = _
  rw [execHandoverReplyDeadline, hnone]

theorem exec_handoverClaimRelease_of_none : exec .handoverClaimRelease s = .next s := by
  change execHandoverClaimRelease s = _
  rw [execHandoverClaimRelease, hnone]

theorem exec_handoverDone_of_none : exec .handoverDone s = .next s := by
  change execHandoverDone s = _
  rw [execHandoverDone, hnone]

end

/-- The two sides that may exchange roles at B_h: an ACTIVE device with the reply and its CLAIM low, a STANDBY that has prepared. -/
def State.mayExchange (s : State) : Prop :=
  (s.ypl.hoOut = true ∧ s.ypl.role = .active ∧ s.ypl.hoReply = true ∧ s.ypl.claim = false) ∨
    (s.ypl.hoOut = false ∧ s.ypl.role = .standby ∧ s.ypl.hoPrep = true)

theorem State.mayExchange_iff : s.mayExchange ↔
    (if s.ypl.hoOut then s.ypl.role == .active && s.ypl.hoReply && !s.ypl.claim else s.ypl.role == .standby && s.ypl.hoPrep) = true := by
  rw [State.mayExchange]
  cases s.ypl.hoOut <;> simp [and_assoc]

variable (hat : s.ypl.hoAt = some b)
include hat

theorem exec_handoverReplyDeadline_of_set : exec .handoverReplyDeadline s =
    if s.ypl.hoOut && !s.ypl.hoReply then .next ((s.adv (b - 5 * us1)).dropHandover stRefusedState 6) else .next s := by
  change execHandoverReplyDeadline s = _
  rw [execHandoverReplyDeadline, hat]

theorem exec_handoverClaimRelease_of_set : exec .handoverClaimRelease s =
    if s.ypl.hoOut && s.ypl.hoReply then .next { s.adv (b - 400) with ypl := { s.ypl with claim := false } } else .next s := by
  change execHandoverClaimRelease s = _
  rw [execHandoverClaimRelease, hat]
  rfl

theorem exec_handoverDone_of_exchange (hmay : s.mayExchange) : exec .handoverDone s = .next ((s.adv b).exchange (max s.time b)) := by
  change execHandoverDone s = _
  rw [execHandoverDone, hat]
  exact if_pos (State.mayExchange_iff.1 hmay)

theorem exec_handoverDone_of_no_exchange (hno : ¬ s.mayExchange) : exec .handoverDone s = .next s := by
  change execHandoverDone s = _
  rw [execHandoverDone, hat]
  exact if_neg (mt State.mayExchange_iff.2 hno)

end

/-! ### PAIR_REJOIN (R299) -/

theorem find?_finRange_of_unique {n : Nat} {p : Fin n → Bool} {k : Fin n} (hk : p k = true) (honly : ∀ j, p j = true → j = k) :
    (List.finRange n).find? p = some k := by
  cases hfind : (List.finRange n).find? p with
  | none => exact absurd hk (List.find?_eq_none.1 hfind k (List.mem_finRange k))
  | some j => rw [honly j (List.find?_some hfind)]

/-- No operation of an opcode that runs or is suspended: no slot in use holds the opcode. -/
theorem State.lop_of_lopAny_eq_false {s : State} {opc : BitVec 8} (hnone : s.lopAny opc = false) (j : Fin 8) :
    s.host.lops[j].state = 0 ∨ s.host.lops[j].opc ≠ opc := by
  have hslot := List.any_eq_false.1 hnone s.host.lops[j] (Vector.mem_toList_iff.2 (Vector.getElem_mem j.isLt))
  by_contra hboth
  obtain ⟨hused, hopc⟩ := not_or.1 hboth
  exact hslot (Bool.and_eq_true_iff.2 ⟨bne_iff_ne.2 hused, beq_iff_eq.2 (not_not.1 hopc)⟩)

/-- The operation that a slot holds once a command has started it at `t`. -/
def Lop.started (l : Lop) (c : Waiting) (t : Time) : Lop :=
  { state := 1, gen := nextGen l.gen, opc := c.opc, ring := c.ring, tag := c.tag, irq := c.irq, seq := c.seq, arg0 := c.arg0,
    arg1 := c.arg1, phase := 0, pauses := 0, since := t, suspAt := 0, stale := false, ending := 0, res := [], quit := 0 }

theorem State.lopStart_lops {s : State} {k : Fin 8} (hslot : s.freeSlot = some k) (c : Waiting) :
    (s.lopStart c).host.lops = vmod s.host.lops k fun l => l.started c s.time := by
  rw [State.lopStart, hslot]
  exact State.finish_lops _ _ _ _

/-- The operation just started is the one of its opcode that runs, where there was none. -/
theorem State.lopStart_running {s : State} {k : Fin 8} {c : Waiting} (hnone : s.lopAny c.opc = false) (hslot : s.freeSlot = some k) :
    (s.lopStart c).running c.opc = some k := by
  rw [State.running, State.lopStart_lops hslot]
  refine find?_finRange_of_unique ?_ fun j hj => ?_
  · rw [vmod_at]
    simp [Lop.started]
  · by_contra hne
    rw [vmod_other _ _ _ _ (Ne.symm hne)] at hj
    obtain ⟨hruns, hopc⟩ := Bool.and_eq_true_iff.1 hj
    rcases State.lop_of_lopAny_eq_false hnone j with hfree | hother
    · rw [hfree] at hruns
      exact absurd hruns (by decide)
    · exact hother (beq_iff_eq.1 hopc)

/-- PAIR_REJOIN outside UNJOINED and LOCKOUT, without the pair, beside another join or beside a test of a pair link is refused. -/
def State.refusesRejoin (s : State) : Bool :=
  (s.ypl.role != .unjoined && s.ypl.role != .lockout) || !s.pairEn || s.lopAny 0x49 || s.linkTested 0 || s.linkTested 1

section
variable {s : State} {q : CmdQ} (hbegins : Begins s q) (hres : bits q.arg0 31 1 = 0) (harg1 : q.arg1 = 0)
include hbegins hres harg1

theorem exec_pairRejoin_of_refused (hno : (taken s q).refusesRejoin = true) :
    exec (.pairRejoin q) s = .next (done s q 0x49 stRefusedState 0) := by
  change execPairRejoin q s = _
  rw [execPairRejoin, hres, harg1]
  exact (runCmd_of_good_args hbegins _ _).trans (congrArg _ (if_pos hno))

/-- The join takes the lowest free slot, the heartbeats begin again, and phase 1 begins. -/
theorem exec_pairRejoin_of_allowed {k : Fin 8} (hyes : (taken s q).refusesRejoin = false) (hslot : (taken s q).freeSlot = some k) :
    let v := (taken s q).lopStart (s.ctx q 0x49)
    exec (.pairRejoin q) s = .next (({ v with sup := { v.sup with hbStop := false } } : State).rejoinEnter k 1) := by
  have hnone : (taken s q).lopAny 0x49 = false := by
    simp only [State.refusesRejoin, Bool.or_eq_false_iff] at hyes
    exact hyes.1.1.2
  have hruns : ((taken s q).lopStart (s.ctx q 0x49)).running 0x49 = some k := State.lopStart_running (c := s.ctx q 0x49) hnone hslot
  change execPairRejoin q s = _
  rw [execPairRejoin, hres, harg1]
  refine (runCmd_of_good_args hbegins _ _).trans (congrArg _ ((if_neg (Bool.eq_false_iff.1 hyes)).trans ?_))
  dsimp only
  rw [hruns]

end

/-! ### REJOIN_PHASE_END (Table 11.8) -/

@[simp] theorem State.adv_running (s : State) (t : Time) (opc : BitVec 8) : (s.adv t).running opc = s.running opc := rfl

theorem exec_rejoinPhaseEnd_of_none {s : State} (hnone : s.running 0x49 = none) (t : Time) :
    exec (.rejoinPhaseEnd t) s = .next (s.adv t) := by
  change execRejoinPhaseEnd t s = _
  rw [execRejoinPhaseEnd, State.adv_running, hnone]

theorem exec_rejoinPhaseTimeout_of_none {s : State} (hnone : s.running 0x49 = none) : exec .rejoinPhaseTimeout s = .next s := by
  change execRejoinPhaseTimeout s = _
  rw [execRejoinPhaseTimeout, hnone]

/-- Both lanes are up, and a frame has been accepted since the running phase of operation `k` began. -/
def State.partnerFound (s : State) (k : Fin 8) : Bool :=
  s.ypl.lanes == 3 && s.ypl.seen && decide (s.host.lops[k].since ≤ s.ypl.lastRx)

theorem State.partnerFound_iff {s : State} {k : Fin 8} :
    s.partnerFound k = true ↔ s.ypl.lanes = 3 ∧ s.ypl.seen = true ∧ s.host.lops[k].since ≤ s.ypl.lastRx := by
  rw [State.partnerFound, Bool.and_eq_true, Bool.and_eq_true, beq_iff_eq, decide_eq_true_iff, and_assoc]

/-- The state without DIVERGED, which does not hold up phase 5 (log 36). -/
def State.converged (s : State) : State := { s with ypl := { s.ypl with diverged := false } }

/-- The device is STANDBY, not yet known to be fit. -/
def State.stoodBy (s : State) : State :=
  { s with ypl := { s.ypl with role := .standby, fit := false, divDue := Vector.replicate 2 false } }

/-- The digests agree, 256 slow periods have been run in shadow, and no condition of Table 11.6 but DIVERGED fails. -/
def State.mayStandBy (s : State) : Bool := s.ypl.digBad.isNone && decide (256 ≤ s.ypl.shadowRun) && s.converged.unfitBy == 0

theorem State.mayStandBy_iff {s : State} :
    s.mayStandBy = true ↔ s.ypl.digBad = none ∧ 256 ≤ s.ypl.shadowRun ∧ s.converged.unfitBy = 0 := by
  rw [State.mayStandBy, Bool.and_eq_true, Bool.and_eq_true, beq_iff_eq, decide_eq_true_iff, Option.isNone_iff_eq_none, and_assoc]

section
variable {s : State} {k : Fin 8} {t : Time} (hruns : s.running 0x49 = some k)
include hruns

/-- Phase 1 ends with both lanes up and a frame since it began. -/
theorem exec_rejoinPhaseEnd_of_phase_one (hphase : s.host.lops[k].phase = 1) :
    exec (.rejoinPhaseEnd t) s = if s.partnerFound k then .next ((s.adv t).rejoinNext k 1) else .next (s.adv t) := by
  change execRejoinPhaseEnd t s = _
  simp only [execRejoinPhaseEnd, State.adv_running, State.adv_host, hruns, hphase]
  rfl

section
variable (hphase : s.host.lops[k].phase = 2)
include hphase

theorem exec_rejoinPhaseEnd_of_no_report (hwait : (s.adv t).reportIn = false) : exec (.rejoinPhaseEnd t) s = .next (s.adv t) := by
  change execRejoinPhaseEnd t s = _
  simp only [execRejoinPhaseEnd, State.adv_running, State.adv_host, hruns, hphase]
  exact if_neg (Bool.eq_false_iff.1 hwait)

theorem exec_rejoinPhaseEnd_of_good_report (hin : (s.adv t).reportIn = true) (hgood : (s.adv t).checkReport = 0) :
    exec (.rejoinPhaseEnd t) s = .next ((s.adv t).rejoinNext k 2) := by
  change execRejoinPhaseEnd t s = _
  simp only [execRejoinPhaseEnd, State.adv_running, State.adv_host, hruns, hphase, hgood]
  exact if_pos hin

theorem exec_rejoinPhaseEnd_of_bad_report {r : Nat} (hin : (s.adv t).reportIn = true) (hbad : (s.adv t).checkReport = r + 1) :
    exec (.rejoinPhaseEnd t) s = .next ((s.adv t).rejoinFail k stVerifyFail (r + 1)) := by
  change execRejoinPhaseEnd t s = _
  simp only [execRejoinPhaseEnd, State.adv_running, State.adv_host, hruns, hphase, hbad]
  exact if_pos hin

end

/-- Phase 3 ends with a partner that owns; two joining devices go on apart: position B to phase 4, position A by a claim. -/
theorem exec_rejoinPhaseEnd_of_phase_three (hphase : s.host.lops[k].phase = 3) :
    exec (.rejoinPhaseEnd t) s = .next (
      if ownerCode s.ypl.pRole.toNat then (s.adv t).lockoutEpoch.rejoinNext k 3
      else if s.ypl.pJoining then if s.posB then (s.adv t).rejoinNext k 3 else (s.adv t).joinClaim .active k
      else s.adv t) := by
  change execRejoinPhaseEnd t s = _
  simp only [execRejoinPhaseEnd, State.adv_running, State.adv_host, State.adv_ypl, hruns, hphase, apply_ite Host.Outcome.next]
  rfl

/-- Phase 4 ends with PAC_TIME stepped and aligned. -/
theorem exec_rejoinPhaseEnd_of_phase_four (hphase : s.host.lops[k].phase = 4) :
    exec (.rejoinPhaseEnd t) s =
      if s.ypl.stepped && s.ypl.aligned then .next ((s.adv t).rejoinNext k 4) else .next (s.adv t) := by
  change execRejoinPhaseEnd t s = _
  simp only [execRejoinPhaseEnd, State.adv_running, State.adv_host, hruns, hphase]
  rfl

/-- Phase 5 ends with a device that may be STANDBY. -/
theorem exec_rejoinPhaseEnd_of_phase_five (hphase : s.host.lops[k].phase = 5) :
    exec (.rejoinPhaseEnd t) s =
      if (s.adv t).mayStandBy then .next ((s.adv t).converged.stoodBy.joined k) else .next (s.adv t) := by
  change execRejoinPhaseEnd t s = _
  simp only [execRejoinPhaseEnd, State.adv_running, State.adv_host, hruns, hphase]
  rfl

/-! ### REJOIN_PHASE_TIMEOUT (Table 11.8) -/

/-- The state when the running phase of operation `k` reaches its limit. -/
abbrev State.atLimit (s : State) (k : Fin 8) : State := s.adv (s.host.lops[k].since + rejoinLimit s.host.lops[k].phase)

/-- A device that hears no partner claims SOLO where the command and the policy permit it and YIELD_IN is low. -/
theorem exec_rejoinPhaseTimeout_of_phase_one (hphase : s.host.lops[k].phase = 1) :
    exec .rejoinPhaseTimeout s =
      if s.host.lops[k].arg0.getLsbD 0 && !s.ypl.yieldIn && (s.atLimit k).pairPolicy.2.1 then .next ((s.atLimit k).joinClaim .solo k)
      else .next ((s.atLimit k).rejoinFail k stTimeout 0) := by
  change execRejoinPhaseTimeout s = _
  simp only [execRejoinPhaseTimeout, State.atLimit, hruns, hphase]
  rfl

theorem exec_rejoinPhaseTimeout_of_phase_two (hphase : s.host.lops[k].phase = 2) :
    exec .rejoinPhaseTimeout s = .next ((s.atLimit k).rejoinFail k stVerifyFail (max 1 (s.atLimit k).checkReport)) := by
  change execRejoinPhaseTimeout s = _
  simp only [execRejoinPhaseTimeout, State.atLimit, hruns, hphase]

theorem exec_rejoinPhaseTimeout_of_middle_phase (hphase : s.host.lops[k].phase = 3 ∨ s.host.lops[k].phase = 4) :
    exec .rejoinPhaseTimeout s = .next ((s.atLimit k).rejoinFail k stTimeout 0) := by
  change execRejoinPhaseTimeout s = _
  rcases hphase with hphase | hphase <;> simp only [execRejoinPhaseTimeout, State.atLimit, hruns, hphase]

theorem exec_rejoinPhaseTimeout_of_phase_five (hphase : s.host.lops[k].phase = 5) :
    exec .rejoinPhaseTimeout s =
      if s.ypl.digBad.isSome then .next ((s.atLimit k).rejoinFail k stVerifyFail 4)
      else .next ((s.atLimit k).rejoinFail k stTimeout 0) := by
  change execRejoinPhaseTimeout s = _
  simp only [execRejoinPhaseTimeout, State.atLimit, State.adv_ypl, hruns, hphase]

end

end Sys2Proof.Machine

namespace Sys2Proof.Claims
open Sys2Proof Sys2Proof.Machine

/-- Settles O40: each command by its refusals, the instants of a hand-over by what it has come to, and a join by its phase. -/
theorem handoverAndRejoin : Obligations.HandoverAndRejoin := by
  refine ⟨fun s q hbegins harg0 harg1 => ?_, fun s hnone => ?_, fun s b hat => ?_, fun s q hbegins hres harg1 => ?_,
    fun s k t hruns => ?_, fun s k hruns => ?_,
    fun s t hnone => ⟨exec_rejoinPhaseEnd_of_none hnone t, exec_rejoinPhaseTimeout_of_none hnone⟩⟩
  · refine ⟨exec_pairHandover_of_not_active hbegins harg0 harg1, exec_pairHandover_of_unfit_partner hbegins harg0 harg1,
      exec_pairHandover_of_second hbegins harg0 harg1, fun hrole hfit hnone hbusy => ?_, fun hrole hfit hnone hfree hleave => ?_,
      fun hrole hfit hnone hfree hstay => ?_⟩
    · exact (exec_pairHandover_of_first hbegins harg0 harg1 hrole hfit hnone).trans (congrArg _ (if_pos hbusy))
    · exact (exec_pairHandover_of_first hbegins harg0 harg1 hrole hfit hnone).trans
        (congrArg _ ((if_neg (Bool.eq_false_iff.1 hfree)).trans (if_pos hleave)))
    · exact (exec_pairHandover_of_first hbegins harg0 harg1 hrole hfit hnone).trans
        (congrArg _ ((if_neg (Bool.eq_false_iff.1 hfree)).trans (if_neg (Bool.eq_false_iff.1 hstay))))
  · exact ⟨exec_handoverReplyDeadline_of_none hnone, exec_handoverClaimRelease_of_none hnone, exec_handoverDone_of_none hnone⟩
  · rw [exec_handoverReplyDeadline_of_set hat, exec_handoverClaimRelease_of_set hat]
    refine ⟨fun hwaits => if_pos ?_, fun hno => if_neg ?_, fun hready => if_pos (Bool.and_eq_true_iff.2 hready),
      fun hno => if_neg (Bool.eq_false_iff.1 (Bool.and_eq_false_iff.2 hno)), exec_handoverDone_of_exchange hat,
      exec_handoverDone_of_no_exchange hat⟩
    · rw [hwaits.1, hwaits.2]; rfl
    · rcases hno with hin | hreply
      · rw [hin, Bool.false_and]; decide
      · rw [hreply, Bool.not_true, Bool.and_false]; decide
  · exact ⟨exec_pairRejoin_of_refused hbegins hres harg1, fun hyes _ => exec_pairRejoin_of_allowed hbegins hres harg1 hyes⟩
  · refine ⟨fun hphase => ?_, fun hphase => ?_, fun hphase => ?_, fun hphase => ?_, fun hphase => ?_⟩
    · rw [exec_rejoinPhaseEnd_of_phase_one hruns hphase]
      exact ⟨fun hfound => if_pos (State.partnerFound_iff.2 hfound), fun hno => if_neg (mt State.partnerFound_iff.1 hno)⟩
    · exact ⟨exec_rejoinPhaseEnd_of_no_report hruns hphase, exec_rejoinPhaseEnd_of_good_report hruns hphase,
        fun hin _ => exec_rejoinPhaseEnd_of_bad_report hruns hphase hin⟩
    · rw [exec_rejoinPhaseEnd_of_phase_three hruns hphase]
      refine ⟨fun howner => ?_, fun hno hjoins hposB => ?_, fun hno hjoins hposA => ?_, fun hno halone => ?_⟩
      · rw [if_pos howner]
      · rw [if_neg (Bool.eq_false_iff.1 hno), if_pos hjoins, if_pos hposB]
      · rw [if_neg (Bool.eq_false_iff.1 hno), if_pos hjoins, if_neg (Bool.eq_false_iff.1 hposA)]
      · rw [if_neg (Bool.eq_false_iff.1 hno), if_neg (Bool.eq_false_iff.1 halone)]
    · rw [exec_rejoinPhaseEnd_of_phase_four hruns hphase]
      exact ⟨fun hdone => if_pos (Bool.and_eq_true_iff.2 hdone), fun hno => if_neg (Bool.eq_false_iff.1 (Bool.and_eq_false_iff.2 hno))⟩
    · rw [exec_rejoinPhaseEnd_of_phase_five hruns hphase]
      exact ⟨fun hmay => if_pos (State.mayStandBy_iff.2 hmay), fun hno => if_neg (mt State.mayStandBy_iff.1 hno)⟩
  · refine ⟨fun hphase => ?_, exec_rejoinPhaseTimeout_of_phase_two hruns, exec_rejoinPhaseTimeout_of_middle_phase hruns, fun hphase => ?_⟩
    · rw [exec_rejoinPhaseTimeout_of_phase_one hruns hphase]
      exact ⟨fun hsolo => if_pos hsolo, fun hno => if_neg (Bool.eq_false_iff.1 hno)⟩
    · rw [exec_rejoinPhaseTimeout_of_phase_five hruns hphase]
      refine ⟨fun hbad => if_pos (Option.isSome_iff_ne_none.2 hbad), fun hgood => if_neg ?_⟩
      rw [hgood]
      decide

end Sys2Proof.Claims
end

section
/-! SUPPORT. Host commands as they begin and complete (R315, R318, R319, R321): the frame that every one of them shares, the room that it asks
for, NOP and an opcode that Table 12.6 does not hold. -/
namespace Sys2Proof.Machine
open Sys2Proof Sys2Proof.Claims

/-- A command passes through the common frame of a host command, or waits for its data and leaves the state as it is (R315, R357). -/
def FramedOrWaits (s : State) (q : CmdQ) (p : Instr × BitVec 8) : Prop :=
  (∃ ok body, exec p.1 s = s.runCmd q p.2 ok body) ∨ exec p.1 s = .next s

theorem framedOrWaits_of_frame {s : State} {q : CmdQ} {c : Instr} {opc : BitVec 8} {ok : Bool} {body : State → Waiting → State}
    (meaning : Host.Outcome State Fault Refusal) (hexec : exec c s = meaning) (hframe : meaning = s.runCmd q opc ok body) :
    FramedOrWaits s q (c, opc) := .inl ⟨ok, body, hexec.trans hframe⟩

theorem framedOrWaits_of_data {s : State} {q : CmdQ} {c : Instr} {opc : BitVec 8} {waits ok : Bool} {body : State → Waiting → State}
    (h : exec c s = if waits then .next s else s.runCmd q opc ok body) : FramedOrWaits s q (c, opc) := by
  cases waits with
  | true => exact .inr h
  | false => exact .inl ⟨ok, body, h⟩

/-- Every host command of Table 12.6 is one use of the common frame; the two that read host memory as they begin may wait first. -/
theorem hostCommands_framedOrWaits (s : State) (q : CmdQ) (data : List Word) (nonce : BitVec 256) :
    ∀ p ∈ hostCommands q data nonce, FramedOrWaits s q p := by
  have hdata : FramedOrWaits s q (.otpProgram q data, 0x30) := framedOrWaits_of_data rfl
  have hnonce : FramedOrWaits s q (.attest q nonce, 0x38) := framedOrWaits_of_data rfl
  simp only [hostCommands, List.forall_mem_cons, List.not_mem_nil, false_implies, implies_true, and_true, hdata, hnonce]
  exact ⟨framedOrWaits_of_frame (execNop q s) rfl (by rw [execNop]),
    framedOrWaits_of_frame (execFence q s) rfl (by rw [execFence]),
    framedOrWaits_of_frame (execSuspend q s) rfl (by rw [execSuspend]),
    framedOrWaits_of_frame (execResume q s) rfl (by rw [execResume]),
    framedOrWaits_of_frame (execCancel q s) rfl (by rw [execCancel]),
    framedOrWaits_of_frame (execNodeRead q s) rfl (by rw [execNodeRead]),
    framedOrWaits_of_frame (execNodeWrite q s) rfl (by rw [execNodeWrite]),
    framedOrWaits_of_frame (execNodeBlockLoad q s) rfl (by rw [execNodeBlockLoad]),
    framedOrWaits_of_frame (execNodeBlockStore q s) rfl (by rw [execNodeBlockStore]),
    framedOrWaits_of_frame (execBankSwap q s) rfl (by rw [execBankSwap]),
    framedOrWaits_of_frame (execSetpoint q s) rfl (by rw [execSetpoint]),
    framedOrWaits_of_frame (execModeSelect q s) rfl (by rw [execModeSelect]),
    framedOrWaits_of_frame (execDriveStart q s) rfl (by rw [execDriveStart]),
    framedOrWaits_of_frame (execDriveStop q s) rfl (by rw [execDriveStop]),
    framedOrWaits_of_frame (execReverse q s) rfl (by rw [execReverse]),
    framedOrWaits_of_frame (execSafeState q s) rfl (by rw [execSafeState]),
    framedOrWaits_of_frame (execFaultClear q s) rfl (by rw [execFaultClear]),
    framedOrWaits_of_frame (execPgDirect q s) rfl (by rw [execPgDirect]),
    framedOrWaits_of_frame (execAdcCalibrate q s) rfl (by rw [execAdcCalibrate]),
    framedOrWaits_of_frame (execAdcUrgent q s) rfl (by rw [execAdcUrgent]),
    framedOrWaits_of_frame (execTraceArm q s) rfl (by rw [execTraceArm]),
    framedOrWaits_of_frame (execTraceStop q s) rfl (by rw [execTraceStop]),
    framedOrWaits_of_frame (execOtpLock q s) rfl (by rw [execOtpLock]),
    framedOrWaits_of_frame (execOtpMarginScan q s) rfl (by rw [execOtpMarginScan]),
    framedOrWaits_of_frame (execLifecycleAdvance q s) rfl (by rw [execLifecycleAdvance]),
    framedOrWaits_of_frame (execSelfTest q s) rfl (by rw [execSelfTest]),
    framedOrWaits_of_frame (execLinkTest q s) rfl (by rw [execLinkTest]),
    framedOrWaits_of_frame (execPairHandover q s) rfl (by rw [execPairHandover]),
    framedOrWaits_of_frame (execPairRejoin q s) rfl (by rw [execPairRejoin]),
    framedOrWaits_of_frame (execPowerState q s) rfl (by rw [execPowerState])⟩

/-- Room for completions is one of the things that a command of CQn asks before it begins (R315). -/
theorem State.canBegin_of_no_room {s : State} {n : Fin 16}
    (hroom : s.ringEn (dqIdx n) = false ∨ s.ringFree (dqIdx n) < 2 + s.lopsOf n) : s.canBegin n = false := by
  rw [Bool.eq_false_iff]
  intro hbegins
  simp only [State.canBegin, Bool.and_eq_true, decide_eq_true_eq] at hbegins
  have hen : s.ringEn (dqIdx n) = true := by tauto
  have hfree : 2 + s.lopsOf n + (s.host.cpls.filter fun k => k.ring == n).length ≤ s.ringFree (dqIdx n) := by tauto
  rcases hroom with hoff | hfew
  · exact Bool.false_ne_true (hoff.symm.trans hen)
  · omega

/-- A quad whose opcode Table 12.6 does not hold leaves the state as it is until its ring lets it begin (R315). -/
theorem exec_badOpcode_of_not_begins {s : State} {q : CmdQ} (hwait : s.canBegin q.ring = false) (opc : BitVec 8) :
    exec (.badOpcode q opc) s = .next s :=
  if_pos (by rw [hwait, Bool.not_false, Bool.or_true])

/-- The opcode is judged before every other bit of the quad (R321). -/
theorem exec_badOpcode_of_begins {s : State} {q : CmdQ} {opc : BitVec 8} (hbegins : s.canBegin q.ring = true)
    (hopc : opcodes.contains opc = false) : exec (.badOpcode q opc) s = .next (done s q opc stBadOpcode 0) :=
  if_neg (by rw [hopc, hbegins]; decide)

/-- NOP without arguments completes with the Pacer's time (Table 12.6). -/
theorem exec_nop_of_begins {s : State} {q : CmdQ} (hbegins : Begins s q) (harg0 : q.arg0 = 0) (harg1 : q.arg1 = 0) :
    exec (.nop q) s = .next (done s q 0x00 stOk (s.pacTime % 2 ^ 32)) := by
  change execNop q s = _
  rw [execNop, harg0, harg1]
  exact runCmd_of_good_args hbegins _ _

end Sys2Proof.Machine

namespace Sys2Proof.Claims
open Sys2Proof Sys2Proof.Machine

/-- Settles O10: a ring without room for the completion lets no command begin, and every host command asks its ring first. -/
theorem commandWaitsForRoom : Obligations.CommandWaitsForRoom := by
  intro s q data nonce c opc hcommand hroom
  have hwait : s.canBegin q.ring = false := State.canBegin_of_no_room hroom
  rcases hcommand with hhost | rfl
  · rcases hostCommands_framedOrWaits s q data nonce _ hhost with ⟨ok, body, hframe⟩ | hsame
    · exact hframe.trans (runCmd_waits opc ok body hwait)
    · exact hsame
  · exact exec_badOpcode_of_not_begins hwait opc

/-- Settles O8: NOP by its legal arguments, an unknown opcode before every other check. -/
theorem nopAndBadOpcode : Obligations.NopAndBadOpcode :=
  ⟨fun _ _ => exec_nop_of_begins, fun _ _ _ => exec_badOpcode_of_begins⟩

/-- Settles O13: a completion, an event and a degradation are each a quiet change. -/
theorem completionFrame : Obligations.CompletionFrame :=
  ⟨quiet_finish, quiet_raise, quiet_health⟩

end Sys2Proof.Claims
end

section
/-! SUPPORT. The slots of the long operations (R322, R347): what starting one leaves in its slot and in the rest of the state, and how a handle
tells the slot and the generation. -/
namespace Sys2Proof.Machine
open Sys2Proof Sys2Proof.Claims

/-- The lowest slot is given to the operation, whose command completes ACCEPTED with the handle (R322). -/
theorem State.lopStart_of_slot {s : State} {k : Fin 8} (hslot : s.freeSlot = some k) (c : Waiting) :
    s.lopStart c =
      (s.modLop k fun l => l.started c s.time).finish c stAccepted ((s.modLop k fun l => l.started c s.time).handle k) := by
  rw [State.lopStart, hslot]
  rfl

theorem State.lopStart_of_no_slot {s : State} (hnone : s.freeSlot = none) (c : Waiting) :
    s.lopStart c = s.finish c stRefusedState 15 := by
  rw [State.lopStart, hnone]

/-- Beyond the slots, starting an operation changes what its completion may change alone. -/
theorem State.quiet_lopStart {s : State} {k : Fin 8} (hslot : s.freeSlot = some k) (c : Waiting) :
    Quiet { s with host := { s.host with lops := (s.lopStart c).host.lops } } (s.lopStart c) := by
  rw [State.lopStart_lops hslot, State.lopStart_of_slot hslot]
  exact quiet_finish (s.modLop k fun l => l.started c s.time) _ _ _

/-- A handle depends on the slot's generation alone. -/
theorem State.handle_of_lops_eq {s t : State} (h : t.host.lops = s.host.lops) (k : Fin 8) : t.handle k = s.handle k := by
  rw [State.handle, State.handle, h]

theorem State.handle_eq (s : State) (k : Fin 8) : s.handle k = k.val + 8 * s.host.lops[k].gen := by
  rw [State.handle, at_, Nat.shiftLeft_eq, Nat.mul_comm]

theorem nextGen_of_lt {g : Nat} (h : g < 8191) : nextGen g = g + 1 := if_neg (Nat.ne_of_lt h)

end Sys2Proof.Machine

namespace Sys2Proof.Claims
open Sys2Proof Sys2Proof.Machine

/-- Settles O15: a free slot by what its start leaves, none by the refusal, and a handle by its two fields. -/
theorem longOperationStarts : Obligations.LongOperationStarts := by
  refine ⟨fun s c k hslot => ?_, fun s c hnone => State.lopStart_of_no_slot hnone c, fun g => ⟨rfl, nextGen_of_lt⟩, fun s k => ?_⟩
  · have hlops : (s.lopStart c).host.lops = vmod s.host.lops k fun l => l.started c s.time := State.lopStart_lops hslot c
    refine ⟨?_, fun j hj => ?_, ⟨s.modLop k fun l => l.started c s.time, ?_⟩, State.quiet_lopStart hslot c⟩
    · rw [hlops, vmod_at]; rfl
    · rw [hlops, vmod_other _ _ _ _ (Ne.symm hj)]
    · rw [State.handle_of_lops_eq (s := s.modLop k fun l => l.started c s.time) hlops, State.lopStart_of_slot hslot]
  · have hslot := k.isLt
    rw [State.handle_eq]
    omega

end Sys2Proof.Claims
end

section
/-! SUPPORT. Loading and measuring the firmware (R331, R332, R389, R407 to R413): what a measurement keeps in the record, and what each row does
that brings an image, its words or the fuses' shadow. -/
namespace Sys2Proof.Machine
open Sys2Proof Sys2Proof.Claims

/-! ### A measurement (R409, R422) -/

/-- The log entry of a measurement of the image in place. -/
def MsrSt.entry (m : MsrSt) (mgr : Bool) (t : Time) : MeasE :=
  let d := sha384 m.image
  { digest := d, time := t, len := m.image.length, number := (if mgr then min (2 ^ 32 - 1) (m.count + 1) else 0) % 65536,
    changed := mgr && d != (match m.log with | e :: _ => e.digest | [] => d), keyIdx := (sigStatus m.image).2,
    sig := (sigStatus m.image).1, host := m.srcHost, mgr := mgr }

/-- The measurement is in the record before its event is raised, which leaves the record alone. -/
theorem State.measure_msr (s : State) (mgr : Bool) (t : Time) : (s.measure mgr t).msr =
    { s.msr with
      measured := true, len := s.msr.image.length, digest := sha384 s.msr.image, sig := (s.msr.entry mgr t).sig
      expect := s.expectOf (sha384 s.msr.image), changed := (s.msr.entry mgr t).changed
      count := if mgr then min (2 ^ 32 - 1) (s.msr.count + 1) else 0
      log := (s.measure mgr t).msr.log } := by
  rw [State.measure]
  simp only [State.raise_msr]
  rfl

/-- A measurement after a load starts the log anew with its own entry. -/
theorem State.measure_log_of_load (s : State) (t : Time) : (s.measure false t).msr.log = [s.msr.entry false t] := by
  rw [State.measure]
  simp only [State.raise_msr]
  rfl

/-! ### BOOT_GO once the ROM awaits an image (R332) -/

section
variable {s : State} (hready : s.msr.ready = true) (t : Time)
include hready

/-- A length outside the rule of GLB_BOOT_LEN sets FAILED and nothing else. -/
theorem State.bootGo_of_bad_len (hlen : imageLenOk (s.rf regGlbBootLen 0 21 0) = false) :
    s.bootGo t = s.rset regGlbBoot 0 (s.rget regGlbBoot 0 ||| 8) :=
  (if_neg (by simp [hready])).trans (if_pos (by rw [hlen, Bool.not_false]))

/-- The words of the window become the image, which is measured. -/
theorem State.bootGo_of_good_len (hlen : imageLenOk (s.rf regGlbBootLen 0 21 0) = true) :
    s.bootGo t = ({ s with msr := { s.msr with
      ready := false, srcHost := true
      image := wordBytes ((List.range (s.rf regGlbBootLen 0 21 0 / 4)).map s.bar4W) } } : State).measure false t :=
  (if_neg (by simp [hready])).trans (if_neg (by rw [hlen, Bool.not_true]; decide))

end

/-! ### The rows -/

section
variable {s : State} {t : Time}

section
variable (hon : (s.adv t).regsOn = true)
include hon

theorem exec_bootGo_of_on : exec (.bootGo t) s = .next ((s.adv t).bootGo (s.adv t).time) := by
  change execBootGo t s = _
  rw [execBootGo]
  exact congrArg _ (if_pos hon)

theorem exec_firmwareWindowWrite_of_ready (hready : s.msr.ready = true) (off : BitVec 19) (v : Word) : exec (.firmwareWindowWrite off v t) s =
    .next { s.adv t with msr := { s.msr with bar4 := alPut 0 s.msr.bar4 off.toNat v } } :=
  if_pos (Bool.and_eq_true_iff.2 ⟨hon, hready⟩)

end

section
variable {a b : List (BitVec 8)} (hreads : (s.adv t).bootReads = true)
include hreads

theorem exec_qspiImageRead_of_agreeing {img : List (BitVec 8)} (himg : flashImage a b = some img) : exec (.qspiImageRead a b t) s =
    .next (({ s.adv t with msr := { s.msr with srcHost := false, image := img } }).measure false (s.adv t).time) := by
  change execQspiImageRead a b t s = _
  simp only [execQspiImageRead, hreads, himg]
  rfl

theorem exec_qspiImageRead_of_failed (hnone : flashImage a b = none) : exec (.qspiImageRead a b t) s =
    .next { s.adv t with msr := { s.msr with tries := s.msr.tries + 1, bootFail := decide (2 ≤ s.msr.tries) } } := by
  change execQspiImageRead a b t s = _
  simp only [execQspiImageRead, hreads, hnone]
  rfl

end

theorem exec_firmwareRunning_of_measured (hmeasured : s.msr.measured = true) (hidle : s.msr.running = false) (hmgr : s.msr.mgr = false)
    (hreset : s.pcr.asserted = none) (hpwr : s.pcr.state ≠ 3) :
    exec (.firmwareRunning t) s = .next { s.adv t with msr := { s.msr with running := true } } :=
  if_pos (by simp [hmeasured, hidle, hmgr, hreset, hpwr])

/-- The state in which the regions are about to be judged: the shadow counts as loaded (R389). -/
def State.shadowLoading (s : State) : State :=
  { s with otp := { s.otp with lc := 0, lcBad := false, weakSeen := [], loaded := true, scanAt := s.time, scanBands := [] } }

/-- The shadow of every region, and the sensor trims that it holds. -/
def State.shadowTaken (s : State) : State :=
  let c : State := { s with otp := { s.otp with shadow := (List.finRange 16).flatMap s.shadowOf } }
  { c with thm := { c.thm with sens := c.sensTrims } }

theorem exec_otpShadowLoad_of_unloaded (hunloaded : s.otp.loaded = false) (hreset : s.pcr.asserted = none) :
    exec (.otpShadowLoad t) s =
      .next (let c := ((s.adv t).shadowLoading.otpJudgeAll false (s.adv t).shadowLoading.time).shadowTaken
             c.lowerLevels.loadKeys.bootStart.soloAlone c.time) := by
  change execOtpShadowLoad t s = _
  rw [execOtpShadowLoad]
  refine (if_neg ?_).trans rfl
  simp [hunloaded, hreset]

end

end Sys2Proof.Machine

namespace Sys2Proof.Claims
open Sys2Proof Sys2Proof.Machine

/-- Settles O32: a measurement by the record it leaves, and each row where nothing holds it back. -/
theorem firmwareIsMeasured : Obligations.FirmwareIsMeasured := by
  refine ⟨fun s mgr t => ?_, fun s t hon hready => ?_, fun s off v t hon hready => exec_firmwareWindowWrite_of_ready hon hready off v,
    fun s a b t hreads => ⟨fun img => exec_qspiImageRead_of_agreeing hreads, exec_qspiImageRead_of_failed hreads⟩,
    fun s t => exec_firmwareRunning_of_measured, fun s t => exec_otpShadowLoad_of_unloaded⟩
  · have hmsr := State.measure_msr s mgr t
    refine ⟨congrArg MsrSt.measured hmsr, congrArg MsrSt.digest hmsr, congrArg MsrSt.len hmsr, by rw [hmsr], ?_⟩
    rintro rfl
    exact ⟨s.msr.entry false t, State.measure_log_of_load s t, rfl, rfl⟩
  · rw [exec_bootGo_of_on hon]
    have hready : (s.adv t).msr.ready = true := hready
    refine ⟨fun hlen => congrArg Host.Outcome.next ?_, fun hlen => congrArg Host.Outcome.next ?_⟩
    · exact State.bootGo_of_bad_len hready _ hlen
    · exact State.bootGo_of_good_len hready _ hlen

end Sys2Proof.Claims
end

section
/-! SUPPORT. The doorbells (R313, R316, R351): one that is heard, by whether its index lies within the ring and the room, for a tail and for
a head. -/
namespace Sys2Proof.Machine
open Sys2Proof Sys2Proof.Claims

theorem not_bnot_of_true {b : Bool} (h : b = true) : ¬ (!b) = true := by rw [h]; decide

/-- A ring that is not being disabled is left as it is (R356). -/
theorem State.closeTry_of_open {s : State} {n : Fin 16} (hopen : s.host.rings[cqIdx n].closing = false) : s.closeTry n = s :=
  if_neg (by rw [hopen, Bool.false_and]; decide)

/-- The ring whose head HEAD_DOORBELL i moves (R316). -/
def headRing (i : Fin 32) : Fin 48 := ⟨16 + i.val, by omega⟩

theorem eq_headRing {i : Fin 32} {k : Fin 48} (hk : k.val = 16 + i.val) : k = headRing i := Fin.ext hk

/-- The ring's index as a doorbell of its tail sets it. -/
abbrev State.tailMoved (s : State) (n : Fin 16) (v : Word) : State := s.modRing (cqIdx n) fun r => { r with tail := bits v 15 0 }

section
variable {s : State} {n : Fin 16} {v : Word} {t : Time} (hon : (s.adv t).bellOn (cqIdx n) v = true)
include hon

theorem exec_cqTailDoorbell_of_good
    (hok : (s.adv t).bellOk (cqIdx n) v s.host.rings[cqIdx n].tail ((s.adv t).ringFree (cqIdx n)) = true) :
    exec (.cqTailDoorbell n v t) s = .next (((s.adv t).tailMoved n v).closeTry n) :=
  (if_neg (not_bnot_of_true hon)).trans (if_pos hok)

theorem exec_cqTailDoorbell_of_overflow
    (hbad : (s.adv t).bellOk (cqIdx n) v s.host.rings[cqIdx n].tail ((s.adv t).ringFree (cqIdx n)) = false) :
    exec (.cqTailDoorbell n v t) s = .next ((s.adv t).ringStop (cqIdx n) 4 (s.adv t).time) :=
  (if_neg (not_bnot_of_true hon)).trans (if_neg (Bool.eq_false_iff.1 hbad))

end

section
variable {s : State} {i : Fin 32} {k : Fin 48} {v : Word} {t : Time} (hk : k.val = 16 + i.val) (hon : (s.adv t).bellOn k v = true)
include hk hon

theorem exec_headDoorbell_of_good (hok : (s.adv t).bellOk k v s.host.rings[k].head ((s.adv t).ringUsed k) = true) :
    exec (.headDoorbell i v t) s = .next ((s.adv t).modRing k fun r => { r with head := bits v 15 0 }).pump := by
  obtain rfl := eq_headRing hk
  exact (if_neg (not_bnot_of_true hon)).trans (if_pos hok)

/-- An overflow of DQn stops CQn too, which shares its number; that of a higher ring stops it alone (R351). -/
theorem exec_headDoorbell_of_overflow (hbad : (s.adv t).bellOk k v s.host.rings[k].head ((s.adv t).ringUsed k) = false) :
    exec (.headDoorbell i v t) s =
      .next ((if i.val < 16 then (s.adv t).modRing (Fin.ofNat 48 i.val) fun r => { r with stopped := true, cause := 4 }
        else s.adv t).ringStop k 4 (s.adv t).time) := by
  obtain rfl := eq_headRing hk
  refine (if_neg (not_bnot_of_true hon)).trans ((if_neg (Bool.eq_false_iff.1 hbad)).trans ?_)
  split <;> rfl

end

end Sys2Proof.Machine

namespace Sys2Proof.Claims
open Sys2Proof Sys2Proof.Machine

/-- Settles O34: each doorbell by whether its index is good, and an overflow of a head by whether its ring is a completion ring. -/
theorem doorbellRule : Obligations.DoorbellRule := by
  refine ⟨fun s n v t hon => ⟨exec_cqTailDoorbell_of_good hon, fun hok hopen => ⟨(s.adv t).tailMoved n v, ?_, ?_, fun j hj => ?_⟩,
      exec_cqTailDoorbell_of_overflow hon⟩,
    fun s i k v t hk hon => ⟨exec_headDoorbell_of_good hk hon, fun hbad hhigh => ?_, fun hbad hlow => ?_⟩⟩
  · rw [exec_cqTailDoorbell_of_good hon hok, State.closeTry_of_open]
    rw [State.modRing_ring_same]
    exact hopen
  · rw [State.modRing_ring_same]; rfl
  · rw [State.modRing_ring_other _ _ (Ne.symm hj)]; rfl
  · rw [exec_headDoorbell_of_overflow hk hon hbad, if_neg (Nat.not_lt.2 hhigh)]
  · rw [exec_headDoorbell_of_overflow hk hon hbad, if_pos hlow]

end Sys2Proof.Claims
end

section
/-! SUPPORT. The life of a ring (R307, R312, R330, R351, R354 to R356): a write of RNG_CFG by its RESET and EN bits and by the state of its ring,
the failed transfers, and the moderation time. -/
namespace Sys2Proof.Machine
open Sys2Proof Sys2Proof.Claims

/-! ### A write of RNG_CFG, of one ring -/

section
variable {s : State} {i : Fin 48} {v : Word}

theorem State.ringFixed_of_other_settings (hother : (s.rget regRngCfg i ^^^ v) &&& cfgMask ≠ 0) : s.ringFixed i v = s.writeReject :=
  if_pos (bne_iff_ne.2 hother)

theorem State.ringEnable_of_enabled (hen : s.ringEn i = true) (t : Time) : s.ringEnable i v t = s.ringFixed i v := if_pos hen

/-- A ring as its enabling starts it (R312). -/
def RingSt.begun (r : RingSt) : RingSt :=
  { r with head := 0, tail := 0, phase := true, sig := 0, sigAt := none, closing := false, fetched := 0 }

/-- A disabled ring takes its settings and EN, and starts empty; the first event ring takes what is due to it (R312, R450). -/
theorem State.ringEnable_of_disabled (hoff : s.ringEn i = false) (t : Time) : s.ringEnable i v t =
    (let u := ((s.ringCfg i v).rsetF regRngCfg i 0 0 1).modRing i RingSt.begun
     if h : 32 ≤ i.val ∧ i.val < 36 then u.firstEq ⟨i.val - 32, by omega⟩ t else u).pump :=
  if_neg (Bool.eq_false_iff.1 hoff)

theorem State.ringDisable_of_disabled (hoff : s.ringEn i = false) : s.ringDisable i v = s.ringCfg i v :=
  if_pos (by rw [hoff, Bool.not_false])

section
variable (hen : s.ringEn i = true)
include hen

/-- An event ring, a sample ring or a trace ring is disabled at once (R356). -/
theorem State.ringDisable_of_high_ring (hi : 32 ≤ i.val) : s.ringDisable i v = (s.ringFixed i v).rsetF regRngCfg i 0 0 0 := by
  rw [State.ringDisable, if_neg (by rw [hen]; decide)]
  exact (if_neg (by omega)).trans (if_neg (by omega))

/-- A completion ring stays enabled while its command ring is (R356). -/
theorem State.ringDisable_of_dq_in_use (hlow : 16 ≤ i.val) (hhigh : i.val < 32) (huse : s.ringEn (cqIdx (Fin.ofNat 16 i.val)) = true) :
    s.ringDisable i v = s.writeReject := by
  rw [State.ringDisable, if_neg (by rw [hen]; decide)]
  exact (if_neg (by omega)).trans ((if_pos hhigh).trans (if_pos (by rw [huse, Bool.true_or])))

end

/-! ### RESET (R354, R355) -/

theorem State.ringResetW_of_live (hlive : s.host.rings[i].stopped = false) (t : Time) : s.ringResetW i t = s.writeReject :=
  if_pos (by rw [hlive, Bool.not_false])

section
variable (hstopped : s.host.rings[i].stopped = true) (t : Time)
include hstopped

theorem State.ringResetW_of_pair (hi : i.val < 32) : s.ringResetW i t = s.pairReset (Fin.ofNat 16 i.val) t :=
  (if_neg (by rw [hstopped]; decide)).trans (if_pos hi)

theorem State.ringResetW_of_high_ring (hi : 32 ≤ i.val) : s.ringResetW i t = (s.ringClear i).recoveryQuad (0xC2 + at_ i.val 8) t :=
  (if_neg (by rw [hstopped]; decide)).trans (if_neg (Nat.not_lt.2 hi))

end

end

/-! ### The rows -/

section
variable {s : State} {i : Fin 48} {v : Word} {t : Time} (hon : (s.adv t).regsOn = true)
include hon

theorem exec_ringEnable_of_on (hnoreset : v.getLsbD 31 = false) (hset : v.getLsbD 0 = true) :
    exec (.ringEnable i v t) s = .next ((s.adv t).ringEnable i v (s.adv t).time) :=
  if_pos (by rw [hon, hnoreset, hset]; rfl)

theorem exec_ringDisable_of_on (hnoreset : v.getLsbD 31 = false) (hclear : v.getLsbD 0 = false) :
    exec (.ringDisable i v t) s = .next ((s.adv t).ringDisable i v) :=
  if_pos (by rw [hon, hnoreset, hclear]; rfl)

theorem exec_ringReset_of_on (hreset : v.getLsbD 31 = true) :
    exec (.ringReset i v t) s = .next ((s.adv t).ringResetW i (s.adv t).time) :=
  if_pos (by rw [hon, hreset]; rfl)

end

@[simp] theorem State.adv_ringEn (s : State) (t : Time) (i : Fin 48) : (s.adv t).ringEn i = s.ringEn i := rfl
@[simp] theorem State.adv_busOk (s : State) (t : Time) : (s.adv t).busOk = s.busOk := rfl

section
variable {s : State} {n : Fin 16}

/-- What reads host memory for CQn at `t`: the ATTEST commands that wait, then the operations that run (R307). -/
def State.readers (s : State) (n : Fin 16) : List (Sum Waiting (Fin 8)) :=
  (s.host.waiting.filter fun c => c.opc == 0x38 && c.ring == n).map Sum.inl ++ (s.dmaLops n).map Sum.inr

/-- The reader that the free value names (log 163). -/
def State.reader (s : State) (n : Fin 16) : Option (Sum Waiting (Fin 8)) :=
  (s.readers n)[s.free.toNat % max 1 (s.readers n).length]?

theorem State.reader_isSome : s.readers n ≠ [] ↔ (s.reader n).isSome = true := by
  rw [State.reader, isSome_getElem?, ← List.length_pos_iff]
  constructor
  · intro hpos
    rw [Nat.max_eq_right hpos]
    exact Nat.mod_lt _ hpos
  · exact fun hlt => Nat.zero_lt_of_lt hlt

theorem State.reader_of_no_readers (hnone : s.readers n = []) : s.reader n = none := by
  rw [State.reader, hnone]
  rfl

/-- The request of the waiting ATTEST `c` leaves the signing queue, where the requests of the host stand in the order of the commands. -/
def State.attestDropped (s : State) (c : Waiting) : State :=
  let k := ((s.host.waiting.filter fun c => c.opc == 0x38).takeWhile fun d => d != c).length
  { s with msr := { s.msr with queue := dropAtt s.msr.queue k } }

end

section
variable {s : State} {n : Fin 16} (cause : DmaCause) (t : Time) (hbus : s.busOk = true)
include hbus

theorem exec_commandFetchFail_of_posted (hen : s.ringEn (cqIdx n) = true) (hlive : s.host.rings[cqIdx n].stopped = false)
    (hposted : 0 < s.ringUsed (cqIdx n)) (hreset : s.pcr.asserted = none) :
    exec (.commandFetchFail n cause t) s = .next ((s.adv t).ringError n cause) := by
  have hlive : (s.adv t).host.rings[cqIdx n].stopped = false := hlive
  have hposted : decide (0 < (s.adv t).ringUsed (cqIdx n)) = true := decide_eq_true hposted
  exact if_pos (by rw [State.adv_ringEn, hen, hlive, hposted, State.adv_busOk, hbus, State.adv_pcr, hreset]; rfl)

/-- A failed data read, by the reader that it meets. -/
theorem exec_dmaError_of_bus : exec (.dmaError n cause t) s =
    match s.reader n with
    | some (.inl c) => .next (((s.adv t).freeNext.attestDropped c).finishW c stDmaError 0 |>.ringError n cause)
    | some (.inr k) => .next (((s.adv t).freeNext.lopQuit k stDmaError s.host.lops[k].quit).ringError n cause)
    | none => .next (s.adv t) := by
  change execDmaError n cause t s = _
  rw [execDmaError]
  exact (if_neg (by rw [State.adv_busOk, hbus]; decide)).trans rfl

/-- A ring whose moderation time has passed announces what it has written (R330). -/
theorem exec_moderationTimer_of_past {i : Fin 48} {a : Time} (hat : s.host.rings[i].sigAt = some a)
    (hus : s.rf regRngMod i 31 16 ≠ 0) (hirq : s.rb regRngCfg i 14 = true) (hdue : a + us1 * s.rf regRngMod i 31 16 ≤ max s.time t) :
    exec (.moderationTimer i t) s = .next ((s.adv t).ringSignal i) := by
  have hat : (s.adv t).host.rings[i].sigAt = some a := hat
  change execModerationTimer i t s = _
  rw [execModerationTimer, hat]
  exact if_pos ⟨hus, hirq, hdue, hbus⟩

end

end Sys2Proof.Machine

namespace Sys2Proof.Claims
open Sys2Proof Sys2Proof.Machine

/-- Settles O35: a write by RESET, EN and the ring's state, a failed read by the reader it meets, and the moderation time. -/
theorem ringLifeRule : Obligations.RingLifeRule := by
  refine ⟨fun s i v t hon hnoreset => ⟨fun hset hen hother => ?_, fun hset hoff => ?_, fun hclear hoff => ?_, fun hclear hen hhigh => ?_,
      fun hclear hen hlow hhigh huse => ?_⟩,
    fun s i v t hon hreset => ⟨fun hlive => ?_, fun hstopped hhigh => ?_, fun hstopped hlow => ?_⟩,
    fun s n cause t hbus => ⟨exec_commandFetchFail_of_posted cause t hbus, ?_, rfl⟩, fun s i t a hat hus hirq hdue hbus => ?_⟩
  · rw [exec_ringEnable_of_on hon hnoreset hset, State.ringEnable_of_enabled (s := s.adv t) hen,
      State.ringFixed_of_other_settings (s := s.adv t) hother]
  · rw [exec_ringEnable_of_on hon hnoreset hset, State.ringEnable_of_disabled (s := s.adv t) hoff]
    rfl
  · rw [exec_ringDisable_of_on hon hnoreset hclear, State.ringDisable_of_disabled (s := s.adv t) hoff]
  · rw [exec_ringDisable_of_on hon hnoreset hclear, State.ringDisable_of_high_ring (s := s.adv t) hen hhigh]
  · rw [exec_ringDisable_of_on hon hnoreset hclear, State.ringDisable_of_dq_in_use (s := s.adv t) hen hlow hhigh huse]
  · rw [exec_ringReset_of_on hon hreset, State.ringResetW_of_live (s := s.adv t) hlive]
  · rw [exec_ringReset_of_on hon hreset, State.ringResetW_of_high_ring (s := s.adv t) hstopped _ hhigh]
  · rw [exec_ringReset_of_on hon hreset, State.ringResetW_of_pair (s := s.adv t) hstopped _ hlow]
  · have hrow := exec_dmaError_of_bus (n := n) cause t hbus
    refine ⟨State.reader_isSome, fun hnone => ?_, fun c hc => ?_, fun k hk => ?_⟩
    · rw [hrow, State.reader_of_no_readers hnone]
    · rw [hrow, show s.reader n = some (.inl c) from hc]
      rfl
    · rw [hrow, show s.reader n = some (.inr k) from hk]
  · exact exec_moderationTimer_of_past t hbus hat hus hirq hdue

end Sys2Proof.Claims
end

section
/-! SUPPORT. The drive commands at their boundary (R64 to R67, R150, R151, R324 to R326): what each of their rows does to the oldest command of
its opcode. -/
namespace Sys2Proof.Machine
open Sys2Proof Sys2Proof.Claims

/-- The drive is started at `b`; where it was not, both host watchdogs are fed (R128, R325; log 152). -/
def State.driveStarted (s : State) (b : Time) : State :=
  { (if s.started then s.adv b else forFin 2 (s.adv b) fun s m => s.wdFeed m) with started := true }

/-- The machines of a mask start, or stop, in order. -/
def State.startMasked (s : State) (mask : Nat) (b : Time) : State :=
  (List.finRange 2).foldl (fun s m => if (mask >>> m.val) % 2 = 1 then s.startMach m b else s) s
def State.stopMasked (s : State) (mask : Nat) (decel : Bool) (t : Time) : State :=
  (List.finRange 2).foldl (fun s m => if (mask >>> m.val) % 2 = 1 then s.stopMach m decel t else s) s

section
variable {s : State} {c : Waiting}

theorem exec_driveStartActs_of_oldest (hold : s.oldest 0x12 = some c) :
    let b := max s.time c.due
    exec .driveStartActs s = .next (((s.driveStarted b).startMasked c.aux b).finishW c stOk c.aux) := by
  change execDriveStartActs s = _
  rw [execDriveStartActs, hold]
  rfl

theorem exec_driveStopActs_of_oldest (hold : s.oldest 0x13 = some c) :
    let t := max s.time c.due
    let u := (s.adv t).stopMasked c.aux (c.arg0.getLsbD 2) t
    exec .driveStopActs s = .next (u.finishW c stOk u.decelMask) := by
  change execDriveStopActs s = _
  rw [execDriveStopActs, hold]
  rfl

section
variable {m : Fin 2} {b : Time} {j : State × BitVec 8 × Nat} (hm : (if c.arg0.getLsbD 0 then 1 else 0) = m)
  (hb : max s.time c.due = b)
include hm hb

/-- REVERSE is judged on the state that the swaps and the sources of its boundary leave (R143; log 91). -/
theorem exec_reverseJudged_of_oldest (hold : s.oldest 0x14 = some c)
    (hj : (s.beforeHand m b).judgeRev m (c.arg0.getLsbD 1) (c.arg0.getLsbD 2) b = j) :
    exec .reverseJudged s = .next (j.1.finishW c j.2.1 j.2.2) := by
  change execReverseJudged s = _
  rw [execReverseJudged, hold]
  dsimp only
  rw [hm, hb, hj]

theorem exec_modeSelectJudged_of_oldest (hold : s.oldest 0x11 = some c)
    (hj : (s.beforeHand m b).judgeMode m (c.arg0.getLsbD 1) (bits c.arg0 3 2) b = j) :
    exec .modeSelectJudged s = .next (j.1.finishW c j.2.1 j.2.2) := by
  change execModeSelectJudged s = _
  rw [execModeSelectJudged, hold]
  dsimp only
  rw [hm, hb, hj]

end

end

end Sys2Proof.Machine

namespace Sys2Proof.Claims
open Sys2Proof Sys2Proof.Machine

/-- Settles O21: each row by the oldest command that waits, REVERSE and MODE_SELECT by the state that their boundary leaves first. -/
theorem driveCommandsAct : Obligations.DriveCommandsAct := by
  refine fun s c => ⟨exec_driveStartActs_of_oldest, exec_driveStopActs_of_oldest, ?_, ?_⟩
  · exact fun m hm hold => exec_reverseJudged_of_oldest hm.symm rfl hold rfl
  · exact fun m hm hold => exec_modeSelectJudged_of_oldest hm.symm rfl hold rfl

end Sys2Proof.Claims
end

section
/-! SUPPORT. SVC_IRQ_N and READY (R338, R476): what the two balls carry while no test instruction owns them, and what a reset of the management
cores leaves in the record of its firmware (R440). -/
namespace Sys2Proof.Machine
open Sys2Proof Sys2Proof.Claims

/-! ### The balls -/

theorem word_and_ne_zero {a b : Word} : a &&& b ≠ 0 ↔ ∃ i : Fin 32, a.getLsbD i = true ∧ b.getLsbD i = true := by
  constructor
  · intro hne
    by_contra hnone
    refine hne (BitVec.eq_of_getLsbD_eq fun i hi => ?_)
    refine (BitVec.getLsbD_and ..).trans ((Bool.eq_false_iff.2 ?_).trans BitVec.getLsbD_zero.symm)
    exact fun hboth => hnone ⟨⟨i, hi⟩, Bool.and_eq_true_iff.1 hboth⟩
  · rintro ⟨i, ha, hb⟩ hzero
    have hbit : (a &&& b).getLsbD i = false := by rw [hzero]; exact BitVec.getLsbD_zero
    rw [BitVec.getLsbD_and, ha, hb] at hbit
    exact absurd hbit (by decide)

/-- Outside EXTEST, HIGHZ and CLAMP a ball carries what its unit drives (R463). -/
theorem State.under_of_free {s : State} (hfree : s.lts.tap < 3) (b : Ball) : s.under b = b := by
  have howns : s.lts.owns = false := decide_eq_false (Nat.not_le.2 hfree)
  rw [State.under, if_neg (by omega), howns]
  rfl

theorem drive_eq_high {b : Bool} : drive b = .high ↔ b = true := by cases b <;> decide
theorem drive_eq_low {b : Bool} : drive b = .low ↔ b = false := by cases b <;> decide

section
variable {s : State} (hfree : s.lts.tap < 3)
include hfree

theorem State.pinSvcIrqN_of_free (hreset : s.pcr.asserted = none) : s.pinSvcIrqN = if s.svcIrq then .low else .off := by
  rw [State.pinSvcIrqN, State.under_of_free hfree, hreset]
  rfl

theorem State.pinSvcIrqN_eq_low (hreset : s.pcr.asserted = none) :
    s.pinSvcIrqN = .low ↔ ∃ i : Fin 32, (s.rget regSvcIrq 0).getLsbD i = true ∧ (s.rget regSvcIrqEn 0).getLsbD i = true := by
  rw [State.pinSvcIrqN_of_free hfree hreset, ← word_and_ne_zero, ← bne_iff_ne]
  change (if s.svcIrq = true then _ else _) = _ ↔ s.svcIrq = true
  cases s.svcIrq <;> decide

theorem State.pinReady_of_free :
    s.pinReady = drive (s.msr.running && !s.msr.mgr && s.pcr.settled && !s.sup.f5 && s.pcr.asserted.isNone) :=
  State.under_of_free hfree _

theorem State.pinReady_eq_high (hreset : s.pcr.asserted = none) :
    s.pinReady = .high ↔ s.msr.running = true ∧ s.msr.mgr = false ∧ s.pcr.settled = true ∧ s.sup.f5 = false := by
  rw [State.pinReady_of_free hfree, drive_eq_high, hreset]
  simp [and_assoc]

theorem State.pinReady_eq_high_or_low : s.pinReady = .high ∨ s.pinReady = .low := by
  rw [State.pinReady_of_free hfree, drive_eq_high, drive_eq_low]
  exact Bool.eq_false_or_eq_true _

theorem State.pinReady_eq_low (hno : s.msr.mgr = true ∨ s.msr.running = false) : s.pinReady = .low := by
  rw [State.pinReady_of_free hfree, drive_eq_low]
  rcases hno with hmgr | hidle
  · simp [hmgr]
  · simp [hidle]

end

/-! ### A reset of the management cores leaves the record of the firmware alone, beyond its own words in it -/

/-- A choice between the state and one that agrees with it on `g`. -/
theorem ite_proj_else {β σ : Type} (g : σ → β) {p : Prop} [Decidable p] {s t : σ} (h : g t = g s) : g (if p then s else t) = g s := by
  split
  · rfl
  · exact h

@[simp] theorem State.releaseGroup_msr (s : State) (w : Fin 8) (t : Time) : (s.releaseGroup w t).msr = s.msr :=
  foldl_proj State.msr (fun u _ => State.modChan_msr u _ _) _ _

@[simp] theorem State.quitSet_msr (s : State) (w : Fin 8) (t : Time) : (s.quitSet w t).msr = s.msr := rfl
@[simp] theorem State.gridStart_msr (s : State) : s.gridStart.msr = s.msr := rfl

theorem State.testEnd_msr (s : State) : s.testEnd.msr = s.msr := by
  refine (forFin_proj State.msr (fun u c => ?_) _).trans (forFin_proj State.msr (fun u w => ?_) { s with edges := [] })
  · split <;> rw [State.modChop_msr]
  · exact ite_proj_else State.msr (by rw [State.modGroup_msr, State.releaseGroup_msr])

theorem State.shadowOff_msr (s : State) : s.shadowOff.msr = s.msr := by
  refine ite_proj_else State.msr ?_
  exact (forFin_proj State.msr (fun u w => State.quitSet_msr u w _) _).trans
    (forFin_proj State.msr (fun u m => State.modMach_msr u m _) _)

/-- What an operation leaves, by its opcode (Table 13.3). -/
theorem State.lopCleanup_msr (s : State) (k : Fin 8) : (s.lopCleanup k).msr = s.msr := by
  have hselfTest : ∀ (u : State) (l : LtsSt), ({ u.testEnd with lts := l } : State).msr = u.msr := by
    intro u l
    dsimp only
    exact State.testEnd_msr u
  rw [State.lopCleanup]
  split
  · exact ite_proj_else State.msr rfl
  · exact State.shadowOff_msr s
  · exact ite_proj_else State.msr rfl
  · exact (ite_proj State.msr (hselfTest _ _)).trans (ite_proj State.msr rfl)
  · dsimp only
    split
    · exact State.modLink_msr s _ _
    · rfl
  · rfl

theorem State.mgrLops_msr (s : State) : s.mgrLops.msr = s.msr := by
  refine forFin_proj State.msr (fun u k => ite_proj_else State.msr ?_) s
  exact (ite_proj_else State.msr (State.modLop_msr _ k _)).trans (State.lopCleanup_msr u k)

theorem State.mgrBurn_msr (s : State) : s.mgrBurn.msr = s.msr := by
  rw [State.mgrBurn]
  split
  · split <;> rfl
  · rfl

theorem State.mgrWaiting_msr (s : State) : s.mgrWaiting.msr = s.msr := ite_proj State.msr rfl

/-- MGR stops the firmware and empties its queue; the work that it ends leaves this as it is (R358, R440). -/
theorem State.mgrAssert_msr {s : State} (hreset : s.pcr.asserted = none) (hmgr : s.msr.mgr = false) (lock : Bool) :
    (s.mgrAssert lock).msr =
      { s.msr with mgr := true, running := false, queue := [], svcBusy := false, svcReady := s.msr.svcReady && !s.msr.svcBusy } := by
  refine (congrArg State.msr (if_neg ?_)).trans ?_
  · simp [hreset, hmgr]
  · rw [State.mgrWaiting_msr, State.mgrLops_msr, State.mgrBurn_msr]
    rfl

end Sys2Proof.Machine

namespace Sys2Proof.Claims
open Sys2Proof Sys2Proof.Machine

/-- Settles O46: each ball by what its unit drives, and an MGR reset by the record that it leaves. -/
theorem pinsRule : Obligations.PinsRule := by
  refine ⟨fun s hfree hreset => ⟨State.pinSvcIrqN_eq_low hfree hreset, State.pinReady_eq_high hfree hreset,
    State.pinReady_eq_high_or_low hfree⟩, fun s lock _ hreset hmgr => ?_, fun s hfree => State.pinReady_eq_low hfree⟩
  rw [State.mgrAssert_msr hreset hmgr]
  exact ⟨rfl, rfl⟩

end Sys2Proof.Claims
end

section
/-! SUPPORT. The service port (R333 to R337, R500): a frame that the device executes, by what it reads or writes, a frame of another length, and
the watchdog of the port. -/
namespace Sys2Proof.Machine
open Sys2Proof Sys2Proof.Claims

/-! ### A frame that the device executes -/

/-- The state in which a frame is executed: the device has shifted out its MISO word (Table 12.12). -/
def State.frameOpen (s : State) (t : Time) : State :=
  { s.adv t with svc := { (s.adv t).svc with out := (s.adv t).misoWord } }

/-- The device executes frames: no reset is asserted, it is not in DEEP, and no link test uses the port (R333, R445, R456). -/
structure State.ServiceOpen (s : State) : Prop where
  reset : s.pcr.asserted = none
  awake : s.pcr.state ≠ 3
  link  : s.linkTested 11 = false

/-- The offset in BAR0 of a byte offset of the service window (Table 12.13). -/
abbrev svcOff (o : Nat) : Nat := svcPage (o / 0x1000) + o % 0x1000

section
variable {s : State} (hopen : s.ServiceOpen) (t : Time)
include hopen

theorem State.frameStart_of_open (mosi : BitVec 16) : s.frameStart mosi t = (s.frameOpen t, true) := by
  have hlink : (s.adv t).linkTested 11 = false := hopen.link
  rw [State.frameStart, hopen.reset]
  refine (if_neg (by decide)).trans ((if_neg hopen.awake).trans (if_neg ?_))
  exact Bool.eq_false_iff.1 hlink

/-! ### Read frames (R334) -/

section
variable (x : BitVec 15) (d : BitVec 16)

theorem exec_serviceReadFrame_of_report (hreport : 0x8000 ≤ 2 * x.toNat) : exec (.serviceReadFrame x d t) s =
    .next ((s.frameOpen t).frameEnd false ((s.frameOpen t).reportHalf (2 * x.toNat - 0x8000))) := by
  change execServiceReadFrame x d t s = _
  rw [execServiceReadFrame, State.frameStart_of_open hopen]
  exact if_pos hreport

theorem exec_serviceReadFrame_of_register (hlow : 2 * x.toNat < 0x8000)
    (hprod : ((s.frameOpen t).debugOpen && prodTest (svcOff (2 * x.toNat) / 4 * 4)) = false) : exec (.serviceReadFrame x d t) s =
      let v := (s.frameOpen t).portRead .svc (svcOff (2 * x.toNat))
      .next (v.frameEnd false (v.host.readS.setWidth 16)) := by
  change execServiceReadFrame x d t s = _
  rw [execServiceReadFrame, State.frameStart_of_open hopen]
  exact (if_neg (Nat.not_le.2 hlow)).trans (if_neg (Bool.eq_false_iff.1 hprod))

/-- A half-word that may be a production-test register's: it is one, and the frame is refused, or no register is there (log 144). -/
theorem exec_serviceReadFrame_of_may_test (hlow : 2 * x.toNat < 0x8000) (hdebug : (s.frameOpen t).debugOpen = true)
    (hmay : mayTest (svcOff (2 * x.toNat) / 4 * 4) = true) :
    Config.testReg (svcOff (2 * x.toNat) / 4 * 4) = false ∨
      exec (.serviceReadFrame x d t) s = .refused (.productionTest (svcOff (2 * x.toNat))) := by
  cases htest : Config.testReg (svcOff (2 * x.toNat) / 4 * 4) with
  | false => exact .inl rfl
  | true =>
    right
    change execServiceReadFrame x d t s = _
    rw [execServiceReadFrame, State.frameStart_of_open hopen]
    exact (if_neg (Nat.not_le.2 hlow)).trans (if_pos (by rw [hdebug, prodTest, hmay, htest]; rfl))

end

/-! ### Write frames (R334 to R337) -/

section
variable {o : Nat} (v : BitVec 16)

/-- A write frame at 0x40 to 0x5F writes its half-word of the nonce, any other one a register, and ends as the register answers. -/
theorem State.writeFrame_of_open : s.writeFrame o v t =
    if 0x40 ≤ o ∧ o < 0x60 then ((s.frameOpen t).svcNonce ((o - 0x40) / 2) v).frameEnd false 0
    else
      let r := (s.frameOpen t).svcWrite o (v.setWidth 32) (s.frameOpen t).time
      r.1.frameEnd (!r.2) 0 := by
  rw [State.writeFrame, State.frameStart_of_open hopen]
  rfl

theorem State.writeFrame_of_nonce (hlow : 0x40 ≤ o) (hhigh : o < 0x60) :
    s.writeFrame o v t = ((s.frameOpen t).svcNonce ((o - 0x40) / 2) v).frameEnd false 0 :=
  (State.writeFrame_of_open hopen t v).trans (if_pos ⟨hlow, hhigh⟩)

section
variable {u : State} (hno : ¬ (0x40 ≤ o ∧ o < 0x60))
include hno

theorem State.writeFrame_of_taken
    (hwrite : (s.frameOpen t).svcWrite o (v.setWidth 32) (s.frameOpen t).time = (u, true)) :
    s.writeFrame o v t = u.frameEnd false 0 := by
  rw [State.writeFrame_of_open hopen, if_neg hno, hwrite]
  rfl

theorem State.writeFrame_of_rejected
    (hwrite : (s.frameOpen t).svcWrite o (v.setWidth 32) (s.frameOpen t).time = (u, false)) :
    s.writeFrame o v t = u.frameEnd true 0 := by
  rw [State.writeFrame_of_open hopen, if_neg hno, hwrite]
  rfl

end

end

end

theorem State.svcWrite_irq {o : Nat} (ho : o = 0x04) (s : State) (v : Word) (t : Time) :
    s.svcWrite o v t = (s.writeWord regSvcIrq 0 0 v, true) := by
  rw [ho]
  rfl

/-- Above SVC_ATTEST no register takes a write frame (R334). -/
theorem State.svcWrite_of_beyond {o : Nat} (hbeyond : 0x1C ≤ o) (s : State) (v : Word) (t : Time) : s.svcWrite o v t = (s, false) := by
  rw [State.svcWrite] <;> omega

/-! ### SVC_SAFE and SVC_ATTEST (R335, R337) -/

theorem State.svcSafe_of_bad_key {v : Word} (hkey : bits v 15 8 ≠ 0xC3) (s : State) (t : Time) : s.svcSafe v t = (s, false) :=
  if_pos (by simp [hkey])

theorem State.svcSafe_of_good {s : State} {v : Word} (hkey : bits v 15 8 = 0xC3) (hask : bits v 3 2 ≠ 3)
    (hmask : s.badMask (bits v 1 0) = false) (t : Time) :
    s.svcSafe v t = (s.askSafe (maskOf (s.maskMach (bits v 1 0))) (bits v 3 2) t, true) :=
  if_neg (by simp [hkey, hask, hmask])

/-- The request of the service port, with the nonce held, joins the signing queue. -/
def State.svcAsked (s : State) : State :=
  { s with msr := { s.msr with svcBusy := true, svcReady := false
                               queue := s.msr.queue ++ [AttReq.mk 1 (BitVec.ofNat 256 (ofLe (wordBytes s.svc.nonce.toList)))] } }

theorem State.svcAttest_of_idle {s : State} (hidle : s.msr.svcBusy = false) : s.svcAttest = (s.svcAsked, true) :=
  if_neg (Bool.eq_false_iff.1 hidle)

/-! ### Frames of another length, and the watchdog (R333, R336) -/

/-- A link that no test uses carries none that runs. -/
theorem State.linkSlot_of_not_tested {s : State} {k : Fin 13} (hno : s.linkTested k.val = false) : s.linkSlot k = none := by
  rw [State.linkSlot, List.find?_eq_none]
  intro j _ hslot
  refine List.any_eq_false.1 hno s.host.lops[j] (Vector.mem_toList_iff.2 (Vector.getElem_mem j.isLt)) ?_
  obtain ⟨hopc, hlink⟩ := Bool.and_eq_true_iff.1 hslot
  obtain ⟨hruns, hopc⟩ := Bool.and_eq_true_iff.1 hopc
  rw [hopc, hlink, Bool.and_true, Bool.and_true, bne_iff_ne]
  intro hidle
  rw [hidle] at hruns
  exact absurd hruns (by decide)

section
variable {s : State} {t : Time} (hon : s.regsOn = true)
include hon

theorem exec_serviceFrameError_of_open {n : Nat} (hlen : n ≠ 32) (hlink : s.linkTested 11 = false) :
    exec (.serviceFrameError n t) s = .next ((s.adv t).frameEnd true 0) := by
  have hon : (s.adv t).regsOn = true := hon
  have hslot : (s.adv t).linkSlot 11 = none := State.linkSlot_of_not_tested (k := 11) hlink
  refine (if_neg ?_).trans ((if_neg ?_).trans (if_neg (Bool.eq_false_iff.1 hlink)))
  · rw [hon]
    exact not_or.2 ⟨hlen, by decide⟩
  · rw [hslot]
    decide

theorem exec_wdiEdge_of_running (hruns : ((s.adv t).rollWd (s.adv t).time).svc.wdOn = true) :
    let u := (s.adv t).rollWd (s.adv t).time
    exec (.wdiEdge t) s = .next { u with svc := { u.svc with wdi := true } } := by
  have hon : (s.adv t).regsOn = true := hon
  exact (if_neg (by rw [hon]; decide)).trans (congrArg Host.Outcome.next (if_pos hruns))

/-- The watchdog of the port stopped by an expiry (R336). -/
def State.wdStopped (s : State) : State :=
  { s with svc := { s.svc with due := false, wdOn := false, kicked := false, wdi := false, expect := 0x5A, cleared := false } }

theorem exec_serviceWatchdogExpiry_of_due (hdue : ((s.adv t).rollWd (s.adv t).time).svc.due = true) :
    let v := (((s.adv t).rollWd (s.adv t).time).wdStopped.rsetF regSvcStat 0 1 1 1).rsetF regSvcIrq 0 3 3 1
    exec (.serviceWatchdogExpiry t) s = .next (v.askSafe (maskOf v.confMach) 0 v.time) := by
  have hon : (s.adv t).regsOn = true := hon
  exact (if_neg (by rw [hon]; decide)).trans (if_neg (by rw [hdue]; decide))

end

end Sys2Proof.Machine

namespace Sys2Proof.Claims
open Sys2Proof Sys2Proof.Machine

/-- Settles O45: a frame by what it reads or writes, one of another length, and the watchdog by whether it runs and is due. -/
theorem servicePortRule : Obligations.ServicePortRule := by
  refine ⟨fun s t hreset hawake hlink => ?_, fun s t hon => ⟨exec_wdiEdge_of_running hon, exec_serviceWatchdogExpiry_of_due hon⟩⟩
  have hopen : s.ServiceOpen := ⟨hreset, hawake, hlink⟩
  refine ⟨fun x d => ?_, fun n hlen hon => exec_serviceFrameError_of_open hon hlen hlink, fun v => ?_, fun hidle => ?_⟩
  · refine ⟨exec_serviceReadFrame_of_report hopen t x d, exec_serviceReadFrame_of_register hopen t x d,
      exec_serviceReadFrame_of_may_test hopen t x d, fun hlow hhigh => ?_, fun ho => ?_, fun hbeyond => ?_⟩
    · exact congrArg Host.Outcome.next (State.writeFrame_of_nonce hopen t d hlow hhigh)
    · exact congrArg Host.Outcome.next (State.writeFrame_of_taken hopen t d (by omega) (State.svcWrite_irq ho _ _ _))
    · exact congrArg Host.Outcome.next (State.writeFrame_of_rejected hopen t d (by omega) (State.svcWrite_of_beyond (by omega) _ _ _))
  · refine ⟨fun hkey => congrArg Host.Outcome.next ?_, fun hkey hask hmask => congrArg Host.Outcome.next ?_,
      congrArg Host.Outcome.next ?_, congrArg Host.Outcome.next ?_⟩
    · exact State.writeFrame_of_rejected hopen t v (by decide) (State.svcSafe_of_bad_key hkey (s.frameOpen t) _)
    · exact State.writeFrame_of_taken hopen t v (by decide) (State.svcSafe_of_good (s := s.frameOpen t) hkey hask hmask _)
    · exact State.writeFrame_of_taken hopen t v (by decide) rfl
    · exact State.writeFrame_of_taken hopen t v (by decide) rfl
  · exact congrArg Host.Outcome.next (State.writeFrame_of_taken hopen t 1 (by decide) (State.svcAttest_of_idle (s := s.frameOpen t) hidle))

end Sys2Proof.Claims
end

section
/-! SUPPORT. What a step does with the queue, the stores and the fuses (R373, R385, R398, R436): the parts of what every command keeps. -/
namespace Sys2Proof.Machine

theorem step_of_front (c : Instr) (p : List Instr) (s : State) : step { s with pending := c :: p } = exec c { s with pending := p } := rfl

theorem step_of_empty {s : State} (hnone : s.pending = []) : step s = .next s := by
  rw [step, hnone]

/-- After reset every switch is off, so no leg has both of its switches on. -/
theorem reset_legsSafe : State.reset.legsSafe := by
  rintro l ⟨hhigh, -⟩
  have hoff : (State.reset.chans[2 * l.val]).lvl = ChanSt.reset.lvl := congrArg ChanSt.lvl (Vector.getElem_replicate (by omega))
  rw [hoff] at hhigh
  exact absurd hhigh (by decide)

end Sys2Proof.Machine

namespace Sys2Proof.Claims
open Sys2Proof Sys2Proof.Machine

/-- Settles O3: node RAM, image memory, fuses, registers and host words are five parts of the invariant, which a step keeps. -/
theorem stepKeepsStores : Obligations.StepKeepsStores := fun _ _ hs ht =>
  have hinv := step_keeps_inv hs ht
  ⟨hinv.nodes, hinv.image, hinv.fuses, hinv.regs, hinv.mem⟩

/-- Settles O7: the command in front keeps the fuses, being another than OTP_BURN_ROUND. -/
theorem fusesOnlyBurn : Obligations.FusesOnlyBurn := by
  intro c p s t hother ht
  have hburn : ∀ n m u, c = .otpBurnRound n m u → true = false := fun n m u hc => absurd hc (hother n m u)
  have hkeeps := keepsO_exec c { s with pending := p } hburn (Keeps.refl true _)
  exact (hkeeps.next t (step_of_front c p s ▸ ht)).fuses rfl

/-- Settles O6: the queue is one of the things that every command keeps. -/
theorem execLeavesQueue : Obligations.ExecLeavesQueue := fun c s t ht =>
  ((keepsO_exec (kb := false) c s (fun _ _ _ _ => rfl) (Keeps.refl false s)).next t ht).queue

/-- Settles O5: after reset the legs are off and every store and record is empty. -/
theorem resetInv : Obligations.ResetInv where
  legs := reset_legsSafe
  nodes := ⟨rfl, List.forall_mem_nil _⟩
  image := ⟨rfl, List.forall_mem_nil _⟩
  regs := rfl
  mem := rfl
  hist := Nat.zero_le _
  held := Nat.zero_le _
  fuses := ⟨⟨rfl, List.forall_mem_nil _⟩, rfl, List.forall_mem_nil _⟩

/-- Settles O1: the front of the queue by the equation of a step, the empty queue by the model's choice of log 1. -/
theorem stepRunsFront : Obligations.StepRunsFront := ⟨step_of_front, fun _ => step_of_empty⟩

end Sys2Proof.Claims
end

section
/-! SUPPORT. The checks of a host command's quad in their order (R318, R321, R345): EXPECT_ROLE's code, its agreement with the role in force,
the reserved bits. -/
namespace Sys2Proof.Machine
open Sys2Proof Sys2Proof.Claims

/-- A quad that one of the checks before its arguments refuses. -/
def QuadRefused (s : State) (q : CmdQ) : Prop :=
  q.role = 3 ∨ s.roleMatches q.role = false ∨ q.rsv9 = true ∨ q.rsv12 ≠ 0

/-- A refused quad waits for no data of host memory (R357). -/
theorem State.waitsData_of_refused {s : State} {q : CmdQ} (hno : QuadRefused s q) (ok refused : Bool) : s.waitsData q ok refused = false := by
  rw [Bool.eq_false_iff]
  intro hwaits
  simp only [State.waitsData, Bool.and_eq_true, bne_iff_ne, beq_iff_eq, Bool.not_eq_true'] at hwaits
  obtain ⟨⟨⟨⟨⟨⟨-, hrole⟩, hmatches⟩, h9⟩, h12⟩, -⟩, -⟩ := hwaits
  rcases hno with h | h | h | h
  · exact hrole h
  · exact Bool.false_ne_true (h.symm.trans hmatches)
  · exact Bool.false_ne_true (h9.symm.trans h)
  · exact h h12

/-- Every host command of Table 12.6 is one use of the common frame, once its quad is refused. -/
theorem hostCommands_framed {s : State} {q : CmdQ} (hno : QuadRefused s q) (data : List Word) (nonce : BitVec 256) :
    ∀ p ∈ hostCommands q data nonce, ∃ ok body, exec p.1 s = s.runCmd q p.2 ok body := by
  have hdata : ∃ ok body, exec (.otpProgram q data) s = s.runCmd q 0x30 ok body :=
    ⟨_, _, if_neg (Bool.eq_false_iff.1 (State.waitsData_of_refused hno _ _))⟩
  have hnonce : ∃ ok body, exec (.attest q nonce) s = s.runCmd q 0x38 ok body :=
    ⟨_, _, if_neg (Bool.eq_false_iff.1 (State.waitsData_of_refused hno _ _))⟩
  simp only [hostCommands, List.forall_mem_cons, List.not_mem_nil, false_implies, implies_true, and_true, hdata, hnonce]
  repeat' refine And.intro ?_ ?_
  all_goals
    dsimp only [exec, execNop, execFence, execSuspend, execResume, execCancel, execNodeRead, execNodeWrite, execNodeBlockLoad,
      execNodeBlockStore, execBankSwap, execSetpoint, execModeSelect, execDriveStart, execDriveStop, execReverse, execSafeState,
      execFaultClear, execPgDirect, execAdcCalibrate, execAdcUrgent, execTraceArm, execTraceStop, execOtpLock, execOtpMarginScan,
      execLifecycleAdvance, execSelfTest, execLinkTest, execPairHandover, execPairRejoin, execPowerState]
    exact ⟨_, _, rfl⟩

section
variable {s : State} {q : CmdQ} (opc : BitVec 8) (ok : Bool) (body : State → Waiting → State) (hcan : s.canBegin q.ring = true)
include hcan

theorem runCmd_of_bad_role_code (hrole : q.role = 3) : s.runCmd q opc ok body = .next (done s q opc stBadOperand 0) :=
  (if_pos hcan).trans (if_pos (beq_iff_eq.2 hrole))

theorem runCmd_of_stale_role (hrole : q.role ≠ 3) (hstale : s.roleMatches q.role = false) :
    s.runCmd q opc ok body = .next (done s q opc stRoleStale (s.ypl.role.code + at_ s.ypl.epoch.toNat 16)) := by
  have hstale : (s.takeCmd q.ring).roleMatches q.role = false := hstale
  exact (if_pos hcan).trans ((if_neg (mt beq_iff_eq.1 hrole)).trans (if_pos (by rw [hstale]; rfl)))

theorem runCmd_of_reserved_bits (hrole : q.role ≠ 3) (hmatches : s.roleMatches q.role = true) (hres : q.rsv9 = true ∨ q.rsv12 ≠ 0) :
    s.runCmd q opc ok body = .next (done s q opc stBadOperand 0) := by
  have hmatches : (s.takeCmd q.ring).roleMatches q.role = true := hmatches
  have hbad : (q.rsv9 || q.rsv12 != 0 || !ok) = true := by
    rw [Bool.or_eq_true, Bool.or_eq_true, bne_iff_ne]
    exact .inl hres
  exact (if_pos hcan).trans ((if_neg (mt beq_iff_eq.1 hrole)).trans ((if_neg (by rw [hmatches]; decide)).trans (if_pos hbad)))

end

theorem State.owner_iff {s : State} : s.owner = true ↔ s.ypl.role = .active ∨ s.ypl.role = .solo := by
  rw [State.owner, Bool.or_eq_true, beq_iff_eq, beq_iff_eq]

theorem State.roleMatches_iff {s : State} {e : BitVec 2} : s.roleMatches e = true ↔
    e = 0 ∨ (e = 1 ∧ (s.ypl.role = .active ∨ s.ypl.role = .solo)) ∨ (e = 2 ∧ s.ypl.role = .standby) := by
  rw [State.roleMatches, Bool.or_eq_true, Bool.or_eq_true, Bool.and_eq_true, Bool.and_eq_true, State.owner_iff, or_assoc]
  simp only [beq_iff_eq]

end Sys2Proof.Machine

namespace Sys2Proof.Claims
open Sys2Proof Sys2Proof.Machine

/-- Settles O9: the roles that each code matches, then each refusal by the check of the common frame that makes it. -/
theorem commandOrderOfChecks : Obligations.CommandOrderOfChecks := by
  refine ⟨fun s e _ => State.roleMatches_iff, fun s q data nonce c opc hcommand hcan => ⟨fun hrole => ?_, fun hrole hstale => ?_,
    fun hrole hmatches hres => ?_⟩⟩
  · obtain ⟨ok, body, hframe⟩ := hostCommands_framed (s := s) (.inl hrole) data nonce _ hcommand
    exact hframe.trans (runCmd_of_bad_role_code opc ok body hcan hrole)
  · obtain ⟨ok, body, hframe⟩ := hostCommands_framed (.inr (.inl hstale)) data nonce _ hcommand
    exact ⟨hframe.trans (runCmd_of_stale_role opc ok body hcan hrole hstale), quiet_finish _ _ _ _⟩
  · obtain ⟨ok, body, hframe⟩ := hostCommands_framed (s := s) (.inr (.inr hres)) data nonce _ hcommand
    exact hframe.trans (runCmd_of_reserved_bits opc ok body hcan hrole hmatches hres)

end Sys2Proof.Claims
end

section
/-! SUPPORT. Node space (R101, R364 to R372): NODE_READ and NODE_WRITE by what each check of Table 14.2 says, what landing a word leaves alone,
the chunks of a block transfer, and an error found in node RAM. -/
namespace Sys2Proof.Machine
open Sys2Proof Sys2Proof.Claims

/-! ### Arguments of a command that begins -/

section
variable {s : State} {q : CmdQ} {opc : BitVec 8} {ok : Bool} {body : State → Waiting → State} (hbegins : Begins s q)
include hbegins

theorem runCmd_of_legal (hok : ok = true) : s.runCmd q opc ok body = .next (body (taken s q) (s.ctx q opc)) :=
  hok ▸ runCmd_of_good_args hbegins opc body

theorem runCmd_of_illegal (hok : ok = false) : s.runCmd q opc ok body = .next (done s q opc stBadOperand 0) :=
  hok ▸ runCmd_of_bad_args hbegins opc body

end

/-! ### NODE_READ (R366, R372) -/

section
variable {s : State} {q : CmdQ} (hbegins : Begins s q)
include hbegins

theorem exec_nodeRead_of_bad_args (hbad : bits q.arg0 31 17 ≠ 0 ∨ q.arg1 ≠ 0 ∨ 0x1A800 ≤ bits q.arg0 16 0) :
    exec (.nodeRead q) s = .next (done s q 0x08 stBadOperand 0) := by
  change execNodeRead q s = _
  rw [execNodeRead]
  refine runCmd_of_illegal hbegins (Bool.eq_false_iff.2 fun hok => ?_)
  simp only [Bool.and_eq_true, beq_iff_eq, decide_eq_true_eq] at hok
  obtain ⟨⟨hres, harg1⟩, hid⟩ := hok
  rcases hbad with h | h | h
  · exact h hres
  · exact h harg1
  · omega

section
variable (hres : bits q.arg0 31 17 = 0) (harg1 : q.arg1 = 0) (hid : bits q.arg0 16 0 < 0x1A800)
include hres harg1 hid

theorem exec_nodeRead_of_legal : exec (.nodeRead q) s =
    .next (if s.pwr == 3 then done s q 0x08 stRefusedState 0
      else if s.poisoned (bits q.arg0 16 0) then done s q 0x08 stVerifyFail (bits q.arg0 16 0)
      else done s q 0x08 stOk ((taken s q).nodeRead (bits q.arg0 16 0)).toNat) := by
  change execNodeRead q s = _
  rw [execNodeRead]
  exact runCmd_of_legal hbegins (by rw [hres, harg1, decide_eq_true hid]; rfl)

theorem exec_nodeRead_of_deep (hdeep : s.pwr = 3) : exec (.nodeRead q) s = .next (done s q 0x08 stRefusedState 0) :=
  (exec_nodeRead_of_legal hbegins hres harg1 hid).trans (congrArg _ (if_pos (beq_iff_eq.2 hdeep)))

theorem exec_nodeRead_of_poisoned (hawake : s.pwr ≠ 3) (hpoison : s.poisoned (bits q.arg0 16 0) = true) :
    exec (.nodeRead q) s = .next (done s q 0x08 stVerifyFail (bits q.arg0 16 0)) :=
  (exec_nodeRead_of_legal hbegins hres harg1 hid).trans (congrArg _ ((if_neg (mt beq_iff_eq.1 hawake)).trans (if_pos hpoison)))

theorem exec_nodeRead_of_sound (hawake : s.pwr ≠ 3) (hsound : s.poisoned (bits q.arg0 16 0) = false) :
    exec (.nodeRead q) s = .next (done s q 0x08 stOk ((taken s q).nodeRead (bits q.arg0 16 0)).toNat) :=
  (exec_nodeRead_of_legal hbegins hres harg1 hid).trans
    (congrArg _ ((if_neg (mt beq_iff_eq.1 hawake)).trans (if_neg (Bool.eq_false_iff.1 hsound))))

end

end

/-! ### The value of a node (R101, R152) -/

theorem State.nodeRead_of_set_row {s : State} {id : Nat} (hrow : nodeRow id = 4) :
    s.nodeRead id = s.setLive (Fin.ofNat 8 ((id - 0x19000) / 0x40)) (id % 0x40) := by
  simp only [State.nodeRead, hrow]

theorem State.nodeRead_of_machine_row {s : State} {id : Nat} (hrow : nodeRow id = 5) :
    s.nodeRead id = s.machLive (Fin.ofNat 2 ((id - 0x19200) / 0x40)) (id % 0x40) := by
  simp only [State.nodeRead, hrow]

theorem State.nodeRead_of_set (s : State) (w : Fin 8) {o : Nat} (ho : o < 0x40) :
    s.nodeRead (0x19000 + 0x40 * w.val + o) = s.setLive w o := by
  have hw := w.isLt
  have hrow : nodeRow (0x19000 + 0x40 * w.val + o) = 4 := by
    rw [nodeRow]
    repeat' split
    all_goals omega
  have hset : Fin.ofNat 8 ((0x19000 + 0x40 * w.val + o - 0x19000) / 0x40) = w := Fin.ext (by rw [Fin.val_ofNat]; omega)
  have hoff : (0x19000 + 0x40 * w.val + o) % 0x40 = o := by omega
  rw [State.nodeRead_of_set_row hrow, hset, hoff]

theorem State.nodeRead_of_machine (s : State) (m : Fin 2) {o : Nat} (ho : o < 0x40) :
    s.nodeRead (0x19200 + 0x40 * m.val + o) = s.machLive m o := by
  have hm := m.isLt
  have hrow : nodeRow (0x19200 + 0x40 * m.val + o) = 5 := by
    rw [nodeRow]
    repeat' split
    all_goals omega
  have hmach : Fin.ofNat 2 ((0x19200 + 0x40 * m.val + o - 0x19200) / 0x40) = m := Fin.ext (by rw [Fin.val_ofNat]; omega)
  have hoff : (0x19200 + 0x40 * m.val + o) % 0x40 = o := by omega
  rw [State.nodeRead_of_machine_row hrow, hmach, hoff]

theorem nodeRow_lt_four {id : Nat} (h : id < 0x19000) : nodeRow id < 4 := by
  rw [nodeRow]
  repeat' split
  all_goals omega

/-- Outside the live rows a node reads the word stored (R366). -/
theorem State.nodeRead_of_stored {id : Nat} (h4 : nodeRow id ≠ 4) (h5 : nodeRow id ≠ 5) (s : State) : s.nodeRead id = s.nodeW id := by
  rw [State.nodeRead]
  split
  · contradiction
  · contradiction
  · rfl

/-! ### Landing a word (R367, R253, R372) -/

/-- Outside the machine cells' live row, landing a word changes node RAM at its node, the poison marks, the late views and the carried charges
alone. -/
theorem State.nodeWrite_of_stored {id : Nat} (hrow : nodeRow id ≠ 5) (s : State) (v : Word) :
    s.nodeWrite id v = { s with
      nodes := alPut (nodeInit id) s.nodes id v
      ecc := (s.nodeWrite id v).ecc
      late := (s.nodeWrite id v).late
      sup := (s.nodeWrite id v).sup } := by
  rw [State.nodeWrite]
  dsimp only
  split
  · contradiction
  · split <;> rfl
  · rfl

section
variable {s : State} {id : Nat} (hwf : s.nodesWf) (hrow : nodeRow id ≠ 5) (v : Word)
include hwf hrow

theorem State.nodeW_nodeWrite_same : (s.nodeWrite id v).nodeW id = v := by
  rw [State.nodeWrite_of_stored hrow, State.nodeW]
  exact (alGet_alPut (nodeInit id) s.nodes id id v hwf.1).trans (if_pos rfl)

theorem State.nodeW_nodeWrite_other {j : Nat} (hj : j ≠ id) : (s.nodeWrite id v).nodeW j = s.nodeW j := by
  rw [State.nodeWrite_of_stored hrow, State.nodeW]
  exact congrArg (fun w => w.getD (nodeInit j)) (alGet_alPut_ne (nodeInit id) s.nodes id j v hwf.1 hj)

end

/-! ### NODE_WRITE (R367 to R369) -/

section
variable {s : State} {q : CmdQ} (hbegins : Begins s q)
include hbegins

theorem exec_nodeWrite_of_bad_args (hbad : bits q.arg0 31 17 ≠ 0 ∨ q.arg1.extractLsb' 32 32 ≠ 0 ∨ nodeKind (bits q.arg0 16 0) = none ∨
      ∃ k, nodeKind (bits q.arg0 16 0) = some k ∧ k.ok (q.arg1.extractLsb' 0 32) = false) :
    exec (.nodeWrite q) s = .next (done s q 0x09 stBadOperand 0) := by
  change execNodeWrite q s = _
  rw [execNodeWrite]
  refine runCmd_of_illegal hbegins (Bool.eq_false_iff.2 fun hok => ?_)
  simp only [Bool.and_eq_true, beq_iff_eq] at hok
  obtain ⟨⟨hres, harg1⟩, hkind⟩ := hok
  rcases hbad with h | h | h | ⟨k, h, hno⟩
  · exact h hres
  · exact h harg1
  · rw [h] at hkind
    exact Bool.false_ne_true hkind
  · rw [h] at hkind
    exact Bool.false_ne_true (hno.symm.trans hkind)

section
variable {k : NodeKind} (hres : bits q.arg0 31 17 = 0) (harg1 : q.arg1.extractLsb' 32 32 = 0)
  (hkind : nodeKind (bits q.arg0 16 0) = some k) (hok : k.ok (q.arg1.extractLsb' 0 32) = true)
include hres harg1 hkind hok

theorem exec_nodeWrite_of_legal : exec (.nodeWrite q) s =
    .next (if (taken s q).nodeRefused (bits q.arg0 16 0) then done s q 0x09 stRefusedState 0
      else ((taken s q).nodeWrite (bits q.arg0 16 0) (q.arg1.extractLsb' 0 32)).finish (s.ctx q 0x09) stOk 0) := by
  change execNodeWrite q s = _
  rw [execNodeWrite]
  exact runCmd_of_legal hbegins (by rw [hres, harg1, hkind]; exact hok)

theorem exec_nodeWrite_of_refused (hno : (taken s q).nodeRefused (bits q.arg0 16 0) = true) :
    exec (.nodeWrite q) s = .next (done s q 0x09 stRefusedState 0) :=
  (exec_nodeWrite_of_legal hbegins hres harg1 hkind hok).trans (congrArg _ (if_pos hno))

theorem exec_nodeWrite_of_taken (hyes : (taken s q).nodeRefused (bits q.arg0 16 0) = false) :
    exec (.nodeWrite q) s =
      .next (((taken s q).nodeWrite (bits q.arg0 16 0) (q.arg1.extractLsb' 0 32)).finish (s.ctx q 0x09) stOk 0) :=
  (exec_nodeWrite_of_legal hbegins hres harg1 hkind hok).trans (congrArg _ (if_neg (Bool.eq_false_iff.1 hyes)))

end

/-! ### NODE_BLOCK_LOAD and NODE_BLOCK_STORE (R370) -/

section
variable (hblock : blockOk q.arg0 q.arg1 = true)
include hblock

theorem exec_nodeBlockLoad_of_legal (hload : rowLoadable (nodeRow (blockOf q.arg0).1) = true) : exec (.nodeBlockLoad q) s =
    .next (if (taken s q).nodeRefused (blockOf q.arg0).1 then done s q 0x0A stRefusedState 0 else (taken s q).lopStart (s.ctx q 0x0A)) := by
  change execNodeBlockLoad q s = _
  rw [execNodeBlockLoad]
  exact runCmd_of_legal hbegins (by rw [hblock]; exact hload)

theorem exec_nodeBlockStore_of_legal : exec (.nodeBlockStore q) s =
    .next (if (taken s q).pwr == 3 then done s q 0x0B stRefusedState 0 else (taken s q).lopStart (s.ctx q 0x0B)) := by
  change execNodeBlockStore q s = _
  rw [execNodeBlockStore]
  exact runCmd_of_legal hbegins hblock

end

end

/-! ### Chunks (R371) -/

/-- The first node of the chunk that an operation moves next, the number of its nodes, and whether another chunk follows. -/
def Lop.chunkNode (l : Lop) : Nat := (blockOf l.arg0).1 + 1024 * l.phase
def Lop.chunkLen (l : Lop) : Nat := min 1024 ((blockOf l.arg0).2 - 1024 * l.phase)
def Lop.chunkMore (l : Lop) : Bool := decide (1024 * l.phase + l.chunkLen < (blockOf l.arg0).2)

section
variable {s : State} {k : Fin 8} {t : Time} {l : Lop} (hlop : (s.adv t).host.lops[k] = l) (hruns : l.state = 1)
  (hbus : (s.adv t).busOk = true) (data : List Word)
include hlop hruns hbus

section
variable (hload : l.opc = 0x0A)
include hload

theorem exec_blockChunkDone_of_bad_load {id : Nat} (hbad : firstBad l.chunkNode data l.chunkLen = some id) :
    exec (.blockChunkDone k data t) s = .next ((s.adv t).lopEnd k stVerifyFail id) := by
  subst hlop
  refine ((if_pos ⟨.inl hruns, .inl hload, hbus⟩).trans (if_pos hload)).trans ?_
  dsimp only [Lop.chunkNode, Lop.chunkLen, blockOf] at hbad ⊢
  rw [hbad]

theorem exec_blockChunkDone_of_good_load (hgood : firstBad l.chunkNode data l.chunkLen = none) :
    exec (.blockChunkDone k data t) s = .next (((s.adv t).loadChunk l.chunkNode data l.chunkLen).blockNext k l.chunkMore stOk 0) := by
  subst hlop
  refine ((if_pos ⟨.inl hruns, .inl hload, hbus⟩).trans (if_pos hload)).trans ?_
  dsimp only [Lop.chunkNode, Lop.chunkLen, blockOf] at hgood ⊢
  rw [hgood]
  rfl

end

/-- A chunk of a store that neither holds a poisoned word nor follows one that did goes to host memory and ends OK if it is the last. -/
theorem exec_blockChunkDone_of_sound_store (hstore : l.opc = 0x0B) (hres : l.res = [])
    (hsound : ((List.range l.chunkLen).filter fun i => (s.adv t).poisoned (l.chunkNode + i)) = []) :
    exec (.blockChunkDone k data t) s =
      .next ((((s.adv t).storeChunk (l.arg1.toNat + 4 * (1024 * l.phase)) l.chunkNode l.chunkLen).modLop k fun x => { x with res := [] }).blockNext
        k l.chunkMore stOk 0) := by
  have hload : l.opc ≠ 0x0A := by rw [hstore]; decide
  subst hlop
  refine ((if_pos ⟨.inl hruns, .inr hstore, hbus⟩).trans (if_neg hload)).trans ?_
  dsimp only [Lop.chunkNode, Lop.chunkLen, blockOf] at hsound ⊢
  rw [hres, hsound]
  rfl

end

/-! ### An error found in node RAM (R372) -/

section
variable (s : State) {id : BitVec 17} (t : Time) (hid : id.toNat < 0x1A800)
include hid

theorem exec_nodeScrub_of_uncorrectable (hsound : s.poisoned id.toNat = false) : exec (.nodeScrub id true t) s =
    .next (({ s.adv t with ecc := { s.ecc with poison := insertNat id.toNat s.ecc.poison } } : State).raise 1 8 6 2
      (0x95 + at_ id.toNat 8) (s.adv t).time) := by
  have hsound : (s.adv t).poisoned id.toNat = false := hsound
  exact (if_neg (Nat.not_le.2 hid)).trans ((if_pos rfl).trans (if_neg (Bool.eq_false_iff.1 hsound)))

/-- The corrections of the last minute with one more, at `t` (R372; log 96). -/
def State.fixed (s : State) (id : Nat) (t : Time) : State :=
  { s.adv t with ecc := { s.ecc with fixes := (max s.time t, id) :: s.ecc.fixes.filter fun x => decide (max s.time t < x.1 + 60 * s1) } }

theorem exec_nodeScrub_of_correctable : exec (.nodeScrub id false t) s =
    .next (if (s.fixed id.toNat t).eccMany && !(s.adv t).eccMany then (s.fixed id.toNat t).health 7 0x11 0 0 (s.fixed id.toNat t).time
      else s.fixed id.toNat t) :=
  (if_neg (Nat.not_le.2 hid)).trans (if_neg Bool.false_ne_true)

end

end Sys2Proof.Machine

namespace Sys2Proof.Claims
open Sys2Proof Sys2Proof.Machine

/-- Settles O11: the command by the check that it meets first; a live node by its cell, a stored one by the word that landed last. -/
theorem nodeReadRule : Obligations.NodeReadRule := by
  refine ⟨fun s q hbegins => ⟨exec_nodeRead_of_bad_args hbegins, fun hres harg1 hid => ⟨exec_nodeRead_of_deep hbegins hres harg1 hid,
    exec_nodeRead_of_poisoned hbegins hres harg1 hid, exec_nodeRead_of_sound hbegins hres harg1 hid⟩⟩,
    fun s w => ⟨State.nodeRead_of_set s w (by decide), State.nodeRead_of_set s w (by decide)⟩,
    fun s m => ⟨State.nodeRead_of_machine s m (by decide), State.nodeRead_of_machine s m (by decide)⟩, fun s id v hwf hid => ?_⟩
  have hrow := nodeRow_lt_four hid
  rw [State.nodeRead_of_stored (by omega) (by omega), State.nodeW_nodeWrite_same hwf (by omega)]

/-- Settles O12: the command by the check that it meets first; a word that lands by the frame of its write. -/
theorem nodeWriteRule : Obligations.NodeWriteRule := by
  refine ⟨fun s q hbegins => ⟨exec_nodeWrite_of_bad_args hbegins, fun k hres harg1 hkind hok =>
    ⟨exec_nodeWrite_of_refused hbegins hres harg1 hkind hok, exec_nodeWrite_of_taken hbegins hres harg1 hkind hok⟩⟩,
    fun s id v hwf hrow => ⟨fun j => State.nodeW_nodeWrite_other hwf hrow v, State.nodeW_nodeWrite_same hwf hrow v, ?_⟩⟩
  rw [State.nodeWrite_of_stored hrow]
  exact ⟨rfl, rfl, rfl, rfl, rfl, rfl, rfl⟩

/-- Settles O30: the two commands by their refusal, a chunk by its kind and its first bad value, a found error by its kind. -/
theorem blockTransferRule : Obligations.BlockTransferRule := by
  refine ⟨fun s q hbegins hblock => ⟨fun hload hno => ?_, fun hload hyes => ?_, fun hdeep => ?_, fun hawake => ?_⟩,
    fun s k data t => ⟨fun hruns hopc hbus id => exec_blockChunkDone_of_bad_load rfl hruns hbus data hopc,
      fun hruns hopc hbus => exec_blockChunkDone_of_good_load rfl hruns hbus data hopc,
      fun hruns hopc hbus => exec_blockChunkDone_of_sound_store rfl hruns hbus data hopc⟩,
    fun s id t hid => ⟨fun hsound => ⟨_, exec_nodeScrub_of_uncorrectable s t hid hsound, rfl⟩,
      ⟨_, exec_nodeScrub_of_correctable s t hid, ?_⟩⟩⟩
  · exact (exec_nodeBlockLoad_of_legal hbegins hblock hload).trans (congrArg _ (if_pos hno))
  · exact (exec_nodeBlockLoad_of_legal hbegins hblock hload).trans (congrArg _ (if_neg (Bool.eq_false_iff.1 hyes)))
  · exact (exec_nodeBlockStore_of_legal hbegins hblock).trans (congrArg _ (if_pos (beq_iff_eq.2 hdeep)))
  · exact (exec_nodeBlockStore_of_legal hbegins hblock).trans (congrArg _ (if_neg (mt beq_iff_eq.1 hawake)))
  · split
    · exact ⟨by rw [State.health_ecc]; rfl, by rw [State.health_ecc]; rfl, State.health_nodes ..⟩
    · exact ⟨rfl, rfl, rfl⟩

end Sys2Proof.Claims
end

section
/-! SUPPORT. SUSPEND, RESUME, CANCEL and RESUME_LIMIT_EXPIRY (R203, R301, R348, R349): what each does by the operation that its handle names. -/
namespace Sys2Proof.Machine
open Sys2Proof Sys2Proof.Claims

@[simp] theorem State.ctx_arg0 (s : State) (q : CmdQ) (opc : BitVec 8) : (s.ctx q opc).arg0 = q.arg0 := rfl

/-- Taking a command leaves the long operations as they are. -/
@[simp] theorem State.takeCmd_lops (s : State) (n : Fin 16) : (s.takeCmd n).host.lops = s.host.lops := rfl
@[simp] theorem State.takeCmd_lopOf (s : State) (n : Fin 16) (h : Nat) : (s.takeCmd n).lopOf h = s.lopOf h := rfl

/-- The operation of a slot runs again, from its beginning if it was suspended too long (R348). -/
def Lop.resumed (l : Lop) (again : Bool) (t : Time) : Lop :=
  { l with state := 1, since := t, stale := false, phase := if again then 0 else l.phase, res := if again then [] else l.res }

section
variable {s : State} {q : CmdQ} (hbegins : Begins s q) (hok : handleOk q = true)
include hbegins hok

section
variable (hnone : s.lopOf (bits q.arg0 15 0) = none)
include hnone

theorem exec_suspend_of_no_operation : exec (.suspend q) s = .next (done s q 0x02 stRefusedState 1) := by
  change execSuspend q s = _
  rw [execSuspend, runCmd_of_legal hbegins hok]
  simp only [State.ctx_arg0, State.takeCmd_lopOf, hnone]

theorem exec_resume_of_no_operation : exec (.resume q) s = .next (done s q 0x03 stRefusedState 1) := by
  change execResume q s = _
  rw [execResume, runCmd_of_legal hbegins hok]
  simp only [State.ctx_arg0, State.takeCmd_lopOf, hnone]

theorem exec_cancel_of_no_operation : exec (.cancel q) s = .next (done s q 0x04 stRefusedState 1) := by
  change execCancel q s = _
  rw [execCancel, runCmd_of_legal hbegins hok]
  simp only [State.ctx_arg0, State.takeCmd_lopOf, hnone]

end

section
variable {k : Fin 8} (hnames : s.lopOf (bits q.arg0 15 0) = some k)
include hnames

theorem exec_suspend_of_running (hruns : s.host.lops[k].state ≠ 2) (hunasked : s.host.lops[k].ending = 0) : exec (.suspend q) s =
    .next (((taken s q).await { s.ctx q 0x02 with aux := bits q.arg0 15 0 }).modLop k fun l => { l with state := 3, ending := 2 }) := by
  change execSuspend q s = _
  rw [execSuspend, runCmd_of_legal hbegins hok]
  simp only [State.ctx_arg0, State.takeCmd_lopOf, State.takeCmd_lops, hnames]
  exact congrArg _ ((if_neg hruns).trans (if_pos hunasked))

theorem exec_cancel_of_suspended (hsusp : s.host.lops[k].state = 2) : exec (.cancel q) s =
    .next (((taken s q).lopQuit k stCancelled s.host.lops[k].quit).finish (s.ctx q 0x04) stOk 0) := by
  change execCancel q s = _
  rw [execCancel, runCmd_of_legal hbegins hok]
  simp only [State.ctx_arg0, State.takeCmd_lopOf, State.takeCmd_lops, hnames]
  exact congrArg _ (if_pos hsusp)

theorem exec_resume_of_suspended_load (hsusp : s.host.lops[k].state = 2) (hload : s.host.lops[k].opc = 0x0A) : ∃ again,
    exec (.resume q) s =
      .next (((taken s q).modLop k fun l => l.resumed again s.time).finish (s.ctx q 0x03) stOk (bits q.arg0 15 0)) := by
  refine ⟨s.host.lops[k].stale || false, ?_⟩
  change execResume q s = _
  rw [execResume, runCmd_of_legal hbegins hok]
  simp only [State.ctx_arg0, State.takeCmd_lopOf, State.takeCmd_lops, hnames, hload]
  exact congrArg _ (if_pos hsusp)

end

end

theorem exec_resumeLimitExpiry_of_long {s : State} {slot : Fin 8} {t : Time} (hsusp : s.host.lops[slot].state = 2)
    (hopc : s.host.lops[slot].opc = 0x20 ∨ s.host.lops[slot].opc = 0x49) (hlong : s.host.lops[slot].suspAt + 100 * ms1 ≤ max s.time t) :
    exec (.resumeLimitExpiry slot t) s = .next ((s.adv t).modLop slot fun l => { l with stale := true }) :=
  if_pos ⟨hsusp, hopc, hlong⟩

end Sys2Proof.Machine

namespace Sys2Proof.Claims
open Sys2Proof Sys2Proof.Machine

/-- Settles O16: each command by the operation that its handle names and by its state, the expiry by its three conditions. -/
theorem longOperationCommandsComplete : Obligations.LongOperationCommandsComplete := by
  refine ⟨fun s q opc c hcommand hbegins hok hnone => ?_, fun s q k hbegins hok hnames =>
    ⟨exec_suspend_of_running hbegins hok hnames, exec_cancel_of_suspended hbegins hok hnames, fun hsusp hload => ?_⟩,
    fun s slot t => exec_resumeLimitExpiry_of_long⟩
  · simp only [List.mem_cons, Prod.mk.injEq, List.not_mem_nil, or_false] at hcommand
    obtain ⟨rfl, rfl⟩ | ⟨rfl, rfl⟩ | ⟨rfl, rfl⟩ := hcommand
    · exact exec_suspend_of_no_operation hbegins hok hnone
    · exact exec_resume_of_no_operation hbegins hok hnone
    · exact exec_cancel_of_no_operation hbegins hok hnone
  · obtain ⟨again, hresumed⟩ := exec_resume_of_suspended_load hbegins hok hnames hsusp hload
    have hlop : ((taken s q).modLop k fun l => l.resumed again s.time).host.lops[k] = s.host.lops[k].resumed again s.time :=
      vmod_at s.host.lops k _
    exact ⟨_, hresumed, congrArg Lop.state hlop, (congrArg Lop.opc hlop).trans hload⟩

end Sys2Proof.Claims
end

section
/-! SUPPORT. FENCE, FENCE_MARK and EVENT_DRAIN (R328, R341 to R343, R352): what a fence does as it begins, what its marks wait for, and when one
completes. -/
namespace Sys2Proof.Machine
open Sys2Proof Sys2Proof.Claims

/-! ### FENCE (R341) -/

/-- Some event ring that the fence names is not enabled, or is stopped. -/
def State.fenceNames (s : State) (mask : BitVec 4) : Bool :=
  (List.finRange 4).any fun r => mask.getLsbD r && (!s.ringEn (eqIdx r) || s.host.rings[eqIdx r].stopped)

/-- The slots that hold the operations of a command ring. -/
def State.ringLops (s : State) (n : Fin 16) : List (Fin 8) :=
  (List.finRange 8).filter fun k => s.host.lops[k].state != 0 && s.host.lops[k].ring == n

/-- The fence of a quad that is not refused, as it is recorded (R341). -/
def State.fenceOf (s : State) (q : CmdQ) (seq : Nat) : FenceSt where
  ring := q.ring
  tf := s.stamp s.time
  mask := BitVec.ofNat 4 (bits q.arg0 3 0)
  trace := q.arg0.getLsbD 4
  marked := bits q.arg0 4 0 == 0
  traceLeft := if q.arg0.getLsbD 4 then BitVec.ofNat 4 ((List.finRange 4).foldl (fun a r => if s.ringEn (tqIdx r) then a + 2 ^ r.val else a) 0)
    else 0
  lops := (s.ringLops q.ring).map s.handle
  seq := seq

/-- The fence is recorded and its command waits. -/
def State.fenced (s : State) (c : Waiting) (f : FenceSt) : State :=
  let v := s.freeNext.await c
  { v with host := { v.host with fences := v.host.fences ++ [f] } }

section
variable {s : State} {q : CmdQ} (hbegins : Begins s q) (hres : bits q.arg0 31 5 = 0) (harg1 : q.arg1 = 0)
include hbegins hres harg1

theorem exec_fence_of_begins : exec (.fence q) s =
    .next (if (taken s q).fenceNames (BitVec.ofNat 4 (bits q.arg0 3 0)) then done s q 0x01 stRefusedState 1
      else if ((taken s q).ringLops q.ring).any fun k => (taken s q).host.lops[k].state == 2 then done s q 0x01 stRefusedState 2
      else ((taken s q).fenced (s.ctx q 0x01) ((taken s q).fenceOf q (s.ctx q 0x01).seq)).fenceTry) := by
  change execFence q s = _
  rw [execFence]
  exact runCmd_of_legal hbegins (by rw [hres, harg1]; rfl)

end

/-- While a command of a ring waits, the ring takes no other (R339). -/
theorem State.canBegin_of_waiting {s : State} {n : Fin 16} {c : Waiting} (hwaits : c ∈ s.host.waiting) (hring : c.ring = n) :
    s.canBegin n = false := by
  rw [Bool.eq_false_iff]
  intro hbegins
  have hsome : (s.host.waiting.any fun k => k.ring == n) = true := List.any_eq_true.2 ⟨c, hwaits, beq_iff_eq.2 hring⟩
  simp only [State.canBegin, hsome, Bool.not_true, Bool.and_false, Bool.false_and] at hbegins
  exact Bool.false_ne_true hbegins

/-! ### FENCE_MARK (R343) -/

/-- Another fence on a shared ring, not yet marked, is earlier. -/
def State.earlierFence (s : State) (f : FenceSt) : Bool :=
  s.host.fences.any fun g => !g.marked && decide (g.tf < f.tf) && ((g.mask &&& f.mask) != 0 || (g.trace && f.trace))

/-- The marks of a fence, one per event ring that it names (R344). -/
def FenceSt.marks (f : FenceSt) : List Held :=
  ((List.finRange 4).filter fun (r : Fin 4) => f.mask.getLsbD r).map fun (r : Fin 4) => Held.mark r ⟨0x0F, 0x0D, 8, 0, f.detail, f.tf⟩

/-- The marks of the fence of ring `n` take their places among the held entries. -/
def State.fenceMarked (s : State) (n : Fin 16) (f : FenceSt) : State :=
  { s with host := { s.host with
      held := s.host.held.filter (fun h => beforeMark f (s.heldRings h) h) ++ f.marks ++
        s.host.held.filter (fun h => !beforeMark f (s.heldRings h) h)
      fences := s.host.fences.map fun g => if g.ring == n then { g with marked := true } else g } }

section
variable {s : State} {n : Fin 16} {f : FenceSt} (t : Time) (hfind : s.host.fences.find? (fun f => f.ring == n) = some f)
include hfind

theorem exec_fenceMark_of_found : exec (.fenceMark n t) s =
    if f.marked then .next (((s.adv t).traceMarks n).drain.fenceTry)
    else if max s.time t < f.tf + 20 * us1 ∨ s.earlierFence f = true then .next (s.adv t)
    else .next ((((s.adv t).fenceMarked n f).drain.traceMarks n).fenceTry) := by
  have hfind : (s.adv t).host.fences.find? (fun f => f.ring == n) = some f := hfind
  change execFenceMark n t s = _
  rw [execFenceMark]
  dsimp only
  rw [hfind]
  rfl

end

/-! ### Completing a fence (R342, R352) -/

/-- A fence has its marks and waits for nothing more. -/
def State.fenceDue (s : State) (f : FenceSt) : Bool :=
  s.fenceWritten f && f.lops.all (fun h => (s.lopOf h).isNone) && !(s.host.cpls.any fun c => c.ring == f.ring) &&
    !s.host.rings[cqIdx f.ring].stopped

/-- The fence of a ring leaves the list, and is kept for the coming batons. -/
def State.fenceLeft (s : State) (f : FenceSt) : State :=
  { s with host := { s.host with
      fences := s.host.fences.filter fun g => g.ring != f.ring
      fenceOk := fenceKept ⟨s.time, f.tf, f.ring, f.seq⟩ s.host.fenceOk } }

/-- One fence of the list is completed if it is due. -/
def State.fenceStep (s : State) (f : FenceSt) : State :=
  if s.fenceDue f then
    match s.host.waiting.find? (fun c => c.opc == 0x01 && c.ring == f.ring) with
    | some c => (s.fenceLeft f).finishW c stOk (ticksOf f.tf % 2 ^ 40)
    | none => s.fenceLeft f
  else s

theorem State.fenceTry_eq_foldl (s : State) : s.fenceTry = s.host.fences.foldl State.fenceStep s := rfl

theorem State.fenceStep_of_not_due {s : State} {f : FenceSt} (hno : s.fenceDue f = false) : s.fenceStep f = s :=
  if_neg (Bool.eq_false_iff.1 hno)

theorem State.fenceStep_of_due {s : State} {f : FenceSt} {c : Waiting} (hdue : s.fenceDue f = true)
    (hfind : s.host.waiting.find? (fun c => c.opc == 0x01 && c.ring == f.ring) = some c) :
    s.fenceStep f = (s.fenceLeft f).finishW c stOk (ticksOf f.tf % 2 ^ 40) := by
  rw [State.fenceStep, if_pos hdue, hfind]

theorem State.foldl_fenceStep_of_not_due {s : State} {l : List FenceSt} (hno : ∀ f ∈ l, s.fenceDue f = false) :
    l.foldl State.fenceStep s = s := by
  induction l with
  | nil => rfl
  | cons f l ih =>
    obtain ⟨hf, hl⟩ := List.forall_mem_cons.1 hno
    rw [List.foldl_cons, State.fenceStep_of_not_due hf]
    exact ih hl

end Sys2Proof.Machine

namespace Sys2Proof.Claims
open Sys2Proof Sys2Proof.Machine

/-- Settles O17: a fence by its refusals, its marks by the instant and by earlier fences, its completion by what it still waits for. -/
theorem fenceHolds : Obligations.FenceHolds := by
  refine ⟨fun s q hbegins hres harg1 => ?_, fun s n c => State.canBegin_of_waiting, fun s n f t hfind => ?_, fun s t => rfl,
    fun s => ⟨State.foldl_fenceStep_of_not_due, fun l f c hlist hno hdue hfind => ?_⟩⟩
  · have hfence := exec_fence_of_begins hbegins hres harg1
    refine ⟨fun hoff => hfence.trans (congrArg _ (if_pos hoff)), fun hon hsome => ?_, fun hon hnone => ?_⟩
    · obtain ⟨k, hk, hsusp⟩ := hsome
      have hany : (((taken s q).ringLops q.ring).any fun k => (taken s q).host.lops[k].state == 2) = true :=
        List.any_eq_true.2 ⟨k, hk, beq_iff_eq.2 hsusp⟩
      exact hfence.trans (congrArg _ ((if_neg (Bool.eq_false_iff.1 hon)).trans (if_pos hany)))
    · refine hfence.trans (congrArg _ ((if_neg (Bool.eq_false_iff.1 hon)).trans (if_neg fun hsome => ?_)))
      obtain ⟨k, hk, hsusp⟩ := List.any_eq_true.1 hsome
      exact hnone k hk (beq_iff_eq.1 hsusp)
  · have hmark := exec_fenceMark_of_found t hfind
    refine ⟨fun hmarked => hmark.trans (if_pos hmarked), fun hmarked hearly => ?_, fun hmarked hlate hfirst => ?_⟩
    · exact hmark.trans ((if_neg (Bool.eq_false_iff.1 hmarked)).trans (if_pos hearly))
    · exact hmark.trans ((if_neg (Bool.eq_false_iff.1 hmarked)).trans
        (if_neg (not_or.2 ⟨Nat.not_lt.2 hlate, Bool.eq_false_iff.1 hfirst⟩)))
  · have hlast : s.fenceTry = s.fenceStep f := by
      rw [State.fenceTry_eq_foldl, hlist, List.foldl_append, State.foldl_fenceStep_of_not_due hno, List.foldl_cons, List.foldl_nil]
    exact hlast.trans (State.fenceStep_of_due hdue hfind)

end Sys2Proof.Claims
end

section
/-! SUPPORT. The channels of the Silo (R377 to R384): TRACE_ARM and TRACE_STOP as they begin and at their boundary, a trigger, a complete window and
an emptied channel. -/
namespace Sys2Proof.Machine
open Sys2Proof Sys2Proof.Claims

/-! ### The two commands (R382, R383) -/

section
variable {s : State} {q : CmdQ} (hbegins : Begins s q) (hres : bits q.arg0 31 16 = 0) (harg1 : q.arg1 = 0)
include hbegins hres harg1

theorem exec_traceStop_of_begins : exec (.traceStop q) s = .next (waits s q 0x29 ((taken s q).fpAfter s.time) (bits q.arg0 15 0)) := by
  change execTraceStop q s = _
  rw [execTraceStop]
  exact runCmd_of_legal hbegins (by rw [traceArgs, hres, harg1]; rfl)

section
variable (hmask : bits q.arg0 15 0 ≠ 0)
include hmask

theorem exec_traceArm_of_allowed (hyes : (taken s q).armRefusal (bits q.arg0 15 0) = none) :
    exec (.traceArm q) s = .next (waits s q 0x28 ((taken s q).fpAfter s.time) (bits q.arg0 15 0)) := by
  change execTraceArm q s = _
  rw [execTraceArm, runCmd_of_legal hbegins (by rw [traceArgs, hres, harg1]; exact bne_iff_ne.2 hmask), hyes]
  rfl

theorem exec_traceArm_of_refused {k : Nat} {ch : Fin 16} (hno : (taken s q).armRefusal (bits q.arg0 15 0) = some (k, ch)) :
    exec (.traceArm q) s = .next (done s q 0x28 stRefusedState (k + at_ ch.val 16)) := by
  change execTraceArm q s = _
  rw [execTraceArm, runCmd_of_legal hbegins (by rw [traceArgs, hres, harg1]; exact bne_iff_ne.2 hmask), hno]

end

end

section
variable {s : State} {w : Waiting}

/-- The channels of a mask arm, or stop, at a boundary. -/
def State.armMasked (s : State) (mask : Nat) (b : Time) : State :=
  forFin 16 s fun s c => if Nat.testBit mask c.val then s.siloArm c b else s
def State.silosStopped (s : State) (mask : Nat) (b : Time) : State :=
  forFin 16 s fun s c => if Nat.testBit mask c.val then s.siloStop c b else s

theorem exec_traceArmed_of_oldest (hold : s.oldest 0x28 = some w) :
    exec .traceArmed s = .next (((s.adv w.due).armMasked w.aux w.due).finishW w stOk 0) := by
  change execTraceArmed s = _
  rw [execTraceArmed, hold]
  rfl

theorem exec_stopped_of_oldest (hold : s.oldest 0x29 = some w) :
    exec .stopped s = .next (((s.adv w.due).silosStopped w.aux w.due).finishW w stOk 0) := by
  change execStopped s = _
  rw [execStopped, hold]
  rfl

end

/-! ### A channel (R377 to R379) -/

section
variable {s : State} {c : Fin 16}

/-- An armed one-shot channel triggered at `t`: the post-trigger part begins (R378). -/
def SiloCh.triggered (x : SiloCh) (t : Time) : SiloCh := { x with trigDue := [], trig := some t, tTime := t, state := 2 }

/-- The state in which the trigger of a one-shot channel is announced; `more` are the triggers that a ring channel would keep. -/
def State.trigTaken (s : State) (c : Fin 16) (t : Time) (more : List (Time × Bool)) : State :=
  ((s.modSilo c fun x => { x with trigDue := if x.state = 5 then more else [] }).modSilo c fun x =>
    { x with trig := some t, tTime := t, state := 2 }).rcount regTrcCount c 15 0 1

theorem State.trigTaken_channel {t : Time} (harmed : s.silo[c].state = 1) (more : List (Time × Bool)) :
    (s.trigTaken c t more).silo[c] = s.silo[c].triggered t := by
  have hshot : s.silo[c].state ≠ 5 := by rw [harmed]; decide
  refine (vmod_at _ c _).trans ?_
  rw [State.modSilo, vmod_at]
  dsimp only
  rw [if_neg hshot]
  rfl

theorem State.trigTaken_other {t : Time} {j : Fin 16} (hj : j ≠ c) (more : List (Time × Bool)) :
    (s.trigTaken c t more).silo[j] = s.silo[j] :=
  (vmod_other _ c j _ (Ne.symm hj)).trans (vmod_other _ c j _ (Ne.symm hj))

theorem exec_traceTrigger_of_armed {t : Time} {ft : Bool} {l : List (Time × Bool)} (hdue : s.silo[c].trigDue = (t, ft) :: l)
    (harmed : s.silo[c].state = 1) :
    exec (.traceTrigger c) s = .next ((s.trigTaken c t l).siloEvent c 0xD0 (at_ (b2n ft) 12) t) := by
  change execTraceTrigger c s = _
  rw [execTraceTrigger, hdue]
  exact if_pos harmed

theorem exec_traceWindowComplete_of_held (hpost : s.silo[c].state = 2) (hheld : s.trcPost c ≤ s.silo[c].postHeld) :
    exec (.traceWindowComplete c) s = .next (s.siloDump c (s.trcPost c) false) :=
  if_pos ⟨hpost, hheld⟩

section
variable (hdump : s.silo[c].state = 3) (hempty : s.silo[c].outq = [])
include hdump hempty

theorem exec_traceDone_of_stopped (hstopped : s.silo[c].stopped = true) :
    exec (.traceDone c) s = .next (s.modSilo c fun x => { x with state := 0, stopped := false }) :=
  (if_pos ⟨hdump, hempty⟩).trans (if_pos hstopped)

theorem exec_traceDone_of_delivered (hgoes : s.silo[c].stopped = false) : exec (.traceDone c) s =
    .next ((s.modSilo c fun x => { x with state := 4, rearm := s.rb regTrcCfg c 29 }).siloEvent c 0xD1
      (at_ (s.silo[c].quads % 65536) 16) s.time) :=
  (if_pos ⟨hdump, hempty⟩).trans (if_neg (Bool.eq_false_iff.1 hgoes))

end

end

end Sys2Proof.Machine

namespace Sys2Proof.Claims
open Sys2Proof Sys2Proof.Machine

/-- Settles O29: the commands by their refusal and at their boundary, a channel by its state and by what it holds. -/
theorem traceChannelRule : Obligations.TraceChannelRule := by
  refine ⟨fun s q hbegins hres harg1 => ⟨exec_traceArm_of_allowed hbegins hres harg1,
      fun k ch hmask => exec_traceArm_of_refused hbegins hres harg1 hmask, exec_traceStop_of_begins hbegins hres harg1⟩,
    fun s w => ⟨exec_traceArmed_of_oldest, exec_stopped_of_oldest⟩, fun s c t ft l hdue harmed => ?_,
    fun s c => exec_traceWindowComplete_of_held, fun s q => rfl,
    fun s c hdump hempty => ⟨exec_traceDone_of_stopped hdump hempty, exec_traceDone_of_delivered hdump hempty⟩⟩
  have hchannel := State.trigTaken_channel (t := t) harmed l
  exact ⟨_, exec_traceTrigger_of_armed hdue harmed, congrArg SiloCh.state hchannel, congrArg SiloCh.trig hchannel,
    congrArg SiloCh.trigDue hchannel, fun j hj => State.trigTaken_other hj l⟩

end Sys2Proof.Claims
end

section
/-! SUPPORT. The management cores (R358, R415 to R420, R440): ATTEST and the delivery of a report, what performs MGR, and the restart after it. -/
namespace Sys2Proof.Machine
open Sys2Proof Sys2Proof.Claims

/-! ### Commands that read host memory as they begin (R357; log 159) -/

section
variable {s : State} {q : CmdQ} {ok refused : Bool}

theorem State.waitsData_of_refusal (hno : refused = true) : s.waitsData q ok refused = false := by
  rw [State.waitsData, hno, Bool.not_true, Bool.and_false]

theorem State.waitsData_of_bus (hbus : s.busOk = true) : s.waitsData q ok refused = false := by
  simp only [State.waitsData, hbus, Bool.not_true, Bool.false_and]

theorem State.waitsData_of_stop (hbegins : Begins s q) (hstop : s.busOk = false) (hok : ok = true) (hyes : refused = false) :
    s.waitsData q ok refused = true := by
  obtain ⟨-, hrole, hmatches, h9, h12⟩ := hbegins
  simp only [State.waitsData, Bool.and_eq_true, Bool.not_eq_true', bne_iff_ne, beq_iff_eq]
  exact ⟨⟨⟨⟨⟨⟨hstop, hrole⟩, hmatches⟩, h9⟩, h12⟩, hok⟩, hyes⟩

end

/-! ### ATTEST (R415) -/

section
variable {s : State} {q : CmdQ} (nonce : BitVec 256) (hres : bits q.arg0 31 16 = 0) (hlen : 928 ≤ bits q.arg0 15 0)
  (haddr : q.arg1.toNat % 16 = 0)
include hres hlen haddr

/-- The operands of an ATTEST quad that is in order. -/
theorem attestArgs_of_legal : (bits q.arg0 31 16 == 0 && decide (928 ≤ bits q.arg0 15 0) && q.arg1.toNat % 16 == 0) = true := by
  rw [hres, decide_eq_true hlen, haddr]
  rfl

variable (hbegins : Begins s q)
include hbegins

theorem exec_attest_of_deep (hdeep : s.pwr = 3) : exec (.attest q nonce) s = .next (done s q 0x38 stRefusedState 0) := by
  have hdeep : (s.pwr == 3) = true := beq_iff_eq.2 hdeep
  change execAttest q nonce s = _
  rw [execAttest]
  dsimp only
  rw [State.waitsData_of_refusal hdeep, if_neg Bool.false_ne_true, runCmd_of_legal hbegins (attestArgs_of_legal hres hlen haddr)]
  exact congrArg _ (if_pos hdeep)

theorem exec_attest_of_stop (hawake : s.pwr ≠ 3) (hstop : s.busOk = false) : exec (.attest q nonce) s = .next s :=
  if_pos (State.waitsData_of_stop hbegins hstop (attestArgs_of_legal hres hlen haddr) (beq_eq_false_iff_ne.2 hawake))

theorem exec_attest_of_fetched (hawake : s.pwr ≠ 3) (hbus : s.busOk = true) : exec (.attest q nonce) s =
    .next (({ taken s q with msr := { s.msr with queue := s.msr.queue ++ [⟨0, nonce⟩] } } : State).await (s.ctx q 0x38)) := by
  change execAttest q nonce s = _
  rw [execAttest]
  dsimp only
  rw [State.waitsData_of_bus hbus, if_neg Bool.false_ne_true, runCmd_of_legal hbegins (attestArgs_of_legal hres hlen haddr)]
  exact congrArg _ (if_neg (mt beq_iff_eq.1 hawake))

end

/-! ### ATTEST_REPORT_DONE (R417 to R420) -/

/-- The oldest request is answered and counted. -/
def State.reportCounted (s : State) (rest : List AttReq) : State :=
  { s with msr := { s.msr with queue := rest, reports := (s.msr.reports + 1) % 65536 } }

/-- The management cores sign: the firmware runs, and neither a reset nor DEEP stops them. -/
def State.signs (s : State) : Prop := s.msr.running = true ∧ s.msr.mgr = false ∧ s.pcr.asserted = none ∧ s.pcr.state ≠ 3

section
variable {s : State} {nonce : BitVec 256} {rest : List AttReq} (t : Time) (hsigns : s.signs)
include hsigns

/-- Signing is held up by transfers that are stopped, and then only for a request of the host. -/
theorem State.report_not_held {who : Nat} (hsent : who = 0 → s.busOk = true) :
    ¬ (!s.msr.running || s.msr.mgr || s.pcr.asserted.isSome || s.pcr.state == 3 || (who == 0 && !s.busOk)) = true := by
  obtain ⟨hrun, hmgr, hreset, hawake⟩ := hsigns
  simp only [hrun, hmgr, hreset, Bool.not_true, Option.isSome_none, Bool.false_or, Bool.or_eq_true, beq_iff_eq, Bool.and_eq_true,
    Bool.not_eq_true', not_or, not_and, hawake, not_false_eq_true, true_and]
  intro hhost
  rw [hsent hhost]
  decide

theorem exec_attestReportDone_of_host {c : Waiting} (hqueue : s.msr.queue = ⟨0, nonce⟩ :: rest) (hbus : s.busOk = true)
    (hold : s.oldest 0x38 = some c) : exec (.attestReportDone t) s =
    .next ((((s.adv t).reportCounted rest).hostWriteQuads c.arg1.toNat (bytesQuads ((s.adv t).attReport ⟨0, nonce⟩))).finishW c stOk 928) := by
  have hqueue : (s.adv t).msr.queue = ⟨0, nonce⟩ :: rest := hqueue
  have hold : ((s.adv t).reportCounted rest).oldest 0x38 = some c := hold
  change execAttestReportDone t s = _
  rw [execAttestReportDone]
  dsimp only
  rw [hqueue]
  refine (if_neg (State.report_not_held (s := s.adv t) hsigns fun _ => hbus)).trans ?_
  dsimp only
  rw [State.reportCounted] at hold
  rw [hold]
  rfl

theorem exec_attestReportDone_of_service (hqueue : s.msr.queue = ⟨1, nonce⟩ :: rest) : exec (.attestReportDone t) s =
    let w := (s.adv t).reportCounted rest
    .next (({ w with msr := { w.msr with window := (s.adv t).attReport ⟨1, nonce⟩, svcBusy := false, svcReady := true } } : State).rsetF
      regSvcIrq 0 4 4 1) := by
  have hqueue : (s.adv t).msr.queue = ⟨1, nonce⟩ :: rest := hqueue
  change execAttestReportDone t s = _
  rw [execAttestReportDone]
  dsimp only
  rw [hqueue]
  exact if_neg (State.report_not_held (s := s.adv t) hsigns fun h => absurd h Nat.one_ne_zero)

theorem exec_attestReportDone_of_partner (hqueue : s.msr.queue = ⟨2, nonce⟩ :: rest) : exec (.attestReportDone t) s =
    .next (((s.adv t).reportCounted rest).sendReport (bytesQuads ((s.adv t).attReport ⟨2, nonce⟩))) := by
  have hqueue : (s.adv t).msr.queue = ⟨2, nonce⟩ :: rest := hqueue
  change execAttestReportDone t s = _
  rw [execAttestReportDone]
  dsimp only
  rw [hqueue]
  exact if_neg (State.report_not_held (s := s.adv t) hsigns fun h => absurd h (Nat.succ_ne_zero 1))

end

/-! ### What performs MGR (R440) -/

section
variable {s : State} (t : Time) (hawake : s.pcr.state ≠ 3)
include hawake

theorem exec_mgmtWatchdogExpiry_of_running (hrun : s.msr.running = true) :
    exec (.mgmtWatchdogExpiry t) s = .next ((s.adv t).mgrAssert false) := by
  refine congrArg Host.Outcome.next (if_pos ?_)
  exact Bool.and_eq_true_iff.2 ⟨hrun, bne_iff_ne.2 hawake⟩

section
variable (hreset : s.pcr.asserted = none)
include hreset

theorem lockstep_seen : ¬ ((s.adv t).pcr.asserted.isSome || (s.adv t).pcr.state == 3) = true := by
  have hreset : (s.adv t).pcr.asserted = none := hreset
  rw [hreset]
  exact mt beq_iff_eq.1 hawake

theorem exec_lockstepMismatch_of_uncorrectable : exec (.lockstepMismatch false t) s = .next ((s.adv t).mgrAssert true) :=
  (if_neg (lockstep_seen t hawake hreset)).trans (if_neg Bool.false_ne_true)

theorem exec_lockstepMismatch_of_correctable : exec (.lockstepMismatch true t) s = .next ((s.adv t).health 6 0x10 0 0 (s.adv t).time) :=
  (if_neg (lockstep_seen t hawake hreset)).trans (if_pos rfl)

end

end

/-! ### MGR_RESUMED (R358, R400) -/

theorem State.burnSeen_msr (s : State) (kind : Nat) : (s.burnSeen kind).msr = s.msr := by
  rw [State.burnSeen]
  split
  · rfl
  · exact ite_proj State.msr rfl

theorem State.burnIncomplete_msr (s : State) (b : BurnSt) (t : Time) : (s.burnIncomplete b t).msr = s.msr := by
  rw [State.burnIncomplete, State.raise_msr]
  rfl

theorem State.mgrBurnEnd_msr (s : State) (b : BurnSt) (t : Time) : (s.mgrBurnEnd b false t).msr = s.msr := by
  have hseen : (({ s.burnIncomplete b t with otp := { (s.burnIncomplete b t).otp with burn := none } } : State).burnSeen b.kind).msr = s.msr := by
    rw [State.burnSeen_msr]
    dsimp only
    exact State.burnIncomplete_msr s b t
  rw [State.mgrBurnEnd]
  dsimp only
  rw [if_neg Bool.false_ne_true]
  split
  · exact hseen
  · exact hseen
  · exact hseen

theorem State.mgrCut_msr (s : State) : s.mgrCut.msr = s.msr := by
  rw [State.mgrCut]
  split
  · split
    · exact State.mgrBurnEnd_msr s _ _
    · rfl
  · rfl

/-- MGR has ended; the last reset is MGR. -/
def State.mgrEnded (s : State) : State := { s with msr := { s.msr with mgr := false }, pcr := { s.pcr with last := 5 } }

/-- Lost work is answered (R358): commands and operations that MGR lost, the RECOVERY quad with their numbers, what is due, waiting frames. -/
def State.lostAnswered (s : State) (n k : Nat) : State :=
  let a := s.mgrAborts.mgrFinals
  ((a.recoveryQuad (0xC5 + at_ (n % 256) 8 + at_ k 16) a.time).mgrLost a.time).flushTx

theorem exec_mgrResumed_of_measured {s : State} (t : Time) (hmgr : s.msr.mgr = true) (hmeasured : s.msr.measured = true)
    (hawake : s.pcr.state ≠ 3) :
    let v := s.adv t
    let n := (v.host.waiting.filter fun c => c.opc == opcLost).length
    let k := (v.host.lops.toList.filter fun l => l.state != 0).length
    let p := v.mgrEnded.mgrCut
    let b := (p.measure true p.time).lostAnswered n k
    exec (.mgrResumed t) s = .next { b with msr := { b.msr with running := b.msr.measured } } := by
  have hgo : ¬ (!(s.adv t).msr.mgr || (s.adv t).pcr.state == 3) = true := by
    have hmgr : (s.adv t).msr.mgr = true := hmgr
    rw [hmgr]
    exact mt beq_iff_eq.1 hawake
  have himage : (s.adv t).mgrEnded.mgrCut.msr.measured = true := (congrArg MsrSt.measured (State.mgrCut_msr _)).trans hmeasured
  rw [State.mgrEnded] at himage
  refine (if_neg hgo).trans ?_
  dsimp only
  rw [if_pos himage]
  rfl

end Sys2Proof.Machine

namespace Sys2Proof.Claims
open Sys2Proof Sys2Proof.Machine

/-- Settles O33: ATTEST by the power state and the bus, a report by who asked for it, MGR by its causes, and the restart in its order. -/
theorem managementCoreRule : Obligations.ManagementCoreRule := by
  refine ⟨fun s q nonce hbegins hres hlen haddr => ⟨exec_attest_of_deep nonce hres hlen haddr hbegins,
      exec_attest_of_stop nonce hres hlen haddr hbegins, exec_attest_of_fetched nonce hres hlen haddr hbegins⟩,
    fun s r rest t hqueue hrun hmgr hreset hawake => ?_,
    fun s t hawake => ⟨exec_mgmtWatchdogExpiry_of_running t hawake, exec_lockstepMismatch_of_uncorrectable t hawake,
      exec_lockstepMismatch_of_correctable t hawake⟩,
    fun s t => exec_mgrResumed_of_measured t⟩
  obtain ⟨who, nonce⟩ := r
  have hsigns : s.signs := ⟨hrun, hmgr, hreset, hawake⟩
  refine ⟨?_, ?_, ?_⟩
  · rintro c rfl
    exact exec_attestReportDone_of_host t hsigns hqueue
  · rintro rfl
    exact exec_attestReportDone_of_service t hsigns hqueue
  · rintro rfl
    exact exec_attestReportDone_of_partner t hsigns hqueue

end Sys2Proof.Claims
end

section
/-! SUPPORT. The fuses and the life cycle (R394 to R404): the commands as they begin, the pre-check, a pulse, a scan's last region and the
Gleaner. -/
namespace Sys2Proof.Machine
open Sys2Proof Sys2Proof.Claims

/-! ### OTP_PROGRAM (R397 to R399) -/

/-- Taking a command leaves what a refusal of a burn is judged on. -/
@[simp] theorem State.takeCmd_programRefusal (s : State) (n : Fin 16) (r : Nat) : (s.takeCmd n).programRefusal r = s.programRefusal r := rfl

section
variable {s : State} {r : Nat}

theorem State.programRefusal_of_lifecycle (hno : s.lcProgram r = false) : s.programRefusal r = some stLifecycle :=
  if_pos (by rw [hno]; rfl)

section
variable (hlc : s.lcProgram r = true)
include hlc

theorem State.programRefusal_of_locked (hlocked : s.otpWl r = true) : s.programRefusal r = some stLocked :=
  (if_neg (by rw [hlc]; decide)).trans (if_pos hlocked)

section
variable (hfree : s.otpWl r = false)
include hfree

theorem State.programRefusal_of_state (hno : s.otpBusy = true ∨ 2 ≤ s.pwr) : s.programRefusal r = some stRefusedState :=
  (if_neg (by rw [hlc]; decide)).trans ((if_neg (Bool.eq_false_iff.1 hfree)).trans
    (if_pos (by rwa [Bool.or_eq_true, decide_eq_true_eq])))

theorem State.programRefusal_of_window (hidle : s.otpBusy = false) (hpwr : s.pwr < 2) :
    s.programRefusal r = if !s.otpWin then some stRefusedTemp else none :=
  (if_neg (by rw [hlc]; decide)).trans ((if_neg (Bool.eq_false_iff.1 hfree)).trans
    (if_neg (by rw [hidle, Bool.false_or, decide_eq_true_eq]; omega)))

end

end

end

/-- The operands of an OTP_PROGRAM quad are in order: its words lie in one region, which is neither 2 nor 15 (R399). -/
structure ProgramArgs (q : CmdQ) (a r : Nat) : Prop where
  first : a = bits q.arg0 9 0
  region : r = a / 64
  res : bits q.arg0 31 16 = 0
  addr : q.arg1.toNat % 4 = 0
  within : (a + (bits q.arg0 15 10 + 1) - 1) / 64 = r
  not_life : r ≠ 2
  not_locks : r ≠ 15

section
variable {s : State} {q : CmdQ} {a r : Nat} (data : List Word) (hargs : ProgramArgs q a r)
include hargs

theorem ProgramArgs.ok : (bits q.arg0 31 16 == 0 && q.arg1.toNat % 4 == 0 &&
    (bits q.arg0 9 0 + (bits q.arg0 15 10 + 1) - 1) / 64 == bits q.arg0 9 0 / 64 && bits q.arg0 9 0 / 64 != 2 && bits q.arg0 9 0 / 64 != 15) =
      true := by
  obtain ⟨rfl, rfl, hres, haddr, hwithin, hlife, hlocks⟩ := hargs
  simp only [Bool.and_eq_true, beq_iff_eq, bne_iff_ne]
  exact ⟨⟨⟨⟨hres, haddr⟩, hwithin⟩, hlife⟩, hlocks⟩

variable (hbegins : Begins s q)
include hbegins

theorem exec_otpProgram_of_refused {st : BitVec 8} (hno : s.programRefusal r = some st) :
    exec (.otpProgram q data) s = .next (done s q 0x30 st 0) := by
  have hok := hargs.ok
  obtain ⟨rfl, rfl, -, -, -, -, -⟩ := hargs
  change execOtpProgram q data s = _
  rw [execOtpProgram]
  dsimp only
  rw [State.waitsData_of_refusal (by rw [hno]; rfl), if_neg Bool.false_ne_true, runCmd_of_legal hbegins hok, State.takeCmd_programRefusal, hno]

section
variable (hyes : s.programRefusal r = none)
include hyes

theorem exec_otpProgram_of_stop (hstop : s.busOk = false) : exec (.otpProgram q data) s = .next s := by
  have hok := hargs.ok
  obtain ⟨rfl, rfl, -, -, -, -, -⟩ := hargs
  exact if_pos (State.waitsData_of_stop hbegins hstop hok (by rw [hyes]; rfl))

theorem exec_otpProgram_of_fetched (hbus : s.busOk = true) : exec (.otpProgram q data) s =
    .next (((taken s q).await (s.ctx q 0x30)).burnStart 1 (data.zipIdx.map fun (d, i) => (a + i, otpCodeword (a + i) d)) 8 r 0 false) := by
  have hok := hargs.ok
  obtain ⟨rfl, rfl, -, -, -, -, -⟩ := hargs
  change execOtpProgram q data s = _
  rw [execOtpProgram]
  dsimp only
  rw [State.waitsData_of_bus hbus, if_neg Bool.false_ne_true, runCmd_of_legal hbegins hok, State.takeCmd_programRefusal, hyes]

end

end

/-! ### The pre-check of a word (R398, R399) -/

section
variable {s : State} {b : BurnSt} {a : Nat} {v : BitVec 39} {rest : List (Nat × BitVec 39)} (hburn : s.otp.burn = some b)
  (hwords : b.words = (a, v) :: rest) (hpre : b.pre = true)
include hburn hwords hpre

theorem State.burnVpp_of_bad_supply (hvpp : s.vppOk = false) : s.burnVpp = s.burnEnd b stRefusedSupply 3 := by
  rw [State.burnVpp, hburn]
  dsimp only
  rw [hwords]
  dsimp only
  rw [hpre, hvpp]
  rfl

section
variable (hvpp : s.vppOk = true)
include hvpp

/-- The pre-check of the first word of an OTP_PROGRAM accepts it into slot `k`. -/
theorem State.burnVpp_of_first (hkind : b.kind = 1) (hslot : b.slot = 8) {c : Waiting} {k : Fin 8} (hold : s.oldest 0x30 = some c)
    (hfree : s.freeSlot = some k) :
    let u := (({ s with host := { s.host with waiting := s.host.waiting.erase c } } : State).lopStart c).closeTry c.ring
    let b1 := { b with pre := false, slot := k.val }
    s.burnVpp = ({ u with otp := { u.otp with burn := some b1 } } : State).burnRead b1 a v rest := by
  rw [State.burnVpp, hburn]
  dsimp only
  rw [hwords]
  dsimp only
  rw [hpre, hvpp, if_neg (by decide), if_neg (by decide), if_pos ⟨hkind, hslot⟩, hold, hfree]

theorem State.burnVpp_of_later (hno : b.kind ≠ 1 ∨ b.slot ≠ 8) :
    s.burnVpp = ({ s with otp := { s.otp with burn := some { b with pre := false } } } : State).burnRead { b with pre := false } a v rest := by
  rw [State.burnVpp, hburn]
  dsimp only
  rw [hwords]
  dsimp only
  rw [hpre, hvpp]
  exact (if_neg (by decide)).trans ((if_neg (by decide)).trans (if_neg (not_and_or.2 hno)))

end

end

/-! ### OTP_LOCK, OTP_MARGIN_SCAN and LIFECYCLE_ADVANCE (R394 to R397, R403) -/

section
variable {s : State} {q : CmdQ} (hbegins : Begins s q)
include hbegins

theorem exec_otpLock_of_allowed (hres : bits q.arg0 31 9 = 0) (hres' : bits q.arg0 7 6 = 0) (harg1 : q.arg1 = 0)
    (hwrite : q.arg0.getLsbD 4 = true) (hread : q.arg0.getLsbD 5 = false) (hborn : (taken s q).otp.lc ≠ 0) (hlives : (taken s q).otp.lc ≠ 4)
    (hgood : (taken s q).otp.lcBad = false) (hfree : (taken s q).otpWl 15 = false) (hidle : (taken s q).otpBusy = false)
    (hpwr : (taken s q).pwr < 2) (hwin : (taken s q).otpWin = true)
    (hvalid : bits q.arg0 3 0 = 15 ∨ (taken s q).otpStatus (bits q.arg0 3 0) false = 1) : exec (.otpLock q) s =
    .next (((taken s q).await (s.ctx q 0x31)).burnStart 3 ([960, 961, 962].map fun a => (a, 1#39 <<< bits q.arg0 3 0)) 0
      (bits q.arg0 3 0) 1 false) := by
  have hvalid : (bits q.arg0 3 0 == 15 || (taken s q).otpStatus (bits q.arg0 3 0) false == 1) = true := by
    rwa [Bool.or_eq_true, beq_iff_eq, beq_iff_eq]
  have hlc : ¬ ((taken s q).otp.lc == 0 || (taken s q).otp.lc == 4 || (taken s q).otp.lcBad) = true := by
    simp only [hgood, Bool.or_false, Bool.or_eq_true, beq_iff_eq, not_or]
    exact ⟨hborn, hlives⟩
  have hbusy : ¬ ((taken s q).otpBusy || decide (2 ≤ (taken s q).pwr)) = true := by
    rw [hidle, Bool.false_or, decide_eq_true_eq]
    omega
  change execOtpLock q s = _
  rw [execOtpLock]
  dsimp only
  rw [runCmd_of_legal hbegins (by rw [hres, hres', harg1, hwrite, hread]; rfl), if_neg hlc, if_neg (Bool.eq_false_iff.1 hfree),
    if_neg hbusy, hwin, if_neg (by decide), hvalid, Bool.not_true, Bool.false_and, if_neg Bool.false_ne_true, hwrite, hread]
  simp only [Bool.and_false]
  rfl

theorem exec_otpMarginScan_of_begins (hres : bits q.arg0 31 16 = 0) (harg1 : q.arg1 = 0) : exec (.otpMarginScan q) s =
    .next (if (taken s q).otpBusy then done s q 0x32 stRefusedState 0 else (taken s q).lopStart (s.ctx q 0x32)) := by
  change execOtpMarginScan q s = _
  rw [execOtpMarginScan]
  exact runCmd_of_legal hbegins (by rw [hres, harg1]; rfl)

section
variable (hres : bits q.arg0 31 3 = 0) (harg1 : q.arg1 = 0) (hnext : bits q.arg0 2 0 = 1)
include hres harg1 hnext

theorem exec_lifecycleAdvance_of_past (hpast : (taken s q).otp.lc = 4 ∨ (taken s q).otp.lc = 2) :
    exec (.lifecycleAdvance q) s = .next (done s q 0x33 stLifecycle 0) := by
  change execLifecycleAdvance q s = _
  rw [execLifecycleAdvance]
  dsimp only
  rw [runCmd_of_legal hbegins (by rw [hres, harg1, hnext]; rfl), hnext]
  rcases hpast with h | h
  · rw [h]; rfl
  · rw [h]; rfl

/-- From BLANK the advance burns the three copies and the seal of region 2 (R396). -/
theorem exec_lifecycleAdvance_of_blank (hblank : (taken s q).otp.lc = 0) (hgood : (taken s q).otp.lcBad = false)
    (hidle : (taken s q).otpBusy = false) (hpwr : (taken s q).pwr < 2) (hwin : (taken s q).otpWin = true) :
    exec (.lifecycleAdvance q) s = .next (((taken s q).await (s.ctx q 0x33)).burnStart 5
      [(128, 1#39), (129, 1#39), (130, 1#39), (191, otpCodeword 191 ((taken s q).otpSeal 2))] 0 2 1 false) := by
  have hbusy : ¬ ((taken s q).otpBusy || decide (2 ≤ (taken s q).pwr)) = true := by
    rw [hidle, Bool.false_or, decide_eq_true_eq]
    omega
  change execLifecycleAdvance q s = _
  rw [execLifecycleAdvance]
  dsimp only
  rw [runCmd_of_legal hbegins (by rw [hres, harg1, hnext]; rfl), hnext, hblank, hgood, if_neg (by decide), if_neg (by simp), if_neg (by simp),
    if_neg hbusy, hwin, if_neg (by decide)]
  rfl

end

end

/-! ### A pulse (R387, R398) -/

/-- The reads after a pulse of OTP_LOCK on word `a` are stored. -/
def State.pulseStored (s : State) (a : Nat) (x y tgt : BitVec 39) : State :=
  let v := s.otpStore a (otpAfter (s.otpNorm a) (x ||| y) tgt) (otpAfter (s.otpMarg a) y tgt)
  { v with otp := { v.otp with lastRounds := s.otp.lastRounds } }

section
variable {s : State} {b : BurnSt} {a : Nat} {tgt : BitVec 39} {rest : List (Nat × BitVec 39)} (x y : BitVec 39) (t : Time)
  (hburn : s.otp.burn = some b) (hwords : b.words = (a, tgt) :: rest) (hstarted : b.started = true) (hkind : b.kind = 3) (hcut : b.cut = 0)
include hburn hwords hstarted hkind hcut

theorem exec_otpBurnRound_of_lock : exec (.otpBurnRound x y t) s =
    let v := (s.adv t).pulseStored a x y tgt
    let b1 := { b with rounds := b.rounds + 1 }
    if v.burnMet a tgt then .next (v.burnNext b1 a rest)
    else if 8 ≤ b.rounds + 1 then .next (((v.otpFinding a 3 v.time).raise 8 8 0x0A 0 (0xE2 + at_ a 8) v.time).burnEnd b1 stVerifyFail 2)
    else .next (v.modBurn fun x => { x with rounds := b.rounds + 1 }) := by
  have hburn : (s.adv t).otp.burn = some b := hburn
  have hlive : (s.adv t).burnLive b = true := by
    rw [State.burnLive, hkind]
    rfl
  change execOtpBurnRound x y t s = _
  rw [execOtpBurnRound]
  dsimp only
  rw [hburn]
  dsimp only
  rw [hwords]
  dsimp only
  rw [hlive, hstarted, hkind, hcut, if_neg (by decide), if_neg (show ¬ 0 = 1 by decide), if_neg (show ¬ 0 = 2 by decide)]
  rfl

end

/-! ### Scans (R403, R404) -/

theorem exec_scanRegionDone_of_last {s : State} {k : Fin 8} {r : Fin 16} {t : Time} (hruns : (s.adv t).running 0x32 = some k) :
    let v := s.adv t
    let l := scanRegions (bits v.host.lops[k].arg0 15 0)
    let n := v.host.lops[k].phase
    l[n]? = some r → n + 1 = l.length →
    let w := (v.otpJudge r true v.time).modLop k fun x => { x with phase := n + 1 }
    exec (.scanRegionDone t) s = .next (w.lopEnd k stOk (w.scanResult (l.take (n + 1)))) := by
  intro v l n hregion hlast
  change execScanRegionDone t s = _
  rw [execScanRegionDone]
  dsimp only
  rw [hruns]
  dsimp only
  rw [hregion]
  exact if_neg (Nat.not_lt.2 hlast.ge)

theorem State.scanNote_due {s : State} (hloaded : s.otp.loaded = true) (hdue : s.gleanDue = true ∨ s.otp.scanDue = true) :
    s.scanNote.otp.scanDue = true := by
  rw [State.scanNote, hloaded, Bool.true_and]
  split
  · rfl
  · next hno => exact hdue.resolve_left hno

/-- A Gleaner scan is counted, and the next one is timed from it (R404). -/
def State.gleaned (s : State) : State :=
  { s with otp := { s.otp with scans := (s.otp.scans + 1) % 65536, scanAt := s.time, scanDue := false,
                               scanBands := if s.thm.read then s.thm.zones.toList.map fun z => bandOf z.temp else [] } }

theorem exec_gleanerScanDue_of_due {s : State} {t : Time} (hloaded : (s.adv t).scanNote.otp.loaded = true)
    (hidle : (s.adv t).scanNote.otpBusy = false) (hawake : (s.adv t).scanNote.pwr ≠ 3) (hreset : (s.adv t).scanNote.pcr.asserted = none)
    (hdue : (s.adv t).scanNote.otp.scanDue = true) :
    exec (.gleanerScanDue t) s = .next ((s.adv t).scanNote.otpJudgeAll true (s.adv t).scanNote.time).gleaned := by
  refine if_pos ?_
  rw [hloaded, hidle, hreset, hdue]
  simpa using hawake

end Sys2Proof.Machine

namespace Sys2Proof.Claims
open Sys2Proof Sys2Proof.Machine

/-- Settles O31: each command by its refusals in their order, the pre-check by the supply and by the word, a pulse by what it left unmet, the
scans by what they find. -/
theorem otpCommands : Obligations.OtpCommands := by
  refine ⟨fun s q data hbegins hres haddr => ?_, fun s b a v rest hburn hwords hpre => ?_,
    fun s q hbegins hres hres' harg1 hwrite hread hborn hlives hgood hfree hidle hpwr hwin =>
      exec_otpLock_of_allowed hbegins hres hres' harg1 hwrite hread hborn hlives hgood hfree hidle hpwr hwin,
    fun s q hbegins hres harg1 => ?_, fun s q hbegins hres harg1 hnext => ?_,
    fun s b a tgt rest x y t hburn hwords hstarted hkind hcut => ?_, fun s k r t => exec_scanRegionDone_of_last,
    fun s t => ⟨State.scanNote_due (s := s.adv t), fun hloaded hidle hawake hreset hdue => ?_⟩⟩
  · intro a r hwithin hlife hlocks u
    have hargs : ProgramArgs q a r := ⟨rfl, rfl, hres, haddr, hwithin, hlife, hlocks⟩
    refine ⟨fun hno => ?_, fun hlc hlocked => ?_, fun hlc hfree hno => ?_, fun hlc hfree hidle hpwr => ⟨fun hcold => ?_, fun hwin hbus => ?_,
      fun hwin hstop => ?_⟩⟩
    · exact exec_otpProgram_of_refused data hargs hbegins (State.programRefusal_of_lifecycle hno)
    · exact exec_otpProgram_of_refused data hargs hbegins (State.programRefusal_of_locked hlc hlocked)
    · exact exec_otpProgram_of_refused data hargs hbegins (State.programRefusal_of_state hlc hfree hno)
    · refine exec_otpProgram_of_refused data hargs hbegins ((State.programRefusal_of_window hlc hfree hidle hpwr).trans (if_pos ?_))
      rw [hcold]; rfl
    · refine exec_otpProgram_of_fetched data hargs hbegins ((State.programRefusal_of_window hlc hfree hidle hpwr).trans (if_neg ?_)) hbus
      rw [hwin]; decide
    · refine exec_otpProgram_of_stop data hargs hbegins ((State.programRefusal_of_window hlc hfree hidle hpwr).trans (if_neg ?_)) hstop
      rw [hwin]; decide
  · exact ⟨State.burnVpp_of_bad_supply hburn hwords hpre,
      fun hvpp hkind hslot c k => State.burnVpp_of_first hburn hwords hpre hvpp hkind hslot, State.burnVpp_of_later hburn hwords hpre⟩
  · have hscan := exec_otpMarginScan_of_begins hbegins hres harg1
    exact ⟨fun hbusy => hscan.trans (congrArg _ (if_pos hbusy)), fun hidle => hscan.trans (congrArg _ (if_neg (Bool.eq_false_iff.1 hidle)))⟩
  · exact ⟨exec_lifecycleAdvance_of_past hbegins hres harg1 hnext, exec_lifecycleAdvance_of_blank hbegins hres harg1 hnext⟩
  · have hpulse := exec_otpBurnRound_of_lock x y t hburn hwords hstarted hkind hcut
    refine ⟨fun hmet => hpulse.trans (if_pos hmet), fun hunmet hfew => ?_, fun hunmet hmany => ?_⟩
    · exact hpulse.trans ((if_neg (Bool.eq_false_iff.1 hunmet)).trans (if_neg (Nat.not_le.2 hfew)))
    · exact hpulse.trans ((if_neg (Bool.eq_false_iff.1 hunmet)).trans (if_pos hmany))
  · exact ⟨_, exec_gleanerScanDue_of_due hloaded hidle hawake hreset hdue, rfl, rfl, rfl⟩

end Sys2Proof.Claims
end

section
/-! SUPPORT. The test access port (R462, R463, Table 18.3): what loading an instruction does to the ownership of the balls, and each instruction. -/
namespace Sys2Proof.Machine
open Sys2Proof Sys2Proof.Claims

theorem LtsSt.owns_iff {x : LtsSt} : x.owns = true ↔ 3 ≤ x.tap := decide_eq_true_iff

/-- An instruction that keeps the ownership of the balls as it is only comes into force. -/
theorem State.tapLoad_of_kept {s : State} {c : Nat} (hkept : s.lts.tap < 3 ∨ s.lts.tap = c) (t : Time) :
    s.tapLoad c t = { s with lts := { s.lts with tap := c } } := by
  refine if_neg fun hleft => ?_
  obtain ⟨howns, hother⟩ := Bool.and_eq_true_iff.1 hleft
  have howns := LtsSt.owns_iff.1 howns
  exact hkept.elim (Nat.not_lt.2 howns) (bne_iff_ne.1 hother)

theorem State.tapLoad_of_left {s : State} {c : Nat} (howns : 3 ≤ s.lts.tap) (hother : s.lts.tap ≠ c) (t : Time) :
    s.tapLoad c t = ({ s with lts := { s.lts with tap := c } } : State).assertReset 3 t :=
  if_pos (Bool.and_eq_true_iff.2 ⟨LtsSt.owns_iff.2 howns, bne_iff_ne.2 hother⟩)

theorem State.tapData_of_idcode {s : State} (hidcode : s.lts.tap = 0) : s.tapData = 0xB42089E3 := by
  rw [State.tapData, hidcode]
  rfl

section
variable (s : State) (t : Time)

theorem exec_vendorTestInstruction_of_closed (c : BitVec 8) (hclosed : (s.adv t).debugOpen = false) :
    exec (.vendorTestInstruction c t) s = .next ((s.adv t).tapLoad 1 (s.adv t).time) :=
  if_neg (Bool.eq_false_iff.1 hclosed)

theorem exec_vendorTestInstruction_of_open (c : BitVec 8) (hopen : (s.adv t).debugOpen = true) :
    exec (.vendorTestInstruction c t) s = .refused (.vendorTest c) :=
  if_pos hopen

theorem exec_tapInstructionExit_of_owning (howns : 3 ≤ s.lts.tap) :
    exec (.tapInstructionExit t) s = .next ((s.adv t).tapLoad 0 (s.adv t).time) :=
  congrArg Host.Outcome.next (if_pos (LtsSt.owns_iff.2 howns))

theorem exec_tapInstructionExit_of_not_owning (hno : s.lts.tap < 3) : exec (.tapInstructionExit t) s = .next (s.adv t) :=
  congrArg Host.Outcome.next (if_neg (mt LtsSt.owns_iff.1 (Nat.not_le.2 hno)))

end

end Sys2Proof.Machine

namespace Sys2Proof.Claims
open Sys2Proof Sys2Proof.Machine

/-- Settles O42: each instruction by its code, and a load by whether it leaves the ownership of the balls. -/
theorem tapRule : Obligations.TapRule :=
  ⟨fun s t => ⟨rfl, rfl, rfl, rfl, rfl, fun _ _ => rfl, exec_vendorTestInstruction_of_closed s t, exec_vendorTestInstruction_of_open s t,
      exec_tapInstructionExit_of_owning s t, exec_tapInstructionExit_of_not_owning s t⟩,
    fun _ _ t => ⟨fun hkept => State.tapLoad_of_kept hkept t, fun howns hother => State.tapLoad_of_left howns hother t,
      State.tapData_of_idcode⟩⟩

end Sys2Proof.Claims
end

section
/-! SUPPORT. Self tests and link tests (R451 to R461): SELF_TEST and LINK_TEST as they begin, the last block of a self test, a link's checker,
the end of a running time and of the loopback. -/
namespace Sys2Proof.Machine
open Sys2Proof Sys2Proof.Claims

/-! ### SELF_TEST (R459 to R461) -/

/-- A role or a drive forbids a self test. -/
def State.selfTestBusy (s : State) : Bool := s.ypl.role == .active || s.ypl.role == .standby || s.drivesAny

/-- A safety input that the pulse-generator block would use is in use. -/
def State.selfTestUnsafe (s : State) (q : CmdQ) : Bool := q.arg0.getLsbD 2 && (s.yieldHigh || s.chopSup 0 || s.chopSup 1)

/-- The test takes slot `k` and enters its first block. -/
def State.selfTestStart (s : State) (c : Waiting) (k : Fin 8) (mask : Nat) : State :=
  ((s.lopStart c).modLop k fun l => { l with phase := (blockFrom mask 0).getD 0, res := [0] }).blockEnter k

/-- What SELF_TEST does once its quad is in order. -/
def selfTestBody (q : CmdQ) (s : State) (c : Waiting) : State :=
  if s.pwr != 0 then s.finish c stRefusedState 1
  else if s.selfTestBusy then s.finish c stRefusedState 2
  else if s.lopAny 0x20 || s.lopAny 0x40 then s.finish c stRefusedState 3
  else if s.selfTestUnsafe q then s.finish c stRefusedState 4
  else
    match s.freeSlot with
    | none => s.lopStart c
    | some k => s.selfTestStart c k (bits q.arg0 2 0)

theorem exec_selfTest_of_begins {s : State} {q : CmdQ} (hbegins : Begins s q) (hres : bits q.arg0 31 3 = 0) (hsome : bits q.arg0 2 0 ≠ 0)
    (harg1 : q.arg1 = 0) : exec (.selfTest q) s = .next (selfTestBody q (taken s q) (s.ctx q 0x40)) := by
  change execSelfTest q s = _
  rw [execSelfTest]
  exact runCmd_of_legal hbegins (by rw [hres, harg1, bne_iff_ne.2 hsome]; rfl)

section
variable {q : CmdQ} {s : State} (c : Waiting)

theorem selfTestBody_of_not_run (hpwr : s.pwr ≠ 0) : selfTestBody q s c = s.finish c stRefusedState 1 := if_pos (bne_iff_ne.2 hpwr)

section
variable (hrun : s.pwr = 0)
include hrun

theorem selfTestBody_of_busy (hbusy : s.selfTestBusy = true) : selfTestBody q s c = s.finish c stRefusedState 2 :=
  (if_neg (by rw [hrun]; decide)).trans (if_pos hbusy)

section
variable (hidle : s.selfTestBusy = false)
include hidle

theorem selfTestBody_of_other (hother : (s.lopAny 0x20 || s.lopAny 0x40) = true) : selfTestBody q s c = s.finish c stRefusedState 3 :=
  (if_neg (by rw [hrun]; decide)).trans ((if_neg (Bool.eq_false_iff.1 hidle)).trans (if_pos hother))

section
variable (halone : (s.lopAny 0x20 || s.lopAny 0x40) = false)
include halone

theorem selfTestBody_of_unsafe (hunsafe : s.selfTestUnsafe q = true) : selfTestBody q s c = s.finish c stRefusedState 4 :=
  (if_neg (by rw [hrun]; decide)).trans ((if_neg (Bool.eq_false_iff.1 hidle)).trans ((if_neg (Bool.eq_false_iff.1 halone)).trans
    (if_pos hunsafe)))

theorem selfTestBody_of_slot (hsafe : s.selfTestUnsafe q = false) {k : Fin 8} (hslot : s.freeSlot = some k) :
    selfTestBody q s c = s.selfTestStart c k (bits q.arg0 2 0) := by
  rw [selfTestBody, hrun, hidle, halone, hsafe, hslot]
  rfl

end

end

end

end

/-- The converter block, alone in the mask and without a failure, ends the test (R461). -/
theorem exec_selfTestBlockDone_of_converters {s : State} {k : Fin 8} {t : Time} (hruns : (s.adv t).running 0x40 = some k)
    (hfirst : s.host.lops[k].phase = 0) (hres : s.host.lops[k].res = [0]) (hlast : blockFrom (bits s.host.lops[k].arg0 2 0) 1 = none) :
    exec (.selfTestBlockDone [] [] [] t) s = .next ((s.adv t).gridStart.lopEnd k stOk 1) := by
  have hfirst : (s.adv t).host.lops[k].phase = 0 := hfirst
  have hres : (s.adv t).host.lops[k].res = [0] := hres
  have hlast : blockFrom (bits (s.adv t).host.lops[k].arg0 2 0) (0 + 1) = none := hlast
  change execSelfTestBlockDone [] [] [] t s = _
  rw [execSelfTestBlockDone]
  dsimp only
  rw [hruns]
  dsimp only
  rw [hfirst, hres, hlast]
  simp [least, at_, bitsN, b2n]

/-! ### LINK_TEST (R451 to R454) -/

/-- What LINK_TEST of link `k` does once its quad is in order. -/
def linkTestBody (k : Nat) (s : State) (c : Waiting) : State :=
  if s.inService k then s.finish c stRefusedState 1
  else if s.linkTested k then s.finish c stRefusedState 2
  else if s.pwr != 0 then s.finish c stRefusedState 3
  else if s.freeSlot.isNone then s.lopStart c
  else (s.modLink (Fin.ofNat 13 k) fun _ => LinkSt.reset).lopStart c

theorem exec_linkTest_of_begins {s : State} {q : CmdQ} (hbegins : Begins s q) (hargs : linkArgs q = true) :
    exec (.linkTest q) s = .next (linkTestBody (bits q.arg0 4 0) (taken s q) (s.ctx q 0x41)) := by
  change execLinkTest q s = _
  rw [execLinkTest]
  exact runCmd_of_legal hbegins hargs

section
variable {k : Nat} {s : State} (c : Waiting)

theorem linkTestBody_of_service (hserves : s.inService k = true) : linkTestBody k s c = s.finish c stRefusedState 1 := if_pos hserves

section
variable (hfree : s.inService k = false)
include hfree

theorem linkTestBody_of_tested (htested : s.linkTested k = true) : linkTestBody k s c = s.finish c stRefusedState 2 :=
  (if_neg (Bool.eq_false_iff.1 hfree)).trans (if_pos htested)

section
variable (huntested : s.linkTested k = false)
include huntested

theorem linkTestBody_of_not_run (hpwr : s.pwr ≠ 0) : linkTestBody k s c = s.finish c stRefusedState 3 :=
  (if_neg (Bool.eq_false_iff.1 hfree)).trans ((if_neg (Bool.eq_false_iff.1 huntested)).trans (if_pos (bne_iff_ne.2 hpwr)))

theorem linkTestBody_of_slot (hrun : s.pwr = 0) (hslot : s.freeSlot ≠ none) :
    linkTestBody k s c = (s.modLink (Fin.ofNat 13 k) fun _ => LinkSt.reset).lopStart c := by
  rw [linkTestBody, hfree, huntested, hrun]
  exact if_neg (mt Option.isNone_iff_eq_none.1 hslot)

end

end

end

/-! ### A checker (R453) -/

/-- A checker that locks at `t`. -/
def LinkSt.lockedAt (l : LinkSt) (t : Time) (first : Bool) : LinkSt := { l with locked := true, lockAt := t, everLock := l.everLock || first }

/-- A locked checker that has compared `n` bits more up to `t`, `errs` of them in error, and then lost its lock. -/
def LinkSt.lostAt (l : LinkSt) (n errs : Nat) (t : Time) : LinkSt :=
  { l with bits := (l.bits + n) % 2 ^ 64, lockAt := t, errors := satAdd l.errors errs (2 ^ 32 - 1), locked := false,
           losses := min 255 (l.losses + 1) }

section
variable {s : State} {l : Fin 13} {t : Time} (hon : (s.adv t).checkerOn l = true)
include hon

theorem exec_checkerLocked_of_open (hopen : s.lts.links[l].locked = false) : ∃ first,
    exec (.checkerLocked l t) s = .next ((s.adv t).modLink l fun x => x.lockedAt (max s.time t) first) := by
  refine ⟨_, if_pos (Bool.and_eq_true_iff.2 ⟨hon, ?_⟩)⟩
  have hopen : (s.adv t).lts.links[l].locked = false := hopen
  rw [hopen]
  rfl

theorem exec_checkerLockLost_of_locked (hlocked : s.lts.links[l].locked = true) (errs : Nat) :
    exec (.checkerLockLost l errs t) s = .next (((s.adv t).linkCount l errs (s.adv t).time).modLink l fun x =>
      { x with locked := false, losses := min 255 (x.losses + 1) }) :=
  if_pos (Bool.and_eq_true_iff.2 ⟨hon, hlocked⟩)

end

theorem State.linkCount_lost {s : State} {l : Fin 13} (hlocked : s.lts.links[l].locked = true) (errs : Nat) (t : Time) :
    ((s.linkCount l errs t).modLink l fun x => { x with locked := false, losses := min 255 (x.losses + 1) }).lts.links[l] =
      s.lts.links[l].lostAt (s.linkBits l (t - s.lts.links[l].lockAt)) errs t := by
  refine (vmod_at _ l _).trans ?_
  rw [State.linkCount, State.modLink, vmod_at, if_pos hlocked]
  rfl

/-! ### The ends of a running time and of the loopback (R455, R457) -/

theorem exec_linkTestDone_of_ended {s : State} {l : Fin 13} {k : Fin 8} (n : Nat) {t : Time} (hlink : l ≠ 12) (hslot : s.linkSlot l = some k)
    (hunasked : s.host.lops[k].ending = 0) :
    let e := s.host.lops[k].since + (s.host.lops[k].arg1.toNat - s.host.lops[k].phase) * ms1
    e ≤ t → exec (.linkTestDone l n false true t) s = .next (((s.adv e).linkCount l n e).linkEnd k l) := by
  intro e hended
  change execLinkTestDone l n false true t s = _
  rw [execLinkTestDone, hslot]
  dsimp only
  rw [hunasked, bne_self_eq_false, Bool.false_and, if_neg Bool.false_ne_true, if_neg hlink]
  rw [if_neg (not_and_of_not_left _ (Nat.not_lt.2 hended)), if_neg hlink]
  rfl

theorem exec_pcieLoopbackDone_of_running {s : State} (n : Nat) {t : Time} (hruns : s.lts.loopEnd = some t) :
    let u := ((s.adv t).linkCount 10 n t).modLink 10 fun l => { l with locked := false }
    exec (.pcieLoopbackDone n) s = .next ({ u with lts := { u.lts with loopEnd := none }, host := { u.host with linkUp := true } } : State).pump := by
  change execPcieLoopbackDone n s = _
  rw [execPcieLoopbackDone, hruns]

end Sys2Proof.Machine

namespace Sys2Proof.Claims
open Sys2Proof Sys2Proof.Machine

/-- Settles O41: the two commands by their refusals in order, a block and a running time by their end, a checker by its lock. -/
theorem selfAndLinkTests : Obligations.SelfAndLinkTests := by
  refine ⟨fun s q hbegins hres hsome harg1 => ?_, fun s k t => exec_selfTestBlockDone_of_converters, fun s q hbegins hargs => ?_,
    fun s l t hon => ⟨fun hopen => ?_, fun hlocked n => ?_⟩, fun s l k n t hlink hslot hunasked => exec_linkTestDone_of_ended n hlink hslot hunasked,
    fun s n t => exec_pcieLoopbackDone_of_running n⟩
  · have hself := exec_selfTest_of_begins hbegins hres hsome harg1
    exact ⟨fun hpwr => hself.trans (congrArg _ (selfTestBody_of_not_run _ hpwr)),
      fun hrun hbusy => hself.trans (congrArg _ (selfTestBody_of_busy _ hrun hbusy)),
      fun hrun hidle hother => hself.trans (congrArg _ (selfTestBody_of_other _ hrun hidle hother)),
      fun hrun hidle halone hunsafe => hself.trans (congrArg _ (selfTestBody_of_unsafe _ hrun hidle halone hunsafe)),
      fun hrun hidle halone hsafe k hslot => hself.trans (congrArg _ (selfTestBody_of_slot _ hrun hidle halone hsafe hslot))⟩
  · have hlinkTest := exec_linkTest_of_begins hbegins hargs
    exact ⟨fun hserves => hlinkTest.trans (congrArg _ (linkTestBody_of_service _ hserves)),
      fun hfree htested => hlinkTest.trans (congrArg _ (linkTestBody_of_tested _ hfree htested)),
      fun hfree huntested hpwr => hlinkTest.trans (congrArg _ (linkTestBody_of_not_run _ hfree huntested hpwr)),
      fun hfree huntested hrun hslot => hlinkTest.trans (congrArg _ (linkTestBody_of_slot _ hfree huntested hrun hslot))⟩
  · obtain ⟨first, hexec⟩ := exec_checkerLocked_of_open hon hopen
    have hlink : ((s.adv t).modLink l fun x => x.lockedAt (max s.time t) first).lts.links[l] = s.lts.links[l].lockedAt (max s.time t) first :=
      vmod_at _ l _
    exact ⟨_, hexec, congrArg LinkSt.locked hlink, congrArg LinkSt.lockAt hlink, (congrArg LinkSt.errors hlink :),
      fun j hj => vmod_other _ l j _ (Ne.symm hj)⟩
  · have hlink := State.linkCount_lost (s := s.adv t) hlocked n (s.adv t).time
    exact ⟨_, exec_checkerLockLost_of_locked hon hlocked n, congrArg LinkSt.locked hlink, congrArg LinkSt.losses hlink,
      congrArg LinkSt.errors hlink⟩

end Sys2Proof.Claims
end

section
/-! SUPPORT. Supply warnings, the supply stop and the clocks (R426 to R430, R434): each command under the conditions of its clause. -/
namespace Sys2Proof.Machine
open Sys2Proof Sys2Proof.Claims

section
variable {s : State} {r : Fin 4} (t : Time) (hrun : s.pcr.asserted = none)
include hrun

theorem exec_warnSet_of_new (hnew : s.pcr.warn &&& (1#4 <<< r.val) = 0) :
    let u := s.adv t
    let v : State := { u with pcr := { u.pcr with warn := u.pcr.warn ||| (1#4 <<< r.val), warnAt := u.pcr.warnAt.set r u.time, borSeen := u.pcr.borSeen &&& ~~~(1#4 <<< r.val), runAt := some (u.pcr.runAt.getD u.time) } }
    exec (.warnSet r t) s = .next ((v.raise 4 8 0x14 0 (0x10 + at_ r.val 8) v.time).burnSupply v.time) :=
  (if_neg fun hset => bne_iff_ne.1 hset hnew).trans (if_neg (Option.not_isSome_iff_eq_none.2 hrun))

/-- The end of a warning without an act of its reset monitor: the level goes low and the dip is counted and raised. -/
theorem exec_warnClear_of_dip (hset : s.pcr.warn &&& (1#4 <<< r.val) ≠ 0) (hmon : s.pcr.borSeen &&& (1#4 <<< r.val) = 0) :
    ∃ w : State, exec (.warnClear r t) s = .next w ∧ w.pcr.warn = s.pcr.warn &&& ~~~(1#4 <<< r.val) ∧
      w.pcr.dipCnt = min 65535 (s.pcr.dipCnt + 1) :=
  ⟨_, (if_neg hset).trans ((if_neg fun hacted => bne_iff_ne.1 hacted hmon).trans (if_neg (Option.not_isSome_iff_eq_none.2 hrun))),
    congrArg PcrSt.warn (State.raise_pcr ..), congrArg PcrSt.dipCnt (State.raise_pcr ..)⟩

theorem exec_clockFault_of_xtal :
    let u := s.adv t
    exec (.clockFault .xtal t) s = .next (({ u with pcr := { u.pcr with xtal := false } } : State).clockFault false u.time) :=
  if_neg (Option.not_isSome_iff_eq_none.2 hrun)

theorem exec_clockFault_of_pll0 (hawake : s.pcr.state ≠ 3) :
    let u := s.adv t
    exec (.clockFault .pll0 t) s = .next (({ u with pcr := { u.pcr with pll0 := false } } : State).clockFault false u.time) :=
  (if_neg (Option.not_isSome_iff_eq_none.2 hrun)).trans (if_neg hawake)

theorem exec_clockFault_of_pll1 (hawake : s.pcr.state < 2) :
    let u := s.adv t
    exec (.clockFault .pll1 t) s = .next (({ u with pcr := { u.pcr with pll1 := false } } : State).clockFault false u.time) :=
  (if_neg (Option.not_isSome_iff_eq_none.2 hrun)).trans (if_neg (Nat.not_le.2 hawake))

end

section
variable {s : State}

theorem exec_supplyStop_of_held {t0 : Time} (hwarned : s.pcr.runAt = some t0) (hfirst : s.pcr.stopRaised = false)
    (hrun : s.pcr.asserted = none) :
    let t := max s.time (t0 + us1 * s.rf regPcrSupplyCfg 0 15 0)
    let u := s.adv t
    let v : State := { u with pcr := { u.pcr with stopRaised := true } }
    exec .supplyStop s = .next (((v.raise 1 8 0x14 5 (0x12 + at_ v.pcr.firstWarn 8) t).mbrk true).stopBegin t) := by
  change execSupplyStop s = _
  rw [execSupplyStop, hwarned]
  exact if_neg (by rw [hfirst, hrun]; decide)

theorem exec_stopTmaxExpiry_of_decel (hstop : s.pcr.stopping = true) (hbegun : s.pcr.stopDue = false)
    (hdecel : s.confMach.any s.stopsFor = true) :
    let t := max s.time (s.pcr.stopAt + 100 * ms1 * s.rf regPcrSupplyCfg 0 31 24)
    let u := s.adv t
    let v : State := { u with pcr := { u.pcr with stopTmax := true } }
    exec .stopTmaxExpiry s = .next (v.confMach.foldl (fun s m => if s.stopsFor m then s.machSafe m 0 0x12 false t else s) v) :=
  if_pos (by rw [hstop, hbegun, hdecel]; rfl)

theorem exec_stopDone_of_safe (t : Time) (hstop : s.pcr.stopping = true) (hbegun : s.pcr.stopDue = false)
    (hsafe : (s.confMach.all fun m => s.mach[m].sup.safe.isSome) = true) (hdone : (s.adv t).begunDone = true) :
    let u := s.adv t
    exec (.stopDone t) s = .next (({ u with pcr := { u.pcr with stopping := false, stopHeld := true }, sup := { u.sup with f4 := true } } : State).raise 4 8 0x14 0
      (0x13 + at_ (b2n s.pcr.stopTmax) 8) u.time) :=
  if_pos (Bool.and_eq_true_iff.2 ⟨Bool.and_eq_true_iff.2 ⟨Bool.and_eq_true_iff.2 ⟨hstop, (congrArg not hbegun :)⟩, hsafe⟩, hdone⟩)

end

end Sys2Proof.Machine

namespace Sys2Proof.Claims
open Sys2Proof Sys2Proof.Machine

/-- Settles O51: each command's guards fall away under the hypotheses of its clause. -/
theorem supplyRule : Obligations.SupplyRule :=
  ⟨fun _ _ t hrun => ⟨exec_warnSet_of_new t hrun, exec_warnClear_of_dip t hrun⟩,
    fun _ _ => exec_supplyStop_of_held, fun _ => exec_stopTmaxExpiry_of_decel, fun _ => exec_stopDone_of_safe,
    fun _ t hrun => ⟨exec_clockFault_of_xtal t hrun, exec_clockFault_of_pll0 t hrun, exec_clockFault_of_pll1 t hrun⟩⟩

end Sys2Proof.Claims
end

section
/-! SUPPORT. What a reset or DEEP loses besides registers (R436, R445): `lose` differs from `strip` in the stored registers alone. -/
namespace Sys2Proof.Machine
open Sys2Proof Sys2Proof.Claims

section
variable {β : Type} (g : State → β) (hregs : ∀ (u : State) l, g { u with regs := l } = g u)
include hregs

theorem State.lowerLevels_proj (s : State) : g s.lowerLevels = g s :=
  foldl_proj g (fun u _ => ite_proj g (hregs u _)) _ s

theorem State.lose_proj (s : State) (k : Keep) (shadow image alarms : Bool) (t : Time) :
    g (s.lose k shadow image alarms t) = g (s.strip k shadow image alarms t) :=
  ite_proj g (State.lowerLevels_proj g hregs _)

end

theorem State.lose_started (s : State) (k : Keep) (shadow image alarms : Bool) (t : Time) :
    (s.lose k shadow image alarms t).started = false :=
  State.lose_proj State.started (fun _ _ => rfl) s k shadow image alarms t

end Sys2Proof.Machine
end

section
/-! SUPPORT. POWER_STATE, the end of a transit, DEEP and its ends (R442 to R446). -/
namespace Sys2Proof.Machine
open Sys2Proof Sys2Proof.Claims

/-- A change to DEEP opens its transition window at once (R445). -/
def State.windowOpen (s : State) (n : Nat) : State := if n = 3 then { s with pcr := { s.pcr with transit := true, target := 3 } } else s

theorem State.windowOpen_fpAfter (s : State) (n : Nat) : (s.windowOpen n).fpAfter (s.windowOpen n).time = s.fpAfter s.time :=
  ite_proj (fun u : State => u.fpAfter u.time) rfl

section
variable {s : State} {q : CmdQ} (hbegins : Begins s q) (hres : bits q.arg0 31 2 = 0) (hzero : q.arg1 = 0)
include hbegins hres hzero

theorem exec_powerState_of_begins {n : Nat} (hto : bits q.arg0 1 0 = n) : exec (.powerState q) s =
    .next (if n = (taken s q).pwr then done s q 0x50 stOk n
      else if (if n = 0 then 0 else (taken s q).powerRefusal n) != 0 then
        done s q 0x50 stRefusedState (if n = 0 then 0 else (taken s q).powerRefusal n)
      else ((taken s q).windowOpen n).awaitAt (s.ctx q 0x50) ((taken s q).fpAfter (taken s q).time) n) := by
  change execPowerState q s = _
  rw [execPowerState, runCmd_of_legal hbegins (by rw [hres, hzero]; rfl), hto, ← State.windowOpen_fpAfter _ n]
  rfl

theorem exec_powerState_of_same (hsame : bits q.arg0 1 0 = (taken s q).pwr) :
    exec (.powerState q) s = .next (done s q 0x50 stOk (bits q.arg0 1 0)) :=
  (exec_powerState_of_begins hbegins hres hzero rfl).trans (congrArg _ (if_pos hsame))

theorem exec_powerState_of_run (hto : bits q.arg0 1 0 = 0) (hother : (taken s q).pwr ≠ 0) :
    exec (.powerState q) s = .next (waits s q 0x50 ((taken s q).fpAfter (taken s q).time) 0) :=
  (exec_powerState_of_begins hbegins hres hzero hto).trans (congrArg _ (if_neg (Ne.symm hother)))

section
variable (hother : bits q.arg0 1 0 ≠ (taken s q).pwr)
include hother

theorem exec_powerState_of_refused (hto : bits q.arg0 1 0 ≠ 0) (hno : (taken s q).powerRefusal (bits q.arg0 1 0) ≠ 0) :
    exec (.powerState q) s = .next (done s q 0x50 stRefusedState ((taken s q).powerRefusal (bits q.arg0 1 0))) := by
  rw [exec_powerState_of_begins hbegins hres hzero rfl, if_neg hother, if_neg hto, if_pos (bne_iff_ne.2 hno)]

theorem exec_powerState_of_allowed (hto : bits q.arg0 1 0 ≠ 0) (hok : (taken s q).powerRefusal (bits q.arg0 1 0) = 0) :
    exec (.powerState q) s = .next (((taken s q).windowOpen (bits q.arg0 1 0)).awaitAt (s.ctx q 0x50)
      ((taken s q).fpAfter (taken s q).time) (bits q.arg0 1 0)) := by
  rw [exec_powerState_of_begins hbegins hres hzero rfl, if_neg hother, if_neg hto, if_neg fun hno => bne_iff_ne.1 hno hok]

theorem exec_powerState_of_waits (hto : bits q.arg0 1 0 = 1 ∨ bits q.arg0 1 0 = 2) (hok : (taken s q).powerRefusal (bits q.arg0 1 0) = 0) :
    exec (.powerState q) s = .next (waits s q 0x50 ((taken s q).fpAfter (taken s q).time) (bits q.arg0 1 0)) := by
  rw [exec_powerState_of_allowed hbegins hres hzero hother (by omega) hok, State.windowOpen, if_neg (by omega)]

theorem exec_powerState_of_deep (hto : bits q.arg0 1 0 = 3) (hok : (taken s q).powerRefusal 3 = 0) :
    let u := taken s q
    exec (.powerState q) s = .next (({ u with pcr := { u.pcr with transit := true, target := 3 } } : State).awaitAt (s.ctx q 0x50)
      (u.fpAfter u.time) 3) := by
  rw [exec_powerState_of_allowed hbegins hres hzero hother (by omega) (hto ▸ hok), hto]
  rfl

end

end

theorem exec_powerTransitDone_of_wake {s : State} (t : Time) (htransit : s.pcr.transit = true) (hawake : s.pcr.target ≠ 3)
    (hrun : s.pcr.asserted = none) :
    exec (.powerTransitDone t) s = .next ((s.adv t).powerEnd s.pcr.target (s.adv t).time).retrip :=
  if_pos (Bool.and_eq_true_iff.2 ⟨Bool.and_eq_true_iff.2 ⟨htransit, bne_iff_ne.2 hawake⟩, Option.isNone_iff_eq_none.2 hrun⟩)

theorem exec_deepEntry_of_due {s : State} (t : Time) (htransit : s.pcr.transit = true) (hdeep : s.pcr.target = 3)
    (hrun : s.pcr.asserted = none) (hnone : (s.host.waiting.any fun c => c.opc == 0x50) = false) :
    ∃ w : State, exec (.deepEntry t) s = .next w ∧ w.pcr.state = 3 ∧ w.pcr.transit = false ∧ w.pcr.pll0 = false ∧ w.pcr.pll1 = false ∧
      w.ypl.role = (s.adv t).closeAll.pump.ypl.role ∧ w.ypl.claim = (s.adv t).closeAll.pump.ypl.claim ∧
      w.ypl.own = (s.adv t).closeAll.pump.ypl.own ∧ w.started = false := by
  have hdue : ¬ (!(s.pcr.transit && s.pcr.target == 3 && s.pcr.asserted.isNone) || s.host.waiting.any fun c => c.opc == 0x50) = true := by
    rw [htransit, hdeep, hrun, hnone]
    decide
  exact ⟨_, if_neg hdue, rfl, rfl, rfl, rfl, by dsimp only, by dsimp only, by dsimp only,
    by dsimp only; exact State.lose_started ..⟩

theorem exec_wake_of_deep {s : State} (t : Time) (hdeep : s.pcr.state = 3) (hrun : s.pcr.asserted = none) :
    exec (.wake t) s = .next (s.wakeUp 1 t) :=
  if_pos ⟨hdeep, Option.isNone_iff_eq_none.2 hrun⟩

theorem exec_wakeTimerExpiry_of_deep {s : State} (t : Time) (hdeep : s.pcr.state = 3) (hrun : s.pcr.asserted = none)
    (hon : (s.rget regPcrWakeTimer 0).toNat ≠ 0) :
    exec (.wakeTimerExpiry t) s = .next (s.wakeUp 3 (max t (s.pcr.deepAt + ms1 * (s.rget regPcrWakeTimer 0).toNat))) :=
  if_pos ⟨hdeep, Option.isNone_iff_eq_none.2 hrun, hon⟩

end Sys2Proof.Machine

namespace Sys2Proof.Claims
open Sys2Proof Sys2Proof.Machine

/-- Settles O50: POWER_STATE by the state asked for and its refusal; what DEEP_ENTRY keeps of the pair stands in the record that it
writes over what `lose` leaves. -/
theorem powerRule : Obligations.PowerRule :=
  ⟨fun _ _ hbegins hres hzero => ⟨exec_powerState_of_same hbegins hres hzero, exec_powerState_of_run hbegins hres hzero,
      exec_powerState_of_refused hbegins hres hzero, exec_powerState_of_waits hbegins hres hzero,
      exec_powerState_of_deep hbegins hres hzero⟩,
    fun _ => exec_powerTransitDone_of_wake, fun _ => exec_deepEntry_of_due,
    fun _ t hdeep hrun => ⟨exec_wake_of_deep t hdeep hrun, exec_wakeTimerExpiry_of_deep t hdeep hrun⟩⟩

end Sys2Proof.Claims
end

section
/-! SUPPORT. Resets and their release (R431, R436 to R441): what a reset leaves of each member, and the commands that assert or release one. -/
namespace Sys2Proof.Machine
open Sys2Proof Sys2Proof.Claims

/-- The members that a reset which acts writes over what its classes leave. -/
def State.inReset (s : State) (kind : Nat) : State := { s with pcr := s.pcr.lost kind, host := { s.host with reportDue := true } }

/-- What a reset that acts leaves, but for the stored registers. -/
def State.afterReset (s : State) (kind : Nat) (t : Time) : State :=
  ((forFin 2 (s.burnCut t) fun s m => s.discardRev m t).strip (keepOf kind) (decide (3 ≤ kind)) (kind == 4) false t).inReset kind

section
variable {s : State} {kind : Nat} (t : Time)

theorem State.assertReset_of_covered {k : Nat} (hin : s.pcr.asserted = some k) (hle : k ≤ kind) :
    s.assertReset kind t = s.seenReset kind := by
  rw [State.assertReset, hin]
  exact if_pos (decide_eq_true hle)

section
variable (hnew : ∀ k, s.pcr.asserted = some k → kind < k)
include hnew

theorem State.assertReset_of_new :
    let v := ((forFin 2 (s.burnCut t) fun s m => s.discardRev m t).lose (keepOf kind) (decide (3 ≤ kind)) (kind == 4) false t).inReset kind
    s.assertReset kind t = if kind = 0 then v else v.seenReset kind := by
  rw [State.assertReset]
  cases hin : s.pcr.asserted with
  | none => exact if_neg Bool.false_ne_true
  | some k => exact if_neg fun hle => Nat.not_le.2 (hnew k hin) (of_decide_eq_true hle)

theorem State.assertReset_proj {β : Type} (g : State → β) (hregs : ∀ (u : State) l, g { u with regs := l } = g u) :
    g (s.assertReset kind t) = g (s.afterReset kind t) :=
  (congrArg g (State.assertReset_of_new t hnew)).trans ((ite_proj_else g (hregs _ _)).trans
    (State.lose_proj (fun u => g (u.inReset kind)) (fun u l => hregs (u.inReset kind) l) ..))

theorem State.assertReset_effects : let w := s.assertReset kind t
    w.pcr.asserted = some kind ∧ w.chans = State.reset.chans ∧ w.chops = State.reset.chops ∧ w.ypl.role = .unjoined ∧ w.ypl.own = false ∧
    w.ypl.claim = false ∧ w.started = false ∧ w.otp.norm = s.otp.norm ∧ w.otp.marg = s.otp.marg ∧ w.host.reportDue = true ∧
    w.host.mem = (forFin 2 (s.burnCut t) fun s m => s.discardRev m t).host.mem := by
  have hfuses := (keeps_assertReset s kind t (Keeps.refl true s)).fuses rfl
  exact ⟨State.assertReset_proj t hnew (·.pcr.asserted) fun _ _ => rfl, State.assertReset_proj t hnew State.chans fun _ _ => rfl,
    State.assertReset_proj t hnew State.chops fun _ _ => rfl, State.assertReset_proj t hnew (·.ypl.role) fun _ _ => rfl,
    State.assertReset_proj t hnew (·.ypl.own) fun _ _ => rfl, State.assertReset_proj t hnew (·.ypl.claim) fun _ _ => rfl,
    State.assertReset_proj t hnew State.started fun _ _ => rfl, hfuses.1, hfuses.2,
    State.assertReset_proj t hnew (·.host.reportDue) fun _ _ => rfl, State.assertReset_proj t hnew (·.host.mem) fun _ _ => rfl⟩

end

end

/-- PAC_TIME after DEEP is the next whole tick of 5 units (R22). -/
theorem wholeTick_bounds (x : Nat) : (x + 4) / 5 * 5 % 5 = 0 ∧ x ≤ (x + 4) / 5 * 5 ∧ (x + 4) / 5 * 5 < x + 5 := by
  omega

section
variable (s : State) (t : Time)

theorem exec_softReset_of_on {p : Port} (hport : p ≠ .svc) (hon : (s.adv t).regsOn = true) (k : BitVec 16) :
    exec (.softReset p k t) s = .next (if k = 0x5352 then (s.adv t).assertReset 3 (s.adv t).time else (s.adv t).writeReject) :=
  congrArg Host.Outcome.next ((if_pos hon).trans (if_neg fun hsvc => hport (beq_iff_eq.1 hsvc)))

theorem State.leaveDeep_effects : (s.leaveDeep t).time % 5 = 0 ∧ max s.time t ≤ (s.leaveDeep t).time ∧
    (s.leaveDeep t).time < max s.time t + 5 ∧ (s.leaveDeep t).winOut = 0xFFFFF :=
  let ⟨htick, hlate, hsoon⟩ := wholeTick_bounds (max s.time t)
  ⟨htick, hlate, hsoon, rfl⟩

/-- What an FLR leaves, but for the link that PERST_N takes down. -/
def State.afterFlr (s : State) (t : Time) : State :=
  let deep := decide (s.pcr.state = 3)
  let v := if deep then s.leaveDeep t else s.adv t
  let w := v.assertReset 4 v.time
  if deep then w.rsetF regPacStatus 0 2 2 1 else w

theorem State.afterFlr_eq :
    let v : State := if s.pcr.state = 3 then s.leaveDeep t else s.adv t
    s.afterFlr t = if s.pcr.state = 3 then (v.assertReset 4 v.time).rsetF regPacStatus 0 2 2 1 else v.assertReset 4 v.time := by
  simp only [State.afterFlr, decide_eq_true_eq]

section
variable {s : State} {t : Time} {w : State} (hafter : s.afterFlr t = w)
include hafter

theorem exec_flr_of_flr : exec (.flr .flr t) s = .next w := congrArg Host.Outcome.next hafter
theorem exec_flr_of_hotReset : exec (.flr .hotReset t) s = .next w := congrArg Host.Outcome.next hafter
theorem exec_flr_of_perst : exec (.flr .perst t) s = .next { w with host := { w.host with linkUp := false } } := by
  rw [← hafter]
  rfl

end

theorem exec_railsSettled_of_weak (hpor : s.pcr.asserted ≠ some 0) (hbor : s.pcr.asserted ≠ some 1) :
    exec (.railsSettled t) s = .next { s.adv t with pcr := { (s.adv t).pcr with settled := true } } := by
  change execRailsSettled t s = _
  simp only [execRailsSettled]
  split
  · exact absurd ‹_› hpor
  · exact absurd ‹_› hbor
  · rfl

end

theorem State.bootStart_pcr (s : State) : s.bootStart.pcr = s.pcr := ite_proj State.pcr rfl
theorem State.bootStart_time (s : State) : s.bootStart.time = s.time := ite_proj State.time rfl

section
variable {s : State} {kind : Nat}

/-- The state once a release has recorded its reset and sampled the straps. -/
def State.sampled (s : State) (kind : Nat) (straps : BitVec 6) (t : Time) : State :=
  let u := s.adv t
  let a : State := { u with pcr := { u.pcr with asserted := none, last := kind } }
  if kind ≤ 2 then { a with pcr := { a.pcr with straps := straps &&& 0x37 } } else a

/-- The state once a release has also started PAC_TIME, the converters' grids and the boot ROM. -/
def State.restarted (s : State) (kind : Nat) (straps : BitVec 6) (t : Time) : State :=
  let b := s.sampled kind straps t
  let c : State := if kind ≤ 3 then { b.timeZero with winOut := 0xFFFFF, pcr := { b.timeZero.pcr with xtal := true, pll0 := true, pll1 := true } } else b
  let g := c.convBack true
  if kind == 3 && g.otp.loaded then g.bootStart else g

theorem State.restarted_of_pcr {β : Type} (g : PcrSt → β) (straps : BitVec 6) (t : Time)
    (hclock : ∀ p : PcrSt, g { p with warnAt := Vector.replicate 4 0, xtal := true, pll0 := true, pll1 := true } = g p) :
    g (s.restarted kind straps t).pcr = g (s.sampled kind straps t).pcr :=
  (ite_proj (fun u : State => g u.pcr) (congrArg g (State.bootStart_pcr _))).trans (ite_proj (fun u : State => g u.pcr) (hclock (s.sampled kind straps t).pcr))

theorem State.restarted_time (straps : BitVec 6) (t : Time) (hzero : kind ≤ 3) : (s.restarted kind straps t).time = 0 :=
  (ite_proj State.time (State.bootStart_time _)).trans (congrArg State.time (if_pos hzero))

theorem exec_resetRelease_of_asserted (straps : BitVec 6) (t : Time) (hin : s.pcr.asserted = some kind) :
    let d := s.restarted kind straps t
    let e : State := { d with pcr := { d.pcr with runAt := if d.pcr.warn = 0 then none else some d.time } }
    let f := if e.estop then e.estopHit e.time else e
    exec (.resetRelease straps t) s = .next (f.soloAlone f.time) := by
  change execResetRelease straps t s = _
  rw [execResetRelease, hin]
  rfl

end

end Sys2Proof.Machine

namespace Sys2Proof.Claims
open Sys2Proof Sys2Proof.Machine

/-- Settles O49: a reset that acts leaves, but for the stored registers, what `strip` leaves with its record; a release goes through the
states `sampled` and `restarted`. -/
theorem resetRule : Obligations.ResetRule :=
  ⟨fun _ _ t => ⟨fun _ hin hle => State.assertReset_of_covered t hin hle, fun hnew => State.assertReset_effects t hnew⟩,
    fun s t => ⟨rfl, fun _ => rfl, rfl,
      fun _ hport hon => ⟨(exec_softReset_of_on s t hport hon _).trans (congrArg _ (if_pos rfl)),
        fun _ hkey => (exec_softReset_of_on s t hport hon _).trans (congrArg _ (if_neg hkey))⟩,
      ⟨State.leaveDeep_effects s t, exec_flr_of_flr (State.afterFlr_eq s t), exec_flr_of_hotReset (State.afterFlr_eq s t),
        exec_flr_of_perst (State.afterFlr_eq s t)⟩,
      exec_railsSettled_of_weak s t⟩,
    fun _ _ straps t hin => ⟨exec_resetRelease_of_asserted straps t hin,
      (State.restarted_of_pcr PcrSt.asserted straps t fun _ => rfl).trans (ite_proj (fun u : State => u.pcr.asserted) rfl),
      (State.restarted_of_pcr PcrSt.last straps t fun _ => rfl).trans (ite_proj (fun u : State => u.pcr.last) rfl),
      State.restarted_time straps t,
      fun hstraps => (State.restarted_of_pcr PcrSt.straps straps t fun _ => rfl).trans (congrArg (fun u : State => u.pcr.straps) (if_pos hstraps))⟩⟩

end Sys2Proof.Claims
end
